-- ==== Sys2Proof/Word.lean ====
section
/-!
DEFINITION. The word types of the SVQ-4280 (R2, R3, R15, R165).
-/
namespace Sys2Proof

/-- A byte of memory (R3). -/
abbrev Byte := BitVec 8
/-- A 32-bit base word, lane or engine-local address (R165, R62). -/
abbrev Word := BitVec 32
/-- A 64-bit scalar, literal or flat address (R15, R166, R72). -/
abbrev Dword := BitVec 64
/-- Sixteen engine bits, bit e for engine e (R15). -/
abbrev Mask := BitVec 16
/-- Sixty-four lane bits (R15). -/
abbrev LaneMask := BitVec 64
/-- A vector register: 64 lanes of 32 bits, lane i at bits 32i+31 to 32i (R15). -/
abbrev Vec := BitVec 2048
/-- An accumulator: 64 × 64 FP32 patterns, element (i, j) at position 64i + j (R69). -/
abbrev Acc := BitVec 131072
/-- The 8 KiB contents of an operand slot, byte k at bits 8k+7 to 8k (R15, R67). -/
abbrev Slot := BitVec 65536

end Sys2Proof
end

