-- ==== Sys2Proof/Machine/Bits.lean ====
section
/-!
DEFINITION. Bit fields, sign extension, byte order and lanes: the small helpers every other file uses (R3, R166).
-/
namespace Sys2Proof.Machine

/-- Bits lo to lo + w − 1 of x. -/
def bits (x lo w : Nat) : Nat := (x >>> lo) % 2 ^ w

/-- The value of a w-bit two's complement pattern. -/
def toSigned (w x : Nat) : Int :=
  if x % 2 ^ w < 2 ^ (w - 1) then (x % 2 ^ w : Nat) else ((x % 2 ^ w : Nat) : Int) - (2 ^ w : Nat)

/-- An integer modulo 2^w. -/
def wrapInt (w : Nat) (x : Int) : Nat := (x % ((2 ^ w : Nat) : Int)).toNat

/-- Sign-extend a w-bit field to 64 bits (R199). -/
def sext64 (w x : Nat) : Dword := BitVec.ofInt 64 (toSigned w x)

/-- A Bool as a bit. -/
def bit (b : Bool) : Nat := if b then 1 else 0

/-- The value of a little-endian byte list (R3). -/
def leValue : List Byte → Nat
  | [] => 0
  | b :: bs => b.toNat + 256 * leValue bs

/-- The n bytes of x, least significant first (R3). -/
def leBytes : Nat → Nat → List Byte
  | 0, _ => []
  | n + 1, x => BitVec.ofNat 8 x :: leBytes n (x / 256)

/-- Join n w-bit pieces, piece i at bits iw and up. -/
def packBits (w : Nat) : Nat → (Nat → Nat) → Nat
  | 0, _ => 0
  | n + 1, f => packBits w n f + ((f n) % 2 ^ w) * 2 ^ (w * n)

/-- Lane i of a vector. -/
def lane (v : Vec) (i : Nat) : Word := BitVec.ofNat 32 (v.toNat >>> (32 * i))

/-- The vector whose lane i is f i. -/
def ofLanes (f : Nat → Word) : Vec := BitVec.ofNat 2048 (packBits 32 64 (fun i => (f i).toNat))

/-- The vector with x in every lane. -/
def splat (x : Word) : Vec := ofLanes (fun _ => x)

/-- Element (i, j) of an accumulator (R69). -/
def accElem (a : Acc) (i j : Nat) : Word := BitVec.ofNat 32 (a.toNat >>> (32 * (64 * i + j)))

/-- The accumulator whose element (i, j) is f i j. -/
def ofElems (f : Nat → Nat → Word) : Acc :=
  BitVec.ofNat 131072 (packBits 32 4096 (fun k => (f (k / 64) (k % 64)).toNat))

/-- The lane mask whose bit i is f i. -/
def ofLaneBits (f : Nat → Bool) : LaneMask := BitVec.ofNat 64 (packBits 1 64 (fun i => bit (f i)))

/-- The engine mask whose bit e is f e. -/
def ofEngineBits (f : Nat → Bool) : Mask := BitVec.ofNat 16 (packBits 1 16 (fun e => bit (f e)))

/-- The set bits of an engine mask in ascending order (R7). -/
def eids (m : Mask) : List Nat := (List.range 16).filter (fun e => m.getLsbD e)

/-- Number of set bits among the low n bits of x. -/
def countBits (x : Nat) : Nat → Nat
  | 0 => 0
  | n + 1 => countBits x n + bit (x.testBit n)

/-- Bytes lo to lo + n − 1 of a bit pattern. -/
def bytesAt (x lo n : Nat) : List Byte := leBytes n (x >>> (8 * lo))

/-- Replace n bits at position lo of x by the low n bits of v. -/
def putBits (x lo n v : Nat) : Nat :=
  x - (bits x lo n) * 2 ^ lo + (v % 2 ^ n) * 2 ^ lo

/-- The bits of a that b has not. -/
def lessBits (a b : Nat) : Nat := a ^^^ (a &&& b)

/-- Units of a value, those in `taken` from another one. -/
def mergeTaken (taken w n new old : Nat) : Nat := packBits w n (fun i => if taken.testBit i then bits old (w * i) w else bits new (w * i) w)

/-- ceil(a / b). -/
def ceilDiv (a b : Nat) : Nat := (a + b - 1) / b

/-- CRC-16 with polynomial 0x1021, initial value 0xFFFF, no reflection, no final XOR (R419). -/
def crc16Bit : Nat → Nat → Nat
  | 0, c => c
  | n + 1, c => crc16Bit n (if c.testBit 15 then ((c * 2) % 65536) ^^^ 0x1021 else (c * 2) % 65536)

/-- CRC-16 over a byte list (R419). -/
def crc16 (bs : List Byte) : Nat := bs.foldl (fun c b => crc16Bit 8 (c ^^^ (b.toNat * 256))) 0xFFFF

/-- Update element i of a list; past the end the list is unchanged. -/
def listSet {α : Type} : List α → Nat → α → List α
  | [], _, _ => []
  | _ :: t, 0, v => v :: t
  | h :: t, n + 1, v => h :: listSet t n v

/-- Insert an element into an ordered list, after those that stand before it or level with it. -/
def insertWith {α : Type} (le : α → α → Bool) (x : α) : List α → List α
  | [] => [x]
  | y :: t => if le y x then y :: insertWith le x t else x :: y :: t

/-- A list in order; elements that stand level keep their order. -/
def sortWith {α : Type} (le : α → α → Bool) (l : List α) : List α := l.foldl (fun t x => insertWith le x t) []

/-- The least element of a list of numbers. -/
def minList : List Nat → Option Nat
  | [] => none
  | x :: t => match minList t with
    | none => some x
    | some m => some (min x m)

end Sys2Proof.Machine
end

