-- ==== Sys2Proof/Machine/Flags.lean ====
section
/-!
DEFINITION. Conditions and truth tables: CMP, FLOP, BRF, BRC and the vector compares (R202, R229, R230, R241, R242, R244, R336).
-/
namespace Sys2Proof.Machine

/-- The conditions of CMP on 64-bit operands, by COND (R229). -/
def cmpCond (cond : Nat) (a b : Dword) : Bool :=
  match cond with
  | 0 => a == b
  | 1 => a != b
  | 2 => a.slt b
  | 3 => !(a.slt b)
  | 4 => a.ult b
  | 5 => !(a.ult b)
  | 6 => b.slt a
  | 7 => !(b.slt a)
  | 8 => b.ult a
  | 9 => !(b.ult a)
  | 10 => a &&& b != 0
  | _ => a &&& b == 0

/-- The combination of CMP, by COMB (R229). -/
def cmpComb (comb : Nat) (c f : Bool) : Bool :=
  match comb with
  | 0 => c
  | 1 => c && f
  | 2 => c || f
  | _ => c && !f

/-- A truth table of two bits (R230, R244). -/
def truth (tt : Nat) (a b : Bool) : Bool := tt.testBit (2 * bit a + bit b)

/-- The conditions of BRF on the active engines whose predicate is true, by COND (R202). -/
def brfCond (cond : Nat) (active c : Mask) : Bool :=
  match cond with
  | 0 => c != 0
  | 1 => c == active
  | 2 => c == 0
  | _ => c != active

/-- Integer compares of VCMP on 32-bit lanes, by SUB (R241). -/
def icmpCond (sub : Nat) (a b : Nat) : Bool :=
  let x := toSigned 32 a
  let y := toSigned 32 b
  match sub with
  | 0 => a == b
  | 1 => a != b
  | 2 => decide (x < y)
  | 3 => decide (y ≤ x)
  | 4 => decide (y < x)
  | 5 => decide (x ≤ y)
  | 8 => decide (a < b)
  | 9 => decide (b ≤ a)
  | 10 => decide (b < a)
  | _ => decide (a ≤ b)

/-- Float compares of VCMP from the order of the operands, none when either is NaN, by SUB (R241). -/
def fcmpCond (sub : Nat) (o : Option Int) : Bool :=
  match o with
  | none => sub == 1 || sub == 6
  | some c =>
    match sub with
    | 0 => c == 0
    | 1 => c != 0
    | 2 => decide (c < 0)
    | 3 => decide (0 ≤ c)
    | 4 => decide (0 < c)
    | 5 => decide (c ≤ 0)
    | 7 => true
    | _ => false

/-- The reductions of VCMPS over the active lanes, by IMM[1:0] (R242). -/
def vcmpsRed (m : Nat) (cs : List Bool) : Bool :=
  match m with
  | 0 => cs.any id
  | 1 => cs.all id
  | 2 => !(cs.any id)
  | _ => cs.any (fun c => !c)

end Sys2Proof.Machine
end

