-- ==== Sys2Proof/Machine/Num.lean ====
section
/-!
DEFINITION. Number formats, rounding, conversion, block formats and the order of sums (R123 to R146).

A decoded value is exact: sign, magnitude m · 2^e, and for results of division, roots and transcendental functions a
sticky bit that says the exact value lies strictly between m · 2^e and (m + 1) · 2^e.
-/
namespace Sys2Proof.Machine

/-- An exact value (R146). -/
inductive Num where
  /-- NaN; `sig` when it came from a signalling pattern (R131, R241). -/
  | nan (sig : Bool)
  | inf (neg : Bool)
  /-- ± m · 2^e, or just above it in magnitude when `st`. -/
  | fin (neg : Bool) (m : Nat) (e : Int) (st : Bool)
  deriving DecidableEq, Repr

/-- The sticky flags raised, laid out as FSTAT (R142): NX 4, UF 3, OF 2, DZ 1, NV 0. -/
abbrev Flags := BitVec 5
def flNX : Flags := 16
def flUF : Flags := 8
def flOF : Flags := 4
def flDZ : Flags := 2
def flNV : Flags := 1

/-- A floating-point format (R123): exponent bits, mantissa bits, bias, largest finite pattern, whether it has infinities. -/
structure FFmt where
  eb   : Nat
  mb   : Nat
  bias : Nat
  max  : Nat
  inf  : Bool
  nan  : Nat
  deriving DecidableEq, Repr

def fFP32 : FFmt := ⟨8, 23, 127, 0x7F7FFFFF, true, 0x7FC00000⟩
def fBF16 : FFmt := ⟨8, 7, 127, 0x7F7F, true, 0x7FC0⟩
def fFP16 : FFmt := ⟨5, 10, 15, 0x7BFF, true, 0x7E00⟩
def fE4M3 : FFmt := ⟨4, 3, 7, 0x7E, false, 0x7F⟩
def fE5M2 : FFmt := ⟨5, 2, 15, 0x7B, true, 0x7E⟩
def fE2M1 : FFmt := ⟨2, 1, 1, 0x7, false, 0⟩

/-- The float format of a format code of R74. -/
def floatFmt (code : Nat) : Option FFmt :=
  match code with
  | 0 => some fFP32
  | 1 => some fBF16
  | 2 => some fFP16
  | 3 => some fE4M3
  | 4 => some fE5M2
  | _ => none

/-- Bits of a format's pattern without the sign. -/
def FFmt.width (f : FFmt) : Nat := f.eb + f.mb

/-- Decode a pattern of a float format (R123, R124): subnormals keep their value. -/
def decodeF (f : FFmt) (x : Nat) : Num :=
  let neg := x.testBit f.width
  let ex := bits x f.mb f.eb
  let m := bits x 0 f.mb
  let mag := bits x 0 f.width
  if f = fE2M1 then
    (if ex = 0 then .fin neg m (-1) false else .fin neg (2 + m) ((ex : Int) - 2) false)
  else if f = fE4M3 then
    (if mag = 0x7F then .nan false
     else if ex = 0 then .fin neg m (-9) false else .fin neg (8 + m) ((ex : Int) - 10) false)
  else if ex = 2 ^ f.eb - 1 then
    (if m = 0 then .inf neg else .nan (f ≠ fE5M2 && !(x.testBit (f.mb - 1))))
  else if ex = 0 then .fin neg m (1 - (f.bias : Int) - f.mb) false
  else .fin neg (2 ^ f.mb + m) ((ex : Int) - f.bias - f.mb) false

/-- Integer formats (R125): width and signedness of a code of R74. -/
def intFmt (code : Nat) : Option (Nat × Bool) :=
  match code with
  | 5 => some (8, true)
  | 6 => some (8, false)
  | 7 => some (16, true)
  | 8 => some (32, true)
  | 9 => some (4, true)
  | _ => none

/-- An integer as an exact value. -/
def numOfInt (i : Int) : Num := .fin (i < 0) i.natAbs 0 false

/-- Decode an element of any non-block format (R146). -/
def decodeElem (code x : Nat) : Num :=
  match floatFmt code, intFmt code with
  | some f, _ => decodeF f x
  | none, some (w, sg) => numOfInt (if sg then toSigned w x else (x % 2 ^ w : Nat))
  | none, none => .nan false

/-- Element size in bits of a format code (R74); block formats give 0. -/
def fmtBits (code : Nat) : Nat :=
  match code with
  | 0 => 32 | 1 => 16 | 2 => 16 | 3 => 8 | 4 => 8 | 5 => 8 | 6 => 8 | 7 => 16 | 8 => 32 | 9 => 4
  | _ => 0

/-- floor(log2 m) for m ≥ 1. -/
def ilog2 (m : Nat) : Nat := m.log2

/-- One xorshift step of the stochastic generator (R134). -/
def xorshift (x : Nat) : Nat :=
  let a := x ^^^ ((x <<< 13) % 2 ^ 32)
  let b := a ^^^ (a >>> 17)
  b ^^^ ((b <<< 5) % 2 ^ 32)

/-- The part of a value below a unit of 2^q: the integer part, the remainder, its width, and the sticky bit. -/
structure Cut where
  n   : Nat
  rem : Nat
  sh  : Nat
  st  : Bool
  deriving DecidableEq, Repr

/-- Cut m · 2^e at 2^q. -/
def cutAt (m : Nat) (e q : Int) (st : Bool) : Cut :=
  if q ≤ e then ⟨m <<< (e - q).toNat, 0, 0, st⟩
  else
    let sh := (q - e).toNat
    ⟨m >>> sh, m % 2 ^ sh, sh, st⟩

/-- Whether a cut dropped anything. -/
def Cut.inexact (c : Cut) : Bool := c.rem ≠ 0 || c.st

/-- The 16-bit fraction of R133. -/
def Cut.frac16 (c : Cut) : Nat :=
  if 16 ≤ c.sh then c.rem >>> (c.sh - 16) else c.rem <<< (16 - c.sh)

/-- Whether the magnitude goes up, by mode code of R132; `r` is the draw of R133. -/
def Cut.up (c : Cut) (mode : Nat) (neg : Bool) (r : Nat) : Bool :=
  c.inexact &&
  match mode with
  | 0 => decide (2 ^ c.sh < 2 * c.rem) || (decide (2 * c.rem = 2 ^ c.sh) && (c.st || c.n % 2 == 1) && decide (0 < c.sh))
  | 1 => false
  | 2 => !neg
  | 3 => neg
  | _ => decide (65536 ≤ c.frac16 + r)

/-- A rounded pattern, the flags it raises, and whether a draw was taken. -/
structure Rounded where
  val   : Nat
  flags : Flags
  drew  : Bool
  deriving DecidableEq, Repr

/-- What finite overflow delivers (R135): the magnitude pattern. -/
def overflowMag (f : FFmt) (mode : Nat) (neg : Bool) : Nat :=
  if !f.inf then f.max
  else if f = fE5M2 then f.max
  else if mode = 1 || (mode = 2 && neg) || (mode = 3 && !neg) then f.max
  else f.max + 1

/-- Round a value to a float format (R132, R133, R135, R142). `r` is the draw to use if one is needed.
A value that overflows and would be exact with an unbounded exponent takes no draw: DESIGN CHOICE, log 38. -/
def roundF (f : FFmt) (mode : Nat) (x : Num) (r : Nat) : Rounded :=
  let sgn (neg : Bool) : Nat := bit neg * 2 ^ f.width
  match x with
  | .nan sig => ⟨f.nan, if sig then flNV else 0, false⟩
  | .inf neg =>
    if f.inf then ⟨sgn neg + f.max + 1, 0, false⟩
    else ⟨sgn neg + f.max, flOF ||| flNX, false⟩
  | .fin neg m e st =>
    if m = 0 ∧ st = false then ⟨sgn neg, 0, false⟩
    else
      let emin : Int := 1 - f.bias
      let l : Int := if m = 0 then e - 1 else (ilog2 m : Int) + e
      let q : Int := (if l < emin then emin else l) - f.mb
      let c := cutAt m e q st
      let n := c.n + bit (c.up mode neg r)
      let mag := ((q - (emin - f.mb)).toNat <<< f.mb) + n
      let u := cutAt m e (l - f.mb) st
      let un := u.n + bit (u.up mode neg r)
      let tiny := decide (l < emin) && !(decide (l = emin - 1) && decide (un = 2 ^ (f.mb + 1)))
      let nx := c.inexact
      if f.max < mag then ⟨sgn neg + overflowMag f mode neg, flOF ||| flNX, nx && mode == 4⟩
      else ⟨sgn neg + mag, (if nx then flNX else 0) ||| (if nx && tiny then flUF else 0), nx && mode == 4⟩

/-- Round to an integer format (R132, R135): the pattern in w bits. -/
def roundI (w : Nat) (sg : Bool) (mode : Nat) (x : Num) (r : Nat) : Rounded :=
  let lo : Int := if sg then -(2 ^ (w - 1) : Nat) else 0
  let hi : Int := if sg then (2 ^ (w - 1) : Nat) - 1 else (2 ^ w : Nat) - 1
  match x with
  | .nan _ => ⟨0, flNV, false⟩
  | .inf neg => ⟨wrapInt w (if neg then lo else hi), flNV, false⟩
  | .fin neg m e st =>
    let c := cutAt m e 0 st
    let n := c.n + bit (c.up mode neg r)
    let v : Int := if neg then -(n : Int) else n
    let drew := c.inexact && mode == 4
    if v < lo then ⟨wrapInt w lo, flNV, drew⟩
    else if hi < v then ⟨wrapInt w hi, flNV, drew⟩
    else ⟨wrapInt w v, if c.inexact then flNX else 0, drew⟩

/-! ## Exact arithmetic -/

/-- Whether a value is a signalling NaN. -/
def Num.isSig : Num → Bool
  | .nan s => s
  | _ => false

/-- Whether a value is NaN. -/
def Num.isNan : Num → Bool
  | .nan _ => true
  | _ => false

/-- Negate an exact value; NaN stays. -/
def Num.negate : Num → Num
  | .nan s => .nan s
  | .inf n => .inf (!n)
  | .fin n m e st => .fin (!n) m e st

/-- Multiply by 2^k. -/
def Num.scale (k : Int) : Num → Num
  | .fin n m e st => .fin n m (e + k) st
  | x => x

/-- A value and the flags raised in forming it. -/
abbrev NumF := Num × Flags

/-- The flags of NaN operands (R131). -/
def sigFlags (a b : Num) : Flags := if a.isSig || b.isSig then flNV else 0

/-- Exact product (R131). -/
def mulN (a b : Num) : NumF :=
  match a, b with
  | .nan _, _ => (.nan false, sigFlags a b)
  | _, .nan _ => (.nan false, sigFlags a b)
  | .inf s, .inf t => (.inf (s != t), 0)
  | .inf s, .fin t m _ _ => if m = 0 then (.nan false, flNV) else (.inf (s != t), 0)
  | .fin s m _ _, .inf t => if m = 0 then (.nan false, flNV) else (.inf (s != t), 0)
  | .fin s m e _, .fin t n f _ => (.fin (s != t) (m * n) (e + f) false, 0)

/-- Signed magnitude at exponent q. -/
def signedAt (neg : Bool) (m : Nat) (e q : Int) : Int :=
  let v : Int := ((m <<< (e - q).toNat : Nat) : Int)
  if neg then -v else v

/-- Exact sum (R131, R238): an exactly zero sum is +0, or −0 under .rdn and when both addends are −0. -/
def addN (rdn : Bool) (a b : Num) : NumF :=
  match a, b with
  | .nan _, _ => (.nan false, sigFlags a b)
  | _, .nan _ => (.nan false, sigFlags a b)
  | .inf s, .inf t => if s = t then (.inf s, 0) else (.nan false, flNV)
  | .inf s, .fin _ _ _ _ => (.inf s, 0)
  | .fin _ _ _ _, .inf t => (.inf t, 0)
  | .fin s m e _, .fin t n f _ =>
    let q := if e ≤ f then e else f
    let v := signedAt s m e q + signedAt t n f q
    if v = 0 then (.fin (if s = t ∧ m = 0 ∧ n = 0 then s else rdn) 0 0 false, 0)
    else (.fin (v < 0) v.natAbs q false, 0)

/-- Compare finite or infinite values: −1, 0, 1; NaN gives none. -/
def cmpN (a b : Num) : Option Int :=
  match a, b with
  | .nan _, _ => none
  | _, .nan _ => none
  | .inf s, .inf t => some (if s = t then 0 else if s then -1 else 1)
  | .inf s, .fin _ _ _ _ => some (if s then -1 else 1)
  | .fin _ _ _ _, .inf t => some (if t then 1 else -1)
  | .fin s m e _, .fin t n f _ =>
    let q := if e ≤ f then e else f
    let x := signedAt s m e q
    let y := signedAt t n f q
    some (if x < y then -1 else if x = y then 0 else 1)

/-- Magnitude comparison of two values, NaN excluded: |a| < |b|. -/
def magLt (a b : Num) : Bool :=
  match a, b with
  | .fin _ m e _, .fin _ n f _ =>
    let q := if e ≤ f then e else f
    decide (m <<< (e - q).toNat < n <<< (f - q).toNat)
  | .fin _ _ _ _, .inf _ => true
  | _, _ => false

/-- Round an exact value to FP32 with nearest even (R146). -/
def roundRneFp32 (x : Num) : Rounded := roundF fFP32 0 x 0

/-- FP32 sum of two patterns, rounded to nearest even, with its flags (R137, R141). -/
def fadd32 (a b : Nat) : Nat × Flags :=
  let s := addN false (decodeF fFP32 a) (decodeF fFP32 b)
  let r := roundRneFp32 s.1
  (r.val, s.2 ||| r.flags)

/-- VMAX and VMIN (R131, R238): −0 ranks below +0, a NaN operand gives NaN. -/
def fmaxmin (isMax : Bool) (a b : Nat) : Nat × Flags :=
  let x := decodeF fFP32 a
  let y := decodeF fFP32 b
  match cmpN x y with
  | none => (fFP32.nan, sigFlags x y)
  | some c =>
    let aBelow := if c = 0 then a.testBit 31 && !(b.testBit 31) else decide (c < 0)
    (if isMax then (if aBelow then b else a) else (if aBelow then a else if c = 0 ∧ b.testBit 31 then b else if c = 0 then a else b), 0)

/-! ## Correctly rounded functions (R239)

Every function value is formed in fixed point with 320 fraction bits and a sticky bit (log 12). -/

/-- Fraction bits of the fixed-point evaluation. -/
def fxP : Nat := 320

/-- Σ_{k=1..n} 2^P / (k 2^k): ln 2 in fixed point. -/
def ln2Sum : Nat → Nat
  | 0 => 0
  | n + 1 => ln2Sum n + 2 ^ fxP / ((n + 1) * 2 ^ (n + 1))

/-- ln 2 · 2^P. -/
def fxLn2 : Nat := ln2Sum 330

/-- Taylor sum of e^x: n terms from term k on. -/
def expSum (x : Nat) : Nat → Nat → Nat → Nat → Nat
  | 0, _, _, acc => acc
  | n + 1, k, t, acc => expSum x n (k + 1) (t * x / 2 ^ fxP / (k + 1)) (acc + t)

/-- Square a fixed-point value n times. -/
def fxSquare : Nat → Nat → Nat
  | 0, x => x
  | n + 1, x => fxSquare n (x * x / 2 ^ fxP)

/-- e^x for fixed-point x in [0, 1). -/
def fxExp (x : Nat) : Nat := fxSquare 8 (expSum (x / 256) 48 0 (2 ^ fxP) 0)

/-- Σ z^(2k+1)/(2k+1), n terms: atanh of a fixed-point z. -/
def atanhSum (z2 : Nat) : Nat → Nat → Nat → Nat → Nat
  | 0, _, _, acc => acc
  | n + 1, k, t, acc => atanhSum z2 n (k + 1) (t * z2 / 2 ^ fxP) (acc + t / (2 * k + 1))

/-- ln y for fixed-point y in [1, 2). -/
def fxLn (y : Nat) : Nat :=
  let z := (y - 2 ^ fxP) * 2 ^ fxP / (y + 2 ^ fxP)
  2 * atanhSum (z * z / 2 ^ fxP) 110 0 z 0

/-- A finite value in fixed point, exact for exponents from −P on. -/
def toFx (neg : Bool) (m : Nat) (e : Int) : Int := signedAt neg m e (-(fxP : Int))

/-- e^X for a fixed-point X of magnitude below 2^9: significand and exponent. -/
def expFx (x : Int) : Num :=
  let k := x / (fxLn2 : Int)
  let r := (x % (fxLn2 : Int)).toNat
  .fin false (fxExp r) (k - fxP) true

/-- A value just above 0, for results below every format. -/
def tinyPos : Num := .fin false 1 (-1000) true
/-- A finite value beyond every format. -/
def hugePos : Num := .fin false 1 1000 true

/-- Whether |m · 2^e| ≥ 2^k. -/
def atLeast (m : Nat) (e : Int) (k : Int) : Bool := m ≠ 0 && decide (k ≤ (ilog2 m : Int) + e)

/-- e^a or 2^a (R239). -/
def expN (base2 : Bool) (a : Num) : NumF :=
  match a with
  | .nan s => (.nan false, if s then flNV else 0)
  | .inf neg => (if neg then .fin false 0 0 false else .inf false, 0)
  | .fin neg m e _ =>
    if m = 0 then (.fin false 1 0 false, 0)
    else if atLeast m e 9 then (if neg then tinyPos else hugePos, 0)
    else if base2 then
      let x := toFx neg m e
      let k := x / ((2 ^ fxP : Nat) : Int)
      let fr := (x % ((2 ^ fxP : Nat) : Int)).toNat
      if fr = 0 then (.fin false 1 k false, 0)
      else (.fin false (fxExp (fr * fxLn2 / 2 ^ fxP)) (k - fxP) true, 0)
    else (expFx (toFx neg m e), 0)

/-- ln a or log2 a (R239, R131). -/
def logN (base2 : Bool) (a : Num) : NumF :=
  match a with
  | .nan s => (.nan false, if s then flNV else 0)
  | .inf neg => if neg then (.nan false, flNV) else (.inf false, 0)
  | .fin neg m e _ =>
    if m = 0 then (.inf true, flDZ)
    else if neg then (.nan false, flNV)
    else
      let l := ilog2 m
      let ex : Int := (l : Int) + e
      let y := (m <<< fxP) >>> l
      if y = 2 ^ fxP then
        if base2 then (numOfInt ex, 0)
        else if ex = 0 then (.fin false 0 0 false, 0)
        else (.fin (ex < 0) (ex.natAbs * fxLn2) (-(fxP : Int)) true, 0)
      else
        let v : Int := ex * (fxLn2 : Int) + (fxLn y : Int)
        if base2 then
          let w := v * ((2 ^ fxP : Nat) : Int) / (fxLn2 : Int)
          (.fin (w < 0) w.natAbs (-(fxP : Int)) true, 0)
        else (.fin (v < 0) v.natAbs (-(fxP : Int)) true, 0)

/-- tanh a (R239). Below 2^−21 the value lies just under a (log 12). -/
def tanhN (a : Num) : NumF :=
  match a with
  | .nan s => (.nan false, if s then flNV else 0)
  | .inf neg => (.fin neg 1 0 false, 0)
  | .fin neg m e _ =>
    if m = 0 then (.fin neg 0 0 false, 0)
    else if atLeast m e 7 then (.fin neg (2 ^ 300 - 1) (-300) true, 0)
    else if !(atLeast m e (-21)) then (.fin neg (m <<< 300 - 1) (e - 300) true, 0)
    else
      match expFx (2 * toFx false m e) with
      | .fin _ em ee _ =>
        let t := signedAt false em ee (-(fxP : Int)) |>.toNat
        let t := if 0 ≤ ee + (fxP : Int) then t else em >>> (-(ee + (fxP : Int))).toNat
        (.fin neg ((t - 2 ^ fxP) * 2 ^ fxP / (t + 2 ^ fxP)) (-(fxP : Int)) true, 0)
      | x => (x, 0)

/-- 1/a (R131, R239). -/
def rcpN (a : Num) : NumF :=
  match a with
  | .nan s => (.nan false, if s then flNV else 0)
  | .inf neg => (.fin neg 0 0 false, 0)
  | .fin neg m e _ =>
    if m = 0 then (.inf neg, flDZ)
    else
      let k := ilog2 m + 80
      (.fin neg (2 ^ k / m) (-(k : Int) - e) (2 ^ k % m ≠ 0), 0)

/-- floor(√n), bit by bit from bit b down. -/
def isqrt (n : Nat) : Nat → Nat → Nat
  | 0, acc => if (acc + 1) * (acc + 1) ≤ n then acc + 1 else acc
  | b + 1, acc =>
    let t := acc + 2 ^ (b + 1)
    isqrt n b (if t * t ≤ n then t else acc)

/-- 1/√a (R131, R239). -/
def rsqN (a : Num) : NumF :=
  match a with
  | .nan s => (.nan false, if s then flNV else 0)
  | .inf neg => if neg then (.nan false, flNV) else (.fin false 0 0 false, 0)
  | .fin neg m e _ =>
    if m = 0 then (.inf neg, flDZ)
    else if neg then (.nan false, flNV)
    else
      let m2 := if e % 2 = 0 then m else 2 * m
      let e2 := if e % 2 = 0 then e else e - 1
      let k := ilog2 m2 + 80
      let q := 2 ^ (2 * k) / m2
      let r := isqrt q 160 0
      (.fin false r (-(k : Int) - e2 / 2) (!(r * r == q && 2 ^ (2 * k) % m2 == 0)), 0)

/-! ## Block formats (R126 to R129, R248) -/

/-- Magnitude bits M of a KB format code (R127). -/
def kbM (code : Nat) : Option Nat :=
  match code with
  | 0xB => some 2 | 0xC => some 4 | 0xD => some 7 | _ => none

/-- Bytes of a block of a block format (R85). -/
def blockBytes (code : Nat) : Nat :=
  match code with
  | 0xA => 16 | 0xB => 8 | 0xC => 12 | 0xD => 18 | _ => 0

/-- decode_kb (R128): element i of a block pattern. -/
def decodeKb (mM : Nat) (blk i : Nat) : Num :=
  let ex := bits blk 0 8
  if ex = 255 then .nan false
  else
    let el := bits blk (16 + i * (mM + 1)) (mM + 1)
    let mi := bits blk (8 + i / 2) 1
    .fin (el.testBit mM) (bits el 0 mM) ((ex : Int) - 127 - mi - (mM - 1 : Nat)) false

/-- A rounding stream: the generator state, and the flags raised so far. -/
structure RStream where
  gen   : Nat
  flags : Flags
  deriving DecidableEq, Repr

/-- Take the result of a rounding: advance the generator when it drew (R133, R134). -/
def RStream.after (t : RStream) (r : Rounded) : RStream :=
  ⟨if r.drew then xorshift t.gen else t.gen, t.flags ||| r.flags⟩

/-- The draw the next rounding would use: the upper half of the advanced state (R134). -/
def RStream.draw (t : RStream) : Nat := xorshift t.gen >>> 16

/-- Round one value in a stream to a float format. -/
def RStream.roundF (t : RStream) (f : FFmt) (mode : Nat) (x : Num) : Nat × RStream :=
  let r := Machine.roundF f mode x t.draw
  (r.val, t.after r)

/-- Round one value in a stream to an integer format. -/
def RStream.roundI (t : RStream) (w : Nat) (sg : Bool) (mode : Nat) (x : Num) : Nat × RStream :=
  let r := Machine.roundI w sg mode x t.draw
  (r.val, t.after r)

/-- The largest magnitude of a list, infinities largest; NaN excluded by the caller. -/
def maxMag (xs : List Num) : Num :=
  xs.foldl (fun a x => if magLt a x then x else a) (.fin false 0 0 false)

/-- The scaled magnitude of an element of encode_kb, with the sign kept for directed rounding. -/
def kbScaled (mM : Nat) (ex : Nat) (mi : Nat) (x : Num) : Num := x.scale ((mM - 1 : Nat) + 127 + mi - (ex : Int))

/-- One element of encode_kb: its bits, overflow, and the stream after it (R129). -/
def kbElem (mM ex mi mode : Nat) (x : Num) (t : RStream) : Nat × RStream :=
  let top := 2 ^ mM - 1
  match kbScaled mM ex mi x with
  | .fin neg m e st =>
    let c := cutAt m e 0 st
    let n := c.n + bit (c.up mode neg t.draw)
    let t1 : RStream := ⟨if c.inexact && mode == 4 then xorshift t.gen else t.gen, t.flags ||| (if c.inexact then flNX else 0)⟩
    let q := if top < n then top else n
    let t2 : RStream := if top < n then
      ⟨t1.gen, t1.flags ||| flNX ||| (if ex = 254 ∧ mi = 0 then flOF else 0)⟩ else t1
    (q + (if neg ∧ q ≠ 0 then 2 ^ mM else 0), t2)
  | .inf neg => (top + (if neg then 2 ^ mM else 0), ⟨t.gen, t.flags ||| flOF ||| flNX⟩)
  | .nan _ => (0, t)

/-- Elements of encode_kb from element i on. -/
def kbElems (mM ex mode : Nat) (mexp : Nat) : Nat → List Num → RStream → Nat × RStream
  | _, [], t => (0, t)
  | i, x :: xs, t =>
    let (b, t1) := kbElem mM ex (bits mexp (i / 2) 1) mode x t
    let (rest, t2) := kbElems mM ex mode mexp (i + 1) xs t1
    (b + rest * 2 ^ (mM + 1), t2)

/-- encode_kb (R129): sixteen values to a block pattern. Signalling NaN inputs raise invalid (R131). -/
def encodeKb (mM mode : Nat) (xs : List Num) (t : RStream) : Nat × RStream :=
  if xs.any Num.isNan then (0xFF, ⟨t.gen, t.flags ||| (if xs.any Num.isSig then flNV else 0)⟩)
  else
    match maxMag xs with
    | .fin _ 0 _ _ => (0, t)
    | big =>
      let ex : Nat := match big with
        | .fin _ m e _ => (min 254 (max 0 ((ilog2 m : Int) + e + 127))).toNat
        | _ => 254
      let lim : Num := .fin false 1 ((ex : Int) - 127) false
      let mexp := packBits 1 8 (fun k =>
        bit (magLt (xs.getD (2 * k) (.fin false 0 0 false)) lim && magLt (xs.getD (2 * k + 1) (.fin false 0 0 false)) lim))
      let (el, t1) := kbElems mM ex mode mexp 0 xs t
      (ex + mexp * 256 + el * 65536, t1)

/-- Elements of an MXFP4 block from a list, four bits each. -/
def mxElems (x : Nat) (mode : Nat) : List Num → RStream → Nat × RStream
  | [], t => (0, t)
  | v :: vs, t =>
    let (b, t1) := t.roundF fE2M1 mode (v.scale (127 - (x : Int)))
    let t1 : RStream := match v with
      | .inf _ => ⟨t1.gen, t1.flags ||| flOF ||| flNX⟩
      | _ => ⟨t1.gen, t.flags ||| (t1.flags &&& (flNX ||| flOF ||| flNV))⟩
    let (rest, t2) := mxElems x mode vs t1
    (b + rest * 16, t2)

/-- MXFP4 encoding (R248): elements pattern, scale byte, stream. -/
def encodeMx (mode : Nat) (vs : List Num) (t : RStream) : Nat × Nat × RStream :=
  if vs.any Num.isNan then (0, 0xFF, ⟨t.gen, t.flags ||| (if vs.any Num.isSig then flNV else 0)⟩)
  else
    match maxMag vs with
    | .fin _ 0 _ _ => (0, 0, t)
    | big =>
      let x : Nat := match big with
        | .fin _ m e _ => (min 254 (max 0 ((ilog2 m : Int) + e - 2 + 127))).toNat
        | _ => 254
      let (el, t1) := mxElems x mode vs t
      (el, x, t1)

/-- decode_e2m1 scaled by an E8M0 byte (R126). -/
def decodeMx (x el : Nat) : Num :=
  if x = 255 then .nan false else (decodeF fE2M1 el).scale ((x : Int) - 127)

/-! ## Order of sums (R137, R141) -/

/-- One level of the tree. -/
def treeLevel {α : Type} (op : α → α → α) : List α → List α
  | a :: b :: t => op a b :: treeLevel op t
  | l => l

/-- The fixed binary tree over 2^n leaves (R141). -/
def treeReduce {α : Type} (op : α → α → α) : Nat → List α → List α
  | 0, l => l
  | n + 1, l => treeReduce op n (treeLevel op l)

/-- Reduction codes of R250: identity and operation with flags. -/
def redIdentity (code : Nat) : Nat :=
  match code with
  | 0 => 0x80000000 | 1 => 0xFF800000 | 2 => 0x7F800000 | 3 => 0 | 4 => 0x80000000 | 5 => 0x7FFFFFFF
  | 6 => 0 | 7 => 0xFFFFFFFF | 8 => 0xFFFFFFFF | _ => 0

/-- A reduction operation on 32-bit patterns (R250). -/
def redOp (code : Nat) (a b : Nat) : Nat × Flags :=
  match code with
  | 0 => fadd32 a b
  | 1 => fmaxmin true a b
  | 2 => fmaxmin false a b
  | 3 => ((a + b) % 2 ^ 32, 0)
  | 4 => (if toSigned 32 a < toSigned 32 b then b else a, 0)
  | 5 => (if toSigned 32 b < toSigned 32 a then b else a, 0)
  | 6 => (max a b, 0)
  | 7 => (min a b, 0)
  | 8 => (a &&& b, 0)
  | 9 => (a ||| b, 0)
  | _ => (a ^^^ b, 0)

/-- A reduction operation on patterns that carry flags. -/
def redOpF (code : Nat) (a b : Nat × Flags) : Nat × Flags :=
  let r := redOp code a.1 b.1
  (r.1, a.2 ||| b.2 ||| r.2)

/-- Tree of a list of 2^n patterns (R141). -/
def treeRed (code n : Nat) (xs : List Nat) : Nat × Flags :=
  (treeReduce (redOpF code) n (xs.map (fun x => (x, (0 : Flags))))).headD (0, 0)

/-- One step of VSCAN with distance d (R141); the flags of a lane's result are those of every operation in it, at inactive lanes too: DESIGN
CHOICE, log 38. -/
def scanStep (code d : Nat) (xs : List (Nat × Flags)) : List (Nat × Flags) :=
  (List.range xs.length).map (fun i =>
    if d ≤ i then redOpF code (xs.getD (i - d) (0, 0)) (xs.getD i (0, 0)) else xs.getD i (0, 0))

/-- A result of a float reduction: a NaN is canonical, in lane 0 of VSCAN too, where no sum makes it (R130). -/
def redResult (code x : Nat) : Nat := if code < 3 ∧ (decodeF fFP32 x).isNan then fFP32.nan else x

/-- The inclusive prefix over 64 lanes in six steps (R141). -/
def scanRed (code : Nat) (xs : List Nat) : List (Nat × Flags) :=
  ([1, 2, 4, 8, 16, 32].foldl (fun l d => scanStep code d l) (xs.map (fun x => (x, (0 : Flags))))).map (fun x => (redResult code x.1, x.2))

end Sys2Proof.Machine
end

