-- ==== Sys2Proof/Config.lean ====
section
/-!
DEFINITION. What an implementation fixes, and the values the spec leaves free.

Every `opaque` here has no body: nothing can be proved about its value. The counts of R8 are plain definitions.
-/
namespace Sys2Proof

/-- Free values (log 3): value number i of step tick t. A read inside a latency bound (R175), what an
engine memory holds after gang-idle (R430), and what lies outside the package are taken from it. -/
opaque Config.freeBits : Nat → Nat → Nat

/-- Whether a cached translation is still cached when it is looked up at tick t under key k (log 11). -/
opaque Config.cacheKeeps : Nat → Nat → Bool

/-- What the 16-byte block n of HBM reads as, byte by byte, under key `b` when its bytes were written under key `a` ≠ `b` (R442, log 8). -/
opaque Config.garble : BitVec 512 → BitVec 512 → Nat → List Byte → Nat → Byte

/-- The two XTS keys that a key blob unwraps to for a slot, or none when the unwrap fails (R441, log 8). -/
opaque Config.unwrapKey : List Byte → Nat → Option (BitVec 512)

/-- The outcome of the boot checks of R438 on an image, the boot flash's or what HBM holds: a number whose remainder by 5 is the code of
SECSTAT, the security version, and the measurement (R440, log 8). -/
opaque Config.imageCheck : Option (List Host.Cell) → Nat × BitVec 16 × BitVec 384

/-- The walk store that an accepted image loads (R398, log 8). -/
opaque Config.walkByte : Option (List Host.Cell) → Nat → Byte

/-- The bytes of the attestation report of R440 over what it holds (log 8). -/
opaque Config.attestation : List Dword → List Byte

/-- PCI vendor id of register ID (R376). -/
opaque Config.vendorId : BitVec 16
/-- Stepping of register ID (R376). -/
opaque Config.stepping : BitVec 8

/-- Class code in the configuration space of the one physical function: processing accelerator (R372). -/
def Config.classCode : Nat := 0x120000

/-- A BAR of the function (R373). -/
structure PciBar where
  number       : Nat
  size         : Nat
  wide         : Bool
  prefetchable : Bool
  deriving DecidableEq, Repr

/-- BAR0, the control registers, and BAR2, device memory: both 64-bit (R373). -/
def Config.bars : List PciBar := [⟨0, 2 ^ 26, true, false⟩, ⟨2, 2 ^ 40, true, true⟩]

/-- BAR0 offset of the block of capability 3 to 7, and the version of a capability (R375, R377). -/
opaque Config.capBlock : Nat → Nat
/-- Layout version of a capability (R377). -/
opaque Config.capVersion : Nat → BitVec 8

/-- Entries of each storage queue (R418). -/
def Config.queueEntries : Nat := 256

/-- A namespace, by its id, of NVMe controllers 0 to 7 behind the storage root port: its size in 4,096-byte LBAs when its format
is usable (R418), 0 otherwise. -/
opaque Config.controllerLbas : Nat → Nat → Nat

/-- How far the measured core rail voltage of tick t lies above 450 mV (R8, R431). -/
opaque Config.railAbove : Nat → Nat
/-- Non-core power in W over the last interval (R431). -/
opaque Config.otherPower : Nat → Nat
/-- A gang's stated demand in A over the interval of tick t (R431). -/
opaque Config.gangDemand : Nat → Nat → Nat

/-- Core rail voltage in mV measured over the interval of tick t: 450 to 550 (R8, R431). -/
def Config.railMillivolts (t : Nat) : Nat := 450 + Config.railAbove t % 101

/-- Bytes of a die's pantry, and of one of its lines (R17). Coherent for every agent (R70), it holds nothing but bytes of HBM. -/
def Config.pantryBytes : Nat := 100663296
def Config.pantryLine : Nat := 128
/-- Stair cores of a die, and bytes of its walk store (R17). -/
def Config.stairCores : Nat := 4
def Config.walkStore : Nat := 65536

/-- Compute dies (R8). -/
def Config.dies : Nat := 4
/-- Enabled gangs of a die (R8). -/
def Config.gangsPerDie : Nat := 40
/-- Package gang numbers (R12). -/
def Config.gangs : Nat := 160
/-- Landings of a die (R8). -/
def Config.landingsPerDie : Nat := 8
/-- Spare gangs of a die (R8). -/
def Config.sparesPerDie : Nat := 2
/-- Stack entries (R15). -/
def Config.stackDepth : Nat := 32
/-- Fault records a context's queue holds (R15). -/
def Config.faultQueue : Nat := 32
/-- Bins of a die (R36). -/
def Config.binsPerDie : Nat := 256
/-- Parameter-block cache entries of a die (R17). -/
def Config.pbEntries : Nat := 32
/-- Translation-buffer entries of a die (R401). -/
def Config.tlbEntries : Nat := 8192
/-- KVTB entries of a die (R401). -/
def Config.kvtbEntries : Nat := 4096
/-- Group-table entries (R147). -/
def Config.groups : Nat := 4096
/-- Channel store in bytes (R323). -/
def Config.channelStore : Nat := 33554432
/-- Bytes of HBM of one die (R73). -/
def Config.hbmPerDie : Nat := 0x3000000000
/-- Bytes of HBM of the package (R73). -/
def Config.hbmBytes : Nat := 0xC000000000
/-- Live regions of the package (R382). -/
def Config.maxRegions : Nat := 4096
/-- Slots that hold HBM in a checkpoint (R445). -/
def Config.checkpointHbm : Nat := 12582912
/-- Slots that one step of the transfer writes (log 28). -/
def Config.checkpointStep : Nat := 1048576
/-- Slots the checkpoint needs (R445). -/
def Config.checkpointSlots : Nat := 12583936

end Sys2Proof
end

