-- ==== Sys2Proof/Machine/Table.lean ====
section
/-!
DEFINITION. Sparse storage: a list of (key, value) pairs with strictly rising keys that lists no default value,
so that equal contents are equal lists.
-/
namespace Sys2Proof.Machine

/-- A sparse table. -/
abbrev Table (α : Type) := List (Nat × α)

/-- The listed value of key k, if there is one. -/
def tableFind {α : Type} : Table α → Nat → Option α
  | [], _ => none
  | (j, v) :: t, k => if j = k then some v else tableFind t k

/-- The value of key k, d where nothing is listed. -/
def tableGet {α : Type} (t : Table α) (k : Nat) (d : α) : α := (tableFind t k).getD d

/-- The table without key k. -/
def tableErase {α : Type} : Table α → Nat → Table α
  | [], _ => []
  | (j, v) :: t, k => if j = k then tableErase t k else (j, v) :: tableErase t k

/-- The table with v listed at key k, in order. -/
def tableInsert {α : Type} : Table α → Nat → α → Table α
  | [], k, v => [(k, v)]
  | (j, w) :: t, k, v =>
    if j = k then (k, v) :: t
    else if k < j then (k, v) :: (j, w) :: t
    else (j, w) :: tableInsert t k v

/-- Write v at key k; writing the default d removes the entry. -/
def tableSet {α : Type} [DecidableEq α] (t : Table α) (k : Nat) (v d : α) : Table α :=
  if v = d then tableErase t k else tableInsert t k v

/-- Every key of t is above k, and keys rise strictly. -/
def tableAbove {α : Type} : Nat → Table α → Bool
  | _, [] => true
  | k, (j, _) :: t => k < j && tableAbove j t

/-- Strictly rising keys. -/
def tableSorted {α : Type} : Table α → Bool
  | [] => true
  | (j, _) :: t => tableAbove j t

/-- The canonical form: strictly rising keys and no default listed. -/
def tableWf {α : Type} [DecidableEq α] (d : Nat → α) (t : Table α) : Bool :=
  tableSorted t && t.all (fun e => decide (e.2 ≠ d e.1))

end Sys2Proof.Machine
end

