-- ==== Sys2Proof/Syntax.lean ====
section
/-!
DEFINITION. The instructions of the SVQ-4280: one constructor per row of the opcode table.

Rows 0 to 211 are words of a context's bundle (R165 to R187); rows 212 to 226 are Kubor words (R328);
rows 227 to 230 are writes of control registers with rows of their own (R222); the rest are the steps of
the scheduler, the host, the stair cores, the porches, storage, links and the operator.
The E bit of a base word belongs to the bundle (R168) and is kept by the decoder beside the instruction.
-/
namespace Sys2Proof

/-- The predicate field and its negation (R165, R170). -/
structure Gate where
  pred : BitVec 3
  neg  : Bool
  deriving DecidableEq, Repr

/-- The extension of LOOP and LOOPX (R206). -/
structure LoopExt where
  incB : BitVec 26
  incA : BitVec 26
  fx   : BitVec 3
  len  : BitVec 9
  deriving DecidableEq, Repr

/-- The fields of a V word (R234). -/
structure VFields where
  imm  : BitVec 8
  qc   : BitVec 3
  sub  : BitVec 4
  z    : Bool
  sat  : Bool
  fmt2 : BitVec 4
  fmt  : BitVec 4
  rm   : BitVec 3
  vc   : BitVec 6
  vb   : BitVec 6
  ln   : Bool
  lq   : BitVec 3
  va   : BitVec 6
  vd   : BitVec 6
  deriving DecidableEq, Repr

/-- The fields of a Q word (R253). -/
structure QFields where
  k    : BitVec 3
  j    : BitVec 3
  uns  : Bool
  desc : Bool
  fmt  : BitVec 4
  pb   : BitVec 6
  pa   : BitVec 6
  ln   : Bool
  lq   : BitVec 3
  kb   : BitVec 6
  ka   : BitVec 6
  deriving DecidableEq, Repr

/-- The fields of ADRN (R294). -/
structure DrainFields where
  pitch : BitVec 16
  part  : BitVec 2
  int   : Bool
  clr   : Bool
  ftz   : Bool
  rm    : BitVec 3
  zs    : BitVec 4
  fmt   : BitVec 4
  addr  : BitVec 5
  dst   : Bool
  acc   : BitVec 2
  deriving DecidableEq, Repr

/-- The fields of LDA, STL and STX (R302). -/
structure StrongFields where
  sE    : BitVec 5
  ln    : Bool
  lq    : BitVec 3
  disp  : BitVec 32
  sgn   : Bool
  sz    : BitVec 2
  scope : BitVec 3
  spc   : Bool
  vec   : Bool
  sA    : BitVec 5
  r     : BitVec 6
  deriving DecidableEq, Repr

/-- The fields of the vector memory words (R303). -/
structure MemFields where
  disp  : BitVec 32
  nr    : Bool
  sh    : BitVec 2
  sgn   : Bool
  sz    : BitVec 2
  op    : BitVec 4
  z     : Bool
  ln    : Bool
  lq    : BitVec 3
  sE    : BitVec 5
  sA    : BitVec 5
  scope : BitVec 3
  spc   : Bool
  vI    : BitVec 6
  vR    : BitVec 6
  deriving DecidableEq, Repr

/-- The fields of ATOM and ATCAS (R307). -/
structure AtomFields where
  disp  : BitVec 32
  sC    : BitVec 5
  sz    : Bool
  op    : BitVec 4
  scope : BitVec 3
  sV    : BitVec 5
  sA    : BitVec 5
  sD    : BitVec 5
  deriving DecidableEq, Repr

/-- The fields of CPYL (R311). -/
structure CpylFields where
  lbase : BitVec 32
  comm  : Bool
  ln    : Bool
  lq    : BitVec 3
  dir   : Bool
  sz    : BitVec 2
  vO    : BitVec 6
  sB    : BitVec 5
  sT    : BitVec 5
  deriving DecidableEq, Repr

/-- The fields of CPYW (R312). -/
structure CpywFields where
  esy   : BitVec 8
  esx   : BitVec 8
  pitch : BitVec 16
  nch   : BitVec 16
  wy    : BitVec 6
  wx    : BitVec 6
  comm  : Bool
  sB    : BitVec 5
  sA    : BitVec 5
  sT    : BitVec 5
  deriving DecidableEq, Repr

/-- The fields of XSHF, XRED and XBC (R258). -/
structure XFields where
  vb  : BitVec 6
  m   : BitVec 4
  pat : BitVec 4
  ln  : Bool
  lq  : BitVec 3
  va  : BitVec 6
  vd  : BitVec 6
  deriving DecidableEq, Repr

/-- The fields of XPICK (R258). -/
structure PickFields where
  hi : Bool
  sD : BitVec 5
  pn : Bool
  ps : BitVec 3
  ln : Bool
  lq : BitVec 3
  va : BitVec 6
  vd : BitVec 6
  deriving DecidableEq, Repr

/-- The shared high fields of a Kubor word (R328). -/
structure KHead where
  ts  : Bool
  tsr : BitVec 4
  ce  : Bool
  cn  : BitVec 3
  deriving DecidableEq, Repr

/-- The fields of a Kubor data word (R329). -/
structure KData where
  pe     : BitVec 4
  tag    : BitVec 8
  fin    : BitVec 4
  fout   : BitVec 4
  out    : BitVec 2
  pf     : BitVec 4
  ba     : BitVec 4
  xa     : BitVec 4
  bb     : BitVec 4
  xb     : BitVec 4
  rm     : BitVec 3
  stride : BitVec 32
  n      : BitVec 32
  deriving DecidableEq, Repr

/-- The fields of a Kubor LOOP (R336). -/
structure KLoopFields where
  wc   : BitVec 4
  wi   : BitVec 4
  wj   : BitVec 4
  md   : BitVec 16
  inci : BitVec 16
  incj : BitVec 16
  len  : BitVec 10
  imm  : BitVec 32
  deriving DecidableEq, Repr

/-- Who met an uncorrectable error (R435). -/
inductive EccVictim where
  | context (cid : Nat)
  /-- A context, in a memory of the gang on which it stands (R436). -/
  | engine (cid : Nat)
  | porch (slot : Nat)
  | record (region : Nat)
  | barRead
  | group (gid : Nat)
  | channel (ch : Nat)
  | porchSlot (slot : Nat)
  | hallState
  | scrub
  /-- The scrub, on the HBM word that holds an address: the word stays uncorrectable. -/
  | word (pa : Nat)
  deriving DecidableEq, Repr

/-- A memory operation that another package sends over the links (R99, R102). -/
inductive LinkOp where
  | read (pa : Nat) (width : Nat)
  | write (pa : Nat) (data : List Byte)
  | atomic (pa : Nat) (dw : Bool) (op : Nat) (v : Dword)
  | cas (pa : Nat) (dw : Bool) (cmp v : Dword)
  deriving DecidableEq, Repr

/-- A unit of the package that may sleep (R430). -/
inductive PowerUnit where
  | gang (g : Nat)
  | die (d : Nat)
  | package
  deriving DecidableEq, Repr

/-- The data of a host write of a register: the whole register, or the half that the offset names (R375). -/
inductive BarValue where
  | whole (v : Dword)
  | half (v : Word)
  deriving DecidableEq, Repr

/-- The number of elements and the format that a porch message names (R332). -/
structure KSize where
  n   : Nat
  fin : BitVec 4
  deriving DecidableEq, Repr

/-- What comes for an outstanding data word: the size of the sender's word, and its bytes, none while they are under way. -/
structure KArrival where
  size  : KSize
  bytes : Option (List Byte)
  deriving DecidableEq, Repr

/-- The instructions: rows 0 to 311 of the opcode table, in its order. -/
inductive Instr where
  -- C class (R201)
  | nop (g : Gate)
  | nopw (g : Gate) (n : BitVec 16)
  | br (g : Gate) (off : BitVec 16)
  | brLong (g : Gate) (target : Dword)
  | brf (g : Gate) (p : BitVec 3) (cond : BitVec 2) (off : BitVec 11)
  | brfLong (g : Gate) (p : BitVec 3) (cond : BitVec 2) (target : Dword)
  | jmpi (g : Gate) (sh : BitVec 3) (sI sN : BitVec 5)
  | call (g : Gate) (off : BitVec 16)
  | callLong (g : Gate) (target : Dword)
  | ret (g : Gate) (sN : BitVec 5)
  | loop (g : Gate) (imm : BitVec 11) (sC : BitVec 5) (x : LoopExt) (lit : Option Dword)
  | loopx (g : Gate) (imm : BitVec 11) (sC : BitVec 5) (x : LoopExt) (lit : Option Dword)
  | brp (g : Gate) (p : BitVec 3) (pneg : Bool) (off : BitVec 12)
  | brpLong (g : Gate) (p : BitVec 3) (pneg : Bool) (target : Dword)
  | join (g : Gate)
  | jinit (g : Gate) (sM : BitVec 5) (j : BitVec 2)
  | jinitLiteral (g : Gate) (j : BitVec 2) (lit : Dword)
  | jarv (g : Gate) (j : BitVec 2)
  | jwait (g : Gate) (j : BitVec 2)
  | split (g : Gate) (p : BitVec 3) (pneg : Bool) (off : BitVec 12)
  | splitLong (g : Gate) (p : BitVec 3) (pneg : Bool) (target : Dword)
  | merge (g : Gate)
  | regrp (g : Gate) (h : BitVec 3)
  | pass (g : Gate)
  | park (g : Gate) (sT : BitVec 5)
  | spawn (g : Gate) (sA : BitVec 5)
  | exit (g : Gate)
  | done (g : Gate)
  | idemb (g : Gate)
  | ideme (g : Gate)
  | gnew (g : Gate) (sA sN : BitVec 5) (hD : BitVec 3)
  | gjoin (g : Gate) (sN : BitVec 5) (hD : BitVec 3)
  | gleave (g : Gate) (cnt : Bool) (h : BitVec 3)
  | garv (g : Gate) (cnt : Bool) (h : BitVec 3)
  | gwait (g : Gate) (h : BitVec 3)
  | gbar (g : Gate) (cnt : Bool) (h : BitVec 3)
  | gvote (g : Gate) (cnt : Bool) (f : BitVec 3) (h : BitVec 3) (sD : BitVec 5)
  | grdc (g : Gate) (cnt : Bool) (h : BitVec 3) (sC sD : BitVec 5) (op : BitVec 4) (sS : BitVec 5)
  | gwin (g : Gate) (h : BitVec 3)
  | gqry (g : Gate) (sel : BitVec 3) (h : BitVec 3) (sD : BitVec 5)
  | trap (g : Gate) (code : BitVec 16)
  | trapLiteral (g : Gate) (code : Dword)
  | sysret (g : Gate)
  | brk (g : Gate) (code : BitVec 16)
  | csrd (g : Gate) (cr : BitVec 11) (sD : BitVec 5)
  | cswr (g : Gate) (cr : BitVec 11) (sS : BitVec 5)
  | cswrLiteral (g : Gate) (cr : BitVec 11) (lit : Dword)
  | brdl (g : Gate) (off : BitVec 11) (sM : BitVec 5)
  | brdlLong (g : Gate) (sM : BitVec 5) (target : Dword)
  -- S class (R226)
  | add (g : Gate) (sb sa sd : BitVec 5)
  | addLiteral (g : Gate) (sa sd : BitVec 5) (lit : Dword)
  | sub (g : Gate) (sb sa sd : BitVec 5)
  | subLiteral (g : Gate) (sa sd : BitVec 5) (lit : Dword)
  | mul (g : Gate) (sb sa sd : BitVec 5)
  | mulLiteral (g : Gate) (sa sd : BitVec 5) (lit : Dword)
  | mulh (g : Gate) (sb sa sd : BitVec 5)
  | mulhLiteral (g : Gate) (sa sd : BitVec 5) (lit : Dword)
  | mulhu (g : Gate) (sb sa sd : BitVec 5)
  | mulhuLiteral (g : Gate) (sa sd : BitVec 5) (lit : Dword)
  | divs (g : Gate) (sb sa sd : BitVec 5)
  | divsLiteral (g : Gate) (sa sd : BitVec 5) (lit : Dword)
  | divu (g : Gate) (sb sa sd : BitVec 5)
  | divuLiteral (g : Gate) (sa sd : BitVec 5) (lit : Dword)
  | rems (g : Gate) (sb sa sd : BitVec 5)
  | remsLiteral (g : Gate) (sa sd : BitVec 5) (lit : Dword)
  | remu (g : Gate) (sb sa sd : BitVec 5)
  | remuLiteral (g : Gate) (sa sd : BitVec 5) (lit : Dword)
  | and (g : Gate) (sb sa sd : BitVec 5)
  | andLiteral (g : Gate) (sa sd : BitVec 5) (lit : Dword)
  | or (g : Gate) (sb sa sd : BitVec 5)
  | orLiteral (g : Gate) (sa sd : BitVec 5) (lit : Dword)
  | xor (g : Gate) (sb sa sd : BitVec 5)
  | xorLiteral (g : Gate) (sa sd : BitVec 5) (lit : Dword)
  | andn (g : Gate) (sb sa sd : BitVec 5)
  | andnLiteral (g : Gate) (sa sd : BitVec 5) (lit : Dword)
  | shl (g : Gate) (sb sa sd : BitVec 5)
  | shlLiteral (g : Gate) (sa sd : BitVec 5) (lit : Dword)
  | shr (g : Gate) (sb sa sd : BitVec 5)
  | shrLiteral (g : Gate) (sa sd : BitVec 5) (lit : Dword)
  | sar (g : Gate) (sb sa sd : BitVec 5)
  | sarLiteral (g : Gate) (sa sd : BitVec 5) (lit : Dword)
  | rotl (g : Gate) (sb sa sd : BitVec 5)
  | rotlLiteral (g : Gate) (sa sd : BitVec 5) (lit : Dword)
  | mins (g : Gate) (sb sa sd : BitVec 5)
  | minsLiteral (g : Gate) (sa sd : BitVec 5) (lit : Dword)
  | minu (g : Gate) (sb sa sd : BitVec 5)
  | minuLiteral (g : Gate) (sa sd : BitVec 5) (lit : Dword)
  | maxs (g : Gate) (sb sa sd : BitVec 5)
  | maxsLiteral (g : Gate) (sa sd : BitVec 5) (lit : Dword)
  | maxu (g : Gate) (sb sa sd : BitVec 5)
  | maxuLiteral (g : Gate) (sa sd : BitVec 5) (lit : Dword)
  | cmp (g : Gate) (fc : BitVec 3) (sb sa : BitVec 5) (fd : BitVec 3) (comb : BitVec 2) (cond : BitVec 4) (lit : Option Dword)
  | flop (g : Gate) (tt : BitVec 4) (fb fa fd : BitVec 3)
  | sel (g : Gate) (sb sa sd : BitVec 5) (fc : BitVec 3)
  | mov (g : Gate) (sa sd : BitVec 5)
  | movi (g : Gate) (imm : BitVec 11) (sd : BitVec 5)
  | moviLiteral (g : Gate) (sd : BitVec 5) (lit : Dword)
  | lea (g : Gate) (sb sa sd : BitVec 5) (disp : BitVec 32) (sh : BitVec 4) (lit : Option Dword)
  | clz (g : Gate) (sa sd : BitVec 5)
  | ctz (g : Gate) (sa sd : BitVec 5)
  | popc (g : Gate) (sa sd : BitVec 5)
  | bfx (g : Gate) (sa sd : BitVec 5) (sgn : Bool) (wid : BitVec 7) (pos : BitVec 6)
  | bfi (g : Gate) (sa sd : BitVec 5) (wid : BitVec 7) (pos : BitVec 6)
  | bcst (g : Gate) (sa : BitVec 5)
  | bcstLiteral (g : Gate) (lit : Dword)
  -- Q class (R253)
  | cxs (g : Gate) (f : QFields)
  | cxsi (g : Gate) (f : QFields)
  | cxv (g : Gate) (f : QFields)
  | cxvi (g : Gate) (f : QFields)
  -- V class (R234)
  | vadd (g : Gate) (f : VFields) (lit : Option Dword)
  | vsub (g : Gate) (f : VFields) (lit : Option Dword)
  | vmul (g : Gate) (f : VFields) (lit : Option Dword)
  | vfma (g : Gate) (f : VFields) (lit : Option Dword)
  | vmax (g : Gate) (f : VFields) (lit : Option Dword)
  | vmin (g : Gate) (f : VFields) (lit : Option Dword)
  | vabs (g : Gate) (f : VFields) (lit : Option Dword)
  | vneg (g : Gate) (f : VFields) (lit : Option Dword)
  | vrcp (g : Gate) (f : VFields) (lit : Option Dword)
  | vrsq (g : Gate) (f : VFields) (lit : Option Dword)
  | vexp (g : Gate) (f : VFields) (lit : Option Dword)
  | vlog (g : Gate) (f : VFields) (lit : Option Dword)
  | vtanh (g : Gate) (f : VFields) (lit : Option Dword)
  | viadd (g : Gate) (f : VFields) (lit : Option Dword)
  | visub (g : Gate) (f : VFields) (lit : Option Dword)
  | vimul (g : Gate) (f : VFields) (lit : Option Dword)
  | vimad (g : Gate) (f : VFields) (lit : Option Dword)
  | vimin (g : Gate) (f : VFields) (lit : Option Dword)
  | vimax (g : Gate) (f : VFields) (lit : Option Dword)
  | vand (g : Gate) (f : VFields) (lit : Option Dword)
  | vor (g : Gate) (f : VFields) (lit : Option Dword)
  | vxor (g : Gate) (f : VFields) (lit : Option Dword)
  | vshl (g : Gate) (f : VFields) (lit : Option Dword)
  | vshr (g : Gate) (f : VFields) (lit : Option Dword)
  | vsar (g : Gate) (f : VFields) (lit : Option Dword)
  | vcmp (g : Gate) (f : VFields) (lit : Option Dword)
  | vsel (g : Gate) (f : VFields) (lit : Option Dword)
  | vmov (g : Gate) (f : VFields) (lit : Option Dword)
  | vcvt (g : Gate) (f : VFields) (lit : Option Dword)
  | vpack (g : Gate) (f : VFields) (lit : Option Dword)
  | vunpk (g : Gate) (f : VFields) (lit : Option Dword)
  | vreds (g : Gate) (f : VFields) (lit : Option Dword)
  | vscan (g : Gate) (f : VFields) (lit : Option Dword)
  | vperm (g : Gate) (f : VFields) (lit : Option Dword)
  | vlane (g : Gate) (f : VFields) (lit : Option Dword)
  | vqcnt (g : Gate) (f : VFields) (lit : Option Dword)
  | vcmps (g : Gate) (f : VFields) (lit : Option Dword)
  | vqop (g : Gate) (f : VFields) (lit : Option Dword)
  -- T class (R273)
  | mma (g : Gate) (ad : BitVec 2) (oa ob : BitVec 5) (zs : BitVec 4) (za : Bool)
  | mmsp (g : Gate) (ad : BitVec 2) (oa ob : BitVec 5) (zs : BitVec 4) (za : Bool) (om : BitVec 5)
  | kvmm (g : Gate) (ad : BitVec 2) (oq : BitVec 5) (vk : BitVec 6) (zs : BitVec 4) (za : Bool)
  | kvmv (g : Gate) (ad : BitVec 2) (oq : BitVec 5) (vk : BitVec 6) (zs : BitVec 4) (za : Bool) (dsel : BitVec 2)
  | gmma (g : Gate) (ad : BitVec 2) (oa : BitVec 5) (vi : BitVec 6) (zs : BitVec 4) (za : Bool) (sT sC : BitVec 5)
  | oclm (g : Gate) (n : BitVec 3) (o : BitVec 5)
  | orel (g : Gate) (n : BitVec 3) (o : BitVec 5)
  | old (g : Gate) (o sA sS : BitVec 5) (tr : Bool) (fmt : BitVec 4) (pitch : BitVec 16)
  | otag (g : Gate) (sU : BitVec 5) (setf : Bool) (fmt : BitVec 4) (o : BitVec 5)
  | otagQ (g : Gate) (sU : BitVec 5) (pd : BitVec 3) (o : BitVec 5)
  | otagLiteral (g : Gate) (q setf : Bool) (fmt : BitVec 4) (o : BitVec 5) (lit : Dword)
  | azro (g : Gate) (a : BitVec 2)
  | aadd (g : Gate) (int : Bool) (zs : BitVec 4) (as_ ad : BitVec 2)
  | adrn (g : Gate) (f : DrainFields)
  | shp (g : Gate) (zd : BitVec 3) (vsrc : Bool) (va : BitVec 6) (sS : BitVec 5) (wm : BitVec 3) (lit : Option Dword)
  | dstq (g : Gate) (ok : Bool) (sel : BitVec 4) (an : BitVec 2) (pd : BitVec 3)
  -- K class (R298)
  | scl (g : Gate) (va : BitVec 6) (side : BitVec 2)
  | scli (g : Gate) (rx cx : BitVec 8) (side : BitVec 2) (lit : Option Dword)
  | sclz (g : Gate)
  -- M class (R299)
  | lds (g : Gate) (sgn : Bool) (sz : BitVec 2) (sA sD : BitVec 5)
  | ldsLiteral (g : Gate) (sgn : Bool) (sz : BitVec 2) (sA sD : BitVec 5) (lit : Dword)
  | sts (g : Gate) (sz : BitVec 2) (sA sS : BitVec 5)
  | stsLiteral (g : Gate) (sz : BitVec 2) (sA sS : BitVec 5) (lit : Dword)
  | lda (g : Gate) (f : StrongFields) (lit : Option Dword)
  | stl (g : Gate) (f : StrongFields) (lit : Option Dword)
  | stx (g : Gate) (f : StrongFields) (lit : Option Dword)
  | atom (g : Gate) (f : AtomFields) (lit : Option Dword)
  | atcas (g : Gate) (f : AtomFields) (lit : Option Dword)
  | vld (g : Gate) (f : MemFields) (lit : Option Dword)
  | vst (g : Gate) (f : MemFields) (lit : Option Dword)
  | vldp (g : Gate) (f : MemFields) (lit : Option Dword)
  | vstp (g : Gate) (f : MemFields) (lit : Option Dword)
  | vldg (g : Gate) (f : MemFields) (lit : Option Dword)
  | vstg (g : Gate) (f : MemFields) (lit : Option Dword)
  | vatom (g : Gate) (f : MemFields) (lit : Option Dword)
  | port (g : Gate) (gN : BitVec 2) (sL sH : BitVec 5) (boff : BitVec 32) (lit : Option Dword)
  | cpy (g : Gate) (sP sT : BitVec 5)
  | cpyl (g : Gate) (f : CpylFields)
  | cpyw (g : Gate) (f : CpywFields)
  | cpyk (g : Gate) (sT : BitVec 5) (vK : BitVec 6) (sD : BitVec 5) (nblk : BitVec 8) (comm : Bool)
  | fence (g : Gate) (scope : BitVec 3) (kind : BitVec 2)
  | pfx (g : Gate) (sA : BitVec 5) (disp : BitVec 32) (lines : BitVec 16) (lit : Option Dword)
  | xpf (g : Gate) (w : Bool) (sE sR : BitVec 5) (layer : BitVec 8)
  | cwb (g : Gate) (sA : BitVec 5)
  | cinv (g : Gate) (sA : BitVec 5)
  | pbinv (g : Gate) (sA : BitVec 5)
  | pgmap (g : Gate) (sV sD : BitVec 5) (sz zf : Bool) (perm : BitVec 3)
  | tinv (g : Gate) (kind : BitVec 2) (sA sT : BitVec 5)
  | btinv (g : Gate) (sK sT : BitVec 5) (nblk : BitVec 16) (all : Bool)
  | kvseq (g : Gate) (op : Bool) (sV sQ sD : BitVec 5)
  | kvseqLiteral (g : Gate) (op : Bool) (sQ sD : BitVec 5) (lit : Dword)
  -- X class (R257)
  | xshf (g : Gate) (f : XFields)
  | xred (g : Gate) (f : XFields)
  | xbc (g : Gate) (f : XFields)
  | xvot (g : Gate) (vd : BitVec 6) (sD : BitVec 5) (pn : Bool) (ps : BitVec 3)
  | xpick (g : Gate) (f : PickFields)
  | xsnd (g : Gate) (opnd : BitVec 6) (ch : BitVec 10)
  | xrcv (g : Gate) (opnd : BitVec 6) (ch : BitVec 10)
  | xrca (g : Gate) (opnd : BitVec 6) (ch : BitVec 10)
  | xchs (g : Gate) (sD : BitVec 5) (ch : BitVec 10)
  | chld (g : Gate) (sA : BitVec 5) (ch : BitVec 10)
  | kld (g : Gate) (psel : BitVec 2) (sA sD : BitVec 5)
  | kldLiteral (g : Gate) (psel : BitVec 2) (sD : BitVec 5) (lit : Dword)
  | kgo (g : Gate) (sR sP : BitVec 5)
  | kwt (g : Gate) (rel : Bool) (sP sD : BitVec 5)
  -- Kubor words (R328)
  | send (k : KHead) (d : KData)
  | recv (k : KHead) (d : KData)
  | rdc (k : KHead) (d : KData)
  | copy (k : KHead) (d : KData)
  | waitCnt (k : KHead) (cw : BitVec 3) (wv : BitVec 4) (imm : BitVec 32)
  | waitGrp (k : KHead) (wv wh : BitVec 4)
  | waitTs (k : KHead)
  | sigArv (k : KHead) (wn : BitVec 4)
  | sigJoin (k : KHead) (wd wn : BitVec 4)
  | sigLeave (k : KHead) (wn : BitVec 4)
  | sigNew (k : KHead) (wd wn wa : BitVec 4)
  | sigStl (k : KHead) (wn wa : BitVec 4) (imm : Dword)
  | kuborLoop (k : KHead) (f : KLoopFields)
  | brc (k : KHead) (wa wb : BitVec 4) (cond : BitVec 3) (off : BitVec 32)
  | kend (k : KHead)
  -- control-register writes with a row of their own (R222)
  | abort (x : Dword)
  | srseed (x : Dword)
  | fqnext (x : Dword)
  | kcurWrite (x : Dword)
  -- steps of contexts and asynchronous operations
  | asyncRoundEntry (cid : Nat)
  | asyncOpStop (op : Nat)
  | copyComplete (op : Nat)
  | oldLoadComplete (eng : Nat) (slot : BitVec 5)
  | loadDataReturn (cid : Nat) (n : Nat)
  | channelElementArrival (ch : BitVec 10) (eid : BitVec 4)
  | invalidationComplete (op : Nat)
  | translationWalk (core : Nat) (x10 x11 x12 x13 : Dword)
  | segmentFetch (cid : Nat) (w : Dword)
  -- steps of the scheduler
  | binTimer (die bin : Nat)
  | stealAge (die bin : Nat)
  | steal (die : Nat)
  | binLaunch (die bin gang ctx : Nat)
  | waitingItemFile (die : Nat)
  | itemReady (cid : Nat)
  | parkWake (cid : Nat)
  | cwthrExpiry (cid : Nat)
  | preempt (cid : Nat)
  | resume (cid gang ctx : Nat)
  | deferredPark (cid : Nat)
  | candidateAge (die n : Nat)
  | coresGroupResume (gid : Nat)
  | regionFree (region : Nat)
  | xpFillComplete (die buf : Nat)
  -- steps of the porches
  | readyToReceive (coll : Word) (peer : Nat) (tag : BitVec 8) (size : KSize) (dest : Option Nat)
  | rendezvousTimeout (slot : Nat)
  | peerAbort (coll : Word)
  | kuborDataComplete (coll : Word) (n : Nat) (x : KArrival)
  | timedIssue (slot : Nat)
  -- steps of the host
  | launch (pa : Dword)
  | launchComplete
  | retire (region : BitVec 12)
  | refresh (region : BitVec 12)
  | hold (region : BitVec 12)
  | release (region : BitVec 12)
  | rstctl (v : Dword)
  | registerWrite (cap : BitVec 16) (off : BitVec 26) (v : BarValue)
  | memoryBarRead (off : BitVec 40) (width : Nat)
  | memoryBarWrite (off : BitVec 40) (data : List Byte)
  | fwEnable (n : BitVec 4) (v : Dword)
  | fwDisable (n : BitVec 4) (v : Dword)
  | halt
  | run
  | step
  | stepall
  | debugEnableSet
  | debugEnableClear
  | dbgdata (v : Dword)
  | lwin (n : BitVec 10) (v : Dword)
  | xpctl (die : BitVec 2) (v : Dword)
  | stctl (v : Dword)
  -- steps of the stair cores and storage
  | promote (k : Nat)
  | demote (k : Nat)
  | replace (k : Nat)
  | refetch (k : Nat)
  | nvmeCompletion (req : Nat) (ok : Bool)
  | start
  | checkpointTransfer
  | restore
  -- steps of power, sparing, errors and boot
  | enterGangIdle (gang : Nat)
  | enterDieRetention (die : Nat)
  | enterPackageStandby
  | wake (u : PowerUnit)
  | currentGrant
  | ttctl (die : BitVec 2) (v : Dword)
  | tdom (v : Dword)
  | tsnap (v : Dword)
  | gret (v : Dword)
  | gangErrorRetire (gang : Nat)
  | hbmChannelSpare (stack channel : Nat)
  | laneFailure (port : Nat)
  | scrub
  | eccUncorrectable (v : EccVictim)
  | boot
  | bootimg (v : Dword)
  | attreq (v : Dword)
  | keyld (v : Dword)
  | linkMemoryArrival (op : LinkOp)
  | multiplyReadsDone (op : Nat)
  | flitReplay (port : Nat)
  | hbmSpareCopyDone (stack channel : Nat)
  deriving DecidableEq, Repr

end Sys2Proof
end

