-- ==== Sys2Proof/Machine/State.lean ====
section
/-!
DEFINITION. The state of the package as plain data, the reasons a step can stop, and the state after reset.

Every field names the rule of the spec that gives it; fields marked MODEL are the model's own bookkeeping.
Values at reset that the spec does not give are named in the assumption log (logs 3 to 6).
-/
namespace Sys2Proof.Machine

/-- Why the machine stops. Both reasons are states the spec's agents never reach; stopping is safe. -/
inductive Fault where
  /-- Raised by every word of a context's bundle when no resident context is in focus: there is no one to run it. Safe. -/
  | noContext
  /-- Raised by every Kubor word when the porch slot in focus runs no program. Safe. -/
  | noProgram
  deriving DecidableEq, Repr

/-- Why an instruction has no meaning. -/
inductive Refusal where
  /-- An instruction without a meaning in the model, by its mnemonic. Safe. -/
  | notModelled (mnemonic : String)
  deriving DecidableEq, Repr

/-- Memory: (physical address, byte) pairs in canonical form; an unlisted byte reads 0 (log 6). -/
abbrev Memory := List Host.Cell

/-- The canonical form of memory: strictly rising addresses, no zero byte listed. -/
def Memory.wf (m : Memory) : Bool := tableWf (fun _ => (0 : Byte)) m

/-! ## Contexts (R15, R39) -/

/-- A destination whose result may still be under way (R175, R177). Engine registers name the eid. -/
inductive Dest where
  | s (n : Nat) | f (n : Nat) | h (n : Nat) | cr (n : Nat)
  | v (e n : Nat) | p (e n : Nat) | q (e n : Nat) | z (e n : Nat) | acc (e n : Nat) | slot (e n : Nat)
  /-- Owner, format tag and user tag of a slot; drain status of an accumulator (R184). -/
  | tag (e n : Nat) | drain (e n : Nat)
  deriving DecidableEq, Repr

/-- A numbered-bound write in flight (R175): the units it writes, bit by bit, the value before the word, and the first cycle that
sees the result, in the engines and at the sequencer. -/
structure InFlight where
  dest   : Dest
  units  : Nat
  old    : Nat
  due    : Nat
  seqDue : Nat
  deriving DecidableEq, Repr

/-- A reconvergence stack entry (R42). `child` is MODEL: the landing context of a split entry. -/
structure StackEntry where
  paddr : Nat
  kind  : Nat
  land  : Nat
  pend  : Mask
  entry : Mask
  child : Nat
  deriving DecidableEq, Repr

/-- A rejoin mask (R44): the visible mask, the waiting set, the base depth, the continuation. -/
structure Rejoin where
  mask    : Mask
  waiting : Mask
  base    : Nat
  cont    : Dword
  /-- The first operation issued after JINIT (R113). -/
  fork    : Nat
  deriving DecidableEq, Repr

/-- A port parameter set and its level indices (R95, R96). -/
structure PortSet where
  raw : BitVec 256
  i0  : Nat
  i1  : Nat
  i2  : Nat
  i3  : Nat
  deriving DecidableEq, Repr

/-- A fault record of 32 bytes (R56). -/
structure FaultRec where
  addr   : Dword
  bundle : Dword
  cause  : Dword
  extra  : Dword
  deriving DecidableEq, Repr

/-- A round that waits for its boundary (R55): its records, first sequencer-side then by eid, and its engines. -/
structure Round where
  recs    : List FaultRec
  engines : Mask
  /-- The operation whose parts stopped. -/
  op      : Nat
  deriving DecidableEq, Repr

/-- The loop state (R206 to R208). -/
structure LoopState where
  start : Nat
  stop  : Nat
  count : Nat
  pass  : Nat
  depth : Nat
  exitF : Option (BitVec 3)
  descA : BitVec 26
  descB : BitVec 26
  /-- It was set in the handler, where alone it acts (R54, R207). -/
  sup   : Bool
  deriving DecidableEq, Repr

/-- The loop state of a pipelined-loop bin (R40). -/
structure PipeState where
  k        : Nat
  e        : Nat
  runMask  : Mask
  kdepth   : Nat
  inKernel : Bool
  deriving DecidableEq, Repr

/-- An item running in an engine (R29, R40, R203). -/
structure RunItem where
  addr     : Dword
  deadline : Nat
  trip     : Nat
  iters    : Nat
  crec     : Bool
  kind     : Nat
  /-- Its own region, which a fusion leaves as it is (R30, R32, R49). -/
  region   : Nat
  deriving DecidableEq, Repr

/-- An item whose engine has executed DONE and whose STATE waits for operations issued before (R215). -/
structure Finishing where
  eid  : Nat
  item : RunItem
  upto : Nat
  deriving DecidableEq, Repr

/-- The engine part of an IDEMB snapshot (R52). -/
structure EngSnap where
  p : BitVec 8
  q : Table LaneMask
  z : Table Dword
  slots : List Nat
  deriving DecidableEq, Repr

/-- The snapshot of IDEMB (R52, R216). -/
structure Snapshot where
  scalars : Table Dword
  flags   : BitVec 8
  handles : Table Word
  rejoins : Table Rejoin
  stack   : List StackEntry
  active  : Mask
  loop    : Option LoopState
  pc      : Nat
  engines : Table EngSnap
  deriving DecidableEq, Repr

/-- What a context that has issued a waiting word waits for. -/
inductive Wait where
  | none
  /-- REGRP has issued and waits for its partner, held at its own: the group, the partner, whether f1 is still REGRP's to write (no
  later word of its bundle has), and RGLIVE as REGRP has read it (R174, R211). -/
  | regrp (gid partner : Nat) (owes : Bool) (live : Dword)
  /-- DONE, ABORT or SYSRET left no engine active: the search of R41 waits for a landing or for operations; the next
  bundle's address. -/
  | search (next : Nat)
  deriving DecidableEq, Repr

/-- What a generation gives a member that waits on it: f1, and the two results of GVOTE and GRDC (R156 to R158). -/
structure Outcome where
  kept   : Bool
  first  : Dword
  second : Dword
  deriving DecidableEq, Repr

/-- The arrival that a held GBAR, GVOTE or GRDC has made, so that its bundle does not make it again (R59, R447): the bundle,
the group, the operation (16 a vote, 0 to 8 a contribution, 32 neither), the scalars it writes, the generation once the arrival
is registered, and what that generation gave. -/
structure Met where
  bundle : Nat
  gid    : Nat
  op     : Nat
  sD     : Nat
  sC     : Nat
  gen    : Option Nat
  got    : Option Outcome
  deriving DecidableEq, Repr

/-- A counted arrival not yet registered (R113, R150): `side` issued it, and a held bundle waits for it when `waits`. -/
structure CountedArrival where
  gid   : Nat
  side  : Nat
  leave : Bool
  op    : Nat
  value : Dword
  waits : Bool
  upto  : Nat
  /-- The sides that owe this arrival: those that stood when it was issued (R150). -/
  owed  : List Nat := []
  deriving DecidableEq, Repr

/-- A receive that waits for its element (R264, R265): the destination it writes, but for the units that later words have written
(`taken`, bit by bit: of 32 bits, in a slot of 4; R176), the address of a write port, and the cycle from which it holds issue. -/
structure Receive where
  ch    : Nat
  shape : Nat
  eid   : Nat
  opnd : BitVec 6
  add  : Bool
  dest : Option Dest
  addr : Nat
  due  : Nat
  taken : Nat
  /-- The shared window that a write port's address names, as the word found it (R121). -/
  window : Table (Nat × Nat) := []
  /-- The item of its engine has been aborted: the element is taken and discarded, and nothing holds for it (R265). -/
  gone : Bool := false
  /-- What an adding receive has read of its destination (R174, R264). -/
  base : Nat := 0
  /-- Its engine is lent to a landing since: the landing keeps it for the gang context, which holds for it (R45). -/
  lent : Bool := false
  deriving DecidableEq, Repr

/-- An element sent whose source words of the next three cycles may still change (R263): `last` is the element as its source gave
it after the last bundle seen. -/
structure Sent where
  ch   : Nat
  eid  : Nat
  opnd : BitVec 6
  addr : Nat
  upto : Nat
  last : Option Nat := none
  /-- Its number among the operations: the delivery is one (R111). -/
  op   : Nat := 0
  deriving DecidableEq, Repr

/-- Where a context stands. -/
inductive Place where
  /-- On package gang g in context k (R22). -/
  | gang (g k : Nat)
  /-- On landing context LAND of a die (R42), driving the engines of gang g's context k. -/
  | landing (die land g k : Nat)
  /-- Parked with its continuation in a save area, on the die where it parked (R50, R388). -/
  | parked (die : Nat) (area : Dword)
  deriving DecidableEq, Repr

/-- Why a context parks (R50). -/
inductive ParkReason where
  | running | parkWord | expertMiss | copyWait | preempted | cores
  deriving DecidableEq, Repr

/-- A context: the sequencer-held state (R15, R39, R222). -/
structure Ctx where
  scalars   : Table Dword := []
  flags     : BitVec 8 := 1
  handles   : Table Word := []
  rejoins   : Table Rejoin := []
  ports     : Table PortSet := []
  stack     : List StackEntry := []
  faults    : List FaultRec := []
  rounds    : List Round := []
  active    : Mask := 0
  live      : Mask := 0
  lent      : Mask := 0
  pc        : Nat := 0
  sup       : Bool := false
  lrj       : Bool := false
  epc       : Dword := 0
  emask     : Mask := 0
  ecause    : Byte := 0
  escr      : Dword := 0
  rglive    : Dword := 0
  cwthr     : Word := 0
  hvec      : Dword := 0
  trapDepth : Nat := 0
  window    : Word := 0
  loop      : Option LoopState := none
  pipe      : Option PipeState := none
  idem      : Option Snapshot := none
  items     : Table RunItem := []
  finishing : List Finishing := []
  key       : Word := 0
  region    : Nat := 0
  place     : Place := .parked 0 0
  parent    : Nat := 0
  kind      : Nat := 0
  started   : Nat := 0
  nextIssue : Nat := 0
  /-- MODEL: consecutive cycles in which it was ready and another bundle issued in its place, and the last of them (R60). -/
  passed    : Nat := 0
  passedAt  : Nat := 0
  /-- MODEL: the last cycle that it has let pass for a bundle it met at an engine (R47). -/
  yieldedAt : Option Nat := none
  /-- MODEL: its bundle holds at REGRP alone: the group and the partner (R211). -/
  heldRegrp : Option (Nat × Nat) := none
  /-- The REGRP on which it holds, or held, fails: the partner has parked or ended, or it is being pre-empted itself (R48, R211). -/
  regrpFails : Bool := false
  lastTrans : Nat := 0
  tokens    : Word := 0
  pending   : List Dest := []
  /-- Pending destinations whose access goes through a link window, and the window (R412). -/
  linked    : List (Dest × Nat) := []
  inflight  : List InFlight := []
  wait      : Wait := .none
  met       : Option Met := none
  /-- The arrival of the bundle that a handler has interrupted (R55). -/
  outerMet  : Option Met := none
  counted   : List CountedArrival := []
  recvs     : List Receive := []
  sends     : List Sent := []
  spawnOk   : Option Dword := none
  reason    : ParkReason := .running
  wakeAt    : Nat := 0
  readyAt   : Option Nat := none
  aged      : Bool := false
  preempt   : Bool := false
  /-- The candidate for which it is being pre-empted: a bin or a context, and its number (R389). -/
  victimOf  : Option (Bool × Nat) := none
  holdPark  : Bool := false
  /-- The token scalar on which the next bundle holds (R50). -/
  heldOn    : Option Nat := none
  /-- The group on whose word the next bundle holds (R163). -/
  heldGid   : Option Nat := none
  /-- MODEL: a landing context whose last issue met a ready bundle of the gang's other context at an engine (R47). -/
  shared    : Bool := false
  /-- The weight entry that an XPF.W waits for (R426). -/
  missPin   : Option Nat := none
  pins      : List Nat := []
  expired   : Bool := false
  dbgStop   : Bool := false
  /-- One bundle may issue although the context is stopped (R61). -/
  dbgStep   : Bool := false
  /-- That bundle is one of STEPALL, which takes its turn among those that STEPALL steps. -/
  dbgTurn   : Bool := false
  dbgBrk    : Bool := false
  dbgEn     : Bool := false
  deriving DecidableEq, Repr

/-! ## Engines (R15) -/

/-- The registers of one engine that belong to one context. -/
structure EngCtx where
  acc    : Table Acc := []
  v      : Table Vec := []
  p      : BitVec 8 := 1
  q      : Table LaneMask := []
  z      : Table Dword := []
  kcur   : Dword := 0
  drain  : Table Byte := []
  drainT : Table Nat := []
  fstat  : BitVec 5 := 0
  deriving DecidableEq, Repr

/-- An operand slot (R67, R126). Owner 0 is FREE, otherwise the owning context's id. -/
structure OSlot where
  data    : Slot := 0
  scale   : BitVec 4096 := 0
  owner   : Nat := 0
  loading : Bool := false
  fmt     : BitVec 4 := 1
  tag     : BitVec 16 := 0
  deriving DecidableEq, Repr

/-- The edge scale latches left by a K word issued in a cycle (R138). -/
structure Latches where
  cycle : Nat
  row   : BitVec 512
  col   : BitVec 512
  deriving DecidableEq, Repr

/-- A multiply word whose K groups the array has not all taken (R137, R177, R284): group `next` enters in cycle `at_`.
`reads` are the slots it keeps busy (R279), `a` to `m` their contents as the word reads them (R174, R175). Where a later word has overwritten units of the accumulator, `lost`
has them and goes on in their place: nothing but flags comes of them (R142, R176). -/
structure MulTask where
  ctx    : Nat
  sparse : Bool
  ad     : Nat
  reads  : List Nat
  a      : OSlot
  b      : OSlot
  b1     : OSlot
  m      : OSlot
  rows   : Nat
  cols   : Nat
  klen   : Nat
  group  : Nat
  groups : Nat
  next   : Nat
  at_    : Nat
  lost   : Option (Nat × Acc) := none
  deriving DecidableEq, Repr

/-- An engine: memories and registers (R15). -/
structure Engine where
  spad  : Table Byte := []
  lost  : Nat := 0
  slots : Table OSlot := []
  latch : List Latches := []
  gen   : Word := 1
  /-- Seeds that have not taken effect for every reader, oldest first: the cycle from which each has (R134, R221). -/
  seed  : List (Nat × Word) := []
  c0    : EngCtx := {}
  c1    : EngCtx := {}
  tasks : List MulTask := []
  busy  : Nat := 0
  deriving DecidableEq, Repr

/-! ## Sequencers and dies -/

/-- An expanded segment in a loop-buffer half (R24, R343), fetched under the page table of a region: a slot address names
different code in another region. -/
structure Segment where
  region : Nat
  base  : Nat
  bytes : List Byte
  next  : Nat
  deriving DecidableEq, Repr

/-- A sequencer: token holder, loop buffer, the first cycle in which it can issue again (R22 to R26). -/
structure Seq where
  token  : Nat := 0
  lower  : Option Segment := none
  upper  : Option Segment := none
  ready  : Nat := 0
  deriving DecidableEq, Repr

/-- A work item as a bin holds it (R29, R36). -/
structure BinItem where
  addr   : Dword
  filed  : Nat
  /-- NOSTEAL (R30). -/
  fixed  : Bool
  /-- It has waited longer than the steal age (R38). -/
  old    : Bool
  deriving DecidableEq, Repr

/-- A bin (R36, R37). -/
structure Bin where
  kernel  : Dword
  key     : Word
  region  : Nat
  kind    : Nat
  offs    : Dword
  items   : List BinItem
  opened  : Nat
  /-- The place of its last filing in the order of the die's filings. -/
  last    : Nat
  due     : Bool
  forced  : Bool
  aged    : Bool
  pin     : Option Nat
  expert  : Option Nat
  deriving DecidableEq, Repr

/-- An item that waits for a bin (R36), with the context whose SPAWN holds for it (0 for a launch). -/
structure WaitItem where
  addr : Dword
  cid  : Nat
  region : Nat
  deriving DecidableEq, Repr

/-- A cached flat translation (R401): region, virtual page, its size in bits, physical page, permissions X W R. -/
structure TlbEntry where
  region : Nat
  kind   : Nat
  va     : Nat
  bits   : Nat
  pa     : Nat
  perm   : BitVec 3
  deriving DecidableEq, Repr

/-- A cached KV leaf (R84, R401). -/
structure KvtbEntry where
  seq    : Nat
  layer  : Nat
  plane  : Nat
  block  : Nat
  frame  : Nat
  leaf   : Nat
  deriving DecidableEq, Repr

/-- An expert-pool buffer (R426): 0 FREE, 1 FILLING, 2 RESIDENT. -/
structure PoolBuf where
  state  : Nat := 0
  src    : Nat := 0
  entry  : Nat := 0
  size   : Nat := 0
  pins   : Nat := 0
  order  : Nat := 0
  region : Nat := 0
  deriving DecidableEq, Repr

/-- A cached parameter block (R92). -/
structure PbEntry where
  addr  : Nat
  block : BitVec 512
  deriving DecidableEq, Repr

/-- A stair core (R17, R399): the 64-bit registers x1 to x31 of an RV64IMAC core, by number, and its pc. -/
structure CoreRegs where
  x  : Table Dword := []
  pc : Nat := 0
  deriving DecidableEq, Repr

/-- What a walk store holds (R17, R398): nothing before boot, then the routines of the image that boot has accepted, from the boot
flash or as HBM held it. -/
inductive WalkStore where
  | blank | flash | image (m : Memory)
  deriving DecidableEq, Repr

/-- Byte i of a walk store: the routines of an image are what the image makes them (log 8). -/
def WalkStore.byte (w : WalkStore) (i : Nat) : Byte :=
  match w with
  | .blank => 0
  | .flash => Config.walkByte none i
  | .image m => Config.walkByte (some m) i

/-- A 128-byte line that the pantry of its die holds (R17, R442): its tag, the key slot that filled it, the XTS keys that the slot held then, and
whether it is dirty. -/
structure PantryLine where
  tag   : Nat
  key   : BitVec 512
  dirty : Bool
  deriving DecidableEq, Repr

/-- A compute die. -/
structure Die where
  clkBase   : Nat := 0
  clkSince  : Nat := 0
  clkMhz    : Nat := 1300
  pbCache   : List PbEntry := []
  tlb       : List TlbEntry := []
  kvtb      : List KvtbEntry := []
  bins      : Table Bin := []
  waiting   : List WaitItem := []
  lastSteal : Option Nat := none
  pool      : Table PoolBuf := []
  unpin     : Nat := 0
  cores     : Table CoreRegs := []
  /-- The walk store (R17, R398): 64 KiB that only routines of the stair cores read. -/
  walk      : WalkStore := .blank
  /-- The slot of each logical gang number that no longer has the slot of its own number (R12). -/
  slots     : Table Nat := []
  /-- The slots of retired gangs, and the package gangs whose retirement is under way (R436). -/
  retired   : List Nat := []
  retiring  : List Nat := []
  power     : Nat := 0
  gangIdle  : List Nat := []
  grants    : Table Nat := []
  deriving DecidableEq, Repr

/-! ## Asynchronous operations (R88 to R94, R111, R290) -/

/-- What an asynchronous operation does; operands are those read at issue. -/
inductive OpKind where
  /-- CPY with its parameter block (R90, R91). -/
  | cpy (block : BitVec 512)
  /-- CPYL: base, local base, element size, direction, and per engine offsets and lanes (R311). -/
  | cpyl (base : Dword) (lbase : Nat) (size : Nat) (toFlat : Bool) (offs : Table Vec) (lanes : Table LaneMask)
  /-- CPYW: sA, sB and the fields (R312). -/
  | cpyw (a b : Dword) (f : CpywFields)
  /-- CPYK: per engine KV address, destination, blocks (R313). -/
  | cpyk (kv : Table Dword) (dst : Nat) (nblk : Nat)
  /-- KVMM: accumulator, first slot, per engine the slots as read at issue, KV address, head, shape (R287). -/
  | kvmm (ad oq : Nat) (q : Table (List OSlot)) (kv : Table Dword) (head rows cols : Table Nat)
  /-- KVMV: as KVMM, with the K length and the first column (R288). -/
  | kvmv (ad oq : Nat) (q : Table (List OSlot)) (kv : Table Dword) (head rows cols klen : Table Nat) (d0 : Nat)
  /-- GMMA: accumulator, slot and its contents, tensor id, column base, c2, per engine indices and shape (R289). -/
  | gmma (ad oa : Nat) (q : Table (List OSlot)) (tid : Nat) (c0b c2 : Int) (idx : Table (List Vec)) (rows cols klen : Table Nat)
  /-- TINV: kind and operand (R319). -/
  | tinv (kind : Nat) (a : Dword)
  /-- BTINV: KV address, blocks, ALL (R320). -/
  | btinv (k : Dword) (nblk : Nat) (all : Bool)
  deriving DecidableEq, Repr

/-- A translation that an operation has made and not passed (R84, R319, R410). -/
inductive Trans where
  /-- A KV block, its leaf entry, whose PIN counts it, and its frame while no invalidation has covered it. -/
  | block (seq layer plane block leaf : Nat) (frame : Option Nat)
  /-- A tile of a tensor, and its frame. -/
  | tile (id tile frame : Nat)
  /-- A flat page: an address in it and its size in bits. -/
  | page (va bits : Nat)
  deriving DecidableEq, Repr

/-- The state of one engine's part of an operation (R89, R290). -/
inductive PartState where
  | running | stopped | cancelled | finished
  deriving DecidableEq, Repr

/-- One engine's part of an operation; eid 16 is the sequencer. `pos` counts units completed; `start` is the next KV
position, or the units of a copy already written. -/
structure Part where
  eid   : Nat
  state : PartState
  pos   : Nat
  start : Nat
  /-- What a copy has read and not written (R91). -/
  held  : List (List Byte) := []
  /-- The units beyond `start` that line operations of a scatter have written (R93). -/
  wrote : List Nat := []
  /-- The round of a stopped part has entered the handler (R291). -/
  told  : Bool := false
  /-- A continuation that KCUR moved to a position that is no multiple of 16 (R291). -/
  bad   : Bool := false
  /-- It has reached a fault and waits, without a record, for the KCUR of its engine (R290). -/
  barred : Bool := false
  /-- KCUR of its engine holds its cursor: it has stopped there, and its continuation has yet to end (R290, R366). -/
  cursor : Bool := false
  /-- The cycle from which its groups enter the array, one per cycle (R292). -/
  at_   : Nat := 0
  /-- When it took its place for the array (R292). -/
  turn  : Nat := 0
  /-- The accumulator as the word has read it inside a bound, and the units to which nothing has been added yet (R175). -/
  base  : Option (Nat × Acc) := none
  deriving DecidableEq, Repr

/-- An asynchronous operation (R111). -/
structure Op where
  /-- The gang context that owns it (R45). -/
  cid    : Nat
  /-- The context whose scalar its token is. -/
  who    : Nat
  region : Nat
  gang   : Nat
  /-- The gang whose arrays take its groups: it stays while its context is parked (R50, R138). -/
  seat   : Nat
  ctxNo  : Nat
  token  : Nat
  bundle : Dword
  comm   : Bool
  issued : Nat
  kind   : OpKind
  parts  : List Part
  /-- What a stopped operation has translated and not passed; a copy keeps its KV blocks until it completes (R84). -/
  pins   : List Trans := []
  /-- The shared window as its issue found it: for each position the context and its gang (R121). -/
  window : Table (Nat × Nat) := []
  deriving DecidableEq, Repr

/-! ## The hall -/

/-- A member of a group (R148, R149): a context or a porch program. -/
inductive Who where
  | ctx (cid : Nat)
  /-- The program in a porch slot under one incarnation (R269). -/
  | porch (slot inc : Nat)
  deriving DecidableEq, Repr

/-- A member record (R154, R156, R161). `sides` lists the contexts of a split member that have issued the arrival
that the others still owe (R150). `seat` is the gang on which a context ended, whose window slot stays valid until its leave or
removal takes effect (R160). -/
structure Member where
  who     : Who
  pos     : Nat
  since   : Nat
  arrGen  : Nat
  last    : Option Nat
  lastLost : Bool
  leaveGen : Option Nat
  removed : Bool
  sides   : List Nat
  seat    : Option Nat := none
  /-- The contexts that owe the arrival that `sides` have issued. -/
  owed    : List Nat := []
  deriving DecidableEq, Repr

/-- A vote or a contribution of one generation (R157, R158). `op` 16 is a vote. -/
structure Contribution where
  gen   : Nat
  pos   : Nat
  op    : Nat
  value : Dword
  deriving DecidableEq, Repr

/-- The states of a group entry (R164). -/
inductive GroupState where
  | free | live | parking | parked | resuming
  deriving DecidableEq, Repr

/-- A group-table entry (R147). -/
structure Group where
  state    : GroupState := .free
  name     : Word := 0
  region   : Nat := 0
  cap      : Nat := 0
  win      : Bool := false
  cores    : Bool := false
  gen      : Nat := 0
  inc      : Nat := 1
  lost     : Bool := false
  lostNow  : Bool := false
  members  : List Member := []
  contribs : List Contribution := []
  deriving DecidableEq, Repr

/-- A channel endpoint (R322, R324): its place while unbound, then the context it names. -/
structure Endpoint where
  gang  : Nat
  ctx   : Nat
  bound : Nat
  ended : Bool
  deriving DecidableEq, Repr

/-- A loaded channel-table entry (R262, R322). -/
structure Channel where
  record : List Dword
  region : Nat
  depth  : Nat
  shape  : Nat
  snd    : Endpoint
  rcv    : Endpoint
  streams : Table (List Acc)
  deriving DecidableEq, Repr

/-- An outstanding Kubor data word (R333). Packages are named by their ids. -/
structure KOp where
  /-- Its number among the data words since KGO (R448). -/
  n     : Nat
  word  : Instr
  addrA : Nat
  addrB : Nat
  /-- The package and tag it receives from. -/
  src   : Option (Nat × BitVec 8)
  /-- The package and tag it sends to. -/
  dst   : Option (Nat × BitVec 8)
  /-- A ready-to-receive message has met its send (R332). -/
  met   : Bool
  /-- The receiving word of the same program that its send has met. -/
  into  : Option Nat
  /-- What a sending word of the same program has sent to it, and that word's number. -/
  got   : Option (Nat × List Byte)
  /-- It has sent to a word of its own program: 1 while that word runs, 2 when it has completed. -/
  stage : Nat
  since : Nat
  /-- The send of another package that its ready-to-receive message met has begun to arrive. -/
  came  : Bool := false
  /-- The destination that the message it met names. -/
  dest  : Option Nat := none
  deriving DecidableEq, Repr

/-- A loop of a Kubor program (R336). -/
structure KLoop where
  start : Nat
  len   : Nat
  count : Nat
  pass  : Nat
  f     : KLoopFields
  deriving DecidableEq, Repr

/-- A ready-to-receive message that has met no send (R332); `own` is the receiving word when it is this program's. -/
structure Rtr where
  peer : Nat
  tag  : BitVec 8
  n    : Nat
  fin  : BitVec 4
  own  : Option Nat
  /-- The address it names; none for the combining path. -/
  dest : Option Nat
  deriving DecidableEq, Repr

/-- A porch slot (R269, R325 to R341). -/
structure Porch where
  loaded  : Bool := false
  running : Bool := false
  inc     : Nat := 1
  /-- The region of the context that loaded it (R269), and of the one that started it (R329). -/
  home    : Nat := 0
  region  : Nat := 0
  coll    : Word := 0
  image   : List (BitVec 128) := []
  routes  : List Dword := []
  w       : Table Dword := []
  c       : Table Dword := []
  flags   : BitVec 5 := 0
  loops   : List KLoop := []
  pc      : Nat := 0
  late    : Bool := false
  block   : Dword := 0
  code    : Nat := 0
  wpc     : Nat := 0
  ops     : List KOp := []
  issued  : Nat := 0
  rtrs    : List Rtr := []
  /-- When the program came to the word at `pc` (R337). -/
  reached : Nat := 0
  deriving DecidableEq, Repr

/-! ## Regions (R379 to R382) -/

/-- A live region with its effective values (R379 to R381). -/
structure Region where
  parent  : Nat
  root    : Bool
  depth   : Nat
  cb      : Nat
  prio    : Nat
  domain  : Nat
  keyslot : Nat
  pol     : Bool
  gangs   : Nat
  amps    : Nat
  mem     : Nat
  timer   : Nat
  steal   : Nat
  cwthr   : Word
  estart  : Nat
  esize   : Nat
  hvec    : Dword
  ptroot  : Nat
  tbase   : Dword
  tcount  : Nat
  pool    : Dword
  sbase   : Dword
  sareas  : Nat
  sowner  : Nat
  ssize   : Nat
  used    : List Dword
  gangsHeld : Nat
  pages   : Nat
  retired : Bool
  held    : Bool
  /-- OVR as the region was registered; a ROOT block counts with every bit (R381). -/
  ovr     : Nat := 0x7FFF
  deriving DecidableEq, Repr

/-! ## Host, cellar, fleet -/

/-- An access the package makes outside itself, in order (R73, log 7). -/
inductive Outgoing where
  | write (pa : Nat) (data : List Byte)
  | atomic (pa : Nat) (dw : Bool) (op : Nat) (v : Dword)
  | cas (pa : Nat) (dw : Bool) (cmp v : Dword)
  | interrupt (vector : Nat)
  | barData (data : List Byte)
  /-- A read of the memory BAR ends in Completer Abort (R435). -/
  | completerAbort
  /-- A ready-to-receive message to a package: COLL, TAG, N, FIN and the destination: an address, or the porch's combining path. -/
  | rtr (coll : Word) (peer : Nat) (tag : BitVec 8) (n : Nat) (fin : BitVec 4) (dest : Option Nat)
  /-- What a send writes to a package for the ready-to-receive message that it met. -/
  | send (coll : Word) (peer : Nat) (tag : BitVec 8) (dest : Option Nat) (n : Nat) (fin : BitVec 4) (data : List Byte)
  /-- An abort for the program of a COLL on a package. -/
  | abort (coll : Word) (peer : Nat)
  | linkReply (data : List Byte)
  deriving DecidableEq, Repr

/-- A launch under way (R384): the items not yet offered to a bin, each with the region of the block that names it, and how many
items it files in all. -/
structure LaunchWork where
  items : List (Nat × Dword)
  count : Nat
  deriving DecidableEq, Repr

/-- A tier request in service (R420, R421): phase 1 waits to start, 2 reads or writes the slot, 3 writes the mirror. -/
structure TierReq where
  /-- Ring entry, as a physical address; none for the demotion of a victim (R422). -/
  entry  : Option Nat
  op     : Nat
  /-- The block: its sequence, its leaf entry, the card's REGION and the bytes of the block. -/
  seq    : Nat
  leaf   : Nat
  region : Nat
  size   : Nat
  mir    : Bool
  slot   : Nat
  mirror : Option Nat
  frame  : Nat
  phase  : Nat
  tries  : Nat
  /-- Two full turns have found no victim, and no pin has dropped since (R422). -/
  barren : Bool
  deriving DecidableEq, Repr

/-- What the checkpoint saves of the hall (R445), in the 1,024 slots after those of HBM. -/
structure Image where
  groups   : Table Group
  channels : Table Channel
  regions  : Table Region
  ctxs     : Table Ctx
  ops      : Table Op
  nextCid  : Nat
  nextOp   : Nat
  deriving DecidableEq, Repr

/-- A queue pair of 256 entries on a controller: its die, or none for the checkpoint's (R418). -/
structure QueuePair where
  controller : Nat
  die        : Option Nat
  deriving DecidableEq, Repr

/-- The cellar (R417 to R424, R444, R445). -/
structure Cellar where
  /-- The controllers in use, the namespace on each, the queue pairs, and the smallest of those namespaces in LBAs, as STCTL set them up (R418). -/
  ctrls  : List Nat := []
  spaces : List Nat := []
  queues : List QueuePair := []
  lbas   : Nat := 0
  out    : List Nat := []
  fails  : Table Nat := []
  ready  : Bool := false
  reqs   : Table TierReq := []
  /-- Requests taken since TRQ was written (R420). -/
  next   : Nat := 0
  data   : Table Byte := []
  /-- The key of each 16-byte block stored (R417): a block of a controller's namespace, as `data` numbers its bytes. -/
  keys   : Table (BitVec 512) := []
  /-- A launch has run since reset (R445). -/
  launched : Bool := false
  ckPhase : Nat := 0
  ckCode  : Nat := 0
  ckSlots : Nat := 0
  image   : Option Image := none
  /-- How many slots checkpoints have written, from slot 0 up: every block of theirs is stored (R445). -/
  ckStored : Nat := 0
  deriving DecidableEq, Repr

/-- A link port (R436). -/
structure LinkPort where
  spared : Bool := false
  down   : Bool := false
  deriving DecidableEq, Repr

/-- Power, sparing, errors, keys (R429 to R443). -/
structure Fleet where
  standby  : Bool := false
  lastBar  : Nat := 0
  links    : Table LinkPort := []
  hbmSpare : Table Nat := []
  copying  : Table Nat := []
  keys     : Table (BitVec 512) := []
  verified : Bool := false
  /-- The SHA-384 measurement of the accepted image (R440). -/
  measured : BitVec 384 := 0
  grant    : Nat := 0
  /-- Link windows and pools whose EN the host has cleared while they were in use (R412). -/
  closingWindows : List Nat := []
  closingPools   : List Nat := []
  /-- HBM words of 32 bytes that stay uncorrectable, by their addresses (R434, R435). -/
  badWords : List Nat := []
  /-- MODEL: who has read such a word in the step under way, and where: the error ends its work at the end of the step. -/
  met      : List (EccVictim × Nat) := []
  deriving DecidableEq, Repr

/-- How the word or bundle that is being issued stands (MODEL, R174, R177). -/
inductive IssueStatus where
  /-- It acts. -/
  | ok
  /-- It holds at issue; nothing of it has taken effect. -/
  | held
  /-- It has raised a round and entered the handler, or ended its context by a double fault. -/
  | trapped
  deriving DecidableEq, Repr

/-- What a bundle reads: its context and engines before it issued (MODEL, R174). -/
structure Pre where
  ctx     : Ctx
  engines : Table Engine
  deriving DecidableEq, Repr

/-- The bundle being issued (MODEL): B and N of R199, the address of the word, broadcast value, the port sets already stepped, and
the rest of R174's bookkeeping. -/
structure Issue where
  bundle : Nat := 0
  next   : Nat := 0
  word   : Nat := 0
  bc     : Dword := 0
  pops   : Table PortSet := []
  pre    : Option Pre := none
  status : IssueStatus := .ok
  recs   : List FaultRec := []
  park   : Bool := false
  /-- The token scalar on which the word holds. -/
  heldOn : Option Nat := none
  /-- The group on whose word it holds. -/
  heldGid : Option Nat := none
  /-- The last word of the bundle that has written f1 (R174). -/
  f1At   : Option Nat := none
  /-- The ports that a PORT of this bundle has loaded: pops leave what it loaded (R309). -/
  ports  : List Nat := []
  /-- The shared window that an operation found at its issue, while the operation runs (R121). -/
  window : Option (Table (Nat × Nat)) := none
  /-- What that operation keeps translated (R410). -/
  pins   : List Trans := []
  deriving DecidableEq, Repr

/-- A turn that the plan gives to an agent (MODEL, log 1). -/
inductive Turn where
  /-- A step of the host, the scheduler, a stair core, storage, a link or the operator, or the completion of an operation. -/
  | event (i : Instr)
  /-- A context issues its next bundle. -/
  | issue (cid : Nat)
  /-- A porch slot issues its next word. -/
  | porch (slot : Nat)
  /-- Time passes, to the next cycle of a die. -/
  | tick
  deriving DecidableEq, Repr

/-- The package. `plan` says which agents act next, in order; with an empty plan the step follows the default of log 1. -/
structure State where
  now      : Nat
  free     : Nat
  plan     : List Turn
  focus    : Nat
  porchFocus : Nat
  /-- Which of the three kinds of agents goes first in the default order (MODEL, log 1). -/
  order    : Nat
  issue    : Issue
  nextCid  : Nat
  nextOp   : Nat
  ctxs     : Table Ctx
  engines  : Table Engine
  seqs     : Table Seq
  dies     : Table Die
  mem      : Memory
  /-- The keys under which each 16-byte block of `mem` is written (R442). -/
  blockKeys : Table (BitVec 512)
  pantry   : Table PantryLine
  outbox   : List Outgoing
  ops      : Table Op
  groups   : Table Group
  channels : Table Channel
  porches  : Table Porch
  regions  : Table Region
  bar      : Table Dword
  launching : Option LaunchWork
  cellar   : Cellar
  fleet    : Fleet
  deriving DecidableEq, Repr

/-- The package right after reset: no context is resident, no region is live, memory lists nothing (R12, R164, R376). -/
def State.reset : State where
  now := 0
  free := 0
  plan := []
  focus := 0
  porchFocus := 0
  order := 0
  issue := {}
  nextCid := 1
  nextOp := 1
  ctxs := []
  engines := []
  seqs := []
  dies := []
  mem := []
  blockKeys := []
  pantry := []
  outbox := []
  ops := []
  groups := []
  channels := []
  porches := []
  regions := []
  bar := []
  launching := none
  cellar := {}
  fleet := {}

end Sys2Proof.Machine
end

