-- ==== Sys2Proof/Machine/Mem.lean ====
section
/-!
DEFINITION. Storage outside the engines: physical memory with its keys, format windows, flat translation, tensor space
and KV space (R70 to R87, R402 to R407, R442).
-/
namespace Sys2Proof.Machine

/-! ## BAR0 registers -/

/-- Key of the BAR register at an offset of a capability's block; capability 0 is the global block (R375). -/
def barKey (cap off : Nat) : Nat := cap * 2 ^ 26 + off

/-- Reset values of the BAR registers (R86, R376, R396, R411, R417, R429, R437, R439); 0 where the tables say 0x0. -/
def barReset (key : Nat) : Dword :=
  if key = barKey 0 0x40 then 0x800
  else if key = barKey 3 0x08 then 0x2000
  else if key = barKey 3 0x10 then 0x1000
  else if key = barKey 5 0x10 then 2200
  else if key = barKey 7 0x90 then 0xFF
  else 0

/-- The stored value of a BAR register. -/
def State.barReg (s : State) (cap off : Nat) : Dword := tableGet s.bar (barKey cap off) (barReset (barKey cap off))

/-- Store a BAR register. -/
def State.setBar (s : State) (cap off : Nat) (v : Dword) : State :=
  { s with bar := tableSet s.bar (barKey cap off) v (barReset (barKey cap off)) }

/-! ## Counters (R443) -/

/-- Offset of counter i of the package, or of a die. -/
def counterOff (die : Option Nat) (i : Nat) : Nat :=
  match die with
  | none => 0x100 + i * 8
  | some d => 0x400 + d * 0x100 + i * 8

/-- Add to a counter. -/
def State.count (s : State) (die : Option Nat) (i n : Nat) : State :=
  s.setBar 6 (counterOff die i) (s.barReg 6 (counterOff die i) + BitVec.ofNat 64 n)

/-- Change the fleet record. -/
def State.onFleet (s : State) (f : Fleet → Fleet) : State := { s with fleet := f s.fleet }

/-! ## Physical memory (R73) -/

/-- What a physical address names. -/
inductive PaKind where
  | hbm | none | link (w : Nat) | host | view
  deriving DecidableEq, Repr

/-- The map of R73. -/
def paKind (pa : Nat) : PaKind :=
  match pa / 2 ^ 50 with
  | 0 => if pa < Config.hbmBytes then .hbm else .none
  | 1 => .link (bits pa 40 10)
  | 2 => .host
  | 3 => .view
  | _ => .none

/-- The die that owns an HBM address (R73). -/
def dieOfPa (pa : Nat) : Nat := pa / Config.hbmPerDie

/-- The slot of a party that reaches memory under no key (R379, R442). -/
def noKey : Nat := 0xFF

/-- The XTS keys of a key slot; 0 stands for no key (R441, R442). -/
def State.keyOf (s : State) (slot : Nat) : BitVec 512 := if slot < 128 then tableGet s.fleet.keys slot 0 else 0

/-- Addresses that every party reaches under no key: control blocks of live regions, the card array, the tier request ring (R442). -/
def State.unkeyed (s : State) (pa : Nat) : Bool :=
  let cards := bits (s.barReg 0 0x48).toNat 12 40 * 4096
  let ring := bits (s.barReg 4 0x28).toNat 12 40 * 4096
  (cards ≤ pa && pa < cards + bits (s.barReg 0 0x50).toNat 0 21 * 128) || (ring ≠ 0 && ring ≤ pa && pa < ring + 0x20100) ||
  s.regions.any (fun e => e.2.cb ≤ pa && pa < e.2.cb + 256)

/-- The tag under which a party with a key slot reaches a line (R442). -/
def State.tagFor (s : State) (slot line : Nat) : Nat := if slot < 128 && !(s.unkeyed (line * 128)) then slot else noKey

/-- A byte of HBM, as stored, seen under XTS keys: under other keys than those of its block it reads as ciphertext decrypted with the wrong
key (R442, log 8). -/
def State.seenUnder (s : State) (key : BitVec 512) (pa : Nat) : Byte :=
  let k := tableGet s.blockKeys (pa / 16) 0
  if k = key then tableGet s.mem pa 0
  else Config.garble k key (pa / 16) ((List.range 16).map (fun i => tableGet s.mem (pa / 16 * 16 + i) 0)) (pa % 16)

/-- Write bytes of HBM without regard to keys, from `pa` up. -/
def writeMem : Memory → Nat → List Byte → Memory
  | m, _, [] => m
  | m, pa, b :: bs => writeMem (tableSet m pa b 0) (pa + 1) bs

/-- What is seen of a 16-byte block under some keys is stored under others. -/
def State.rekeyBlock (s : State) (seen key : BitVec 512) (n : Nat) : State :=
  if tableGet s.blockKeys n 0 = seen ∧ seen = key then s
  else { s with
    mem := writeMem s.mem (n * 16) ((List.range 16).map (fun i => s.seenUnder seen (n * 16 + i)))
    blockKeys := tableSet s.blockKeys n key 0 }

/-- A dirty line is written back under its tag, with the keys that its slot holds now, and stays; no byte that a hit on it reads changes
(R70, R71, R442). -/
def State.writeBack (s : State) (line : Nat) : State :=
  match tableFind s.pantry line with
  | some x =>
    if !x.dirty then s
    else
      let key := s.keyOf x.tag
      let t := if x.key = key then s else (List.range 8).foldl (fun u i => u.rekeyBlock x.key key (line * 8 + i)) s
      ({ t with pantry := tableInsert t.pantry line ⟨x.tag, key, false⟩ } : State).count (some (dieOfPa (line * 128))) 5 128
  | none => s

/-- A line is written back and leaves its pantry (R71). -/
def State.dropLine (s : State) (line : Nat) : State :=
  let t := s.writeBack line
  { t with pantry := tableErase t.pantry line }

/-- An access under another tag than the line's first writes it back (R442). -/
def State.underTag (s : State) (tag line : Nat) : State :=
  match tableFind s.pantry line with
  | some x => if x.tag = tag then s else s.writeBack line
  | none => s

/-- The keys under which an access with a tag sees a line: those that filled it, or those of the slot that fills it now (R442). -/
def State.keysAt (s : State) (tag line : Nat) : BitVec 512 :=
  match tableFind s.pantry line with
  | some x => if x.tag = tag then x.key else s.keyOf tag
  | none => s.keyOf tag

/-- An HBM byte as a party with a key slot reads it (R442). -/
def State.hbmByte (s : State) (slot pa : Nat) : Byte :=
  let tag := s.tagFor slot (pa / 128)
  (s.underTag tag (pa / 128)).seenUnder (s.keysAt tag (pa / 128)) pa

/-- An access brings its line into the pantry of its die, tagged with the key slot that fills it; one under another tag first writes the line
back (R17, R70, R442). Hits, misses and the bytes that pass between pantry and HBM are counted (R443). -/
def State.useLine (s : State) (slot line : Nat) (write : Bool) : State :=
  let die := some (dieOfPa (line * 128))
  let tag := s.tagFor slot line
  match tableFind s.pantry line with
  | some x =>
    if x.tag = tag then
      (if write && !x.dirty then { s with pantry := tableInsert s.pantry line ⟨tag, x.key, true⟩ } else s).count die 3 1
    else
      let t := s.writeBack line
      (({ t with pantry := tableInsert t.pantry line ⟨tag, t.keyOf tag, write⟩ } : State).count die 4 1).count die 5 128
  | none => (({ s with pantry := tableInsert s.pantry line ⟨tag, s.keyOf tag, write⟩ } : State).count die 4 1).count die 5 128

/-- The lines of a die's pantry: line numbers of HBM. -/
def State.pantryOf (s : State) (d : Nat) : List Nat := (s.pantry.map Prod.fst).filter (fun l => dieOfPa (l * 128) == d)

/-- At the end of a step a pantry that holds more lines than it has room for writes back some of its own choice, which leave it (R17, log 8). -/
def State.trimPantry (s : State) : State :=
  let cap := Config.pantryBytes / Config.pantryLine
  if s.pantry.length ≤ cap then s
  else (List.range Config.dies).foldl (fun t d =>
    let l := t.pantryOf d
    let first := Config.freeBits t.free (2 ^ 58 + d) % max 1 l.length
    ((l.drop first ++ l.take first).take (l.length - cap)).foldl State.dropLine t) s

/-- A write of n bytes makes the words that it replaces whole good again (R435). -/
def State.mendWords (s : State) (pa n : Nat) : State :=
  if s.fleet.badWords.isEmpty then s
  else { s with fleet := { s.fleet with badWords := s.fleet.badWords.filter (fun w => !(decide (pa ≤ w) && decide (w + 32 ≤ pa + n))) } }

/-- The lines of n bytes are used under a key slot. -/
def State.useLines (s : State) (slot pa n : Nat) (write : Bool) : State :=
  if n = 0 then s else (List.range ((pa + n - 1) / 128 - pa / 128 + 1)).foldl (fun t i => t.useLine slot (pa / 128 + i) write) s

/-- Write HBM bytes under a key slot. A word that they replace whole is good again (R435). -/
def State.hbmWrite (s : State) (slot : Nat) (pa : Nat) (bs : List Byte) : State :=
  match bs with
  | [] => s
  | _ =>
    let s1 := s.useLines slot pa bs.length true
    let s2 := (List.range ((pa + bs.length - 1) / 16 - pa / 16 + 1)).foldl (fun t i =>
      let n := pa / 16 + i
      let key := t.keysAt (t.tagFor slot (n / 8)) (n / 8)
      t.rekeyBlock key key n) s1
    ({ s2 with mem := writeMem s2.mem pa bs } : State).mendWords pa bs.length

/-- A read of n HBM bytes under a key slot, without its data: its lines come into the pantry, and one that meets a word that stays
uncorrectable raises the error again (R435). -/
def State.readsHbm (s : State) (v : EccVictim) (slot pa n : Nat) : State :=
  if n = 0 then s
  else
    let t := s.useLines slot pa n false
    match t.fleet.badWords.find? (fun w => decide (w < pa + n) && decide (pa < w + 32)) with
    | some w => { t with fleet := { t.fleet with met := t.fleet.met ++ [(v, w)] } }
    | none => t

/-- Little-endian value of n HBM bytes under a key slot. -/
def State.hbmValue (s : State) (key : Nat) (pa n : Nat) : Nat :=
  leValue ((List.range n).map (fun i => s.hbmByte key (pa + i)))

/-! ## Format windows (R85 to R87) -/

/-- A format window's settings. -/
structure Window where
  vbase  : Nat
  vsize  : Nat
  sbase  : Nat
  scbase : Nat
  sfmt   : Nat
  xfmt   : Nat
  deriving DecidableEq, Repr

/-- Window n from its registers; none when EN is 0 (R86). -/
def State.window (s : State) (n : Nat) : Option Window :=
  let ctl := (s.barReg 1 (n * 0x20 + 0x18)).toNat
  if ctl.testBit 0 then
    some ⟨bits (s.barReg 1 (n * 0x20)).toNat 16 36 * 65536, (s.barReg 1 (n * 0x20 + 8)).toNat * 65536,
      bits (s.barReg 1 (n * 0x20 + 16)).toNat 6 46 * 64, bits ctl 16 48 * 16, bits ctl 12 4, bits ctl 8 4⟩
  else none

/-- The enabled window that covers a view address. -/
def State.windowAt (s : State) (pa : Nat) : Option Window :=
  (List.range 16).findSome? (fun n =>
    match s.window n with
    | some w => if w.vbase ≤ pa ∧ pa < w.vbase + w.vsize then some w else none
    | none => none)

/-- Elements of a stored block. -/
def Window.elems (w : Window) : Nat := if w.sfmt = 0xA then 32 else 16
/-- Bytes of an element of the view. -/
def Window.esize (w : Window) : Nat := fmtBits w.xfmt / 8

/-- The exact values of a stored block (R85). -/
def State.viewBlock (s : State) (key : Nat) (w : Window) (b : Nat) : List Num :=
  let bb := blockBytes w.sfmt
  let blk := s.hbmValue key (w.sbase + b * bb) bb
  if w.sfmt = 0xA then
    let x := (s.hbmByte key (w.scbase + b)).toNat
    (List.range 32).map (fun i => decodeMx x (bits blk (4 * i) 4))
  else (List.range 16).map (fun i => decodeKb ((kbM w.sfmt).getD 2) blk i)

/-- The bytes of a block as the view shows it (R85): expansion rounds to nearest even and saturates in E4M3. -/
def State.viewBytes (s : State) (key : Nat) (w : Window) (b : Nat) : List Byte :=
  (s.viewBlock key w b).flatMap (fun x =>
    match floatFmt w.xfmt with
    | some f => leBytes w.esize (roundF f 0 x 0).val
    | none => [])

/-- Read n bytes of a view. -/
def State.viewRead (s : State) (key : Nat) (w : Window) (pa n : Nat) : List Byte :=
  let per := w.elems * w.esize
  (List.range n).map (fun i =>
    let o := pa + i - w.vbase
    (s.viewBytes key w (o / per)).getD (o % per) 0)

/-- Put an updated block back through encoding (R87). -/
def State.viewStoreBlock (s : State) (key : Nat) (w : Window) (b : Nat) (bytes : List Byte) : State :=
  let vals := (List.range w.elems).map (fun i =>
    decodeElem w.xfmt (leValue ((List.range w.esize).map (fun j => bytes.getD (i * w.esize + j) 0))))
  if w.sfmt = 0xA then
    let (el, x, _) := encodeMx 0 vals ⟨0, 0⟩
    (s.hbmWrite key (w.sbase + b * 16) (leBytes 16 el)).hbmWrite key (w.scbase + b) [BitVec.ofNat 8 x]
  else
    let (blk, _) := encodeKb ((kbM w.sfmt).getD 2) 0 vals ⟨0, 0⟩
    s.hbmWrite key (w.sbase + b * blockBytes w.sfmt) (leBytes (blockBytes w.sfmt) blk)

/-- Write into a view (R87): every touched block takes the bytes, then is quantised. -/
def State.viewWrite (s : State) (key : Nat) (w : Window) (pa : Nat) (bs : List Byte) : State :=
  let per := w.elems * w.esize
  let o := pa - w.vbase
  let first := o / per
  let n := (o + bs.length - 1) / per - first + 1
  (List.range n).foldl (fun t k =>
    let b := first + k
    let old := t.viewBytes key w b
    let new := (List.range per).map (fun i =>
      let p := b * per + i
      if o ≤ p ∧ p < o + bs.length then bs.getD (p - o) 0 else old.getD i 0)
    t.viewStoreBlock key w b new) s

/-! ## Accesses at a physical address

Every agent (a context, an operation, a stair core, the scheduler, the host, a link) reads and writes the one `mem` by these two
operations, so what one has written is what all others read (R70). An access to the host or through a link window goes to its
target, never to a copy. -/

/-- Read n bytes at a physical address. What lies outside the package is a free value (log 7). -/
def State.physRead (s : State) (key : Nat) (pa n : Nat) : List Byte :=
  match paKind pa with
  | .hbm => (List.range n).map (fun i => s.hbmByte key (pa + i))
  | .view => match s.windowAt pa with
    | some w => s.viewRead key w pa n
    | none => List.replicate n 0
  | .none => List.replicate n 0
  | _ => (List.range n).map (fun i => BitVec.ofNat 8 (Config.freeBits s.free (pa + i)))

/-- Write bytes at a physical address. -/
def State.physWrite (s : State) (key : Nat) (pa : Nat) (bs : List Byte) : State :=
  match paKind pa with
  | .hbm => s.hbmWrite key pa bs
  | .view => match s.windowAt pa with
    | some w => s.viewWrite key w pa bs
    | none => s
  | .none => s
  | .link _ => ({ s with outbox := s.outbox ++ [.write pa bs] } : State).count none 2 bs.length
  | .host => { s with outbox := s.outbox ++ [.write pa bs] }

/-- A read of n bytes at a physical address, without its data: a view's are those of its stored blocks (R85). -/
def State.reads (s : State) (v : EccVictim) (slot pa n : Nat) : State :=
  if n = 0 then s
  else match paKind pa with
    | .hbm => s.readsHbm v slot pa n
    | .view => match s.windowAt pa with
      | some w =>
        let per := w.elems * w.esize
        let a := (pa - w.vbase) / per
        let b := (pa + n - 1 - w.vbase) / per + 1
        let t := s.readsHbm v slot (w.sbase + a * blockBytes w.sfmt) ((b - a) * blockBytes w.sfmt)
        if w.sfmt = 0xA then t.readsHbm v slot (w.scbase + a) (b - a) else t
      | none => s
    | _ => s

/-- Little-endian value at a physical address. -/
def State.physValue (s : State) (key : Nat) (pa n : Nat) : Nat := leValue (s.physRead key pa n)

/-! ## Who accesses -/

/-- A party: its region, the die it stands on (R100). -/
structure Party where
  region : Nat
  die    : Nat
  deriving DecidableEq, Repr

/-- A region's record; an absent region reads as one with no tables and no key. -/
def State.region (s : State) (r : Nat) : Region :=
  tableGet s.regions r ⟨0, true, 1, 0, 0, 0, 0xFF, false, 0, 0, 0, 0, 0, 0, 0, 0, 0, 0, 0, 0, 0, 0, 0, 0, 0, [], 0, 0, false, false, 0x7FFF⟩

/-- The key slot of a region (R442). -/
def State.regionKey (s : State) (r : Nat) : Nat := (s.region r).keyslot

/-- A die's record. -/
def State.die (s : State) (d : Nat) : Die := tableGet s.dies d {}

/-- Change a die's record. -/
def State.setDie (s : State) (d : Nat) (x : Die) : State := { s with dies := tableInsert s.dies d x }

/-- Whether r is region a or one of its ancestors, looking up at most eight levels (R382). -/
def State.isAncestorFuel (s : State) : Nat → Nat → Nat → Bool
  | 0, a, r => a == r
  | n + 1, a, r => a == r || (match tableFind s.regions r with
    | some x => !x.root && s.isAncestorFuel n a x.parent
    | none => false)

/-- Region a is r or an ancestor of r. -/
def State.isAncestor (s : State) (a r : Nat) : Bool := s.isAncestorFuel 8 a r

/-- r and its ancestors, nearest first. -/
def State.lineageFuel (s : State) : Nat → Nat → List Nat
  | 0, _ => []
  | n + 1, r => match tableFind s.regions r with
    | some x => r :: (if x.root then [] else s.lineageFuel n x.parent)
    | none => []

/-- r and its ancestors (R33). -/
def State.lineage (s : State) (r : Nat) : List Nat := s.lineageFuel 8 r

/-! ## Flat translation (R402 to R404) -/

/-- Reason codes (R58). -/
def rPAGE : Nat := 1
def rPROT : Nat := 2
def rTILE : Nat := 3
def rKVBLK : Nat := 4
def rINTEG : Nat := 5
def rALIGN : Nat := 6
def rILLEG : Nat := 7
def rSTATE : Nat := 8
def rSTKOV : Nat := 9
def rSTKUN : Nat := 10
def rTRAP : Nat := 11
def rBRK : Nat := 12
def rDBLFLT : Nat := 13
def rECC : Nat := 14

/-- Access kinds of a translation; `find` asks for no permission, only where an address lies. -/
inductive Acc4 where
  | read | write | atomic | code | find
  deriving DecidableEq, Repr

/-- Permission bits an access needs, laid out X W R. -/
def Acc4.need : Acc4 → Nat
  | .read => 1 | .write => 2 | .atomic => 3 | .code => 4 | .find => 0

/-- A page found by a walk: its base, log2 of its size, its permissions X W R. -/
structure PageHit where
  base : Nat
  bits : Nat
  perm : Nat
  deriving DecidableEq, Repr

/-- A table entry that R403 accepts: reserved bits clear, PS and permissions only where allowed, ADDR aligned. -/
def tableEntryOk (e : Nat) (page ps : Bool) (align : Nat) : Bool :=
  bits e 52 12 == 0 && bits e 5 3 == 0 && (ps == e.testBit 4) && (page || bits e 1 3 == 0) &&
    (bits e 8 44 * 256) % 2 ^ align == 0

/-- Follow the table levels; each is the shift of its index, its width, and the alignment of the next table. -/
def State.walkTables (s : State) (key : Nat) (va : Nat) : List (Nat × Nat × Nat) → Nat → Except Nat Nat
  | [], base => .ok base
  | (sh, w, al) :: t, base =>
    let e := s.physValue key (base + bits va sh w * 8) 8
    if !e.testBit 0 then .error rPAGE
    else if !tableEntryOk e false false al then .error rPROT
    else s.walkTables key va t (bits e 8 44 * 256)

/-- Walk the five levels for a page (R402, R403), permissions not yet checked. -/
def State.walkPage (s : State) (key : Nat) (root va : Nat) : Except Nat PageHit :=
  match s.walkTables key va [(47, 9, 12), (38, 9, 12), (29, 9, 11)] root with
  | .error r => .error r
  | .ok dir =>
    let e := s.physValue key (dir + bits va 21 8 * 8) 8
    if !e.testBit 0 then .error rPAGE
    else if e.testBit 4 then
      if !tableEntryOk e true true 21 then .error rPROT else .ok ⟨bits e 8 44 * 256, 21, bits e 1 3⟩
    else if !tableEntryOk e false false 8 then .error rPROT
    else
      let l := s.physValue key (bits e 8 44 * 256 + bits va 16 5 * 8) 8
      if !l.testBit 0 then .error rPAGE
      else if !tableEntryOk l true false 16 then .error rPROT
      else .ok ⟨bits l 8 44 * 256, 16, bits l 1 3⟩

/-- The last conditions of R404 on a page: permissions and range. -/
def State.pageAllows (s : State) (a : Acc4) (h : PageHit) : Bool :=
  (h.perm &&& a.need) == a.need &&
  (match paKind h.base with
   | .hbm => true
   | .none => false
   | .link w => a ≠ .code && (s.barReg 3 (0x1000 + w * 8)).getLsbD 63
   | _ => a ≠ .code)

/-- A cached flat page that serves an access, if the cache still keeps it (R401, log 11). -/
def State.tlbHit (s : State) (p : Party) (a : Acc4) (va : Nat) : Option PageHit :=
  ((s.die p.die).tlb.find? (fun e =>
      e.kind == 0 && e.region == p.region && va / 2 ^ e.bits == e.va / 2 ^ e.bits && (e.perm.toNat &&& a.need) == a.need)).bind
    (fun e => if Config.cacheKeeps s.free (va / 65536) then some ⟨e.pa, e.bits, e.perm.toNat⟩ else none)

/-- Find the page of a flat address (R72, R404); a view address needs an enabled window (R86). -/
def State.flatPage (s : State) (p : Party) (a : Acc4) (va : Nat) : Except Nat PageHit :=
  if 2 ^ 56 ≤ va then .error rPROT
  else match s.tlbHit p a va with
    | some h => if s.pageAllows a h then .ok h else .error rPROT
    | none => match s.walkPage (s.regionKey p.region) (s.region p.region).ptroot va with
      | .error r => .error r
      | .ok h => if s.pageAllows a h then .ok h else .error rPROT

/-- Translate a flat address to a physical address. -/
def State.flat (s : State) (p : Party) (a : Acc4) (va : Nat) : Except Nat Nat :=
  match s.flatPage p a va with
  | .error r => .error r
  | .ok h =>
    let pa := h.base + va % 2 ^ h.bits
    if paKind pa = .view ∧ (s.windowAt pa).isNone then .error rPROT else .ok pa

/-- What a stair core's registers x10 to x13 hold when a walk returns (R399). -/
structure WalkRegs where
  x10 : Dword
  x11 : Dword
  x12 : Dword
  x13 : Dword
  deriving DecidableEq, Repr

/-- A core's registers at return: reason 0, the address and the permissions V, R, W, X; or the reason, with what it was
handed left in x11 and x12. -/
def walkResult (x11 x12 x13 : Dword) (r : Except Nat (Nat × Nat)) : WalkRegs :=
  match r with
  | .ok (pa, perm) => ⟨0, BitVec.ofNat 64 pa, BitVec.ofNat 64 (1 + perm * 2), x13⟩
  | .error e => ⟨BitVec.ofNat 64 e, x11, x12, x13⟩

/-- Leave a walk's result in its core; the core's other registers stay, and its pc is where its routine in the walk store has ended, a free
value (log 3). -/
def State.putCore (s : State) (core : Nat) (r : WalkRegs) : State :=
  let d := s.die (core / Config.stairCores)
  let c := tableGet d.cores (core % Config.stairCores) {}
  let x := tableSet (tableSet (tableSet (tableSet c.x 10 r.x10 0) 11 r.x11 0) 12 r.x12 0) 13 r.x13 0
  s.setDie (core / Config.stairCores) { d with
    cores := tableSet d.cores (core % Config.stairCores) ⟨x, Config.freeBits s.free (2 ^ 57 + core) % Config.walkStore⟩ {} }

/-- The core that takes a miss of a die: a walk ends in the step of its miss, so every core is free, and the first takes it
(log 9). -/
def missCore (die : Nat) : Nat := die * Config.stairCores

/-- The table entries that a walk of the levels reads, as far as it gets: each level is the shift of its index, its width, and whether its entry
may name a 2 MiB page. -/
def State.walkPath (s : State) (key : Nat) (va : Nat) : List (Nat × Nat × Bool) → Nat → List Nat
  | [], _ => []
  | (sh, w, ps) :: t, base =>
    let pa := base + bits va sh w * 8
    let e := s.physValue key pa 8
    pa :: (if e.testBit 0 && !(ps && e.testBit 4) then s.walkPath key va t (bits e 8 44 * 256) else [])

/-- The entries that a walk reads for a page. -/
def State.walkAddrs (s : State) (key : Nat) (root va : Nat) : List Nat :=
  s.walkPath key va [(47, 9, false), (38, 9, false), (29, 9, false), (21, 8, true), (16, 5, false)] root

/-- Keep a found page in a die's translation buffer (R401). -/
def State.keepPage (s : State) (p : Party) (a : Acc4) (va : Nat) : State :=
  match s.flatPage p a va with
  | .error _ => s
  | .ok h =>
    let d := s.die p.die
    let e : TlbEntry := ⟨p.region, 0, va / 2 ^ h.bits * 2 ^ h.bits, h.bits, h.base, BitVec.ofNat 3 h.perm⟩
    if e ∈ d.tlb then s else s.setDie p.die { d with tlb := (e :: d.tlb).take Config.tlbEntries }

/-- An access to a flat page: a miss is walked by a core of the die, which leaves its result in the core and the page in the
translation buffer (R399, R401). -/
def State.cachePage (s : State) (p : Party) (a : Acc4) (va : Nat) : State :=
  match s.tlbHit p a va, s.flatPage p a va with
  | none, .ok h => (s.putCore (missCore p.die) (walkResult (BitVec.ofNat 64 va) 0 (BitVec.ofNat 64 p.region) (.ok (h.base, h.perm)))).keepPage p a va
  | _, _ => s

/-- The walk of a miss reads the table entries on its way (R399, R435). -/
def State.readsWalk (s : State) (v : EccVictim) (p : Party) (a : Acc4) (va : Nat) : State :=
  if 2 ^ 56 ≤ va || (s.tlbHit p a va).isSome then s
  else (s.walkAddrs (s.regionKey p.region) (s.region p.region).ptroot va).foldl (fun u e => u.reads v (s.regionKey p.region) e 8) s

/-- Who missed, as a core is told: the package gang and the context; for agents that are no context a free value (R399, log 41). -/
def State.whoMissed (s : State) (v : EccVictim) : Dword :=
  match v with
  | .context cid => match (tableGet s.ctxs cid {}).place with
    | .gang g k => BitVec.ofNat 64 (g + k * 2 ^ 8)
    | .landing _ _ g k => BitVec.ofNat 64 (g + k * 2 ^ 8)
    | .parked _ _ => 0
  | _ => BitVec.ofNat 64 (Config.freeBits s.free (2 ^ 57 + 64) % 2 ^ 13)

/-- A miss whose walk finds no translation leaves its reason in the core (R399). -/
def State.missAt (s : State) (v : EccVictim) (p : Party) (a : Acc4) (va : Nat) : State :=
  match (s.tlbHit p a va).isSome || decide (2 ^ 56 ≤ va), s.flatPage p a va with
  | false, .error r => s.putCore (missCore p.die) (walkResult (BitVec.ofNat 64 va) (s.whoMissed v) (BitVec.ofNat 64 p.region) (.error r))
  | _, _ => s

/-- What an access of n bytes at a flat address leaves besides its data: a miss in a core and the buffer of its die, the lines that it
reads in their pantries, and an error met there (R70, R399, R401, R435). A write into a view reads its blocks (R87). `v` is who makes it. -/
def State.touch (s : State) (v : EccVictim) (p : Party) (a : Acc4) (va n : Nat) : State :=
  let t := ((s.readsWalk v p a va).missAt v p a va).cachePage p a va
  match s.flat p a va with
  | .ok pa => if a = .write ∧ paKind pa ≠ .view then t else t.reads v (s.regionKey p.region) pa n
  | .error _ => t

/-- A flat access's reason of failure, with natural alignment (R72). -/
def State.flatFault (s : State) (p : Party) (a : Acc4) (va size : Nat) : Option Nat :=
  if 2 ^ 56 ≤ va then some rPROT
  else if va % size ≠ 0 then some rALIGN
  else match s.flat p a va with
    | .error r => some r
    | .ok _ => none

/-- Load n bytes at a flat address that translates; a page boundary is never crossed by an aligned access. -/
def State.flatLoad (s : State) (p : Party) (va n : Nat) : List Byte :=
  match s.flat p .read va with
  | .ok pa => s.physRead (s.regionKey p.region) pa n
  | .error _ => List.replicate n 0

/-- What an access of n bytes from a flat address on leaves besides its data, page by page. -/
def State.touchFlat (s : State) (v : EccVictim) (p : Party) (a : Acc4) (va n : Nat) : State :=
  if n = 0 then s
  else (List.range ((va + n - 1) / 65536 - va / 65536 + 1)).foldl (fun t i =>
    let from_ := max va ((va / 65536 + i) * 65536)
    let end_ := min (va + n) ((va / 65536 + i + 1) * 65536)
    t.touch v p a from_ (end_ - from_)) s

/-- A read of n bytes from a flat address on, without its data. -/
def State.readsFlat (s : State) (v : EccVictim) (p : Party) (va n : Nat) : State := s.touchFlat v p .read va n

/-- Bytes of a cached parameter block after a store by the same die (R92). -/
def pbUpdate (pa : Nat) (bs : List Byte) (e : PbEntry) : PbEntry :=
  ⟨e.addr, BitVec.ofNat 512 (leValue ((List.range 64).map (fun i =>
    if pa ≤ e.addr + i ∧ e.addr + i < pa + bs.length then bs.getD (e.addr + i - pa) 0
    else BitVec.ofNat 8 (e.block.toNat >>> (8 * i)))))⟩

/-- A store by an engine or sequencer updates its die's parameter-block cache (R92). -/
def State.pbStore (s : State) (d pa : Nat) (bs : List Byte) : State :=
  let x := s.die d
  if x.pbCache.isEmpty then s else s.setDie d { x with pbCache := x.pbCache.map (pbUpdate pa bs) }

/-- Store bytes at a flat address that translates, without touching the parameter-block cache. -/
def State.flatStoreRaw (s : State) (p : Party) (va : Nat) (bs : List Byte) : State :=
  match s.flat p .write va with
  | .ok pa => s.physWrite (s.regionKey p.region) pa bs
  | .error _ => s

/-- Store bytes at a flat address that translates, by an engine or sequencer. -/
def State.flatStore (s : State) (p : Party) (va : Nat) (bs : List Byte) : State :=
  match s.flat p .write va with
  | .ok pa => (s.physWrite (s.regionKey p.region) pa bs).pbStore p.die pa bs
  | .error _ => s

/-- A record of n bytes in flat memory, read dword by dword; none where some byte does not translate. -/
def State.flatRecord (s : State) (p : Party) (va : Nat) : Nat → Option (List Dword)
  | 0 => some []
  | n + 1 =>
    match s.flat p .read va with
    | .error _ => none
    | .ok pa => match s.flatRecord p (va + 8) n with
      | none => none
      | some t => some (BitVec.ofNat 64 (s.physValue (s.regionKey p.region) pa 8) :: t)

/-! ## Tensor space (R75 to R79, R405) -/

/-- A tensor descriptor (R75, R76, R78). -/
structure Tensor where
  tptr : Nat
  ext  : List Nat
  pad  : Nat
  tsh  : List Nat
  rank : Nat
  mode : Nat
  fmt  : Nat
  sx   : Nat
  sy   : Nat
  dx   : Nat
  dy   : Nat
  deriving DecidableEq, Repr

/-- Element size in bits. -/
def Tensor.ebits (t : Tensor) : Nat := fmtBits t.fmt

/-- Whether a descriptor keeps R75 to R78. A window is row-major, so its TSH is zero as in MODE 0: DEDUCED, log 46. -/
def Tensor.ok (t : Tensor) : Bool :=
  t.tptr % 64 == 0 && t.ext.all (fun e => decide (1 ≤ e)) && (t.ext.drop t.rank).all (fun e => e == 1) &&
  t.fmt ≤ 9 &&
  (match t.mode with
   | 0 => t.tsh.all (· == 0)
   | 1 => t.ebits * 2 ^ t.tsh.sum == 65536 * 8
   | 2 => t.tsh.all (· == 0) && t.rank == 4 && 1 ≤ t.sx && 1 ≤ t.sy && 1 ≤ t.dx && 1 ≤ t.dy
   | _ => false)

/-- Read descriptor id of a region (R75); none when it breaks R79. -/
def State.tensor (s : State) (p : Party) (id : Nat) : Option Tensor :=
  let r := s.region p.region
  if r.tcount ≤ id then none
  else match s.flatRecord p (r.tbase.toNat + id * 64) 8 with
    | some [d0, d1, d2, d3, d4, d5, d6, d7] =>
      let lay := d3.toNat
      let w := d4.toNat
      let t : Tensor := ⟨d0.toNat, [bits d1.toNat 0 32, bits d1.toNat 32 32, bits d2.toNat 0 32, bits d2.toNat 32 32],
        bits lay 32 32, [bits lay 8 4, bits lay 12 4, bits lay 16 4, bits lay 20 4], bits lay 6 2 + 1, bits lay 4 2,
        bits lay 0 4, bits w 0 8, bits w 8 8, bits w 16 8, bits w 24 8⟩
      if d5 = 0 ∧ d6 = 0 ∧ d7 = 0 ∧ bits lay 24 8 = 0 ∧ bits w 32 32 = 0 ∧ (t.mode = 2 ∨ w = 0) ∧ t.ok then some t else none
    | _ => none

/-- Extent k as an integer. -/
def Tensor.e (t : Tensor) (k : Nat) : Int := (t.ext.getD k 1 : Nat)

/-- Whether a position lies inside the extents (R79). -/
def Tensor.inside (t : Tensor) (c : List Int) : Bool :=
  (List.range 4).all (fun k => decide (0 ≤ c.getD k 0) && decide (c.getD k 0 < t.e k))

/-- Tile number and bit offset in the tile's frame of a position inside the extents (R77). -/
def Tensor.place (t : Tensor) (c : List Int) : Nat × Nat :=
  let x (k : Nat) : Nat := (c.getD k 0).toNat
  let e (k : Nat) : Nat := t.ext.getD k 1
  if t.mode = 1 then
    let tl (k : Nat) : Nat := 2 ^ t.tsh.getD k 0
    let n (k : Nat) : Nat := ceilDiv (e k) (tl k)
    let u (k : Nat) : Nat := x k / tl k
    let i (k : Nat) : Nat := x k % tl k
    (u 0 + n 0 * (u 1 + n 1 * (u 2 + n 2 * u 3)),
     (i 0 + tl 0 * (i 1 + tl 1 * (i 2 + tl 2 * i 3))) * t.ebits)
  else
    let l := (x 0 + e 0 * (x 1 + e 1 * (x 2 + e 2 * x 3))) * t.ebits
    (l / 524288, l % 524288)

/-- The frame of a tile and whether it may be written, as its entry says (R405). -/
def State.tileWalk (s : State) (p : Party) (t : Tensor) (tile : Nat) (write : Bool) : Except Nat (Nat × Bool) :=
  match s.flat p .read (t.tptr + tile * 8) with
  | .error _ => .error rPROT
  | .ok pa =>
    let e := s.physValue (s.regionKey p.region) pa 8
    if !e.testBit 0 then .error rTILE
    else if bits e 52 12 ≠ 0 ∨ bits e 2 14 ≠ 0 then .error rPROT
    else
      let f := bits e 16 36 * 65536
      if !(paKind f == .hbm || paKind f == .host) then .error rPROT
      else if write && !e.testBit 1 then .error rPROT
      else .ok (f, e.testBit 1)

/-- A cached tile that serves an access, if the cache still keeps it (R401). -/
def State.tileHit (s : State) (p : Party) (id tile : Nat) (write : Bool) : Option (Nat × Bool) :=
  ((s.die p.die).tlb.find? (fun e => e.kind == 1 && e.region == p.region && e.va == id + tile * 65536 && (!write || e.perm.getLsbD 1))).bind
    (fun e => if Config.cacheKeeps s.free (id + tile * 65536) then some (e.pa, e.perm.getLsbD 1) else none)

/-- The frame of a tile and whether it may be written (R401, R405). -/
def State.tileAt (s : State) (p : Party) (id : Nat) (t : Tensor) (tile : Nat) (write : Bool) : Except Nat (Nat × Bool) :=
  match s.tileHit p id tile write with
  | some x => .ok x
  | none => s.tileWalk p t tile write

/-- The frame of a tile that the operation under way keeps translated (R410). -/
def State.keptTile (s : State) (id tile : Nat) : Option Nat :=
  s.issue.pins.findSome? (fun x => match x with
    | .tile i n f => if i = id ∧ n = tile then some f else none
    | _ => none)

/-- The frame of a tile. -/
def State.tile (s : State) (p : Party) (id : Nat) (t : Tensor) (tile : Nat) (write : Bool) : Except Nat Nat :=
  match s.keptTile id tile with
  | some f => .ok f
  | none => (s.tileAt p id t tile write).map Prod.fst

/-- Keep a tile in a die's translation buffer (R401). -/
def State.keepTile (s : State) (p : Party) (id : Nat) (t : Tensor) (tile : Nat) (write : Bool) : State :=
  match s.tileAt p id t tile write with
  | .error _ => s
  | .ok (f, w) =>
    let d := s.die p.die
    let e : TlbEntry := ⟨p.region, 1, id + tile * 65536, 0, f, if w then 3 else 1⟩
    if e ∈ d.tlb then s else s.setDie p.die { d with tlb := (e :: d.tlb).take Config.tlbEntries }

/-- An access to a tile: a miss is walked by a core of the die (R399, R401); what the operation under way keeps translated is none. -/
def State.cacheTile (s : State) (p : Party) (id : Nat) (t : Tensor) (tile : Nat) (write : Bool) : State :=
  match (s.keptTile id tile).isSome || (s.tileHit p id tile write).isSome, s.tileAt p id t tile write with
  | false, .ok (f, w) => (s.putCore (missCore p.die) (walkResult (BitVec.ofNat 64 (id + tile * 65536)) 0 (BitVec.ofNat 64 p.region)
      (.ok (f, if w then 3 else 1)))).keepTile p id t tile write
  | _, _ => s

/-- What the translation of a tile leaves: a miss reads the descriptor and the tile's entry (R75, R399, R405, R435). -/
def State.touchTile (s : State) (v : EccVictim) (p : Party) (id : Nat) (t : Tensor) (tile : Nat) (write : Bool) : State :=
  if (s.keptTile id tile).isSome || (s.tileHit p id tile write).isSome then s
  else ((s.readsFlat v p ((s.region p.region).tbase.toNat + id * 64) 64).touch v p .read (t.tptr + tile * 8) 8).cacheTile p id t tile write

/-- The bit pattern of an element (R77, R79): PAD outside the extents. -/
def State.tensorElem (s : State) (p : Party) (id : Nat) (t : Tensor) (c : List Int) : Except Nat Nat :=
  if !t.inside c then .ok (t.pad % 2 ^ t.ebits)
  else
    let (n, off) := t.place c
    match s.tile p id t n false with
    | .error r => .error r
    | .ok f => .ok (bits (s.physValue (s.regionKey p.region) (f + off / 8) (max 1 (t.ebits / 8))) (off % 8) t.ebits)

/-- Write an element; a position outside the extents is dropped (R79). -/
def State.tensorPut (s : State) (p : Party) (id : Nat) (t : Tensor) (c : List Int) (v : Nat) : Except Nat State :=
  if !t.inside c then .ok s
  else
    let (n, off) := t.place c
    match s.tile p id t n true with
    | .error r => .error r
    | .ok f =>
      let key := s.regionKey p.region
      let nb := max 1 (t.ebits / 8)
      let old := s.physValue key (f + off / 8) nb
      .ok (s.physWrite key (f + off / 8) (leBytes nb (putBits old (off % 8) t.ebits v)))

/-! ## KV space (R80 to R84, R406, R407) -/

/-- A sequence card (R81). -/
structure Card where
  root   : Nat
  region : Nat
  layers : Nat
  heads  : Nat
  d      : Nat
  kvf    : Nat
  len    : Nat
  aff    : Dword
  deriving DecidableEq, Repr

/-- Head dimension by HDIM (R81). -/
def headDim (h : Nat) : Option Nat :=
  match h with
  | 0 => some 64 | 1 => some 96 | 2 => some 128 | 3 => some 192 | 4 => some 256 | _ => none

/-- The format code of R74 for KVF (R81). -/
def kvFmt (k : Nat) : Option Nat :=
  match k with
  | 0 => some 1 | 1 => some 3 | 2 => some 4 | 3 => some 0xC | 4 => some 0xD | _ => none

/-- Bytes of one (token, head) row (R82). -/
def kvRowBytes (fmt d : Nat) : Nat := if blockBytes fmt = 0 then d * fmtBits fmt / 8 else d / 16 * blockBytes fmt

/-- Bytes of a block (R82). -/
def Card.blockSize (c : Card) : Nat := 16 * c.heads * kvRowBytes c.kvf c.d

/-- Physical address of a card (R81, R376). -/
def State.cardPa (s : State) (seq : Nat) : Nat := bits (s.barReg 0 0x48).toNat 12 40 * 4096 + seq * 128

/-- Read a card, under no key (R442), and make the checks of R82 that do not depend on the access. -/
def State.card (s : State) (seq : Nat) : Option Card :=
  if (s.barReg 0 0x50).toNat ≤ seq then none
  else
    let pa := s.cardPa seq
    let root := s.hbmValue noKey pa 8
    let w := s.hbmValue noKey (pa + 8) 8
    match headDim (bits w 35 3), kvFmt (bits w 32 3) with
    | some d, some f =>
      let c : Card := ⟨root, bits w 52 12, bits w 44 8 + 1, bits w 38 6 + 1, d, f, bits w 0 24, BitVec.ofNat 64 (s.hbmValue noKey (pa + 16) 8)⟩
      if w.testBit 24 && bits w 25 7 == 0 && root % 4096 == 0 && root < 2 ^ 52 && c.blockSize ≤ 65536 &&
         (List.range 96).all (fun i => s.hbmByte noKey (pa + 32 + i) == 0) then some c else none
    | _, _ => none

/-- The checks of R82 for an access of a region to a layer. -/
def State.cardFor (s : State) (p : Party) (seq layer : Nat) : Option Card :=
  match s.card seq with
  | some c => if s.isAncestor c.region p.region ∧ layer < c.layers then some c else none
  | none => none

/-- What the block tables say of a block (R406): the leaf's address, no leaf, or PROT. -/
inductive LeafAt where
  | leaf (pa : Nat) | absent | broken
  deriving DecidableEq, Repr

/-- Walk the block tables (R406). -/
def State.leafAt (s : State) (key : Nat) (root layer plane block : Nat) : LeafAt :=
  let e := s.physValue key (root + (layer * 2 + plane) * 8) 8
  if !e.testBit 0 then .absent
  else if bits e 1 11 ≠ 0 ∨ bits e 52 12 ≠ 0 ∨ (bits e 12 40 * 4096) % 16384 ≠ 0 then .broken
  else
    let m := s.physValue key (bits e 12 40 * 4096 + bits block 9 11 * 8) 8
    if !m.testBit 0 then .absent
    else if bits m 1 11 ≠ 0 ∨ bits m 52 12 ≠ 0 then .broken
    else .leaf (bits m 12 40 * 4096 + bits block 0 9 * 8)

/-- What an access to a block meets (R83): a frame, a hold at its cursor, or a reason. -/
inductive BlockAt where
  | frame (pa : Nat) | hold | fail (reason : Nat)
  deriving DecidableEq, Repr

/-- Walk to a KV block (R83, R406, R407). -/
def State.kvWalk (s : State) (p : Party) (c : Card) (layer plane block : Nat) : BlockAt :=
  let key := s.regionKey p.region
  match s.leafAt key c.root layer plane block with
  | .broken => .fail rPROT
  | .absent => .fail rKVBLK
  | .leaf pa =>
    let l := s.physValue key pa 8
    if l.testBit 3 then .fail rINTEG
    else match bits l 0 2 with
      | 1 => .frame (bits l 12 36 * 65536)
      | 2 => .hold
      | _ => .fail rKVBLK

/-- The frame of a cached leaf that serves an access, if the cache still keeps it (R84, R401). -/
def State.kvHit (s : State) (p : Party) (seq layer plane block : Nat) : Option Nat :=
  ((s.die p.die).kvtb.find? (fun e => e.seq == seq && e.layer == layer && e.plane == plane && e.block == block)).bind
    (fun e => if Config.cacheKeeps s.free (seq * 2 ^ 33 + layer * 2 ^ 25 + plane * 2 ^ 24 + block) then some e.frame else none)

/-- The frame of a KV block that the operation under way keeps translated (R410). -/
def State.keptBlock (s : State) (seq layer plane block : Nat) : Option Nat :=
  s.issue.pins.findSome? (fun x => match x with
    | .block q l n b _ f => if q = seq ∧ l = layer ∧ n = plane ∧ b = block then f else none
    | _ => none)

/-- Translate a KV block; a cached leaf may serve. -/
def State.kvBlock (s : State) (p : Party) (seq : Nat) (c : Card) (layer plane block : Nat) : BlockAt :=
  match (s.keptBlock seq layer plane block).or (s.kvHit p seq layer plane block) with
  | some f => .frame f
  | none => s.kvWalk p c layer plane block

/-- Physical address of a region's PGMAP pool descriptor (R413); a pointer of 0 names no pool. -/
def State.poolAt (s : State) (r : Nat) : Option Nat :=
  if (s.region r).pool = 0 then none
  else match s.flat ⟨r, 0⟩ .read (s.region r).pool.toNat with
    | .ok pa => some pa
    | .error _ => none

/-- Dword at byte o of a region's pool descriptor; 0 where there is none. -/
def State.poolWord (s : State) (r o : Nat) : Nat :=
  match s.poolAt r with
  | some pa => s.physValue (s.regionKey r) (pa + o) 8
  | none => 0

/-- Entries of a region's KV frame table in use (R413). -/
def State.frameEntries (s : State) (r : Nat) : Nat := bits (s.poolWord r 40) 0 32

/-- Address of entry i of a region's KV frame table. -/
def State.frameEntryPa (s : State) (r i : Nat) : Nat := s.poolWord r 32 + i * 16

/-- The entry of a leaf in a region's KV frame table. -/
def State.frameEntryOf (s : State) (r leaf : Nat) : Option Nat :=
  (List.range (s.frameEntries r)).find? (fun i => bits (s.physValue (s.regionKey r) (s.frameEntryPa r i) 8) 3 49 * 8 == leaf)

/-- Set REF in a leaf's entry (R422). -/
def State.frameRef (s : State) (r leaf : Nat) : State :=
  match s.frameEntryOf r leaf with
  | some i =>
    let pa := s.frameEntryPa r i
    (s.reads (.record r) (s.regionKey r) pa 8).physWrite (s.regionKey r) pa (leBytes 8 (putBits (s.physValue (s.regionKey r) pa 8) 0 1 1))
  | none => s

/-- Keep the leaf of a found frame in a die's KVTB (R84); every miss sets REF in the frame's entry of the KV frame table (R422). -/
def State.keepKv (s : State) (p : Party) (seq : Nat) (c : Card) (layer plane block f : Nat) : State :=
  match s.leafAt (s.regionKey p.region) c.root layer plane block with
  | .leaf pa =>
    let d := s.die p.die
    let e : KvtbEntry := ⟨seq, layer, plane, block, f, pa⟩
    (if e ∈ d.kvtb then s else s.setDie p.die { d with kvtb := (e :: d.kvtb).take Config.kvtbEntries }).frameRef c.region pa
  | _ => s

/-- An access to a KV block: a miss is walked by a core of the die (R84, R399). What the operation under way keeps translated is none. -/
def State.cacheKv (s : State) (p : Party) (seq : Nat) (c : Card) (layer plane block : Nat) : State :=
  if (s.keptBlock seq layer plane block).isSome || (s.kvHit p seq layer plane block).isSome then s
  else
    let t := s.count (some p.die) 6 1
    match s.kvWalk p c layer plane block with
    | .frame f => (t.putCore (missCore p.die) (walkResult
        (BitVec.ofNat 64 (plane * 2 ^ 52 + seq * 2 ^ 32 + layer * 2 ^ 24 + block * 16)) 0 (BitVec.ofNat 64 p.region) (.ok (f, 3)))).keepKv p seq c layer plane block f
    | _ => t

/-- The addresses of the block-table entries that a walk for a leaf reads (R406). -/
def State.leafPath (s : State) (key root layer plane block : Nat) : List Nat :=
  let a := root + (layer * 2 + plane) * 8
  let e := s.physValue key a 8
  let b := bits e 12 40 * 4096 + bits block 9 11 * 8
  if !e.testBit 0 then [a]
  else match s.leafAt key root layer plane block with
    | .leaf pa => [a, b, pa]
    | _ => [a, b]

/-- An access to n bytes at a physical address inside a KV block: the miss of its leaf with the card and the tables that its walk reads, and
what it reads itself. -/
def State.touchKv (s : State) (v : EccVictim) (p : Party) (seq : Nat) (c : Card) (layer plane block pa n : Nat) (write : Bool) : State :=
  let key := s.regionKey p.region
  let t :=
    if (s.keptBlock seq layer plane block).isSome || (s.kvHit p seq layer plane block).isSome then s
    else (((s.leafPath key c.root layer plane block).foldl (fun u e => u.reads v key e 8)
      (s.reads v noKey (s.cardPa seq) 128)).cacheKv p seq c layer plane block)
  if write then t else t.reads v key pa n

/-- The exact value of element (t, h, d) of a block at a frame (R82). -/
def State.kvElem (s : State) (key : Nat) (c : Card) (frame t h d : Nat) : Num :=
  let row := frame + (t * c.heads + h) * kvRowBytes c.kvf c.d
  if blockBytes c.kvf = 0 then
    let n := fmtBits c.kvf / 8
    decodeElem c.kvf (s.physValue key (row + d * n) n)
  else
    let bb := blockBytes c.kvf
    decodeKb ((kbM c.kvf).getD 2) (s.physValue key (row + d / 16 * bb) bb) (d % 16)

end Sys2Proof.Machine
end

