-- ==== Sys2Proof/Machine/Seat.lean ====
section
/-!
DEFINITION. Where contexts stand and what they hold: time, contexts, engines, the registers of both, and the reads
inside a latency bound (R13 to R16, R171, R172, R175 to R177).
-/
namespace Sys2Proof.Machine

/-- What a step answers. -/
abbrev Answer := Host.Outcome State Fault Refusal

/-! ## Time (R2, R27) -/

/-- Package time in ns. -/
def State.time (s : State) : Nat := s.now / 13

/-- Die cycles of a die at package time `now` (R222). -/
def State.cycleOf (s : State) (d : Nat) : Nat :=
  let x := s.die d
  x.clkBase + (s.now - x.clkSince) * x.clkMhz / 13000

/-! ## Places -/

/-- The die a place lies on. -/
def Place.die : Place → Nat
  | .gang g _ => g / Config.gangsPerDie
  | .landing d _ _ _ => d
  | .parked d _ => d

/-- The package gang whose engines the place drives. -/
def Place.gangNo : Place → Nat
  | .gang g _ => g
  | .landing _ _ g _ => g
  | .parked _ _ => 0

/-- The number of the context whose engine registers the place uses (R45). -/
def Place.engCtx : Place → Nat
  | .gang _ k => k
  | .landing _ _ _ k => k
  | .parked _ _ => 0

/-- The context number on the place's own sequencer. -/
def Place.ctxNo : Place → Nat
  | .gang _ k => k
  | .landing _ l _ _ => l % 2
  | .parked _ _ => 0

/-- Whether the context is resident. -/
def Place.resident : Place → Bool
  | .parked _ _ => false
  | _ => true

/-- Key of the place's sequencer: gangs 0 to 159, then landings. -/
def Place.seqKey : Place → Nat
  | .gang g _ => g
  | .landing d l _ _ => Config.gangs + d * Config.landingsPerDie + l / 2
  | .parked _ _ => 0

/-! ## Contexts -/

/-- A context's record. -/
def State.ctxAt (s : State) (cid : Nat) : Ctx := tableGet s.ctxs cid {}

/-- Change a context's record. -/
def State.setCtx (s : State) (cid : Nat) (c : Ctx) : State := { s with ctxs := tableInsert s.ctxs cid c }

/-- Apply a change to a context. -/
def State.modCtx (s : State) (cid : Nat) (f : Ctx → Ctx) : State := s.setCtx cid (f (s.ctxAt cid))

/-- The context in focus. -/
def State.me (s : State) : Ctx := s.ctxAt s.focus

/-- The context in focus as its bundle reads it (R174). -/
def State.was (s : State) : Ctx :=
  match s.issue.pre with
  | some p => p.ctx
  | none => s.me

/-- Apply a change to the context in focus. -/
def State.mod (s : State) (f : Ctx → Ctx) : State := s.modCtx s.focus f

/-- Whether the context runs on a landing. -/
def Ctx.isLanding (c : Ctx) : Bool := c.parent ≠ 0

/-- The gang context that holds the items, the groups and the operations of a context (R45, R150). -/
def State.ownerOf (s : State) (cid : Nat) : Nat :=
  let c := s.ctxAt cid
  if c.isLanding then c.parent else cid

/-- The owner of the context in focus. -/
def State.owner (s : State) : Nat := s.ownerOf s.focus

/-- Landing contexts that a context has split off. -/
def State.landingsOf (s : State) (cid : Nat) : List Nat :=
  (s.ctxs.filter (fun e => e.2.parent == cid && e.2.isLanding)).map Prod.fst

/-- The party that a context is (R100). -/
def State.partyOf (s : State) (cid : Nat) : Party := ⟨(s.ctxAt cid).region, (s.ctxAt cid).place.die⟩

/-- The party in focus. -/
def State.party (s : State) : Party := s.partyOf s.focus

/-- What finding the home of a flat address leaves: its miss, and no access (R399). -/
def State.findHome (s : State) (a : Acc4) (va : Dword) : State := s.touch (.context s.focus) s.party a va.toNat 0

/-- The die cycle of the context in focus. -/
def State.cycle (s : State) : Nat := s.cycleOf s.me.place.die

/-- The other resident context of the sequencer, if there is one (R22). -/
def State.otherOn (s : State) (cid : Nat) : Option Nat :=
  let c := s.ctxAt cid
  (s.ctxs.find? (fun e => e.1 ≠ cid && e.2.place.resident && e.2.place.seqKey == c.place.seqKey)).map Prod.fst

/-- The context that sits at a place of a gang (R22). -/
def State.ctxOn (s : State) (g k : Nat) : Option Nat :=
  (s.ctxs.find? (fun e => e.2.place == .gang g k)).map Prod.fst

/-! ## Engines -/

/-- Key of engine e of package gang g. -/
def engKey (g e : Nat) : Nat := g * 16 + e

/-- The stochastic generator after a seed x, in engine e (R134). -/
def seedGen (x : Nat) (e : Nat) : Word :=
  let v := (x ^^^ (e * 0x9E3779B9)) % 2 ^ 32
  if v = 0 then 1 else BitVec.ofNat 32 v

/-- An engine as reset leaves it (R134, R138). -/
def engReset (e : Nat) : Engine := { gen := seedGen 0 e }

/-- Engine e of gang g. -/
def State.eng (s : State) (g e : Nat) : Engine := tableGet s.engines (engKey g e) (engReset e)

/-- Change an engine. -/
def State.setEng (s : State) (g e : Nat) (x : Engine) : State := { s with engines := tableInsert s.engines (engKey g e) x }

/-- Apply a change to an engine. -/
def State.modEng (s : State) (g e : Nat) (f : Engine → Engine) : State := s.setEng g e (f (s.eng g e))

/-- The registers of context number k. -/
def Engine.part (x : Engine) (k : Nat) : EngCtx := if k = 0 then x.c0 else x.c1

/-- Change the registers of context number k. -/
def Engine.setPart (x : Engine) (k : Nat) (c : EngCtx) : Engine := if k = 0 then { x with c0 := c } else { x with c1 := c }

/-- Engine e of the context in focus. -/
def State.myEng (s : State) (e : Nat) : Engine := s.eng s.me.place.gangNo e

/-- Engine e of the context in focus as the bundle reads it (R174). -/
def State.wasEng (s : State) (e : Nat) : Engine :=
  match s.issue.pre with
  | some p => tableGet p.engines (engKey s.me.place.gangNo e) (engReset e)
  | none => s.myEng e

/-- The registers in engine e that the bundle reads. -/
def State.wasPart (s : State) (e : Nat) : EngCtx := (s.wasEng e).part s.me.place.engCtx

/-- Apply a change to engine e of the context in focus. -/
def State.onEng (s : State) (e : Nat) (f : Engine → Engine) : State := s.modEng s.me.place.gangNo e f

/-- Apply a change to the context's registers in engine e. -/
def State.onPart (s : State) (e : Nat) (f : EngCtx → EngCtx) : State :=
  s.onEng e (fun x => x.setPart s.me.place.engCtx (f (x.part s.me.place.engCtx)))

/-! ## Registers as they stand -/

/-- Scalar n; s0 reads zero. -/
def Ctx.sreg (c : Ctx) (n : Nat) : Dword := if n = 0 then 0 else tableGet c.scalars n 0
/-- Write scalar n; a write of s0 is discarded (R172). -/
def Ctx.putS (c : Ctx) (n : Nat) (v : Dword) : Ctx := if n = 0 then c else { c with scalars := tableSet c.scalars n v 0 }
/-- Flag n; f0 is true. -/
def Ctx.flag (c : Ctx) (n : Nat) : Bool := n == 0 || c.flags.getLsbD n
/-- Write flag n; a write of f0 is discarded. -/
def Ctx.putF (c : Ctx) (n : Nat) (b : Bool) : Ctx :=
  if n = 0 then c else { c with flags := BitVec.ofNat 8 (putBits c.flags.toNat n 1 (bit b)) }
/-- Handle n. -/
def Ctx.handle (c : Ctx) (n : Nat) : Word := tableGet c.handles n 0
/-- Write handle n. -/
def Ctx.putH (c : Ctx) (n : Nat) (v : Word) : Ctx := { c with handles := tableSet c.handles n v 0 }
/-- Rejoin mask n. -/
def Ctx.rejoin (c : Ctx) (n : Nat) : Rejoin := tableGet c.rejoins n ⟨0, 0, 0, 0, 0⟩
/-- Write rejoin mask n. -/
def Ctx.putJ (c : Ctx) (n : Nat) (v : Rejoin) : Ctx := { c with rejoins := tableSet c.rejoins n v ⟨0, 0, 0, 0, 0⟩ }
/-- Port parameter set n. -/
def Ctx.portSet (c : Ctx) (n : Nat) : PortSet := tableGet c.ports n ⟨0, 0, 0, 0, 0⟩
/-- Write port parameter set n. -/
def Ctx.putG (c : Ctx) (n : Nat) (v : PortSet) : Ctx := { c with ports := tableSet c.ports n v ⟨0, 0, 0, 0, 0⟩ }
/-- Stack depth. -/
def Ctx.depth (c : Ctx) : Nat := c.stack.length

/-- Whether a loop acts where the context stands: one set before a trap sleeps in the handler (R207, R208). -/
def LoopState.acts (l : LoopState) (sup : Bool) : Bool := l.sup || !sup

/-- The loop that acts, if one is set. -/
def Ctx.loopNow (c : Ctx) : Option LoopState := c.loop.filter (fun l => l.acts c.sup)

/-- Vector register n. -/
def EngCtx.vreg (x : EngCtx) (n : Nat) : Vec := tableGet x.v n 0
/-- Write vector register n. -/
def EngCtx.putV (x : EngCtx) (n : Nat) (v : Vec) : EngCtx := { x with v := tableSet x.v n v 0 }
/-- Engine predicate n; p0 is true. -/
def EngCtx.pred (x : EngCtx) (n : Nat) : Bool := n == 0 || x.p.getLsbD n
/-- Write engine predicate n; a write of p0 is discarded. -/
def EngCtx.putP (x : EngCtx) (n : Nat) (b : Bool) : EngCtx :=
  if n = 0 then x else { x with p := BitVec.ofNat 8 (putBits x.p.toNat n 1 (bit b)) }
/-- Lane predicate n; q0 is all ones. -/
def EngCtx.qreg (x : EngCtx) (n : Nat) : LaneMask := if n = 0 then BitVec.allOnes 64 else tableGet x.q n 0
/-- Write lane predicate n; a write of q0 is discarded. -/
def EngCtx.putQ (x : EngCtx) (n : Nat) (v : LaneMask) : EngCtx := if n = 0 then x else { x with q := tableSet x.q n v 0 }
/-- Shape register n. -/
def EngCtx.zreg (x : EngCtx) (n : Nat) : Dword := tableGet x.z n 0
/-- Write shape register n. -/
def EngCtx.putZ (x : EngCtx) (n : Nat) (v : Dword) : EngCtx := { x with z := tableSet x.z n v 0 }
/-- Accumulator n. -/
def EngCtx.accum (x : EngCtx) (n : Nat) : Acc := tableGet x.acc n 0
/-- Write accumulator n. -/
def EngCtx.putA (x : EngCtx) (n : Nat) (v : Acc) : EngCtx := { x with acc := tableSet x.acc n v 0 }
/-- Drain status of accumulator n. -/
def EngCtx.drainOf (x : EngCtx) (n : Nat) : Byte := tableGet x.drain n 0
/-- Raise sticky flags (R142). -/
def EngCtx.raise (x : EngCtx) (f : Flags) : EngCtx := { x with fstat := x.fstat ||| f }

/-- A value as KCUR holds it: bits 59 to 56 are reserved and read as zero (R5, R290). -/
def kcurBits (v : Nat) : Dword := BitVec.ofNat 64 (v % 2 ^ 56 + bits v 60 4 * 2 ^ 60)

/-- Operand slot n; a slot lost at gang-idle holds free values, its scale side-area too (R126, R430). -/
def Engine.slot (x : Engine) (n : Nat) : OSlot :=
  match tableFind x.slots n with
  | some o => o
  | none => if x.lost = 0 then {} else
    { data := BitVec.ofNat 65536 (packBits 8 8192 (fun i => Config.freeBits x.lost (2 ^ 40 + n * 2 ^ 20 + i)))
      scale := BitVec.ofNat 4096 (packBits 8 512 (fun i => Config.freeBits x.lost (2 ^ 40 + n * 2 ^ 20 + 8192 + i))) }

/-- Operand slot n of engine e of gang g. -/
def State.slotAt (s : State) (g e n : Nat) : OSlot := (s.eng g e).slot n

/-- Write operand slot n. -/
def Engine.putO (x : Engine) (n : Nat) (o : OSlot) : Engine := { x with slots := tableInsert x.slots n o }

/-- A scratchpad byte; what gang-idle lost is a free value (R430). -/
def Engine.byte (x : Engine) (a : Nat) : Byte :=
  match tableFind x.spad a with
  | some b => b
  | none => if x.lost = 0 then 0 else BitVec.ofNat 8 (Config.freeBits x.lost a)

/-- Write scratchpad bytes from a up. -/
def Engine.putBytes : Engine → Nat → List Byte → Engine
  | x, _, [] => x
  | x, a, b :: bs =>
    Engine.putBytes { x with spad := if x.lost = 0 then tableSet x.spad a b 0 else tableInsert x.spad a b } (a + 1) bs

/-! ## Reads inside a latency bound (R175, R176) -/

/-- A code for a destination, the index of its free values. -/
def Dest.code : Dest → Nat
  | .s n => n
  | .f n => 32 + n
  | .h n => 40 + n
  | .cr n => 64 + n
  | .v e n => 4096 + 256 * e + n
  | .p e n => 4096 + 256 * e + 32 + n
  | .q e n => 4096 + 256 * e + 40 + n
  | .z e n => 4096 + 256 * e + 48 + n
  | .acc e n => 4096 + 256 * e + 56 + n
  | .slot e n => 4096 + 256 * e + 64 + n
  | .tag e n => 4096 + 256 * e + 96 + n
  | .drain e n => 4096 + 256 * e + 128 + n

/-- Unit by unit, the new value or the older one, as free values choose. -/
def mixUnits (free key w n new old : Nat) : Nat :=
  packBits w n (fun i => if (Config.freeBits free (key + i)).testBit 0 then bits new (w * i) w else bits old (w * i) w)

/-- Unit i as a reader of cycle cyc finds it, from the writes of its destination, newest first: `cur` is the newest value. A write that
has settled is the value; one inside its bound is, or what was there before. -/
def settleUnit (free cyc : Nat) (seq : Bool) (code w i : Nat) : List InFlight → Nat → Nat → Nat
  | [], _, cur => cur
  | e :: t, depth, cur =>
    if !(e.units.testBit i) then settleUnit free cyc seq code w i t (depth + 1) cur
    else if cyc < (if seq then e.seqDue else e.due) then
      (if (Config.freeBits free (code * 2 ^ 24 + depth * 2 ^ 16 + i)).testBit 0 then cur
       else settleUnit free cyc seq code w i t (depth + 1) (bits e.old (w * i) w))
    else cur

/-- The value read in cycle cyc, unit by unit. -/
def settleWith (free cyc : Nat) (seq : Bool) (code w n : Nat) (l : List InFlight) (cur : Nat) : Nat :=
  packBits w n (fun i => settleUnit free cyc seq code w i l 0 (bits cur (w * i) w))

/-- The value that the word being issued reads at destination d: n units of w bits, whose settled value is cur. A receive
whose element has not come yet has left the older value; an element that lands inside the bound is mixed in (R264). -/
def State.inBound (s : State) (d : Dest) (seq : Bool) (w n cur : Nat) : Nat :=
  match s.was.inflight.filter (fun e => e.dest == d) with
  | [] => cur
  | l => settleWith s.free s.cycle seq d.code w n l cur

/-- Drop writes that have settled, and the units of older writes that a settled one has written (R176). -/
def pruneInFlight (cyc : Nat) : List InFlight → List (Dest × Nat) → List InFlight
  | [], _ => []
  | e :: t, dead =>
    let left := dead.foldl (fun u d => if d.1 = e.dest then lessBits u d.2 else u) e.units
    if left = 0 then pruneInFlight cyc t dead
    else if max e.due e.seqDue ≤ cyc then pruneInFlight cyc t ((e.dest, e.units) :: dead)
    else { e with units := left } :: pruneInFlight cyc t dead

/-- Every unit that a destination has, and the tags of a slot above them. -/
def wholeDest : Nat := 2 ^ 16385 - 1

/-- The bit of a slot's units that stands for its format tag. -/
def tagUnit : Nat := 2 ^ 16384

/-- A later word has written some units of d: a receive that lands late does not overwrite them (R176). -/
def Ctx.outlive (c : Ctx) (d : Dest) (units : Nat) : Ctx :=
  { c with recvs := c.recvs.map (fun r => if r.dest = some d then { r with taken := r.taken ||| units } else r) }

/-- A result overrides every earlier write of some units of d (R176). -/
def Ctx.supersede (c : Ctx) (d : Dest) (units : Nat) : Ctx :=
  { c with inflight := c.inflight.filterMap (fun e =>
      if e.dest = d then (if lessBits e.units units = 0 then none else some { e with units := lessBits e.units units }) else some e) }

/-- Record a write of some units of d in cycle cyc with bound L (R175). Readers of engine state at the sequencer see it 8 cycles
later. -/
def Ctx.noteIn (c : Ctx) (units : Nat) (d : Dest) (old cyc L : Nat) (engine : Bool) : Ctx :=
  let due := cyc + L
  let seqDue := if engine then due + 8 else due
  if seqDue ≤ cyc + 1 then (c.outlive d units).supersede d units
  else { c.outlive d units with inflight := ⟨d, units, old, due, seqDue⟩ :: c.inflight }

/-- Record a write of the whole of d. -/
def Ctx.note (c : Ctx) (d : Dest) (old cyc L : Nat) (engine : Bool) : Ctx := c.noteIn wholeDest d old cyc L engine

/-- Mark a destination pending (R177, held), some units of which the word writes: its result overrides every earlier write of
them (R176). -/
def Ctx.hold (c : Ctx) (d : Dest) (units : Nat) : Ctx :=
  let c1 := (c.outlive d units).supersede d units
  { c1 with pending := d :: c1.pending }

/-! ## Reads and writes of the word being issued -/

/-- Scalar n. -/
def State.rS (s : State) (n : BitVec 5) : Dword :=
  BitVec.ofNat 64 (s.inBound (.s n.toNat) true 32 2 (s.was.sreg n.toNat).toNat)

/-- Flag n. -/
def State.rF (s : State) (n : BitVec 3) : Bool :=
  if n = 0 then true else (s.inBound (.f n.toNat) true 1 1 (bit (s.was.flag n.toNat))).testBit 0

/-- Handle n. -/
def State.rH (s : State) (n : BitVec 3) : Word := BitVec.ofNat 32 (s.inBound (.h n.toNat) true 32 1 (s.was.handle n.toNat).toNat)

/-- Vector register n of engine e. -/
def State.rV (s : State) (e n : Nat) : Vec := BitVec.ofNat 2048 (s.inBound (.v e n) false 32 64 ((s.wasPart e).vreg n).toNat)

/-- Engine predicate n of engine e, in the engine. -/
def State.rP (s : State) (e : Nat) (n : BitVec 3) : Bool :=
  if n = 0 then true else (s.inBound (.p e n.toNat) false 1 1 (bit ((s.wasPart e).pred n.toNat))).testBit 0

/-- Engine predicate n of engine e, at the sequencer. -/
def State.rPseq (s : State) (e : Nat) (n : BitVec 3) : Bool :=
  if n = 0 then true else (s.inBound (.p e n.toNat) true 1 1 (bit ((s.wasPart e).pred n.toNat))).testBit 0

/-- Lane predicate n of engine e. -/
def State.rQ (s : State) (e : Nat) (n : BitVec 3) : LaneMask :=
  if n = 0 then BitVec.allOnes 64 else BitVec.ofNat 64 (s.inBound (.q e n.toNat) false 1 64 ((s.wasPart e).qreg n.toNat).toNat)

/-- Shape register n of engine e. -/
def State.rZ (s : State) (e : Nat) (n : Nat) : Dword := BitVec.ofNat 64 (s.inBound (.z e n) false 32 2 ((s.wasPart e).zreg n).toNat)

/-- Owner and tags of a slot as one value of two units: the tags, then the owner. -/
def OSlot.tagBits (o : OSlot) : Nat := o.fmt.toNat + o.tag.toNat * 2 ^ 16 + o.owner * 2 ^ 64

/-- A slot with owner and tags from such a value. -/
def OSlot.withTags (o : OSlot) (x : Nat) : OSlot :=
  { o with fmt := BitVec.ofNat 4 x, tag := BitVec.ofNat 16 (x / 2 ^ 16), owner := x / 2 ^ 64 }

/-- Operand slot n of engine e. -/
def State.rO (s : State) (e n : Nat) : OSlot :=
  let o := (s.wasEng e).slot n
  ({ o with data := BitVec.ofNat 65536 (s.inBound (.slot e n) false 4 16384 o.data.toNat) } : OSlot).withTags
    (s.inBound (.tag e n) false 64 2 o.tagBits)

/-- The engines of the active mask. -/
def State.actives (s : State) : List Nat := eids s.was.active

/-- A later word of the bundle that starts an operation writes the operation's token scalar: that value stands, and the operation
writes no token (R174, R176). -/
def State.tokenLost (s : State) (n : Nat) : State :=
  if s.me.tokens.getLsbD n then
    ({ s with ops := s.ops.map (fun e => if e.2.who = s.focus ∧ e.2.token = n then (e.1, { e.2 with token := 0 }) else e) } : State).mod
      (fun c => { c with tokens := c.tokens &&& ~~~(BitVec.ofNat 32 (2 ^ n)) })
  else s

/-- Write scalar n with a numbered bound. -/
def State.wS (s : State) (n : BitVec 5) (v : Dword) (L : Nat) : State :=
  if n = 0 then s
  else (s.tokenLost n.toNat).mod (fun c => (c.note (.s n.toNat) (c.sreg n.toNat).toNat s.cycle L false).putS n.toNat v)

/-- Write scalar n with the held mark: it stays pending until its data returns. -/
def State.wSheld (s : State) (n : BitVec 5) (v : Dword) : State :=
  if n = 0 then s else s.mod (fun c => (c.putS n.toNat v).hold (.s n.toNat) wholeDest)

/-- Write flag n with a numbered bound. -/
def State.wF (s : State) (n : BitVec 3) (b : Bool) (L : Nat) : State :=
  if n = 0 then s
  else
    let t := s.mod (fun c => (c.note (.f n.toNat) (bit (c.flag n.toNat)) s.cycle L false).putF n.toNat b)
    if n = 1 then { t with issue := { t.issue with f1At := some s.issue.word } } else t

/-- Write handle n; its words write it at once. -/
def State.wH (s : State) (n : BitVec 3) (v : Word) : State := s.mod (fun c => (c.note (.h n.toNat) 0 s.cycle 1 false).putH n.toNat v)

/-- Write some lanes of vector register n of engine e with a numbered bound; v holds the whole register. -/
def State.wVlanes (s : State) (e n : Nat) (v : Vec) (L : Nat) (units : Nat) : State :=
  let old := ((s.myEng e).part s.me.place.engCtx).vreg n
  (s.onPart e (fun x => x.putV n v)).mod (fun c => c.noteIn units (.v e n) old.toNat s.cycle L true)

/-- Write vector register n of engine e with a numbered bound. -/
def State.wV (s : State) (e n : Nat) (v : Vec) (L : Nat) : State := s.wVlanes e n v L wholeDest

/-- Write some lanes of vector register n of engine e with the held mark; v holds the whole register. -/
def State.wVheld (s : State) (e n : Nat) (v : Vec) (units : Nat) : State :=
  (s.onPart e (fun x => x.putV n v)).mod (fun c => c.hold (.v e n) units)

/-- Write engine predicate n of engine e. -/
def State.wP (s : State) (e : Nat) (n : BitVec 3) (b : Bool) (L : Nat) : State :=
  if n = 0 then s else
  let old := ((s.myEng e).part s.me.place.engCtx).pred n.toNat
  (s.onPart e (fun x => x.putP n.toNat b)).mod (fun c => c.note (.p e n.toNat) (bit old) s.cycle L true)

/-- Write lane predicate n of engine e. -/
def State.wQ (s : State) (e : Nat) (n : BitVec 3) (v : LaneMask) (L : Nat) : State :=
  if n = 0 then s else
  let old := ((s.myEng e).part s.me.place.engCtx).qreg n.toNat
  (s.onPart e (fun x => x.putQ n.toNat v)).mod (fun c => c.note (.q e n.toNat) old.toNat s.cycle L true)

/-- Write shape register n of engine e. -/
def State.wZ (s : State) (e : Nat) (n : BitVec 3) (v : Dword) (L : Nat) : State :=
  let old := ((s.myEng e).part s.me.place.engCtx).zreg n.toNat
  (s.onPart e (fun x => x.putZ n.toNat v)).mod (fun c => c.note (.z e n.toNat) old.toNat s.cycle L true)

/-- Write owner and tags of operand slot n of engine e with a numbered bound; `fmt` tells whether the word writes the format tag. -/
def State.wTags (s : State) (e n : Nat) (f : OSlot → OSlot) (fmt : Bool) (L : Nat) : State :=
  let old := (s.myEng e).slot n
  (s.onEng e (fun x => x.putO n (f (x.slot n)))).mod (fun c =>
    (c.outlive (.slot e n) (if fmt then tagUnit else 0)).note (.tag e n) old.tagBits s.cycle L false)

/-- Write some 4-bit units of operand slot n of engine e with a numbered bound, with its owner and tags where `tagUnit` is among
them; o holds the whole slot. -/
def State.wOpart (s : State) (e n : Nat) (o : OSlot) (L units : Nat) : State :=
  let old := (s.myEng e).slot n
  (s.onEng e (fun x => x.putO n o)).mod (fun c =>
    let c1 := c.noteIn units (.slot e n) old.data.toNat s.cycle L false
    if units.testBit 16384 then c1.note (.tag e n) old.tagBits s.cycle L false else c1)

/-- Write operand slot n of engine e with a numbered bound: its contents, its owner and its tags. -/
def State.wO (s : State) (e n : Nat) (o : OSlot) (L : Nat) : State := s.wOpart e n o L wholeDest

/-- The newest of some seeds that has taken effect, and those after it. -/
def seedTaken (takes : Nat → Bool) : List (Nat × Word) → Option (Word × List (Nat × Word))
  | [] => none
  | e :: t => (seedTaken takes t).or (if takes e.1 then some (e.2, t) else none)

/-- An engine's generator once the newest of its seeds that has taken effect stands; `takes` tells of a seed's cycle whether it has
(R134, R221). -/
def Engine.seeded (x : Engine) (takes : Nat → Bool) : Engine :=
  match seedTaken takes x.seed with
  | some (w, rest) => { x with gen := w, seed := rest }
  | none => x

/-- Engine e as the word draws from its generator: a seed of an earlier cycle inside its bound has taken effect or not (R175). -/
def State.drawing (s : State) (e : Nat) : Engine :=
  (s.myEng e).seeded (fun due => decide (due ≤ s.cycle) ||
    (decide (due < s.cycle + 3) && (Config.freeBits s.free (2 ^ 51 + due % 8 * 16 + e)).testBit 0))

/-- Leave the generator of engine e as a word's draws have. -/
def State.drawn (s : State) (e gen : Nat) : State := s.setEng s.me.place.gangNo e { s.drawing e with gen := BitVec.ofNat 32 gen }

/-- Raise sticky flags in engine e (R142). -/
def State.raise (s : State) (e : Nat) (f : Flags) : State := s.onPart e (fun x => x.raise f)

end Sys2Proof.Machine
end

