-- ==== Sys2Proof/Machine/Hall.lean ====
section
/-!
DEFINITION. The hall: group operations in the group order, and channel endpoints (R147 to R164, R268).
-/
namespace Sys2Proof.Machine

/-! ## Delivery of results to a context, resident or parked (R59, R218) -/

/-- Write scalar n of a context; of a parked one, in its save area (R391). -/
def State.deliverS (s : State) (cid n : Nat) (v : Dword) : State :=
  let c := s.ctxAt cid
  if n = 0 then s
  else match c.place with
    | .parked d a => s.flatStoreRaw ⟨c.region, d⟩ (a.toNat + 8 * n) (leBytes 8 v.toNat)
    | _ => s.setCtx cid { c.putS n v with inflight := c.inflight.filter (fun e => e.dest ≠ .s n) }

/-- Write f1 of a context; of a parked one, in its save area (R391). -/
def State.deliverF1 (s : State) (cid : Nat) (b : Bool) : State :=
  let c := s.ctxAt cid
  match c.place with
  | .parked d a =>
    let p : Party := ⟨c.region, d⟩
    let old := leValue (s.flatLoad p (a.toNat + 0x100) 1)
    s.flatStoreRaw p (a.toNat + 0x100) (leBytes 1 (putBits old 1 1 (bit b)))
  | _ => s.setCtx cid { c.putF 1 b with inflight := c.inflight.filter (fun e => e.dest ≠ .f 1) }

/-! ## Handles and members (R147, R148) -/

/-- A group entry. -/
def State.groupAt (s : State) (gid : Nat) : Group := tableGet s.groups gid {}

/-- Change a group entry. -/
def State.setGroup (s : State) (gid : Nat) (g : Group) : State := { s with groups := tableInsert s.groups gid g }

/-- The handle of a position (R147). -/
def handleOf (inc pos gid : Nat) : Word := BitVec.ofNat 32 (inc * 2 ^ 24 + pos * 2 ^ 16 + gid)

/-- A member record of a group, leaving and removed members apart. -/
def Group.memberOf (g : Group) (w : Who) : Option Member :=
  g.members.find? (fun m => m.who == w && !m.removed && m.leaveGen.isNone)

/-- The group and member that a handle names for a holder (R148). -/
def State.byHandle (s : State) (h : Nat) (w : Who) : Option (Nat × Member) :=
  let gid := bits h 0 12
  let g := s.groupAt gid
  match g.memberOf w with
  | some m =>
    if g.state ≠ .free ∧ g.inc = bits h 24 8 ∧ m.pos = bits h 16 8 ∧ bits h 12 4 = 0 then some (gid, m) else none
  | none => none

/-- Replace a member's record. -/
def Group.setMember (g : Group) (m : Member) : Group :=
  { g with members := g.members.map (fun x => if x.who == m.who && !x.removed && x.leaveGen.isNone then m else x) }

/-- The live group of a name (R149). -/
def State.groupNamed (s : State) (name : Nat) : Option Nat :=
  (s.groups.find? (fun e => e.2.state ≠ .free && e.2.name.toNat == name)).map Prod.fst

/-- Positions held in a group (R152). -/
def Group.held (g : Group) : List Nat := g.members.map Member.pos

/-- The first number below n that is not in a list. -/
def firstFree (l : List Nat) (n : Nat) : Option Nat := (List.range n).find? (fun i => !l.contains i)

/-- An incarnation's successor (R147, R269). -/
def nextInc (n : Nat) : Nat := if 255 ≤ n then 1 else n + 1

/-! ## Results of a generation (R156 to R158) -/

/-- Identity of a GRDC operation (R158). -/
def grdcIdentity (op : Nat) : Dword :=
  match op with
  | 1 => 0x7FFFFFFFFFFFFFFF | 2 => 0x8000000000000000 | 3 => BitVec.allOnes 64 | 5 => BitVec.allOnes 64 | 8 => 0x80000000 | _ => 0

/-- A GRDC operation (R158). -/
def grdcOp (op : Nat) (a b : Dword) : Dword :=
  match op with
  | 0 => a + b
  | 1 => if a.slt b then a else b
  | 2 => if a.slt b then b else a
  | 3 => if a < b then a else b
  | 4 => if a < b then b else a
  | 5 => a &&& b
  | 6 => a ||| b
  | 7 => a ^^^ b
  | _ => BitVec.ofNat 64 (fadd32 (bits a.toNat 0 32) (bits b.toNat 0 32)).1

/-- Result and count of GRDC in a generation (R158, R141). -/
def Group.reduced (g : Group) (gen op : Nat) : Dword × Dword :=
  let cs := g.contribs.filter (fun c => c.gen == gen && c.op == op)
  let leaf (i : Nat) : Dword := match cs.find? (fun c => c.pos == i) with
    | some c => if op = 8 then BitVec.ofNat 64 (bits c.value.toNat 0 32) else c.value
    | none => grdcIdentity op
  ((treeReduce (grdcOp op) 8 ((List.range 256).map leaf)).headD 0, BitVec.ofNat 64 cs.length)

/-- Result of GVOTE in a generation (R157). -/
def Group.votes (g : Group) (gen : Nat) : Dword :=
  let cs := g.contribs.filter (fun c => c.gen == gen && c.op == 16)
  BitVec.ofNat 64 ((cs.filter (fun c => c.value ≠ 0)).length % 65536 + (cs.length % 65536) * 65536)

/-- What a generation of a group gives an arrival of operation `op` (R156 to R158). -/
def Group.outcome (g : Group) (gen op : Nat) : Outcome :=
  if op = 16 then ⟨!g.lostNow, g.votes gen, 0⟩
  else if op < 16 then ⟨!g.lostNow, (g.reduced gen op).1, (g.reduced gen op).2⟩
  else ⟨!g.lostNow, 0, 0⟩

/-- An arrival takes what its generation gives it. -/
def Met.given (m : Met) (gid gen : Nat) (g : Group) : Met :=
  if m.gid = gid ∧ m.gen = some gen then { m with got := some (g.outcome gen m.op) } else m

/-- Write the results of an arrival of a context: f1, then what GVOTE and GRDC give, the count last (R217, R218). -/
def State.deliverMet (s : State) (cid : Nat) (m : Met) (o : Outcome) : State :=
  ((s.deliverF1 cid o.kept).deliverS cid m.sD o.first).deliverS cid m.sC o.second

/-- Give one context, where it waits on a generation, what it gives, in its handler or out of it; while it is parked the results
are written into its save area (R59, R218). -/
def State.wakeOne (s : State) (gid gen : Nat) (g : Group) (cid : Nat) : State :=
  let c := s.ctxAt cid
  let t := s.setCtx cid { c with met := c.met.map (fun m => m.given gid gen g), outerMet := c.outerMet.map (fun m => m.given gid gen g) }
  match c.met with
  | some m => if m.gid = gid ∧ m.gen = some gen ∧ !c.place.resident then t.deliverMet cid m (g.outcome gen m.op) else t
  | none => t

/-- Give every context that waits on a generation what it gives. -/
def State.wakeGroup (s : State) (gid gen : Nat) (g : Group) : State :=
  (s.ctxs.map Prod.fst).foldl (fun t cid => t.wakeOne gid gen g cid) s

/-! ## Co-resident groups (R163, R164) -/

/-- Whether a context is a member of a group: also while its leave has not completed (R153, R163). -/
def Group.hasCtx (g : Group) (cid : Nat) : Bool := g.members.any (fun m => m.who == .ctx cid && !m.removed)

/-- Whether a member of a group is resident. -/
def State.memberResident (s : State) (m : Member) : Bool :=
  match m.who with
  | .ctx c => !m.removed && (s.ctxAt c).place.resident && (tableFind s.ctxs c).isSome
  | .porch _ _ => false

/-- Whether a member of a group is a context that is still there. -/
def State.memberCtx (s : State) (m : Member) : Bool :=
  match m.who with
  | .ctx c => !m.removed && (tableFind s.ctxs c).isSome
  | .porch _ _ => false

/-- Whether every context that a group still has is READY; with none left, nothing stands in the way. -/
def State.coresReady (s : State) (g : Group) : Bool :=
  g.members.all (fun m => !s.memberCtx m || (match m.who with
    | .ctx c => (s.ctxAt c).readyAt.isSome
    | .porch _ _ => true))

/-- The state of a co-resident group after a park, an end, a leave or a placement: PARKED once no context of it is resident, and
at once RESUMING when all are READY (R163, R164). -/
def State.coresState (s : State) (g : Group) : GroupState :=
  let stays := match g.state with
    | .parking => g.members.any s.memberResident
    | .parked => false
    | _ => true
  if stays then g.state else if s.coresReady g then .resuming else .parked

/-- Bring the states of all co-resident groups up to date. -/
def State.coresUpdate (s : State) : State :=
  { s with groups := s.groups.map (fun e => if e.2.cores then (e.1, { e.2 with state := s.coresState e.2 }) else e) }

/-- A park of a context moves its co-resident groups to PARKING (R163). -/
def State.coresPark (s : State) (cid : Nat) : State :=
  ({ s with groups := s.groups.map (fun (e : Nat × Group) =>
    if e.2.cores && e.2.state == GroupState.live && e.2.hasCtx cid then (e.1, { e.2 with state := .parking }) else e) } : State).coresUpdate

/-! ## Completion of generations (R155) -/

/-- Whether the current generation's condition holds. -/
def Group.ripe (g : Group) : Bool :=
  g.state ≠ .free && g.members.all (fun m => decide (g.gen < m.since) || m.removed || decide (g.gen < m.arrGen))

/-- The entry after generation n has completed. -/
def Group.advance (g : Group) : Group :=
  let ms := (g.members.filter (fun m => !m.removed && m.leaveGen ≠ some g.gen)).map (fun m =>
    if m.last = some g.gen then { m with lastLost := g.lostNow } else m)
  if ms.isEmpty then { inc := nextInc g.inc }
  else { g with members := ms, gen := g.gen + 1, lostNow := false, contribs := g.contribs.filter (fun c => c.gen ≠ g.gen) }

/-- Complete generations of a group while their condition holds; a leave that takes effect may let a co-resident group go on (R164). -/
def State.completeGroup : Nat → State → Nat → State
  | 0, s, _ => s
  | n + 1, s, gid =>
    let g := s.groupAt gid
    if g.ripe then State.completeGroup n ((s.wakeGroup gid g.gen g).setGroup gid g.advance).coresUpdate gid else s

/-- Generations that can complete in one step: arrivals count at most one ahead, leaves two (R153, R154). -/
def completeFuel : Nat := 4

/-! ## Arrivals, leaves, removals -/

/-- What an arrival brings. -/
structure Arrival where
  leave : Bool
  /-- 16 a vote, 0 to 8 a contribution, 32 neither. -/
  op    : Nat
  value : Dword
  deriving DecidableEq, Repr

/-- A plain arrival. -/
def Arrival.plain : Arrival := ⟨false, 32, 0⟩

/-- Enter an arrival of a member in the group order (R150, R154). -/
def State.enterArrival (s : State) (gid : Nat) (w : Who) (a : Arrival) : State :=
  let g := s.groupAt gid
  match g.memberOf w with
  | none => s
  | some m =>
    let m1 : Member := { m with
      arrGen := m.arrGen + 1, last := some m.arrGen, lastLost := false, sides := []
      leaveGen := if a.leave then some m.arrGen else none }
    let cs := if a.op < 32 then ⟨m.arrGen, m.pos, a.op, a.value⟩ :: g.contribs.filter (fun c => !(c.gen == m.arrGen && c.pos == m.pos)) else g.contribs
    State.completeGroup completeFuel (s.setGroup gid { g.setMember m1 with contribs := cs }) gid

/-- The contexts that must issue an arrival of a context: itself and its landings (R150). -/
def State.sidesOf (s : State) (cid : Nat) : List Nat := cid :: s.landingsOf cid

/-- Those of some sides that can still give an arrival of a context on a group: its contexts, and landings that have ended with a counted
arrival still to be registered (R113, R150). -/
def State.owing (s : State) (o gid : Nat) (l : List Nat) : List Nat :=
  l.filter (fun k => (s.sidesOf o).contains k || (s.ctxAt o).counted.any (fun a => a.gid == gid && a.side == k))

/-- An arrival of member `o` issued by its side `cid`, which the sides `owed` owe where none has given it yet (R150, R59). Where the two sides of a split give a generation different
votes or contributions, that of the side which comes last stands: DESIGN CHOICE, log 39. -/
def State.arrive (s : State) (cid o gid : Nat) (owed : List Nat) (a : Arrival) : State :=
  let g := s.groupAt gid
  match g.memberOf (.ctx o) with
  | none => s
  | some m =>
    let here := cid :: m.sides
    let all := if m.sides.isEmpty then owed else m.owed
    if (s.owing o gid all).all (fun c => here.contains c) then s.enterArrival gid (.ctx o) a
    else
      let cs := if a.op < 32 then ⟨m.arrGen, m.pos, a.op, a.value⟩ :: g.contribs.filter (fun c => !(c.gen == m.arrGen && c.pos == m.pos)) else g.contribs
      s.setGroup gid { g.setMember { m with sides := here, owed := all } with contribs := cs }

/-- When a landing ends, its side is owed no longer: an arrival that waited on it enters. What the sides gave with it stands in
the group already (State.arrive). -/
def State.sideGone (s : State) (o : Nat) : State :=
  s.groups.foldl (fun t e =>
    match (t.groupAt e.1).memberOf (.ctx o) with
    | some m => if !m.sides.isEmpty && (t.owing o e.1 m.owed).all (fun c => m.sides.contains c) then t.enterArrival e.1 (.ctx o) .plain else t
    | none => t) s

/-- Remove an expired member: one that has not left (R161). -/
def State.removeMember (s : State) (gid : Nat) (w : Who) : State :=
  let g := s.groupAt gid
  match g.memberOf w with
  | none => s
  | some m =>
    State.completeGroup completeFuel (s.setGroup gid { g.setMember { m with removed := true } with
      contribs := g.contribs.filter (fun c => c.pos ≠ m.pos)
      lost := true
      lostNow := true }) gid

/-- The memberships of a context that ends keep the gang on which it stood, for its window slots (R160). -/
def State.keepSeat (s : State) (o : Nat) : State :=
  match (s.ctxAt o).place with
  | .gang g _ => { s with groups := s.groups.map (fun e => (e.1, { e.2 with
      members := e.2.members.map (fun m => if m.who = .ctx o then { m with seat := some g } else m) })) }
  | _ => s

/-- Leave every group (R153), or be removed from every group (R161). -/
def State.quitGroups (s : State) (w : Who) (expired : Bool) : State :=
  s.groups.foldl (fun t e =>
    if expired then t.removeMember e.1 w
    else match (t.groupAt e.1).memberOf w with
      | some _ => t.enterArrival e.1 w ⟨true, 32, 0⟩
      | none => t) s

/-! ## Counted arrivals (R113) -/

/-- Whether an operation of a gang context or its landings with a number that passes a test is outstanding: a copy or multiply of the background,
or the delivery of an element sent, until its source can no longer change (R111, R113, R263). -/
def State.opsOpen (s : State) (o : Nat) (f : Nat → Bool) : Bool :=
  s.ops.any (fun e => e.2.cid == o && f e.1) || (s.sidesOf o).any (fun k => (s.ctxAt k).sends.any (fun x => f x.op))

/-- Whether an operation of the context with a number below `upto` is outstanding. -/
def State.opsBefore (s : State) (cid upto : Nat) : Bool := s.opsOpen cid (fun n => decide (n < upto))

/-- A held bundle learns the generation in which its arrival counts. -/
def Ctx.meets (c : Ctx) (gid : Nat) (gen : Option Nat) : Ctx :=
  let fits (m : Met) : Bool := m.gid == gid && m.gen.isNone
  if c.met.any fits then { c with met := c.met.map (fun m => { m with gen := gen }) }
  else if c.outerMet.any fits then { c with outerMet := c.outerMet.map (fun m => { m with gen := gen }) }
  else c

/-- Register an arrival of a gang context or one of its landings. -/
def State.registerCounted (s : State) (cid : Nat) (a : CountedArrival) : State :=
  let o := s.ownerOf cid
  let gen := ((s.groupAt a.gid).memberOf (.ctx o)).map Member.arrGen
  (if a.waits then s.modCtx a.side (fun c => c.meets a.gid gen) else s).arrive a.side o a.gid a.owed ⟨a.leave, a.op, a.value⟩

/-- Register a context's counted arrivals whose operations have completed, in program order. -/
def State.settleCountedOf : Nat → State → Nat → State
  | 0, s, _ => s
  | n + 1, s, cid =>
    match (s.ctxAt cid).counted with
    | [] => s
    | a :: t =>
      if s.opsBefore (s.ownerOf cid) a.upto then s
      else State.settleCountedOf n ((s.modCtx cid (fun c => { c with counted := t })).registerCounted cid a) cid

/-- Register every counted arrival that is ready. -/
def State.settleCounted (s : State) : State :=
  s.ctxs.foldl (fun t e => if e.2.counted.isEmpty then t else State.settleCountedOf e.2.counted.length t e.1) s

/-! ## Channels (R268) -/

/-- A channel entry when a context ends. -/
def Channel.lose (c : Channel) (cid : Nat) : Channel :=
  let rcvEnds := c.rcv.bound == cid
  { c with
    snd := if c.snd.bound == cid then { c.snd with ended := true } else c.snd
    rcv := if rcvEnds then { c.rcv with ended := true } else c.rcv
    streams := if rcvEnds then [] else c.streams }

/-- Every channel loses the endpoint of a context that ends. -/
def State.channelsLose (s : State) (cid : Nat) : State :=
  { s with channels := s.channels.map (fun e => (e.1, e.2.lose cid)) }

end Sys2Proof.Machine
end

