-- ==== Sys2Proof/Machine/Items.lean ====
section
/-!
DEFINITION. Regions as the scheduler keeps them, completion records, the expert pool, item records and bins
(R29 to R38, R381 to R387, R425 to R428).
-/
namespace Sys2Proof.Machine

/-! ## Region control blocks, under no key (R442) -/

/-- Dword at byte o of a region's control block. -/
def State.cbWord (s : State) (r o : Nat) : Nat := s.hbmValue noKey ((s.region r).cb + o) 8

/-- Write dword at byte o of a region's control block. -/
def State.cbPut (s : State) (r o v : Nat) : State := s.hbmWrite noKey ((s.region r).cb + o) (leBytes 8 v)

/-- Change a live region's record. -/
def State.setRegion (s : State) (r : Nat) (x : Region) : State := { s with regions := tableInsert s.regions r x }

/-- Write a region's USAGE (R379). -/
def State.putUsage (s : State) (r : Nat) : State :=
  s.cbPut r 160 ((s.region r).gangsHeld % 65536 + (s.region r).pages * 65536)

/-- Count one gang context more or less against a region and its ancestors (R387). -/
def State.countGang (s : State) (r : Nat) (more : Bool) : State :=
  (s.lineage r).foldl (fun t a =>
    let x := t.region a
    (t.setRegion a { x with gangsHeld := if more then x.gangsHeld + 1 else x.gangsHeld - 1 }).putUsage a) s

/-- Whether a launch or resume of a region is admitted (R387). -/
def State.admits (s : State) (r : Nat) : Bool := (s.lineage r).all (fun a => decide ((s.region a).gangsHeld < (s.region a).gangs))

/-- Count n pages more against a region and its ancestors (R415). -/
def State.countPages (s : State) (r n : Nat) (more : Bool) : State :=
  (s.lineage r).foldl (fun t a =>
    let x := t.region a
    (t.setRegion a { x with pages := if more then x.pages + n else x.pages - n }).putUsage a) s

/-- Whether n pages may be taken for a region (R415). -/
def State.memAdmits (s : State) (r n : Nat) : Bool := (s.lineage r).all (fun a => decide ((s.region a).pages + n ≤ (s.region a).mem))

/-- Whether a mark stands on a region or an ancestor (R386). -/
def State.marked (s : State) (f : Region → Bool) (r : Nat) : Bool := (s.lineage r).any (fun a => f (s.region a))

/-- Regions of a subtree (R386). -/
def State.subtree (s : State) (r : Nat) : List Nat := (s.regions.map Prod.fst).filter (fun x => s.isAncestor r x)

/-- Bytes of a save area for an extent (R390). -/
def areaSize (esize : Nat) : Nat := 0x590000 + 16 * esize * 0x1000

/-! ## Waking (R430) -/

/-- The package leaves its standby. -/
def State.rouse (s : State) : State := if s.fleet.standby then { s with fleet := { s.fleet with standby := false } } else s

/-- A BAR access of the host: it wakes the package (R430). -/
def State.touchBar (s : State) : State := { s with fleet := { s.fleet with lastBar := s.time, standby := false } }

/-- A die leaves its retention, and the package its standby. -/
def State.wakeDie (s : State) (d : Nat) : State :=
  let x := s.die d
  if x.power = 0 then s.rouse else s.rouse.setDie d { x with power := 0 }

/-! ## Interrupts (R372, R376) -/

/-- Set INTCAUSE bits, and send vector 0 where enabled. -/
def State.cause (s : State) (b : Nat) : State :=
  let s1 := s.setBar 0 0x70 (s.barReg 0 0x70 ||| BitVec.ofNat 64 (2 ^ b))
  if (s.barReg 0 0x78).getLsbD b then { s1 with outbox := s1.outbox ++ [.interrupt 0] } else s1

/-! ## Completion records (R32, R383) -/

/-- The region whose ring takes a region's records, if any. -/
def State.ringRegion (s : State) (r : Nat) : Option Nat := (s.lineage r).find? (fun a => s.cbWord a 104 ≠ 0)

/-- Append a record to a ring; its entries lie in flat memory of the ring's region, under the item's key. -/
def State.appendRecord (s : State) (region : Nat) (words : List Dword) : State :=
  match s.ringRegion region with
  | none => s
  | some a =>
    let s := s.reads (.record a) noKey (s.region a).cb 256
    let n := s.cbWord a 112 % 2 ^ 32
    let vec := bits (s.cbWord a 112) 32 8
    let thresh := bits (s.cbWord a 112) 40 24
    let head := s.cbWord a 120
    let fill := wrapInt 64 ((head : Int) - s.cbWord a 128)
    if fill = n then s.cbPut a 168 ((s.cbWord a 168 + 1) % 2 ^ 64)
    else
      let va := s.cbWord a 104 + head % (max n 1) * 32
      let s1 := match s.flat ⟨a, 0⟩ .write va with
        | .ok pa => s.physWrite (s.regionKey region) pa (words.flatMap (fun (d : Dword) => leBytes 8 d.toNat))
        | .error _ => s
      let s2 := s1.cbPut a 120 ((head + 1) % 2 ^ 64)
      if fill + 1 = thresh ∧ vec ≠ 0 then { s2 with outbox := s2.outbox ++ [.interrupt vec] } else s2

/-! ## Item records (R29 to R31) -/

/-- Item states (R31). -/
def stFRESH : Nat := 0
def stFILED : Nat := 1
def stRUNNING : Nat := 2
def stPARKED : Nat := 3
def stREADY : Nat := 4
def stDONE : Nat := 5
def stDISCARDED : Nat := 6
def stABANDONED : Nat := 7
def stABORTED : Nat := 8

/-- The scheduler's party for items of a region on a die. -/
def schedParty (region die : Nat) : Party := ⟨region, die⟩

/-- Write STATE of an item. -/
def State.itemState (s : State) (p : Party) (addr st : Nat) : State :=
  let old := leValue (s.flatLoad p addr 1)
  (s.touch (.record p.region) p .read addr 1).flatStoreRaw p addr (leBytes 1 (putBits old 0 4 st))

/-- Write a dword of an item. -/
def State.itemPut (s : State) (p : Party) (addr o v : Nat) : State := s.flatStoreRaw p (addr + o) (leBytes 8 v)

/-- End an item in a terminal state on a die, with its completion record in the ring of the item's region where R32 asks for
one. -/
def State.endItem (s : State) (die : Nat) (it : RunItem) (gang eid st reason late : Nat) : State :=
  let p := schedParty it.region die
  let s1 := s.itemState p it.addr.toNat st
  let s2 := if st = stDISCARDED ∨ st = stABANDONED then
    s1.setBar 6 (0x100 + 6 * 8) (s1.barReg 6 (0x100 + 6 * 8) + 1) else s1
  if st = stDONE ∧ !it.crec then s2
  else s2.appendRecord p.region [it.addr, BitVec.ofNat 64 s.time,
    BitVec.ofNat 64 (st + reason * 16 + gang * 4096 + eid * 2 ^ 20), BitVec.ofNat 64 (it.iters + min late 0xFFFFFFFF * 2 ^ 32)]

/-- An item as a record reads. -/
def runItemOf (addr : Nat) (r : List Dword) : RunItem :=
  let h := (r.getD 0 0).toNat
  ⟨BitVec.ofNat 64 addr, (r.getD 6 0).toNat, bits (r.getD 3 0).toNat 0 32, bits (r.getD 3 0).toNat 32 32, h.testBit 8, bits h 4 4, bits h 16 16⟩

/-! ## The expert pool (R425 to R428) -/

/-- Base, buffer size in bytes and buffers of a die's pool; none while it is not enabled (R411). -/
def State.poolOf (s : State) (d : Nat) : Option (Nat × Nat × Nat) :=
  let c := (s.barReg 3 (0x48 + d * 0x10)).toNat
  if c.testBit 32 then some (bits (s.barReg 3 (0x40 + d * 0x10)).toNat 16 36 * 65536, bits c 16 16 * 65536, bits c 0 16) else none

/-- A weight entry that passes the checks of R425: its physical address, SRC and SIZE. -/
structure Weights where
  entry : Nat
  src   : Nat
  size  : Nat
  deriving DecidableEq, Repr

/-- Read the weight entry at a flat address for a die's pool; one that breaks the format of R425 is none (DESIGN CHOICE, log 35). -/
def State.weightsAt (s : State) (p : Party) (va : Nat) : Option Weights :=
  match s.flat p .read va, s.flatRecord p va 4, s.poolOf p.die with
  | .ok pa, some [src, w, _, _], some (_, bsz, _) =>
    let size := bits w.toNat 0 32
    if bits w.toNat 32 32 = 0 ∧ 1 ≤ size ∧ size * 65536 ≤ bsz ∧ src.toNat % 64 = 0 ∧
       (paKind src.toNat = .hbm ∨ paKind src.toNat = .host) then some ⟨pa, src.toNat, size⟩ else none
  | _, _, _ => none

/-- The buffer that holds or fills a SRC. -/
def Die.bufferOf (d : Die) (src : Nat) : Option Nat :=
  (d.pool.find? (fun e => e.2.state ≠ 0 && e.2.src == src)).map Prod.fst

/-- A pool buffer. -/
def Die.buf (d : Die) (b : Nat) : PoolBuf := tableGet d.pool b {}

/-- Buffers that could take a fill: free ones, then unpinned resident ones, earliest unpinned first (R426). -/
def State.poolSpare (s : State) (d : Nat) : List Nat :=
  match s.poolOf d with
  | none => []
  | some (_, _, n) =>
    let x := s.die d
    let free := (List.range n).filter (fun b => (x.buf b).state == 0)
    let idle := (List.range n).filter (fun b => (x.buf b).state == 2 && (x.buf b).pins == 0)
    free ++ (sortWith (fun a b => decide ((x.buf a).order ≤ (x.buf b).order)) idle)

/-- Write RESd of an entry (R425). -/
def State.putRes (s : State) (region entry d v : Nat) : State := s.physWrite (s.regionKey region) (entry + 16 + 4 * d) (leBytes 4 v)

/-- Start a fill into the first buffer of a list, evicting what it holds (R426). -/
def State.startFill (s : State) (p : Party) (w : Weights) (spare : List Nat) : State × Option Nat :=
  match (s.die p.die).bufferOf w.src, spare with
  | some b, _ => (s, some b)
  | none, b :: _ =>
    let old := (s.die p.die).buf b
    let s1 := if old.state = 2 then s.putRes old.region old.entry p.die 0 else s
    let x := s1.die p.die
    (s1.setDie p.die { x with pool := tableInsert x.pool b ⟨1, w.src, w.entry, w.size, 0, 0, p.region⟩ }, some b)
  | none, [] => (s, none)

/-- Add a pin to a buffer. -/
def State.pinBuf (s : State) (d b : Nat) : State :=
  let x := s.die d
  s.setDie d { x with pool := tableInsert x.pool b { x.buf b with pins := (x.buf b).pins + 1 } }

/-- Drop a pin from a buffer, noting when its last pin drops. -/
def State.unpinBuf (s : State) (d b : Nat) : State :=
  let x := s.die d
  let o := x.buf b
  s.setDie d { x with
    pool := tableInsert x.pool b { o with pins := o.pins - 1, order := if o.pins = 1 then x.unpin + 1 else o.order }
    unpin := if o.pins = 1 then x.unpin + 1 else x.unpin }

/-- A bin takes a buffer for its expert, never the last spare one (R428). -/
def State.binTakes (s : State) (d bn : Nat) : State :=
  match tableFind (s.die d).bins bn with
  | none => s
  | some b =>
    match b.expert, b.pin with
    | some va, none =>
      match s.weightsAt ⟨b.region, d⟩ va with
      | none => s
      | some w =>
        let s := s.readsFlat (.record b.region) ⟨b.region, d⟩ va 32
        let spare := s.poolSpare d
        let takes := match (s.die d).bufferOf w.src with
          | some i => spare.contains i
          | none => true
        if takes && spare.length < 2 then s
        else
          let (s1, r) := s.startFill ⟨b.region, d⟩ w spare
          match r with
          | none => s1
          | some i =>
            let s2 := s1.pinBuf d i
            let x := s2.die d
            s2.setDie d { x with bins := tableInsert x.bins bn { b with pin := some i } }
    | _, _ => s

/-- The bin of a list whose oldest item is the oldest. -/
def oldestBin (l : List (Nat × Bin)) : Option Nat :=
  l.foldl (fun (a : Option (Nat × Nat)) e =>
    let t := (e.2.items.head?.map BinItem.filed).getD 0
    match a with
    | none => some (e.1, t)
    | some (_, u) => if t < u then some (e.1, t) else a) none |>.map Prod.fst

/-- When every buffer outside the reserve is pinned only by bins not yet due, the oldest such bin becomes due (R428). -/
def State.poolPressure (s : State) (d : Nat) : State :=
  let x := s.die d
  match s.poolOf d with
  | none => s
  | some (_, _, n) =>
    let holders := x.bins.filter (fun e => e.2.pin.isSome && !e.2.due)
    let pinnedByBins (b : Nat) : Bool :=
      decide (0 < (x.buf b).pins) && (holders.filter (fun e => e.2.pin == some b)).length == (x.buf b).pins
    let short := x.bins.any (fun e => e.2.expert.isSome && e.2.pin.isNone)
    if short && n ≤ ((List.range n).filter pinnedByBins).length + 1 then
      match oldestBin holders with
      | none => s
      | some bn => match tableFind x.bins bn with
        | some b => s.setDie d { x with bins := tableInsert x.bins bn { b with due := true } }
        | none => s
    else s

/-- Contexts parked or held on XPF.W for weights without a buffer take one that has freed (R428). -/
def State.missesTake (s : State) (d : Nat) : State :=
  s.ctxs.foldl (fun t e =>
    match e.2.missPin with
    | some va =>
      if e.2.place.die = d then
        match t.weightsAt ⟨e.2.region, d⟩ va with
        | some w => (t.startFill ⟨e.2.region, d⟩ w (t.poolSpare d)).1
        | none => t
      else t
    | none => t) s

/-- After buffers have freed, misses take them first, then bins that wait for one, in the order they opened. -/
def State.binsTake (s : State) (d : Nat) : State :=
  let order := sortWith (fun a b => decide (a.2.opened ≤ b.2.opened)) ((s.die d).bins.filter (fun e => e.2.expert.isSome && e.2.pin.isNone))
  (order.foldl (fun t e => t.binTakes d e.1) (s.missesTake d)).poolPressure d

/-! ## Filing (R34 to R36, R427) -/

/-- The checks of R34 on a record, but for who files it. -/
def State.fileable (s : State) (p : Party) (addr : Nat) : Option (List Dword) :=
  if addr % 64 ≠ 0 then none
  else match s.flat p .atomic addr, s.flatRecord p addr 8 with
    | .ok _, some r =>
      let h := (r.getD 0 0).toNat
      let reg := bits h 16 16
      let pro := toSigned 32 (bits (r.getD 2 0).toNat 0 32)
      let epi := toSigned 32 (bits (r.getD 2 0).toNat 32 32)
      if bits h 0 4 = stFRESH ∧ bits h 4 4 ≤ 2 ∧ bits h 10 6 = 0 ∧ reg < 4096 ∧ (tableFind s.regions reg).isSome ∧
         !(s.marked Region.retired reg) ∧ (bits h 4 4 ≠ 1 ∨ (pro % 4 = 0 ∧ epi % 4 = 0 ∧ 0 < epi)) then some r else none
    | _, _ => none

/-- The region of an item's record (R30). -/
def itemRegion (r : List Dword) : Nat := bits (r.getD 0 0).toNat 16 16

/-- The checks of R34 on a record, in a spawner's region: the record when SPAWN would file it. -/
def State.spawnable (s : State) (p : Party) (addr : Nat) : Option (List Dword) :=
  match s.fileable p addr with
  | some r => if s.isAncestor p.region (itemRegion r) then some r else none
  | none => none

/-- The filing die of an item (R35): where its affinity address lies, whatever its permissions. An address that translates to what no die's HBM
owns (host memory, a link window, a format view) names no die: the item is filed where it is spawned (DESIGN CHOICE, log 36). -/
def State.filingDie (s : State) (region die : Nat) (r : List Dword) : Nat :=
  let aff := (r.getD 5 0).toNat
  if aff = 0 then die
  else match s.flat ⟨region, die⟩ .find aff with
    | .ok pa => if paKind pa = .hbm then dieOfPa pa else die
    | .error _ => die

/-- Whether a bin takes an item (R36). -/
def Bin.fits (b : Bin) (r : List Dword) : Bool :=
  let h := (r.getD 0 0).toNat
  b.items.length < 16 && b.kernel == r.getD 1 0 && b.key == BitVec.ofNat 32 (bits h 32 32) && b.region == bits h 16 16 &&
    b.kind == bits h 4 4 && (bits h 4 4 ≠ 1 || b.offs == r.getD 2 0)

/-- The bin an item joins: among those that fit, the one opened first. -/
def Die.joinBin (d : Die) (r : List Dword) : Option Nat :=
  ((d.bins.filter (fun e => e.2.fits r)).foldl (fun (a : Option (Nat × Bin)) e =>
    match a with
    | none => some e
    | some x => if e.2.opened < x.2.opened then some e else a) none).map Prod.fst

/-- The lowest free bin (log 9). -/
def Die.freeBin (d : Die) : Option Nat := firstFree (d.bins.map Prod.fst) Config.binsPerDie

/-- A number above every opening order in use. -/
def Die.nextOrder (d : Die) : Nat := d.bins.foldl (fun a e => max a (e.2.opened + 1)) 0

/-- A number above every filing's place in the order. -/
def Die.nextFiling (d : Die) : Nat := d.bins.foldl (fun a e => max a (e.2.last + 1)) 0

/-- Put an item into bin bn, opening it where it is free (R36). Sixteen items make it due (R37). The die wakes (R430). -/
def State.putInBin (s : State) (d bn addr : Nat) (r : List Dword) : State :=
  let x := s.die d
  let h := (r.getD 0 0).toNat
  let it : BinItem := ⟨BitVec.ofNat 64 addr, s.time, h.testBit 9, false⟩
  let old := tableFind x.bins bn
  let b : Bin := match old with
    | some b => { b with items := b.items ++ [it], last := x.nextFiling, due := b.due || decide (b.items.length + 1 = 16) }
    | none => { kernel := r.getD 1 0, key := BitVec.ofNat 32 (bits h 32 32), region := bits h 16 16, kind := bits h 4 4
                offs := r.getD 2 0, items := [it], opened := x.nextOrder, last := x.nextFiling, due := false, forced := false
                aged := false, pin := none
                expert := if (r.getD 5 0).getLsbD 0 then some ((r.getD 5 0).toNat / 32 * 32) else none }
  let s1 := s.setDie d { x with bins := tableInsert x.bins bn b }
  let s2 := ((s1.wakeDie d).readsFlat (.record b.region) (schedParty b.region d) addr 64).itemState (schedParty b.region d) addr stFILED
  if old.isNone && b.expert.isSome then (s2.binTakes d bn).poolPressure d else s2

/-- Force the bin whose last filing is oldest (R36); it may have been forced before. -/
def State.forceBin (s : State) (d : Nat) : State :=
  let x := s.die d
  let victim := x.bins.foldl (fun (a : Option (Nat × Bin)) e =>
    match a with
    | none => some e
    | some v => if e.2.last < v.2.last then some e else a) none
  match victim with
  | none => s
  | some (bn, b) => s.setDie d { x with bins := tableInsert x.bins bn { b with due := true, forced := true } }

/-- File an item on its die: true when it is in a bin, false when it waits for one (R36). Items that already wait
go first. -/
def State.fileItem (s : State) (d cid addr : Nat) (r : List Dword) : State × Bool :=
  let x := s.die d
  match x.joinBin r, x.freeBin with
  | some bn, _ => (s.putInBin d bn addr r, true)
  | none, some bn =>
    if x.waiting.isEmpty then (s.putInBin d bn addr r, true)
    else (s.setDie d { x with waiting := x.waiting ++ [⟨BitVec.ofNat 64 addr, cid, itemRegion r⟩] }, false)
  | none, none =>
    let s1 := s.forceBin d
    let y := s1.die d
    (s1.setDie d { y with waiting := y.waiting ++ [⟨BitVec.ofNat 64 addr, cid, itemRegion r⟩] }, false)

/-- File a launch's items in turn (R384) until one waits for a bin: the agent that files it waits too (R36). The items after
it are still to be offered. -/
def State.fileWork : List (Nat × Dword) → State → State × List (Nat × Dword)
  | [], s => (s, [])
  | x :: t, s =>
    match s.flatRecord ⟨x.1, 0⟩ x.2.toNat 8 with
    | none => State.fileWork t s
    | some r =>
      let (u, filed) := s.fileItem (s.filingDie (itemRegion r) 0 r) 0 x.2.toNat r
      if filed then State.fileWork t u else (u, t)

/-- The launch under way goes on with its items. -/
def State.fileOn (s : State) : State :=
  match s.launching with
  | none => s
  | some w =>
    let (u, rest) := State.fileWork w.items s
    { u with launching := some { w with items := rest } }

/-- The items that the launch under way has not yet offered: the die, the region and the address of each. -/
def State.unfiled (s : State) : List (Nat × Nat × Dword) :=
  match s.launching with
  | none => []
  | some w => w.items.filterMap (fun x =>
      (s.flatRecord ⟨x.1, 0⟩ x.2.toNat 8).map (fun r => (s.filingDie (itemRegion r) 0 r, itemRegion r, x.2)))

/-! ## Areas and pins that a context gives back -/

/-- Free a save area of a region's pool (R390). -/
def State.freeArea (s : State) (region : Nat) (a : Dword) : State :=
  let o := (s.region region).sowner
  let x := s.region o
  match tableFind s.regions o with
  | none => s
  | some _ => s.setRegion o { x with used := x.used.filter (fun y => y ≠ a) }

/-- A pin has dropped: the requests whose sweep found no victim sweep again (R422). -/
def State.pinDrops (s : State) : State :=
  if s.cellar.reqs.any (fun e => e.2.barren) then
    { s with cellar := { s.cellar with reqs := s.cellar.reqs.map (fun e => (e.1, { e.2 with barren := false })) } }
  else s

/-- Add to the pin count of a leaf, or take from it, whatever the key (R408). -/
def State.leafPin (s : State) (region leaf : Nat) (more : Bool) : State :=
  let key := s.regionKey region
  let l := s.physValue key leaf 8
  let n := bits l 4 8
  ((if more then s else s.pinDrops).reads (.record region) key leaf 8).physWrite key leaf (leBytes 8 (putBits l 4 8 (if more then n + 1 else n - 1)))

/-- The leaf entry whose PIN counts a translation. -/
def Trans.leaf : Trans → Option Nat
  | .block _ _ _ _ l _ => some l
  | _ => none

/-- Drop the pins of an operation's translations. -/
def State.unpinAll (s : State) (region : Nat) (l : List Trans) : State :=
  (l.filterMap Trans.leaf).foldl (fun t x => t.leafPin region x false) s

end Sys2Proof.Machine
end

