-- ==== Sys2Proof/WellFormed.lean ====
section
/-!
DEFINITION. The checks of R171 and R188 that one word alone decides. A word that fails one raises ILLEG.

What depends on the rest of the bundle (framing, bc without BCST) or on the context (the direction of a port)
is checked at issue.
-/
namespace Sys2Proof

/-- A vector operand code as a source (R171): registers, ports, bc. -/
def vecSrcOk (c : BitVec 6) : Bool := c.toNat ≤ 0x24
/-- A vector operand code as a destination (R171): bc is malformed. -/
def vecDstOk (c : BitVec 6) : Bool := c.toNat ≤ 0x23
/-- A field that names v0 to v31 only. -/
def vecRegOk (c : BitVec 6) : Bool := c.toNat < 32
/-- Scope codes 5 to 7 are reserved (R171). -/
def scopeOk (s : BitVec 3) : Bool := s.toNat ≤ 4
/-- Rounding codes 5 to 7 are reserved (R171). -/
def rmOk (r : BitVec 3) : Bool := r.toNat ≤ 4
/-- Shape codes 9 to 15 are reserved (R274). -/
def shapeOk (z : BitVec 4) : Bool := z.toNat ≤ 8
/-- Slot formats of R67. -/
def slotFmtOk (f : BitVec 4) : Bool := f.toNat ∈ [1, 2, 3, 4, 5, 6, 9, 10, 11]
/-- A code-address literal: L[63:56] is reserved (R200). -/
def targetOk (t : Dword) : Bool := t.toNat < 2 ^ 56
/-- A literal whose bits from w up are reserved. -/
def litBelow (w : Nat) (l : Dword) : Bool := l.toNat < 2 ^ w
/-- The token scalar of a copy is never s0 (R88). -/
def tokenOk (s : BitVec 5) : Bool := s ≠ 0
/-- The literal replaces `disp`, which must then be zero (R166). -/
def dispOk {w : Nat} (lit : Option Dword) (disp : BitVec w) : Bool := lit.isNone || disp == 0
/-- The listed control registers (R222). -/
def ctlRegOk (cr : BitVec 11) : Bool :=
  cr.toNat ≤ 0x0A || (0x10 ≤ cr.toNat && cr.toNat ≤ 0x13) || (0x20 ≤ cr.toNat && cr.toNat ≤ 0x25) ||
    (0x28 ≤ cr.toNat && cr.toNat ≤ 0x2D)

/-- An increment descriptor of LOOP (R206). -/
def incDescOk (d : BitVec 26) : Bool :=
  if !d.getLsbD 25 then d == 0
  else if d.getLsbD 24 then d.extractLsb' 20 4 == 0
  else (d.extractLsb' 8 3).toNat ≤ 2

/-- The extension and literal of LOOP and LOOPX (R206, R201). -/
def loopExtOk (isX : Bool) (imm : BitVec 11) (x : LoopExt) (lit : Option Dword) : Bool :=
  (isX || x.fx == 0) && incDescOk x.incA && incDescOk x.incB &&
  (match lit with | none => true | some l => litBelow 32 l && imm == 0)

/-! ## V words (R234 to R252) -/

/-- Which optional fields of a V word an opcode uses; every other field must be zero (R234). -/
structure VUse where
  imm  : Bool := false
  qc   : Bool := false
  sub  : Bool := false
  z    : Bool := true
  sat  : Bool := false
  fmt2 : Bool := false
  fmt  : Bool := false
  rm   : Bool := false
  vc   : Bool := false
  vb   : Bool := false
  lq   : Bool := true
  va   : Bool := true
  deriving DecidableEq, Repr

/-- Unused fields are zero, used codes are not reserved, and the literal replaces a zero field (R166, R171, R234). -/
def VFields.fieldsOk (f : VFields) (u : VUse) (lit : Option Dword) : Bool :=
  (u.imm || f.imm == 0) && (u.qc || f.qc == 0) && (u.sub || f.sub == 0) && (u.z || !f.z) && (u.sat || !f.sat) &&
  (u.fmt2 || f.fmt2 == 0) && (u.fmt || f.fmt == 0) && (u.rm || f.rm == 0) && (u.vc || f.vc == 0) &&
  (u.vb || f.vb == 0) && (u.lq || (f.lq == 0 && !f.ln)) && (u.va || f.va == 0) &&
  rmOk f.rm && vecSrcOk f.va && vecSrcOk f.vb && vecSrcOk f.vc && f.fmt.toNat < 14 && f.fmt2.toNat < 14 &&
  (match lit with
   | none => true
   | some l => litBelow 32 l && (if u.vb then f.vb == 0 else u.va && f.va == 0))

/-- The destination is a vector operand. -/
def VFields.toVec (f : VFields) (u : VUse) (lit : Option Dword) : Bool := f.fieldsOk u lit && vecDstOk f.vd
/-- The destination is a predicate: vd[5:3] is zero (R234). -/
def VFields.toPred (f : VFields) (u : VUse) (lit : Option Dword) : Bool := f.fieldsOk u lit && f.vd.toNat < 8

/-- Conditions of VCMP and VCMPS with their formats (R241). -/
def vcmpOk (fmt sub : BitVec 4) : Bool :=
  (fmt == 0 && sub.toNat ≤ 7) || (fmt == 8 && (sub.toNat ≤ 5 || (8 ≤ sub.toNat && sub.toNat ≤ 11)))

/-- The pairs of VCVT, source then destination (R246); `scl` needs FP32 on a side and no block format (R247). -/
def vcvtOk (src dst : Nat) (scl : Bool) : Bool :=
  if src = 0 ∧ dst = 0 then scl
  else if src = 0 then dst ∈ [1, 2, 3, 4, 5, 6, 7, 8, 9] || (!scl && dst ∈ [10, 11, 12, 13])
  else if dst = 0 then src ∈ [1, 2, 3, 4, 5, 6, 7, 8, 9] || (!scl && src ∈ [10, 11, 12, 13])
  else !scl && ((src = 8 && dst ∈ [5, 6, 7, 9]) || (dst = 8 && src ∈ [5, 6, 7, 9]))

/-- Element width of VPACK and VUNPK by format (R249). -/
def packWidth (fmt : Nat) : Option Nat :=
  match fmt with
  | 1 => some 16 | 2 => some 16 | 7 => some 16
  | 3 => some 8 | 4 => some 8 | 5 => some 8 | 6 => some 8
  | 9 => some 4
  | _ => none

/-- FMT and part of VPACK and VUNPK (R249). -/
def packOk (f : VFields) : Bool :=
  match packWidth f.fmt.toNat with
  | some w => f.imm.toNat < 32 / w
  | none => false

/-- VLANE by mode (R252). -/
def vlaneOk (f : VFields) (lit : Option Dword) : Bool :=
  match f.sub.toNat with
  | 0 => f.toVec ⟨true, false, true, true, false, false, false, false, false, false, true, false⟩ lit
  | 1 => f.toVec ⟨false, true, true, false, false, false, false, false, false, false, false, true⟩ lit
  | 2 => f.toVec ⟨false, true, true, true, false, false, false, false, false, false, true, true⟩ lit
  | 3 => f.toVec ⟨true, false, true, true, false, false, false, false, false, false, true, true⟩ lit && f.imm.toNat < 64
  | 4 => f.toVec ⟨true, false, true, true, false, false, false, false, false, false, true, true⟩ lit && f.imm.toNat < 64
  | _ => false

/-- VQOP in its lane and engine forms (R244). -/
def vqopOk (f : VFields) (lit : Option Dword) : Bool :=
  lit.isNone && f.va.toNat < 8 && f.vb.toNat < 8 && f.imm.toNat < 2 &&
  f.toPred { imm := true, sub := true, vb := true, z := f.imm == 0, lq := f.imm == 0 } none

/-! ## Q and M words -/

/-- Key format and payload fields of a Q word (R253). -/
def QFields.keysOk (f : QFields) : Bool :=
  vecRegOk f.ka && vecRegOk f.kb && vecRegOk f.pa && vecRegOk f.pb &&
  ((f.fmt == 0 && !f.uns) || f.fmt == 8)

/-- J and K of CXV and CXVI (R253). -/
def QFields.stageOk (f : QFields) : Bool := 1 ≤ f.k.toNat && f.k.toNat ≤ 6 && f.j.toNat < f.k.toNat

/-- LDA, STL and STX (R302): the fields of the form not used are zero (log 13). -/
def StrongFields.ok (f : StrongFields) (isLoad : Bool) (lit : Option Dword) : Bool :=
  scopeOk f.scope && dispOk lit f.disp &&
  (if f.vec then f.sz == 2 && !f.sgn && (if isLoad then vecDstOk f.r else vecSrcOk f.r)
   else f.r.toNat < 32 && !f.spc && f.sE == 0 && f.lq == 0 && !f.ln && (isLoad || !f.sgn))

/-- Which optional fields of a vector memory word an opcode uses (R303). -/
structure MUse where
  nr    : Bool := false
  sh    : Bool := false
  sgn   : Bool := false
  sz    : Bool := false
  op    : Bool := false
  z     : Bool := false
  base  : Bool := true
  scope : Bool := false
  vI    : Bool := false
  deriving DecidableEq, Repr

/-- Unused fields are zero and codes are not reserved (R303). -/
def MemFields.fieldsOk (f : MemFields) (u : MUse) (lit : Option Dword) : Bool :=
  dispOk lit f.disp && (u.nr || !f.nr) && (u.sh || f.sh == 0) && (u.sgn || !f.sgn) && (u.sz || f.sz == 0) &&
  (u.op || f.op == 0) && (u.z || !f.z) && (u.base || (f.sE == 0 && f.sA == 0 && !f.spc)) &&
  (u.scope || f.scope == 0) && (u.vI || f.vI == 0) && vecSrcOk f.vI && scopeOk f.scope

/-- Atomic operation codes (R307): .fadd is 4 bytes only. -/
def atomOpOk (op : BitVec 4) (dw : Bool) : Bool := op.toNat ≤ 8 || (op.toNat == 9 && !dw)

/-- The drain formats of R295. -/
def drainOk (f : DrainFields) : Bool :=
  f.pitch.toNat % 4 == 0 && shapeOk f.zs && rmOk f.rm &&
  (if f.dst then f.pitch == 0 &&
     ((f.fmt.toNat ∈ [1, 2] && f.part == 0) || (f.fmt.toNat ∈ [3, 4, 5, 6] && f.part.toNat ≤ 1) || f.fmt.toNat ∈ [9, 11])
   else f.part == 0 && f.fmt.toNat ∈ [0, 1, 2, 3, 4, 5, 6, 7, 8, 11, 12, 13])

/-- The shared high fields of a Kubor word (R328): `data` words may count. -/
def KHead.ok (k : KHead) (data : Bool) : Bool :=
  (k.ts || k.tsr == 0) && (k.ce || k.cn == 0) && (data || !k.ce)

/-- Formats of a Kubor data word (R329). -/
def kFmtOk (f : BitVec 4) : Bool := f.toNat ∈ [0, 1, 2, 3, 4, 8, 11, 12, 13]

/-- What all Kubor data words check (R329): count, formats, forward fields. -/
def KData.ok (d : KData) (usesOut : Bool) : Bool :=
  1 ≤ d.n.toNat && d.n.toNat ≤ 2 ^ 24 && kFmtOk d.fin && kFmtOk d.fout &&
  (!(d.fin.toNat ∈ [11, 12, 13] || d.fout.toNat ∈ [11, 12, 13]) || d.n.toNat % 16 == 0) &&
  d.out.toNat ≤ 2 && (usesOut || d.out == 0) && (d.out != 0 || d.pf == 0)

/-- INT32 pairs only with INT32 (R329). -/
def KData.pairOk (d : KData) : Bool := (d.fin == 8) == (d.fout == 8)

/-- Whether a word passes every check that it alone decides (R171, R188). Events have nothing to check. XSHF takes any M beside .idx and any vb
beside the other suffixes, and uses neither: DESIGN CHOICE, log 13. -/
def Instr.wellFormed : Instr → Bool
  | .brLong _ t | .callLong _ t | .brfLong _ _ _ t | .brpLong _ _ _ t | .splitLong _ _ _ t | .brdlLong _ _ t => targetOk t
  | .loop _ imm _ x lit => loopExtOk false imm x lit
  | .loopx _ imm _ x lit => loopExtOk true imm x lit
  | .jinitLiteral _ _ l => litBelow 16 l
  | .grdc _ _ _ _ _ op _ => op.toNat ≤ 8
  | .gqry _ which _ _ => which.toNat ≤ 4
  | .csrd _ cr _ => ctlRegOk cr
  | .cswr _ cr _ => ctlRegOk cr
  | .cswrLiteral _ cr _ => ctlRegOk cr
  | .cmp _ fc sb _ _ comb cond lit => cond.toNat ≤ 11 && (comb != 0 || fc == 0) && (lit.isNone || sb == 0)
  | .lea _ _ _ _ disp _ lit => dispOk lit disp
  | .bfx _ _ _ _ wid _ | .bfi _ _ _ wid _ => 1 ≤ wid.toNat && wid.toNat ≤ 64
  | .cxs _ f => f.keysOk && f.pa == 0 && f.pb == 0 && f.j == 0 && f.k == 0
  | .cxsi _ f => f.keysOk && f.j == 0 && f.k == 0
  | .cxv _ f => f.keysOk && f.kb == 0 && f.pa == 0 && f.pb == 0 && f.stageOk
  | .cxvi _ f => f.keysOk && f.kb == 0 && f.pb == 0 && f.stageOk
  | .vadd _ f l | .vsub _ f l | .vmul _ f l => f.toVec { vb := true, rm := true } l
  | .vfma _ f l => f.toVec { vb := true, vc := true, rm := true } l
  | .vmax _ f l | .vmin _ f l => f.toVec { vb := true } l
  | .vabs _ f l | .vneg _ f l => f.toVec {} l
  | .vrcp _ f l | .vrsq _ f l | .vtanh _ f l => f.toVec { rm := true } l
  | .vexp _ f l | .vlog _ f l => f.toVec { sub := true, rm := true } l && f.sub.toNat ≤ 1
  | .viadd _ f l | .visub _ f l => f.toVec { vb := true, sub := true, sat := true } l && f.sub.toNat ≤ 1
  | .vimul _ f l => f.toVec { vb := true, sub := true, sat := true } l && f.sub.toNat ≤ 2 && (!f.sat || f.sub == 0)
  | .vimad _ f l => f.toVec { vb := true, vc := true, sub := true, sat := true } l && f.sub.toNat ≤ 1
  | .vimin _ f l | .vimax _ f l => f.toVec { vb := true, sub := true } l && f.sub.toNat ≤ 1
  | .vand _ f l | .vor _ f l | .vxor _ f l | .vshl _ f l | .vshr _ f l | .vsar _ f l => f.toVec { vb := true } l
  | .vcmp _ f l => f.toPred { vb := true, sub := true, fmt := true } l && vcmpOk f.fmt f.sub
  | .vsel _ f l => f.toVec { vb := true, qc := true } l
  | .vmov _ f l => f.toVec {} l
  | .vcvt _ f l => f.toVec { imm := true, fmt := true, fmt2 := true, rm := true, vb := f.imm == 1 } l &&
      f.imm.toNat ≤ 1 && vcvtOk f.fmt2.toNat f.fmt.toNat (f.imm == 1)
  | .vpack _ f l => f.toVec { imm := true, fmt := true } l && packOk f
  | .vunpk _ f l => f.toVec { imm := true, fmt := true, sub := true } l && packOk f && f.sub.toNat ≤ 1 &&
      (f.sub == 0 || !(f.fmt.toNat ∈ [1, 2, 3, 4]))
  | .vreds _ f l | .vscan _ f l => f.toVec { sub := true, rm := true } l && f.sub.toNat ≤ 10
  | .vperm _ f l => f.toVec { vb := true, sub := true, vc := f.sub == 1 } l && f.sub.toNat ≤ 1
  | .vlane _ f l => vlaneOk f l
  | .vqcnt _ f l => l.isNone && f.toVec { sub := true } l && f.sub.toNat ≤ 2 && f.va.toNat < 8
  | .vcmps _ f l => f.toPred { vb := true, sub := true, fmt := true, imm := true, z := false } l &&
      f.imm.toNat ≤ 3 && vcmpOk f.fmt f.sub
  | .vqop _ f l => vqopOk f l
  | .mma _ _ _ _ zs _ => shapeOk zs
  | .mmsp _ _ _ ob zs _ _ => shapeOk zs && ob != 31
  | .kvmm _ _ _ vk zs _ => shapeOk zs && vecRegOk vk
  | .kvmv _ _ _ vk zs _ _ => shapeOk zs && vecRegOk vk
  | .gmma _ _ _ vi zs _ _ _ => shapeOk zs && vecRegOk vi
  | .oclm _ n o | .orel _ n o => o.toNat + n.toNat ≤ 31
  | .old _ _ _ sS tr fmt pitch => slotFmtOk fmt && pitch.toNat % 4 == 0 && (fmt == 10 || sS == 0) &&
      !(tr && fmt.toNat ∈ [9, 10, 11])
  | .otag _ _ setf fmt _ => if setf then slotFmtOk fmt else fmt == 0
  | .otagLiteral _ q setf fmt _ l => litBelow 16 l &&
      (if q then !setf && !fmt.getLsbD 3 else if setf then slotFmtOk fmt else fmt == 0)
  | .aadd _ _ zs _ _ => shapeOk zs
  | .adrn _ f => drainOk f
  | .shp _ _ vsrc va sS wm lit => wm != 0 && vecSrcOk va && (lit.isNone || (!vsrc && sS == 0 && va == 0))
  | .scl _ va side => vecSrcOk va && side != 0
  | .scli _ rx cx side lit => side != 0 &&
      (match lit with | none => true | some l => litBelow 16 l && rx == 0 && cx == 0)
  | .lds _ sgn sz _ _ => !(sgn && sz == 3)
  | .ldsLiteral _ sgn sz _ _ _ => !(sgn && sz == 3)
  | .lda _ f lit => f.ok true lit
  | .stl _ f lit | .stx _ f lit => f.ok false lit
  | .atom _ f lit => scopeOk f.scope && atomOpOk f.op f.sz && f.sC == 0 && dispOk lit f.disp
  | .atcas _ f lit => scopeOk f.scope && f.op == 0 && dispOk lit f.disp
  | .vld _ f lit => f.fieldsOk { z := true } lit && vecRegOk f.vR
  | .vst _ f lit => f.fieldsOk {} lit && (vecRegOk f.vR || f.vR == 0x24)
  | .vldp _ f lit => f.fieldsOk { z := true, sgn := true, sz := true, base := false, vI := true } lit && vecRegOk f.vR &&
      (f.sz != 3 || f.vR != 31)
  | .vstp _ f lit => f.fieldsOk { sz := true, base := false, vI := true } lit && vecRegOk f.vR &&
      (f.sz != 3 || f.vR != 31)
  | .vldg _ f lit => f.fieldsOk { z := true, sh := true, vI := true } lit && vecDstOk f.vR
  | .vstg _ f lit => f.fieldsOk { sh := true, vI := true } lit && vecSrcOk f.vR
  | .vatom _ f lit => f.fieldsOk { nr := true, sh := true, op := true, scope := true, vI := true } lit &&
      atomOpOk f.op false && (if f.nr then vecSrcOk f.vR else vecRegOk f.vR)
  | .port _ _ sL sH _ lit => sL.toNat < 30 && (lit.isNone || sH == 0)
  | .cpy _ _ sT => tokenOk sT
  | .cpyl _ f => tokenOk f.sT && f.sz != 3 && vecSrcOk f.vO
  | .cpyw _ f => tokenOk f.sT && (f.wx.toNat + 1) * (f.wy.toNat + 1) ≤ 64 && f.pitch.toNat % 4 == 0
  | .cpyk _ sT vK _ nblk _ => tokenOk sT && vecRegOk vK && nblk != 0
  | .fence _ scope _ => scopeOk scope
  | .pfx _ _ disp _ lit => dispOk lit disp
  | .tinv _ kind _ sT => kind != 3 && tokenOk sT
  | .btinv _ _ sT nblk all => tokenOk sT && (all == (nblk == 0))
  | .xshf _ f => vecDstOk f.vd && vecSrcOk f.va && vecSrcOk f.vb && f.pat.toNat ≤ 3
  | .xred _ f => vecDstOk f.vd && vecSrcOk f.va && f.vb == 0 && f.m == 0 && f.pat.toNat ≤ 10
  | .xbc _ f => vecDstOk f.vd && vecSrcOk f.va && f.vb == 0 && f.pat == 0
  | .xvot _ vd _ _ _ => vecDstOk vd
  | .xpick _ f => vecDstOk f.vd && vecSrcOk f.va
  | .kld _ psel _ _ => psel != 3
  | .kldLiteral _ psel _ _ => psel != 3
  | .send k d => k.ok true && d.ok false && d.fout == 0 && d.rm == 0 && d.bb == 0 && d.xb == 0
  | .recv k d => k.ok true && d.ok true && d.fout == 0 && d.rm == 0 && d.bb == 0 && d.xb == 0 &&
      (d.out != 1 || (d.ba == 0 && d.xa == 0))
  | .rdc k d => k.ok true && d.ok true && d.pairOk && rmOk d.rm && (d.out != 1 || (d.bb == 0 && d.xb == 0))
  | .copy k d => k.ok true && d.ok false && d.pairOk && rmOk d.rm && d.pe == 0 && d.tag == 0
  | .waitCnt k _ _ _ | .waitGrp k _ _ | .sigArv k _ | .sigJoin k _ _ | .sigLeave k _ | .sigNew k _ _ _
  | .sigStl k _ _ _ | .kend k => k.ok false
  | .waitTs k => k.ok false && k.ts
  | .kuborLoop k f => k.ok false && f.len != 0
  | .brc k _ _ cond _ => k.ok false && cond.toNat ≤ 5
  | _ => true

end Sys2Proof
end

