-- ==== Sys2Proof/Machine/Encoding.lean ====
section
/-!
DEFINITION. What the encoding checks of a word ask of the context: the direction of the ports it names, and how OPND fits the
shape of a channel (R96, R171, R188, R262, R322).
-/
namespace Sys2Proof.Machine

/-! ## Operand codes -/

/-- The codes of a word's vector source operands (R171); a field that an opcode does not use is zero. -/
def sourceCodes (i : Instr) : List (BitVec 6) :=
  match i with
  | .vadd _ f _ | .vsub _ f _ | .vmul _ f _ | .vfma _ f _ | .vmax _ f _ | .vmin _ f _ | .vabs _ f _ | .vneg _ f _ | .vrcp _ f _
  | .vrsq _ f _ | .vexp _ f _ | .vlog _ f _ | .vtanh _ f _ | .viadd _ f _ | .visub _ f _ | .vimul _ f _ | .vimad _ f _ | .vimin _ f _
  | .vimax _ f _ | .vand _ f _ | .vor _ f _ | .vxor _ f _ | .vshl _ f _ | .vshr _ f _ | .vsar _ f _ | .vcmp _ f _ | .vsel _ f _
  | .vmov _ f _ | .vcvt _ f _ | .vpack _ f _ | .vunpk _ f _ | .vreds _ f _ | .vscan _ f _ | .vperm _ f _ | .vlane _ f _ | .vqcnt _ f _
  | .vcmps _ f _ | .vqop _ f _ => [f.va, f.vb, f.vc]
  | .scl _ va _ => [va]
  | .shp _ _ vsrc va _ _ _ => if vsrc then [va] else []
  | .stl _ f _ | .stx _ f _ => if f.vec then [f.r] else []
  | .vldg _ f _ | .vldp _ f _ => [f.vI]
  | .vst _ f _ => [f.vR]
  | .vstp _ f _ | .vstg _ f _ | .vatom _ f _ => [f.vI, f.vR]
  | .cpyl _ f => [f.vO]
  | .xshf _ f | .xred _ f | .xbc _ f => [f.va, f.vb]
  | .xpick _ f => [f.va]
  | _ => []

/-- The codes of a word's vector destinations. -/
def destCodes (i : Instr) : List (BitVec 6) :=
  match i with
  | .vadd _ f _ | .vsub _ f _ | .vmul _ f _ | .vfma _ f _ | .vmax _ f _ | .vmin _ f _ | .vabs _ f _ | .vneg _ f _ | .vrcp _ f _
  | .vrsq _ f _ | .vexp _ f _ | .vlog _ f _ | .vtanh _ f _ | .viadd _ f _ | .visub _ f _ | .vimul _ f _ | .vimad _ f _ | .vimin _ f _
  | .vimax _ f _ | .vand _ f _ | .vor _ f _ | .vxor _ f _ | .vshl _ f _ | .vshr _ f _ | .vsar _ f _ | .vcmp _ f _ | .vsel _ f _
  | .vmov _ f _ | .vcvt _ f _ | .vpack _ f _ | .vunpk _ f _ | .vreds _ f _ | .vscan _ f _ | .vperm _ f _ | .vlane _ f _ | .vqcnt _ f _
  | .vcmps _ f _ | .vqop _ f _ => [f.vd]
  | .lda _ f _ => if f.vec then [f.r] else []
  | .vld _ f _ | .vldp _ f _ | .vldg _ f _ => [f.vR]
  | .vatom _ f _ => if f.nr then [] else [f.vR]
  | .xshf _ f | .xred _ f | .xbc _ f => [f.vd]
  | .xvot _ vd _ _ _ => [vd]
  | .xpick _ f => [f.vd]
  | _ => []

/-- The port that a code names, if it names one. -/
def codePort (c : BitVec 6) : Option Nat := if 0x20 ≤ c.toNat ∧ c.toNat ≤ 0x23 then some (c.toNat - 0x20) else none

/-- Whether a port is a write port. -/
def PortSet.isWrite (p : PortSet) : Bool := p.raw.getLsbD 192

/-! ## Channels -/

/-- Whether OPND fits the shape; `dst` for XRCV and XRCA, `add` for XRCA (R171, R262). -/
def opndOk (shape : Nat) (o : BitVec 6) (dst add : Bool) : Bool :=
  match shape with
  | 0 => if add then o.toNat < 32 else if dst then o.toNat ≤ 0x23 else o.toNat ≤ 0x24
  | 2 => if o.getLsbD 5 then !add else o.toNat < 4
  | _ => o.toNat < 4

/-- The slot that an OPND names, if it names one. -/
def opndSlot (shape : Nat) (o : BitVec 6) : Option Nat := if shape = 2 ∧ o.getLsbD 5 then some (o.toNat % 32) else none

/-- The accumulator that an OPND names, if it names one. -/
def opndAcc (shape : Nat) (o : BitVec 6) : Option Nat := if shape ≠ 0 ∧ (opndSlot shape o).isNone then some (o.toNat % 4) else none

/-- The vector code that an OPND names, if it names one. -/
def opndVec (shape : Nat) (o : BitVec 6) : List Nat := if shape = 0 then [o.toNat] else []

/-- A loaded channel whose sender or receiver endpoint is the context in focus, or its gang context (R262). -/
def State.channelFor (s : State) (ch : BitVec 10) (send : Bool) : Option Channel :=
  (tableFind s.channels ch.toNat).filter (fun c => let p := if send then c.snd else c.rcv; p.bound == s.owner && !p.ended)

/-- The shape of a channel word's entry. -/
def State.shapeOf (s : State) (ch : BitVec 10) (send : Bool) : Nat := ((s.channelFor ch send).map Channel.shape).getD 1

/-- The channel, OPND and direction of a channel word: whether it sends, has a destination, adds. -/
def channelUse (i : Instr) : Option (BitVec 10 × BitVec 6 × Bool × Bool × Bool) :=
  match i with
  | .xsnd _ o ch => some (ch, o, true, false, false)
  | .xrcv _ o ch => some (ch, o, false, true, false)
  | .xrca _ o ch => some (ch, o, false, true, true)
  | _ => none

/-- Source and destination codes of a word, those of a channel's vector elements among them. -/
def State.vectorCodes (s : State) (i : Instr) : List (BitVec 6) × List (BitVec 6) :=
  match channelUse i with
  | some (ch, o, send, dst, _) => if s.shapeOf ch send = 0 then (if dst then ([], [o]) else ([o], [])) else ([], [])
  | none => (sourceCodes i, destCodes i)

/-! ## The checks -/

/-- Whether a word reads a write port or writes a read port (R96, R171). -/
def State.portMisused (s : State) (i : Instr) : Bool :=
  let u := s.vectorCodes i
  let bad (write : Bool) (c : BitVec 6) : Bool := (codePort c).any (fun k => (s.was.portSet k).isWrite != write)
  u.1.any (bad false) || u.2.any (bad true)

/-- Whether OPND fits the shape of the word's channel; an entry that is not loaded, or not the context's, has no shape to fit
(R262). -/
def State.opndFits (s : State) (i : Instr) : Bool :=
  match channelUse i with
  | some (ch, o, send, dst, add) => match s.channelFor ch send with
    | some c => opndOk c.shape o dst add
    | none => true
  | none => true

/-- Whether a word passes every encoding check but those that look at the rest of its bundle; predicates and flags play no part
(R170, R188). -/
def State.encodingOk (s : State) (i : Instr) : Bool := i.wellFormed && !(s.portMisused i) && s.opndFits i

/-- Whether a word reads bc (R173). -/
def State.readsBc (s : State) (i : Instr) : Bool := (s.vectorCodes i).1.contains 0x24

end Sys2Proof.Machine
end

