-- ==== Sys2Proof/Machine/Ops.lean ====
section
/-!
DEFINITION. The operations every family shares: issuing a word, taking a trap or fault and returning from it, ending items
and contexts, the search for engines to run (R41, R44, R54 to R58, R170, R177, R188, R220, R447).
-/
namespace Sys2Proof.Machine

/-! ## Fault records (R56) -/

/-- The cause word of a record. -/
def causeWord (reason eid space cls token : Nat) (write async seq : Bool) : Dword :=
  BitVec.ofNat 64 (reason + eid * 2 ^ 8 + space * 2 ^ 12 + bit write * 2 ^ 15 + bit async * 2 ^ 16 + bit seq * 2 ^ 17 +
    token * 2 ^ 19 + cls * 2 ^ 24)

/-- A sequencer-side record of the bundle being issued. -/
def State.seqRec (s : State) (reason space cls : Nat) (addr : Dword) : FaultRec :=
  ⟨addr, BitVec.ofNat 64 s.issue.bundle, causeWord reason 0 space cls 0 false false true, 0⟩

/-- A sequencer-side record of a memory access (R56). -/
def State.memRec (s : State) (reason space cls : Nat) (write : Bool) (addr : Dword) : FaultRec :=
  ⟨addr, BitVec.ofNat 64 s.issue.bundle, causeWord reason 0 space cls 0 write false true, 0⟩

/-- A record of engine e of the bundle being issued. -/
def State.engRec (s : State) (e reason space cls : Nat) (write : Bool) (addr : Dword) : FaultRec :=
  ⟨addr, BitVec.ofNat 64 s.issue.bundle, causeWord reason e space cls 0 write false false, 0⟩

/-- Whether a record is sequencer-side. -/
def FaultRec.isSeq (r : FaultRec) : Bool := r.cause.getLsbD 17
/-- The engine of a record. -/
def FaultRec.eid (r : FaultRec) : Nat := bits r.cause.toNat 8 4
/-- The reason of a record. -/
def FaultRec.reason (r : FaultRec) : Byte := BitVec.ofNat 8 r.cause.toNat

/-- The engines that a round names. -/
def faultEngines (l : List FaultRec) : Mask := ofEngineBits (fun e => l.any (fun r => !r.isSeq && r.eid == e))

/-! ## Ending items and contexts -/

/-- A mask without the engines of another. -/
def Mask.less (a b : Mask) : Mask := a &&& ~~~b

/-- Stack entries without some engines. -/
def dropStack (m : Mask) (l : List StackEntry) : List StackEntry :=
  l.map (fun e => { e with pend := Mask.less e.pend m, entry := Mask.less e.entry m })

/-- Rejoin masks without some engines. -/
def dropRejoins (m : Mask) (l : Table Rejoin) : Table Rejoin :=
  l.map (fun e => (e.1, { e.2 with mask := Mask.less e.2.mask m, waiting := Mask.less e.2.waiting m }))

/-- Take engines out of the active mask, the stack and the rejoin sets (R41), and out of those to which a snapshot returns. An engine whose
item has ended on a landing is no longer lent: whether it is until the MERGE no rule says (R134; DESIGN CHOICE, log 15). -/
def Ctx.dropEngines (c : Ctx) (m : Mask) : Ctx :=
  { c with
    active := Mask.less c.active m
    live := Mask.less c.live m
    lent := Mask.less c.lent m
    stack := dropStack m c.stack
    rejoins := dropRejoins m c.rejoins
    idem := c.idem.map (fun n => { n with active := Mask.less n.active m, stack := dropStack m n.stack, rejoins := dropRejoins m n.rejoins })
    pipe := c.pipe.map (fun p => { p with runMask := Mask.less p.runMask m }) }

/-- A context and its landings lose engines. -/
def State.dropEngines (s : State) (o : Nat) (m : Mask) : State :=
  (s.sidesOf o).foldl (fun t c => t.modCtx c (fun x => x.dropEngines m)) s

/-- End the items of some engines of a gang context in one terminal state. The completion record of an item that ends while its
context is parked names gang 0: DESIGN CHOICE, log 37. -/
def State.endItems (s : State) (o : Nat) (m : Mask) (st reason : Nat) (late : RunItem → Nat) : State :=
  let c := s.ctxAt o
  let s1 := (c.items.filter (fun e => m.getLsbD e.1)).foldl (fun t e => t.endItem c.place.die e.2 c.place.gangNo e.1 st reason (late e.2)) s
  s1.modCtx o (fun c => { c with
    items := c.items.filter (fun e => !m.getLsbD e.1)
    expired := c.expired || (st ≠ stDONE && (c.items.any (fun e => m.getLsbD e.1))) })

/-- Slots of a context become FREE and keep what they hold; a slot being loaded becomes FREE when its load completes (R68). -/
def Engine.freeSlots (x : Engine) (o : Nat) : Engine :=
  { x with slots := x.slots.map (fun e => (e.1, if e.2.owner = o && !e.2.loading then { e.2 with owner := 0 } else e.2)) }

/-- Apply a change to every engine of a gang that has a record. -/
def State.mapGang (s : State) (g : Nat) (f : Engine → Engine) : State :=
  { s with engines := s.engines.map (fun e => if e.1 / 16 = g then (e.1, f e.2) else e) }

/-- The token leaves a context that stops being resident (R23). -/
def State.tokenLeaves (s : State) (pl : Place) : State :=
  let q := tableGet s.seqs pl.seqKey {}
  if pl.resident && q.token == pl.ctxNo then { s with seqs := tableInsert s.seqs pl.seqKey { q with token := 1 - pl.ctxNo } } else s

/-- Drop the operations of a context: their tokens are never written, their pins drop (R89). -/
def State.dropOps (s : State) (o : Nat) : State :=
  let gone := s.ops.filter (fun e => e.2.cid == o)
  let s1 := gone.foldl (fun t e => t.unpinAll e.2.region e.2.pins) s
  { s1 with ops := s1.ops.filter (fun e => e.2.cid ≠ o) }

/-- A context whose REGRP has issued goes on with f1 clear, where a later word of its bundle has not written f1 (R174, R211). -/
def State.regrpDrop (s : State) (cid : Nat) : State :=
  match (s.ctxAt cid).wait with
  | .regrp _ _ owes _ => (if owes then s.deliverF1 cid false else s).modCtx cid (fun c => { c with wait := .none })
  | _ => s

/-- Whether a context waits at REGRP for another one. -/
def Ctx.regrpWaitsFor (c : Ctx) (o : Nat) : Bool :=
  match c.wait with
  | .regrp _ p _ _ => p == o
  | _ => false

/-- A context leaves its REGRP: its own fails, and that of whoever waits for it (R48, R211). -/
def State.regrpLeave (s : State) (o : Nat) : State :=
  let s1 := (s.ctxs.map Prod.fst).foldl (fun t c => if (t.ctxAt c).regrpWaitsFor o then t.regrpDrop c else t) s
  match (s1.ctxAt o).wait with
  | .regrp _ p _ _ => (s1.regrpDrop o).modCtx p (fun c => { c with regrpFails := c.regrpFails || c.heldRegrp.isSome })
  | _ => s1

/-- A context parks or ends: the REGRP of every context that names it as its partner fails, and its own (R48, R211). -/
def State.regrpFail (s : State) (o : Nat) : State :=
  let t := s.regrpLeave o
  { t with ctxs := t.ctxs.map (fun e => (e.1, { e.2 with regrpFails := e.2.regrpFails || e.2.heldRegrp.any (fun h => h.2 == o) })) }

/-- Drop the expert pins of a context (R426). -/
def State.dropPins (s : State) (o : Nat) : State :=
  let c := s.ctxAt o
  let d := c.place.die
  let s1 := c.pins.foldl (fun t b => t.unpinBuf d b) s
  let s2 := s1.modCtx o (fun c => { c with pins := [] })
  if c.pins.isEmpty then s2 else s2.binsTake d

/-- Free a gang context's place (R23, R387): engines, token, region count. -/
def State.vacate (s : State) (o : Nat) : State :=
  let c := s.ctxAt o
  match c.place with
  | .gang g k =>
    let s1 := s.mapGang g (fun x => { (x.freeSlots o).setPart k {} with tasks := x.tasks.filter (fun t => t.ctx ≠ k) })
    (s1.tokenLeaves c.place).countGang c.region false
  | _ => s

/-- Items that have executed DONE and wait for no operation below `upto` any more become DONE (R215). -/
def State.finishItems (s : State) (o : Nat) (all : Bool) : State :=
  let c := s.ctxAt o
  let ready (f : Finishing) : Bool := all || !(s.opsBefore o f.upto)
  let s1 := (c.finishing.filter ready).foldl (fun t f =>
    t.endItem c.place.die f.item c.place.gangNo f.eid stDONE 0 0) s
  if c.finishing.isEmpty then s else s1.modCtx o (fun c => { c with finishing := c.finishing.filter (fun f => !ready f) })

/-- Items that wait for a bin on behalf of a context leave the queue: its SPAWN never issued (R36, R447). -/
def State.withdraw (s : State) (cid : Nat) : State :=
  { s with dies := s.dies.map (fun e => (e.1, { e.2 with waiting := e.2.waiting.filter (fun w => w.cid ≠ cid) })) }

/-- A gang context ends; its memberships end as expired ones or as leaves (R41, R68, R153, R161, R268, R390, R426). -/
def State.endContextAs (s : State) (o : Nat) (expired : Bool) : State :=
  let c := s.ctxAt o
  let s0 := ((s.sidesOf o).foldl State.withdraw s).keepSeat o
  let s1 := ((((s0.finishItems o true).regrpFail o).dropOps o).dropPins o).quitGroups (.ctx o) expired
  let s2 := ((s.landingsOf o).foldl (fun t k => t.tokenLeaves (s.ctxAt k).place) (s1.channelsLose o)).vacate o
  let s3 := match c.place with
    | .parked _ a => s2.freeArea c.region a
    | _ => s2
  ({ s3 with ctxs := s3.ctxs.filter (fun e => e.1 ≠ o && e.2.parent ≠ o) }).coresUpdate

/-- A gang context ends: expired when an item of it has been aborted, abandoned or discarded. -/
def State.endContext (s : State) (o : Nat) : State := s.endContextAs o (s.ctxAt o).expired

/-- EXIT of a gang context: every item becomes DONE and the context ends (R41). -/
def State.exitContext (s : State) (o : Nat) : State := (s.endItems o 0xFFFF stDONE 0 (fun _ => 0)).endContext o

/-- Items that have executed DONE and wait for operations end as ABORTED when a double fault or an abort drops the operations (R57, R215). -/
def State.abortFinishing (s : State) (o reason : Nat) (hit : RunItem → Bool) : State :=
  let c := s.ctxAt o
  if c.finishing.isEmpty then s
  else (c.finishing.filter (fun f => hit f.item)).foldl (fun t f => t.endItem c.place.die f.item c.place.gangNo f.eid stABORTED reason 0)
    (s.setCtx o { c with finishing := c.finishing.filter (fun f => !(hit f.item)) })

/-- Abort of a gang context: every item becomes ABORTED and the memberships expire (R57, R435). -/
def State.abortContext (s : State) (o reason : Nat) : State :=
  (((s.abortFinishing o reason (fun _ => true)).endItems o 0xFFFF stABORTED reason (fun _ => 0)).modCtx o (fun c => { c with expired := true })).endContext o

/-! ## Rejoin and the search for engines (R41, R44) -/

/-- A transfer to an address outside the body of a pipelined kernel leaves it (R40). -/
def Ctx.leaveKernel (c : Ctx) (t : Nat) : Ctx :=
  match c.pipe with
  | some p => if !c.sup && p.inKernel && !(p.k ≤ t && t < p.e) then
      { c with active := p.runMask &&& c.live, pipe := some { p with inKernel := false } } else c
  | none => c

/-- The reconvergence part of JWAIT after the active engines have joined (R44); the flag says that it released. -/
def Ctx.jwaitRun (c : Ctx) (n next : Nat) : Ctx × Bool :=
  let j := c.rejoin n
  let above := c.depth - j.base
  let rest := c.stack.drop above
  match (c.stack.take above).findIdx? (fun e => e.pend ≠ 0) with
  | some i =>
    let e := (c.stack.getD i ⟨0, 0, 0, 0, 0, 0⟩)
    (({ c with stack := { e with pend := 0 } :: c.stack.drop (i + 1), active := e.pend, pc := e.paddr } : Ctx).leaveKernel e.paddr, false)
  | none =>
    let c1 := { c with stack := rest, active := j.waiting, pc := next }
    let c2 := c1.putJ n { j with waiting := 0, mask := 0 }
    (if j.mask = 0 then c2.putF 1 true else { c2.putF 1 false with lrj := true }, true)

/-- The rejoin mask that the search of R41 takes: highest base, lowest number. -/
def Ctx.searchMask (c : Ctx) : Option Nat :=
  ([0, 1, 2, 3].filter (fun n => (c.rejoin n).waiting ≠ 0)).foldl (fun a n =>
    match a with
    | none => some n
    | some b => if (c.rejoin b).base < (c.rejoin n).base then some n else a) none

/-- Whether operations issued since the JINIT of jN are outstanding (R113). -/
def State.opsSince (s : State) (cid n : Nat) : Bool :=
  let f := ((s.ctxAt cid).rejoin n).fork
  s.opsOpen (s.ownerOf cid) (fun n => decide (f ≤ n))

/-- A round waits in issue order (R55). -/
def insertRound (r : Round) : List Round → List Round
  | [] => [r]
  | x :: t => if r.op < x.op then r :: x :: t else x :: insertRound r t

/-- Whether a destination lies in the engines. -/
def Dest.inEngine : Dest → Bool
  | .s _ => false
  | .f _ => false
  | .h _ => false
  | .cr _ => false
  | _ => true

/-- A landing's run ends (R46): its context is discarded; what is under way in its engines, the rounds that wait and the counted
arrivals that are not registered stay with the gang. -/
def State.endLanding (s : State) (cid : Nat) : State :=
  let l := s.ctxAt cid
  let o := l.parent
  let s1 := s.modCtx o (fun c => { c with
    lent := Mask.less c.lent l.live
    recvs := c.recvs ++ l.recvs.map (fun r => { r with lent := false })
    sends := c.sends ++ l.sends
    rounds := l.rounds.foldl (fun a r => insertRound r a) c.rounds
    counted := c.counted ++ l.counted
    pending := c.pending ++ l.pending.filter Dest.inEngine
    linked := c.linked ++ l.linked.filter (fun x => x.1.inEngine)
    inflight := l.inflight.filter (fun e => e.dest.inEngine) ++ c.inflight })
  let s2 := { s1.tokenLeaves l.place with ctxs := s1.ctxs.filter (fun e => e.1 ≠ cid) }
  s2.sideGone o

/-- The search of R41 for a context whose active mask is empty; `next` is the bundle after. -/
def State.search : Nat → State → Nat → Nat → State
  | 0, s, cid, next => s.modCtx cid (fun c => { c with wait := .search next })
  | n + 1, s, cid, next =>
    let c := s.ctxAt cid
    if c.active ≠ 0 then s.modCtx cid (fun c => { c with wait := .none })
    else match c.searchMask with
      | some j =>
        let (c1, released) := c.jwaitRun j (c.rejoin j).cont.toNat
        if released && s.opsSince cid j then s.modCtx cid (fun c => { c with wait := .search next })
        else State.search n (s.setCtx cid c1) cid next
      | none =>
        match c.stack with
        | [] =>
          if c.isLanding then s.endLanding cid
          else if s.opsBefore cid s.nextOp then s.modCtx cid (fun c => { c with wait := .search next })
          else s.exitContext cid
        | e :: t =>
          if e.kind = 1 then
            if (tableFind s.ctxs e.child).isSome then s.modCtx cid (fun c => { c with wait := .search next })
            else State.search n (s.setCtx cid { c with active := e.entry &&& c.live, stack := t, pc := next }) cid next
          else if e.pend ≠ 0 then
            State.search n (s.setCtx cid (({ c with active := e.pend, pc := e.paddr, stack := { e with pend := 0 } :: t } : Ctx).leaveKernel e.paddr)) cid next
          else State.search n (s.setCtx cid { c with active := e.entry &&& c.live, stack := t, pc := next }) cid next

/-- Fuel of the search: two visits of each stack entry and one of each rejoin mask. -/
def searchFuel (c : Ctx) : Nat := 2 * c.depth + 8

/-- Search now. -/
def State.seek (s : State) (cid next : Nat) : State := State.search (searchFuel (s.ctxAt cid)) s cid next

/-- A search that waits is tried again. -/
def State.reseek (s : State) (cid : Nat) : State :=
  match (s.ctxAt cid).wait with
  | .search next => if (tableFind s.ctxs cid).isSome then s.seek cid next else s
  | _ => s

/-- Try again every search that waits, finish items and register counted arrivals that are ready: called when an
operation or a landing ends. Landings come first, for a gang context may wait for one. -/
def State.settleWaits (s : State) : State :=
  let l := (s.ctxs.filter (fun e => e.2.isLanding)).map Prod.fst ++ (s.ctxs.filter (fun e => !e.2.isLanding)).map Prod.fst
  l.foldl (fun t c => (t.finishItems c false).reseek c) s.settleCounted

/-- Search now; a landing that the search ends is a landing that others may wait for (R41, R46). -/
def State.seekOn (s : State) (cid next : Nat) : State :=
  let t := s.seek cid next
  if (tableFind t.ctxs cid).isNone then t.settleWaits else t

/-- MERGE on a landing, and its like (R46, R215). -/
def State.mergeLanding (s : State) (cid : Nat) : State := (s.endLanding cid).settleWaits

/-! ## Taking a trap or fault, and returning (R54, R55, R57, R220) -/

/-- Package time at which a die reaches a cycle. -/
def State.nowAt (s : State) (d cyc : Nat) : Nat :=
  let x := s.die d
  max s.now (x.clkSince + ceilDiv ((cyc - x.clkBase) * 13000) x.clkMhz)

/-- Slot loads of a context complete (R67). -/
def Engine.loadSlots (x : Engine) (o : Nat) : Engine :=
  { x with slots := x.slots.map (fun e => if e.2.owner = o then (e.1, { e.2 with loading := false }) else e) }

/-- The cycle from which the seeds and the latches written in an engine stand for every reader (R138, R221). -/
def Engine.landed (x : Engine) : Nat := max (x.seed.foldl (fun a e => max a e.1) 0) ((x.latch.head?.map (fun l => l.cycle + 6)).getD 0)

/-- Every issued word lands: the context issues no more before the last bound is over, and slot loads complete (R177). -/
def State.land (s : State) (cid : Nat) : State :=
  let c := s.ctxAt cid
  let mine := s.engines.filter (fun e => e.1 / 16 == c.place.gangNo && (c.live.getLsbD (e.1 % 16) || c.active.getLsbD (e.1 % 16)))
  let last := c.inflight.foldl (fun a e => max a e.seqDue) (mine.foldl (fun a e => max a e.2.landed) 0)
  (s.mapGang c.place.gangNo (fun x => x.loadSlots (s.ownerOf cid))).setCtx cid { c with
    inflight := [], pending := [], linked := [], nextIssue := max c.nextIssue last }

/-- The first handler bundle waits for every receive that has been issued (R177). -/
def Ctx.awaitRecvs (c : Ctx) : Ctx := { c with recvs := c.recvs.map (fun r => { r with due := 0 }) }

/-- The part of trap entry that writes the context's registers (R54). -/
def Ctx.enter (c : Ctx) (epc : Nat) (recs : List FaultRec) : Ctx :=
  { c with
    epc := BitVec.ofNat 64 epc
    emask := c.active
    ecause := (recs.head?.map FaultRec.reason).getD 0
    active := if faultEngines recs = 0 then c.active else faultEngines recs
    sup := true
    trapDepth := c.depth
    pc := c.hvec.toNat
    faults := c.faults ++ recs
    wait := .none
    heldOn := none
    heldGid := none
    met := none
    heldRegrp := none
    regrpFails := false
    outerMet := c.met }

/-- The space of a record (R56). -/
def FaultRec.space (r : FaultRec) : Nat := bits r.cause.toNat 12 3

/-- Whether a record tells of a walk that found no translation: the walk of a page, a tile or a KV block that no buffer holds gives its reason
(R399, R404 to R407). A page of code is walked where it is fetched. -/
def State.walkGave (s : State) (p : Party) (r : FaultRec) : Bool :=
  let a := r.addr.toNat
  let fails {α : Type} (x : Except Nat α) : Bool := match x with
    | .error e => e == r.reason.toNat
    | .ok _ => false
  let write := r.cause.getLsbD 15
  match r.space with
  | 1 => (if write then [Acc4.write, Acc4.atomic] else [Acc4.read]).any (fun k =>
      decide (a < 2 ^ 56) && (s.tlbHit p k a).isNone && fails (s.flatPage p k a))
  | 2 => (s.tensor p (bits a 0 16)).any (fun t => fails (s.tileAt p (bits a 0 16) t (bits a 16 48) write))
  | 3 => (s.cardFor p (bits a 32 20) (bits a 24 8)).any (fun c =>
      s.kvBlock p (bits a 32 20) c (bits a 24 8) (bits a 52 1) (bits a 4 20) == .fail r.reason.toNat)
  | _ => false

/-- The walks of the translations that were not found leave their reasons in a stair core, one after the other (R399). -/
def State.missFailed (s : State) (cid : Nat) (recs : List FaultRec) : State :=
  let c := s.ctxAt cid
  (recs.filter (s.walkGave ⟨c.region, c.place.die⟩)).foldl (fun t r => t.putCore (missCore c.place.die) (walkResult r.addr
      (BitVec.ofNat 64 (c.place.gangNo + c.place.engCtx * 2 ^ 8 + r.eid * 2 ^ 9)) (BitVec.ofNat 64 c.region) (.error r.reason.toNat))) s

/-- A round of traps or faults of context `cid`: handler entry, or the end of the context when it is in its handler. -/
def State.enterTrap (s : State) (cid epc : Nat) (recs : List FaultRec) : State :=
  let s0 := ({ s with issue := { s.issue with status := .trapped, recs := recs } } : State).missFailed cid recs
  if (s.ctxAt cid).sup then s0.abortContext (s.ownerOf cid) rDBLFLT
  else
    ((s0.land cid).regrpLeave cid).modCtx cid (fun c => (c.enter epc recs).awaitRecvs)

/-- Whether a stopped part continues at SYSRET (R89, R291): a copy's part always, a restartable word's part while its
engine is live and its cursor is valid. -/
def Part.continues (p : Part) (restartable : Bool) (live : Mask) (kcur : Dword) : Bool :=
  p.state == .stopped && p.told && (!restartable || (live.getLsbD p.eid && kcur.getLsbD 63))

/-- Whether an operation is restartable under KCUR (R290). -/
def OpKind.restartable : OpKind → Bool
  | .cpyk _ _ _ => true
  | .kvmm _ _ _ _ _ _ _ => true
  | .kvmv _ _ _ _ _ _ _ _ _ => true
  | .gmma _ _ _ _ _ _ _ _ _ _ => true
  | _ => false

/-- Whether KCUR's POS places an operation (R290): in KV space, not for GMMA. -/
def OpKind.inKv : OpKind → Bool
  | .cpyk _ _ _ => true
  | .kvmm _ _ _ _ _ _ _ => true
  | .kvmv _ _ _ _ _ _ _ _ _ => true
  | _ => false

/-- Continue one operation at SYSRET; a restartable part takes its position from KCUR, whose V stays set until the continuation ends (R291,
DEDUCED from R366), and its turn for the array comes after every multiply issued before (R292). -/
def State.continueOp (s : State) (id : Nat) : State :=
  match tableFind s.ops id with
  | none => s
  | some o =>
    let live := (s.ctxAt o.cid).live
    o.parts.foldl (fun t p =>
      let k := ((t.eng o.gang p.eid).part o.ctxNo).kcur
      if p.continues o.kind.restartable live k then
        let p1 : Part := if o.kind.restartable then
            { p with state := .running, told := false, start := bits k.toNat 32 24, bad := o.kind.inKv && bits k.toNat 32 24 % 16 ≠ 0
                     at_ := s.cycleOf (o.seat / Config.gangsPerDie), turn := s.now }
          else { p with state := .running, told := false }
        match tableFind t.ops id with
        | some q => { t with ops := tableInsert t.ops id { q with parts := q.parts.map (fun x => if x.eid = p.eid then p1 else x) } }
        | none => t
      else t) s

/-- The operations of a context that wait for KCUR go on, now that V has been cleared (R290). -/
def State.unbar (s : State) (o : Nat) : State :=
  { s with ops := s.ops.map (fun e => if e.2.cid = o then (e.1, { e.2 with parts := e.2.parts.map (fun p => { p with barred := false }) }) else e) }

/-- Continue the stopped operations of a context whose rounds have been delivered. -/
def State.continueOps (s : State) (o : Nat) : State :=
  (s.ops.filter (fun e => e.2.cid == o)).foldl (fun t e => t.continueOp e.1) s

/-- The continuation of a part has ended: V of its cursor is clear (R291, R366). -/
def State.clearCursor (s : State) (o : Op) (p : Part) : State :=
  if p.cursor then
    (s.modEng o.gang p.eid (fun x => x.setPart o.ctxNo { x.part o.ctxNo with kcur := BitVec.ofNat 64 ((x.part o.ctxNo).kcur.toNat % 2 ^ 63) })).unbar o.cid
  else s

/-- KCUR of an engine comes to hold another cursor: those that it has held are no more. -/
def State.dropCursors (s : State) (cid eid : Nat) : State :=
  { s with ops := s.ops.map (fun e => if e.2.cid = cid then
      (e.1, { e.2 with parts := e.2.parts.map (fun p => if p.eid = eid then { p with cursor := false } else p) }) else e) }

/-- Whether a part makes progress: it has neither stopped nor come to wait for KCUR (R50, R290). -/
def Part.works (p : Part) : Bool := p.state == .running && !p.barred

/-- The destination of a control register's numbered bound; e is 0 at the sequencer (R221). -/
def crDest (n e : Nat) : Dest := .cr (16 * n + e)

/-- EPC, EMASK and RGLIVE as the word being issued reads them, inside the bound of a CSWR too (R175, R221). -/
def State.rEpc (s : State) : Dword := BitVec.ofNat 64 (s.inBound (crDest 0x20 0) true 32 2 s.was.epc.toNat)
def State.rEmask (s : State) : Mask := BitVec.ofNat 16 (s.inBound (crDest 0x21 0) true 32 2 s.was.emask.toNat)
def State.rRglive (s : State) : Dword := BitVec.ofNat 64 (s.inBound (crDest 0x08 0) true 32 2 s.was.rglive.toNat)

/-- SYSRET of context `cid` (R220); the arrival that the bundle at EPC has made stands (R59, R447), and so does a loop that the
handler has set (R208). -/
def State.sysret (s : State) (cid : Nat) : State :=
  let c := s.ctxAt cid
  let c1 : Ctx := { c with
    faults := [], stack := c.stack.drop (c.depth - c.trapDepth), active := s.rEmask &&& c.live, sup := false, pc := s.rEpc.toNat
    loop := c.loop.map (fun l => { l with sup := false })
    wait := .none, met := c.outerMet.filter (fun m => m.bundle == s.rEpc.toNat), outerMet := none }
  let s1 := (s.setCtx cid c1).continueOps (s.ownerOf cid)
  if c1.active = 0 then s1.seekOn cid s.rEpc.toNat else s1

/-! ## Issuing a word -/

/-- What the checks at issue say of a word. -/
inductive Verdict where
  | ok
  /-- It holds at issue (R177, R447). -/
  | hold
  /-- It traps or faults; EPC is the next bundle for TRAP and BRK, else this one. -/
  | trap (next : Bool) (recs : List FaultRec)
  deriving DecidableEq, Repr

/-- The verdict of a list of records. -/
def Verdict.ofRecs (l : List FaultRec) : Verdict := if l.isEmpty then .ok else .trap false l

/-- The first verdict that is not ok. -/
def Verdict.and (a b : Verdict) : Verdict :=
  match a with
  | .ok => b
  | _ => a

/-- A condition that traps with one sequencer-side STATE record when it fails. R56 gives the record no address and no space:
both are 0, DESIGN CHOICE, log 40. -/
def State.need (s : State) (cls : Nat) (ok : Bool) : Verdict := if ok then .ok else .trap false [s.seqRec rSTATE 0 cls 0]

/-- Whether a flag gate lets the word act (R170). -/
def State.gateF (s : State) (g : Gate) : Bool := s.rF g.pred != g.neg

/-- The engines in which an engine-gated word acts (R170). -/
def State.acting (s : State) (g : Gate) : List Nat := s.actives.filter (fun e => s.rP e g.pred != g.neg)

/-- Whether a sequencer-side M word acts (R170). -/
def State.gateM (s : State) (g : Gate) : Bool :=
  (g.pred == 0 && !g.neg) || s.actives.any (fun e => s.rPseq e g.pred != g.neg)

/-- Whether a destination is pending for the context in focus (R177). -/
def State.pendingDest (s : State) (d : Dest) : Bool :=
  s.me.pending.contains d ||
  (match d with
   | .s n => s.me.tokens.getLsbD n
   | _ => s.me.isLanding && (s.ctxAt s.me.parent).pending.contains d)

/-- Whether a token scalar belongs to an operation that has stopped: a handler word that would hold on it faults
with STATE (R55). -/
def State.stoppedToken (s : State) (d : Dest) : Bool :=
  match d with
  | .s n => s.me.sup && s.me.tokens.getLsbD n &&
      s.ops.any (fun e => e.2.cid == s.owner && e.2.token == n && e.2.parts.any (fun p => p.state == .stopped))
  | _ => false

/-- The holds that pending registers cause. -/
def State.scoreboard (s : State) (cls : Nat) (uses : List Dest) : Verdict :=
  if uses.any s.stoppedToken then .trap false [s.seqRec rSTATE 0 cls 0]
  else if uses.any s.pendingDest then .hold else .ok

/-- The ILLEG record of the word being issued (R189). -/
def State.illegRec (s : State) (cls : Nat) : FaultRec := s.seqRec rILLEG 4 cls (BitVec.ofNat 64 s.issue.word)

/-- The first pending token among the registers of a word (R50, R88). -/
def State.tokenAmong (s : State) (uses : List Dest) : Option Nat :=
  uses.findSome? (fun d => match d with
    | .s n => if s.me.tokens.getLsbD n then some n else none
    | _ => none)

/-- What the checks of a word say (R13, R170, R177). `uses` are its registers, `holds` the holds that do not ask whether it acts,
`acts` says whether it acts, `check` what a word that acts checks. A landing without engines runs only C and S words. -/
def State.verdict (s : State) (cls : Nat) (acts : Bool) (uses : List Dest) (holds check : State → Verdict) : Verdict :=
  (s.scoreboard cls uses).and
    (if s.me.isLanding && s.me.live == 0 && 2 ≤ cls then s.need cls false
     else (holds s).and (if acts then check s else .ok))

/-- The group on whose word a bundle holds (R163). -/
def State.heldGroup (s : State) (i : Instr) : Option Nat :=
  let of (h : BitVec 3) : Option Nat := (s.byHandle (s.rH h).toNat (.ctx s.owner)).map Prod.fst
  match i with
  | .gwait _ h => of h
  | .gbar _ _ h => of h
  | .gvote _ _ _ h _ => of h
  | .grdc _ _ h _ _ _ _ => of h
  | _ => none

/-- What a word needs to issue: its class, its registers, its holds, whether it acts and what it checks then. -/
structure Needs where
  cls   : Nat
  uses  : State → List Dest
  holds : State → Verdict
  acts  : State → Bool
  check : State → Verdict

/-- Issue one word (R170, R174, R177, R188). Inside a bundle whose words have all been checked (`issue.pre`), only its
effect remains. -/
def runWord (i : Instr) (w : Needs) (eff : State → State) (s : State) : Answer :=
  if (tableFind s.ctxs s.focus).isNone || !s.me.place.resident then .fault .noContext
  else match s.issue.pre with
    | some _ => .next (if w.acts s then eff s else s)
    | none =>
      if !(s.encodingOk i) then .next (s.enterTrap s.focus s.issue.bundle [s.illegRec w.cls])
      else match s.verdict w.cls (w.acts s) (w.uses s) w.holds w.check with
        | .ok => .next (if w.acts s then eff s else s)
        | .hold => .next { s with issue := { s.issue with
            status := .held, heldOn := s.tokenAmong (w.uses s), heldGid := s.heldGroup i } }
        | .trap next recs => .next (s.enterTrap s.focus (if next then s.issue.next else s.issue.bundle) recs)

/-- No condition at issue. -/
def free : State → Verdict := fun _ => .ok

/-- A word gated by a flag, at the sequencer (C, S and the handle words of X). -/
def runFlag (i : Instr) (cls : Nat) (g : Gate) (uses : List Dest) (check : State → Verdict) (eff : State → State) (s : State) : Answer :=
  runWord i ⟨cls, fun _ => .f g.pred.toNat :: uses, free, fun t => t.gateF g, check⟩ eff s

/-- A word gated by an engine predicate in each active engine. -/
def runEng (i : Instr) (cls : Nat) (g : Gate) (uses : State → List Dest) (check : State → Verdict) (eff : State → State) (s : State) : Answer :=
  runWord i ⟨cls, uses, free, fun t => !(t.acting g).isEmpty, check⟩ eff s

/-- A word that an engine's units can hold, gated by an engine predicate in each active engine. -/
def runUnit (i : Instr) (cls : Nat) (g : Gate) (uses : State → List Dest) (holds check : State → Verdict) (eff : State → State) (s : State) : Answer :=
  runWord i ⟨cls, uses, holds, fun t => !(t.acting g).isEmpty, check⟩ eff s

/-- An engine-gated word that may pop ports: the pops happen whatever the predicates (R96, R236). -/
def runPop (i : Instr) (cls : Nat) (uses : State → List Dest) (check : State → Verdict) (eff : State → State) (s : State) : Answer :=
  runWord i ⟨cls, uses, free, fun _ => true, check⟩ eff s

/-- A sequencer-side M word. -/
def runSeqM (i : Instr) (g : Gate) (uses : List Dest) (check : State → Verdict) (eff : State → State) (s : State) : Answer :=
  runWord i ⟨6, fun _ => uses, free, fun t => t.gateM g, check⟩ eff s

/-- Registers as destinations. -/
def useS (l : List (BitVec 5)) : List Dest := l.map (fun n => .s n.toNat)
/-- Engine registers of every active engine. -/
def State.useE (s : State) (f : Nat → List Dest) : List Dest := s.actives.flatMap f

/-- Apply a change for each engine in turn (R7). -/
def State.each (s : State) (l : List Nat) (f : State → Nat → State) : State := l.foldl f s

/-! ## Transfers (R40, R202 to R208) -/

/-- A taken transfer: it clears a loop whose body the target leaves, and leaves a pipelined kernel (R40, R208). -/
def Ctx.goto (c : Ctx) (t : Nat) : Ctx :=
  ({ c with pc := t, loop := c.loop.filter (fun l => !(l.acts c.sup) || (l.start ≤ t && t < l.stop)) } : Ctx).leaveKernel t

/-- Transfer the context in focus. -/
def State.goto (s : State) (t : Nat) : State := s.mod (fun c => c.goto t)

/-- A branch offset in words, from the bundle (R200). -/
def State.target (s : State) (w : Nat) (off : Nat) : Nat := wrapInt 64 ((s.issue.bundle : Int) + toSigned w off * 4)

/-- The check of a long or computed target (R200, R204). One that breaks both checks faults with PROT: DESIGN CHOICE, log 46. -/
def State.targetCheck (s : State) (t : Dword) (prot : Bool) : Verdict :=
  if prot && 2 ^ 56 ≤ t.toNat then .trap false [s.seqRec rPROT 4 0 t]
  else if t.toNat % 4 ≠ 0 then .trap false [s.seqRec rALIGN 4 0 t]
  else .ok

/-- Whether a divergence word may set pc to a target while a loop is set (R208); `fall` marks its own fall-through. -/
def State.loopAllows (s : State) (t : Nat) (fall : Bool) : Bool :=
  match s.was.loopNow with
  | some l => (l.start ≤ t && t < l.stop) || (fall && t == l.stop)
  | none => true

/-- Count time at the sequencer: the context's next bundle issues at the earliest L cycles after this one (R179). -/
def State.delay (s : State) (L : Nat) : State := let t := s.cycle + L
  s.mod (fun c => { c with nextIssue := max c.nextIssue t })

end Sys2Proof.Machine
end

