-- ==== Sys2Proof/Machine/Operands.lean ====
section
/-!
DEFINITION. Operand forms: engine-local addresses and shared windows, ports, vector operands, lane predicates and the
writing of vector results (R62 to R66, R95 to R97, R160, R171, R173, R234 to R237).
-/
namespace Sys2Proof.Machine

/-! ## Engine-local addresses (R62, R66, R160) -/

/-- The context that holds position k of the group whose window the context in focus has mapped, and its gang: from the first
generation of which it is a member until its leave or removal takes effect (R160). -/
def State.windowMember (s : State) (k : Nat) : Option (Nat × Nat) :=
  let h := (s.ctxAt s.owner).window.toNat
  let g := s.groupAt (bits h 0 12)
  if h = 0 ∨ g.state = .free ∨ g.inc ≠ bits h 24 8 ∨ !g.win then none
  else
    (g.members.find? (fun m => m.pos == k && decide (m.since ≤ g.gen))).bind (fun m =>
      match m.who with
      | .ctx c => match (tableFind s.ctxs c).map Ctx.place with
        | some (.gang p _) => some (c, p)
        | some _ => none
        | none => m.seat.map (fun p => (c, p))
      | .porch _ _ => none)

/-- The shared window as an operation keeps it (R121): as its bundle found it (R174). -/
def State.windowTable (s : State) : Table (Nat × Nat) :=
  match s.issue.window with
  | some w => w
  | none =>
    if (s.ctxAt s.owner).window = 0 then [] else (List.range 16).filterMap (fun k => (s.windowMember k).map (fun x => (k, x)))

/-- The gang that position k of the mapped window names. What an operation found at its issue stands, whatever leaves; a member
that has moved is reached where it is, and a parked one is not reached (R121, R160, R162). -/
def State.windowGang (s : State) (k : Nat) : Option Nat :=
  match s.issue.window with
  | none => (s.windowMember k).map Prod.snd
  | some w => (tableFind w k).bind (fun x => match (tableFind s.ctxs x.1).map Ctx.place with
    | some (.gang p _) => some p
    | some _ => if x.1 = s.owner then some s.me.place.gangNo else none
    | none => some x.2)

/-- The gang and scratchpad offset that an engine-local range of n bytes names; none when it maps nothing. -/
def State.localAt (s : State) (a n : Nat) : Option (Nat × Nat) :=
  if a + n ≤ 0x80000 then some (s.me.place.gangNo, a)
  else if 0x100000 ≤ a ∧ a < 0x900000 ∧ (a - 0x100000) % 0x80000 + n ≤ 0x80000 then
    (s.windowGang ((a - 0x100000) / 0x80000)).map (fun g => (g, (a - 0x100000) % 0x80000))
  else none

/-- Read n bytes of engine-local memory of engine e; zero where nothing is mapped. -/
def State.localRead (s : State) (e a n : Nat) : List Byte :=
  match s.localAt a n with
  | some (g, o) => (List.range n).map (fun i => (s.eng g e).byte (o + i))
  | none => List.replicate n 0

/-- Write engine-local bytes of engine e. -/
def State.localWrite (s : State) (e a : Nat) (bs : List Byte) : State :=
  match s.localAt a bs.length with
  | some (g, o) => s.modEng g e (fun x => x.putBytes o bs)
  | none => s

/-- The records of engines, or ok. -/
def State.engineRecs (l : List Nat) (f : Nat → Option FaultRec) : Verdict := Verdict.ofRecs (l.filterMap f)

/-! ## Ports (R95 to R97) -/

/-- Level k of a port parameter set: count, 0 counting as 1, and signed stride. -/
def PortSet.level (p : PortSet) (k : Nat) : Nat × Int :=
  let w := bits p.raw.toNat (48 * k) 48
  (max 1 (bits w 32 16), toSigned 32 (bits w 0 32))

/-- The address a pop gives, with an addition to BASE (R96, R97). A sum beyond 2^32 or below 0 wraps: DESIGN CHOICE, log 40. -/
def PortSet.addr (p : PortSet) (add : Int) : Nat :=
  let base := (bits p.raw.toNat 224 32 : Int) + add
  let ring := bits p.raw.toNat 208 16 * 256
  let off := (p.i0 : Int) * (p.level 0).2 + p.i1 * (p.level 1).2 + p.i2 * (p.level 2).2 + p.i3 * (p.level 3).2
  wrapInt 32 (if ring ≠ 0 then base + off % (ring : Int) else base + off)

/-- The port after a pop (R96). -/
def PortSet.step (p : PortSet) : PortSet :=
  let i0 := p.i0 + 1
  let (i0, i1) := if i0 = (p.level 0).1 then (0, p.i1 + 1) else (i0, p.i1)
  let (i1, i2) := if i1 = (p.level 1).1 then (0, p.i2 + 1) else (i1, p.i2)
  let (i2, i3) := if i2 = (p.level 2).1 then (0, p.i3 + 1) else (i2, p.i3)
  { p with i0 := i0, i1 := i1, i2 := i2, i3 := if i3 = (p.level 3).1 then 0 else i3 }

/-- Port k as this bundle has stepped it so far (R174). -/
def State.portNow (s : State) (k : Nat) : PortSet := (tableFind s.issue.pops k).getD (s.was.portSet k)

/-- What an increment descriptor of the loop adds to a port's BASE on this pass (R97, R206). -/
def portInc (desc : BitVec 26) (pass k : Nat) : Int :=
  let d := desc.toNat
  if d.testBit 25 && d.testBit 24 && bits d 18 2 == k then toSigned 18 (bits d 0 18) * 4 * pass else 0

/-- The addition to port k's BASE. -/
def State.portAdd (s : State) (k : Nat) : Int :=
  match s.was.loopNow with
  | some l => portInc l.descA l.pass k + portInc l.descB l.pass k
  | none => 0

/-- The address that a pop of port k gives now. -/
def State.portAddr (s : State) (k : Nat) : Nat := (s.portNow k).addr (s.portAdd k)

/-- Pop port k; the set that a PORT of the same bundle has loaded stays (R174, R309). -/
def State.popPort (s : State) (k : Nat) : State :=
  let p := (s.portNow k).step
  let t := if s.issue.ports.contains k then s else s.mod (fun c => c.putG k p)
  { t with issue := { t.issue with pops := tableInsert t.issue.pops k p } }

/-- The ports among a word's vector operand codes, each once. -/
def portsOf (codes : List Nat) : List Nat := (List.range 4).filter (fun k => codes.contains (0x20 + k))

/-- Pop every port a word names. -/
def State.popAll (s : State) (codes : List Nat) : State := (portsOf codes).foldl State.popPort s

/-- The checks of the ports of a word: alignment (R236), mapping. -/
def State.portCheck (s : State) (cls : Nat) (srcs dsts : List Nat) : Verdict :=
  match (portsOf (srcs ++ dsts)).find? (fun k => s.portAddr k % 4 ≠ 0 || (s.localAt (s.portAddr k) 256).isNone) with
    | some k => .trap false [s.seqRec (if s.portAddr k % 4 ≠ 0 then rALIGN else rPROT) 0 cls (BitVec.ofNat 64 (s.portAddr k))]
    | none => .ok

/-! ## Vector operands (R171, R173, R234) -/

/-- A vector whose bytes are a list. -/
def vecOfBytes (bs : List Byte) : Vec := BitVec.ofNat 2048 (leValue bs)

/-- Read a vector operand in engine e; `t` is the state whose memory a port reads, before the pop. -/
def State.rVec (s : State) (e code : Nat) : Vec :=
  if code < 32 then s.rV e code
  else if code < 36 then vecOfBytes (s.localRead e (s.portAddr (code - 32)) 256)
  else splat (BitVec.ofNat 32 s.issue.bc.toNat)

/-- A vector operand that a literal may replace. -/
def State.rVecLit (s : State) (e : Nat) (code : BitVec 6) (lit : Option Dword) : Vec :=
  match lit with
  | some l => splat (BitVec.ofNat 32 l.toNat)
  | none => s.rVec e code.toNat

/-- The 64 lanes of a vector. -/
def lanes (v : Vec) : List Nat := (List.range 64).map (fun i => bits v.toNat (32 * i) 32)

/-- The vector of a list of lanes. -/
def vecOf (l : List Nat) : Vec := BitVec.ofNat 2048 (l.foldr (fun x a => x % 2 ^ 32 + a * 2 ^ 32) 0)

/-- The active lanes of a word in engine e (R235). -/
def State.laneMask (s : State) (e : Nat) (lq : BitVec 3) (ln : Bool) : LaneMask :=
  if ln then ~~~(s.rQ e lq) else s.rQ e lq

/-- Merge a result into the old lanes: inactive lanes keep their value or become zero (R235). -/
def mergeLanes (m : LaneMask) (z : Bool) (old new : List Nat) : List Nat :=
  (List.range 64).map (fun i => if m.getLsbD i then new.getD i 0 else if z then 0 else old.getD i 0)

/-- Merge a result into a lane predicate (R235). -/
def mergeBits (m : LaneMask) (z : Bool) (old new : LaneMask) : LaneMask :=
  (new &&& m) ||| (if z then 0 else old &&& ~~~m)

/-- Store lanes of a vector at an engine-local address: those of the mask, and every lane when z (R236). -/
def State.storeLanes (s : State) (e a : Nat) (v : List Nat) (m : LaneMask) (z : Bool) : State :=
  (List.range 64).foldl (fun t i => if m.getLsbD i || z then t.localWrite e (a + 4 * i) (leBytes 4 (v.getD i 0)) else t) s

/-- What the destination of a vector word holds in engine e. -/
def State.oldVec (s : State) (e code : Nat) : Vec :=
  if code < 32 then ((s.myEng e).part s.me.place.engCtx).vreg code else 0

/-- Write the vector result of a word to its destination: a register, or a write port at an address taken before the
pop. -/
def State.putVec (s : State) (e code addr : Nat) (m : LaneMask) (z : Bool) (new : List Nat) (L : Nat) : State :=
  let out := mergeLanes m z (lanes (s.oldVec e code)) new
  if code < 32 then s.wVlanes e code (vecOf out) L (if z then wholeDest else m.toNat) else s.storeLanes e addr out m z

/-- The registers of vector operand codes in the active engines. -/
def State.useV (s : State) (codes : List Nat) : List Dest :=
  s.useE (fun e => (codes.filter (fun c => decide (c < 32))).map (fun c => .v e c))

/-- Scalar operand or literal. -/
def State.rSLit (s : State) (n : BitVec 5) (lit : Option Dword) : Dword :=
  match lit with
  | some l => l
  | none => s.rS n

/-! ## Base and displacement (R299, R300) -/

/-- A base scalar plus a signed displacement, or plus a literal in its place. -/
def State.baseDisp (s : State) (sA : BitVec 5) (disp : BitVec 32) (lit : Option Dword) : Dword :=
  s.rS sA + (match lit with | some l => l | none => sext64 32 disp.toNat)

end Sys2Proof.Machine
end

