-- ==== Sys2Proof/Machine/Array.lean ====
section
/-!
DEFINITION. The multiply array: slot elements, tag pairs, K groups and their latches, accumulators and what keeps them and
the slots busy (R67, R126, R136 to R140, R274, R279 to R284, R292).
-/
namespace Sys2Proof.Machine

/-! ## Slot formats (R67, R281) -/

/-- K capacity of a slot format tag; none for a code that is no slot format. -/
def slotCap (fmt : Nat) : Option Nat :=
  match fmt with
  | 1 => some 64 | 2 => some 64
  | 3 => some 128 | 4 => some 128 | 5 => some 128 | 6 => some 128
  | 9 => some 256 | 0xA => some 256 | 0xB => some 256
  | _ => none

/-- Exact value of element k of row r of a slot under its tag (R67, R126). -/
def OSlot.elem (o : OSlot) (r k : Nat) : Num :=
  let row := bits o.data.toNat (1024 * r) 1024
  match o.fmt.toNat with
  | 0xA => decodeMx (bits o.scale.toNat (64 * r + 8 * (k / 32)) 8) (bits row (4 * k) 4)
  | 0xB => decodeKb 2 (bits row (64 * (k / 16)) 64) (k % 16)
  | f => decodeElem f (bits row (fmtBits f * k) (fmtBits f))

/-- K group and whether the accumulation is in INT32 patterns, for a pair of tags (R281). -/
def tagPair (a b : Nat) : Option (Nat × Bool) :=
  let f16 (x : Nat) : Bool := x == 1 || x == 2
  let f8 (x : Nat) : Bool := x == 3 || x == 4
  let i8 (x : Nat) : Bool := x == 5 || x == 6
  let f4 (x : Nat) : Bool := x == 0xA || x == 0xB
  if f16 a && f16 b then some (1, false)
  else if f8 a && f8 b then some (2, false)
  else if i8 a && i8 b then some (2, true)
  else if f4 a && f4 b then some (4, false)
  else if a == 9 && b == 9 then some (4, true)
  else none

/-- A shape: rows, columns, K length (R274). -/
structure Shape where
  rows : Nat
  cols : Nat
  klen : Nat
  deriving DecidableEq, Repr

/-- The shape a ZS field selects in engine e, with the K capacity for the full shape. -/
def State.shape (s : State) (e : Nat) (zs : BitVec 4) (cap : Nat) : Shape :=
  if zs = 8 then ⟨64, 64, cap⟩
  else
    let z := (s.rZ e zs.toNat).toNat
    ⟨min 64 (bits z 0 7), min 64 (bits z 8 7), min cap (bits z 16 9)⟩

/-! ## Latches (R138) -/

/-- The latch contents that a K group issued in a cycle uses: those left six cycles before. -/
def latchAt (l : List Latches) (cyc : Nat) : Latches :=
  (l.find? (fun x => decide (x.cycle + 6 ≤ cyc))).getD
    ⟨0, BitVec.ofNat 512 (packBits 8 64 (fun _ => 127)), BitVec.ofNat 512 (packBits 8 64 (fun _ => 127))⟩

/-- Scale an exact group sum by the two latch exponents of an element; 0xFF makes it NaN. -/
def latchScale (l : Latches) (i j : Nat) (g : NumF) : NumF :=
  let r := bits l.row.toNat (8 * i) 8
  let c := bits l.col.toNat (8 * j) 8
  if r = 255 ∨ c = 255 then (.nan false, g.2) else (g.1.scale ((r : Int) + c - 254), g.2)

/-! ## Accumulation (R136, R137) -/

/-- Sum of a non-empty list of exact products with their flags. Where infinities of both signs meet a NaN, whether the sum is
invalid depends on the order, which the spec does not give; here the last product comes first: DESIGN CHOICE, log 38. -/
def sumN : List NumF → Option NumF
  | [] => none
  | [x] => some x
  | x :: xs => (sumN xs).map (fun y =>
      let r := addN false x.1 y.1
      (r.1, x.2 ||| y.2 ||| r.2))

/-- Add an exact group sum to an FP32 pattern, rounding once (R137). -/
def accAdd (old : Nat) (g : NumF) : Nat × Flags :=
  let t := addN false (decodeF fFP32 old) g.1
  let r := roundRneFp32 t.1
  (r.val, g.2 ||| t.2 ||| r.flags)

/-- Add one K group of exact products to an element, the sum raising the flags `fl` (R137); no product leaves it. -/
def accSum (l : Latches) (i j old : Nat) (ps : List NumF) (fl : Flags) : Nat × Flags :=
  match sumN ps with
  | some g => accAdd old (latchScale l i j (g.1, fl))
  | none => (old, 0)

/-- The flags of a sum of products. -/
def sumFlags (ps : List NumF) : Flags := ((sumN ps).map Prod.snd).getD 0

/-- Integer value of an exact integer element. -/
def numInt : Num → Int
  | .fin neg m _ _ => if neg then -(m : Int) else m
  | _ => 0

/-- Add one K group of integer products to an element's INT32 pattern (R136). -/
def accInt (old : Nat) (ps : List (Num × Num)) : Nat := wrapInt 32 ((old : Int) + (ps.map (fun p => numInt p.1 * numInt p.2)).sum)

/-- Add one K group of products to an element (R137, R136). -/
def accGroup (int : Bool) (l : Latches) (i j old : Nat) (ps : List (Num × Num)) : Nat × Flags :=
  if int then (if ps.isEmpty then old else accInt old ps, 0)
  else
    let xs := ps.map (fun p => mulN p.1 p.2)
    accSum l i j old xs (sumFlags xs)

/-- Replace element (i, j) of an accumulator. -/
def Acc.put (a : Acc) (i j v : Nat) : Acc := BitVec.ofNat 131072 (putBits a.toNat (32 * (64 * i + j)) 32 v)

/-- Apply a change to every element within a shape, row by row, gathering flags. -/
def accMap (rows cols : Nat) (f : Nat → Nat → Nat → Nat × Flags) (a : Acc) : Acc × Flags :=
  (List.range rows).foldl (fun x i => (List.range cols).foldl (fun (x : Acc × Flags) j =>
    let r := f i j (accElem a i j).toNat
    (Acc.put x.1 i j r.1, x.2 ||| r.2)) x) (a, 0)

/-! ## Tasks: multiplies whose groups enter one per cycle (R282 to R284) -/

/-- The products of group n of a dense multiply for an element. -/
def denseProducts (a b : OSlot) (grp klen n i j : Nat) : List (Num × Num) :=
  ((List.range grp).filter (fun d => decide (n * grp + d < klen))).map (fun d => (a.elem i (n * grp + d), b.elem j (n * grp + d)))

/-- The products of group n of a sparse multiply for an element (R283). -/
def sparseProducts (a b b1 m : OSlot) (lgs klen n i j : Nat) : List (Num × Num) :=
  let cap := (slotCap a.fmt.toNat).getD 64
  (List.range lgs).flatMap (fun q =>
    let g := n * lgs + q
    let meta_ := bits m.data.toNat ((i * (cap / 2) + g) * 4) 4
    ([0, 1].filter (fun t => decide (4 * g + bits meta_ (2 * t) 2 < klen))).map (fun t =>
      let k := 4 * g + bits meta_ (2 * t) 2
      (a.elem i (2 * g + t), if k < cap then b.elem j k else b1.elem j (k - cap))))

/-- The change that group `next` of a task makes to an accumulator, and its flags. -/
def MulTask.enter (t : MulTask) (l : Latches) (a : Acc) : Acc × Flags :=
  let int := ((tagPair t.a.fmt.toNat t.b.fmt.toNat).map Prod.snd).getD false
  let ps (i j : Nat) : List (Num × Num) :=
    if t.sparse then sparseProducts t.a t.b t.b1 t.m t.group t.klen t.next i j
    else denseProducts t.a t.b t.group t.klen t.next i j
  accMap t.rows t.cols (fun i j old => accGroup int l i j old (ps i j)) a

/-- The accumulator that a task adds to: what later words have overwritten it keeps beside it. -/
def MulTask.base (t : MulTask) (a : Acc) : Acc :=
  match t.lost with
  | some (m, l) => BitVec.ofNat 131072 (mergeTaken m 32 4096 a.toNat l.toNat)
  | none => a

/-- Run group `next` of a task on an engine; the units that it has lost go on for their flags alone. -/
def Engine.runGroup (x : Engine) (t : MulTask) : MulTask × Engine :=
  let c := x.part t.ctx
  let a := c.accum t.ad
  let r := t.enter (latchAt x.latch t.at_) (t.base a)
  match t.lost with
  | some (m, _) =>
    ({ t with lost := some (m, r.1) }, x.setPart t.ctx ((c.putA t.ad (BitVec.ofNat 131072 (mergeTaken m 32 4096 r.1.toNat a.toNat))).raise r.2))
  | none => (t, x.setPart t.ctx ((c.putA t.ad r.1).raise r.2))

/-- Run the groups of a task that have entered before a cycle (R177: only then has the array taken them). -/
def runTask (cyc : Nat) : Nat → MulTask → Engine → MulTask × Engine
  | 0, t, x => (t, x)
  | n + 1, t, x =>
    if t.next < t.groups ∧ t.at_ < cyc then
      let r := x.runGroup t
      runTask cyc n { r.1 with next := t.next + 1, at_ := t.at_ + 1 } r.2
    else (t, x)

/-- Run all tasks of an engine up to a cycle, in order; finished tasks go. A task is there in the cycle of its last group (R279). -/
def settleTasks (cyc : Nat) : List MulTask → Engine → Engine
  | [], x => x
  | t :: ts, x =>
    let (t1, x1) := runTask cyc (t.groups - t.next) t x
    settleTasks cyc ts (if t1.next < t1.groups then { x1 with tasks := x1.tasks ++ [t1] } else x1)

/-- A cycle by which every group of the tasks of an engine has entered. -/
def tasksEnd (l : List MulTask) : Nat := l.foldl (fun c t => max c (t.at_ + t.groups)) 0

/-- An engine once every group of its tasks has entered. -/
def Engine.afterTasks (x : Engine) : Engine := if x.tasks.isEmpty then x else settleTasks (tasksEnd x.tasks) x.tasks { x with tasks := [] }

/-- An engine once every group of the tasks of context number k has entered: what a park saves (R394). -/
def Engine.landTasks (x : Engine) (k : Nat) : Engine :=
  let mine := x.tasks.filter (fun t => t.ctx == k)
  if mine.isEmpty then x else settleTasks (tasksEnd mine) mine { x with tasks := x.tasks.filter (fun t => t.ctx ≠ k) }

/-- Bring engine e of gang g up to the die's cycle. -/
def State.settleEngine (s : State) (g e : Nat) : State :=
  let x := s.eng g e
  if x.tasks.isEmpty then s
  else s.setEng g e (settleTasks (s.cycleOf (g / Config.gangsPerDie)) x.tasks { x with tasks := [] })

/-- Bring the engines of a gang up to the die's cycle. -/
def State.settleGang (s : State) (g : Nat) : State := (List.range 16).foldl (fun t e => t.settleEngine g e) s

/-! ## What keeps accumulators and slots busy (R113, R279, R290, R292) -/

/-- Whether a part still works or has stopped. -/
def Part.open_ (p : Part) : Bool := p.state == .running || p.state == .stopped

/-- The accumulator an operation writes in its engines, if any. -/
def OpKind.accOf : OpKind → Option Nat
  | .kvmm ad _ _ _ _ _ _ => some ad
  | .kvmv ad _ _ _ _ _ _ _ _ => some ad
  | .gmma ad _ _ _ _ _ _ _ _ _ => some ad
  | _ => none

/-- The slots an operation reads in engine e (R279, R287). -/
def OpKind.slotsOf (e : Nat) : OpKind → List Nat
  | .kvmm _ oq q _ _ _ _ => (List.range (tableGet q e []).length).map (fun i => oq + i)
  | .kvmv _ oq _ _ _ _ _ _ _ => [oq]
  | .gmma _ oa _ _ _ _ _ _ _ _ => [oa]
  | _ => []

/-- Open multiply operations with a part in engine e of a gang. -/
def State.engineOps (s : State) (g e : Nat) : List (Nat × Op) :=
  s.ops.filter (fun o => o.2.gang == g && o.2.kind.accOf.isSome && o.2.parts.any (fun p => p.eid == e && p.open_))

/-- Open multiply operations with a part whose groups the array of engine e of a gang takes. -/
def State.arrayOps (s : State) (g e : Nat) : List (Nat × Op) :=
  s.ops.filter (fun o => o.2.seat == g && o.2.kind.accOf.isSome && o.2.parts.any (fun p => p.eid == e && p.open_))

/-- Whether the part of an operation in engine e has stopped. -/
def Op.stoppedIn (o : Op) (e : Nat) : Bool := o.parts.any (fun p => p.eid == e && p.state == .stopped)

/-- Why a word holds on an engine resource: not at all, until something ends, or for ever in the handler (R279). -/
inductive Busy where
  | no | wait | never
  deriving DecidableEq, Repr

/-- The operations of the context that use a resource decide whether a word waits; in the handler a stopped one never
ends. -/
def State.busyOps (s : State) (l : List (Nat × Op)) (e : Nat) : Busy :=
  if l.isEmpty then .no
  else if s.me.sup && l.any (fun o => o.2.cid == s.owner && o.2.stoppedIn e) then .never else .wait

/-- Whether an accumulator is busy with an operation (R113, R290). -/
def State.accBusy (s : State) (e n : Nat) : Busy :=
  s.busyOps ((s.engineOps s.me.place.gangNo e).filter (fun o => o.2.ctxNo == s.me.place.engCtx && o.2.kind.accOf == some n)) e

/-- Whether a slot is still read by a multiply or an operation (R279). -/
def State.slotBusy (s : State) (e n : Nat) : Busy :=
  let g := s.me.place.gangNo
  let x := s.eng g e
  let byTask := x.tasks.any (fun t => t.reads.contains n)
  let byOps := s.busyOps ((s.engineOps g e).filter (fun o => (o.2.kind.slotsOf e).contains n)) e
  if byOps = .never then .never else if byTask || byOps == .wait then .wait else .no

/-- Whether the array of engine e still takes groups of an earlier multiply of either context (R177, R292, R347): its count has not
passed, or an operation's part still works. -/
def State.arrayBusy (s : State) (e : Nat) : Bool :=
  let g := s.me.place.gangNo
  decide (s.cycle < (s.eng g e).busy) ||
    (s.arrayOps g e).any (fun o => o.2.parts.any (fun p => p.eid == e && p.state == .running))

/-- The holds of a word over engines: a resource that never frees traps with STATE, else any that is busy holds (R177, R279). -/
def State.unitHolds (s : State) (cls : Nat) (l : List Nat) (busy : Nat → Busy) : Verdict :=
  if l.any (fun e => busy e == .never) then s.need cls false
  else if l.any (fun e => busy e == .wait) then .hold else .ok

/-- The engines whose arrays a multiply waits for: those that execute it, and all active ones when none does (R170, R177, R284). -/
def State.arrayEngines (s : State) (g : Gate) : List Nat := if (s.acting g).isEmpty then s.actives else s.acting g

/-- The holds of a multiply: its engines' arrays, its accumulator and its slots. -/
def State.multiplyHolds (s : State) (g : Gate) (busy : Nat → Busy) : Verdict :=
  (s.unitHolds 4 s.actives busy).and (if (s.arrayEngines g).any s.arrayBusy then .hold else .ok)

/-- The stronger of two reasons to hold. -/
def Busy.or (a b : Busy) : Busy :=
  match a with
  | .no => b
  | .never => .never
  | .wait => if b = .never then .never else .wait

/-- A plain hold. -/
def Busy.when (b : Bool) : Busy := if b then .wait else .no

/-! ## Accumulators as words read and write them -/

/-- Accumulator n of context number k once every group of the engine's tasks has entered: the result of the last word that wrote
it. -/
def Engine.result (x : Engine) (k n : Nat) : Acc :=
  if x.tasks.any (fun t => t.ctx == k && t.ad == n && !(t.lost.any (fun l => l.1 == wholeDest))) then (x.afterTasks.part k).accum n
  else (x.part k).accum n

/-- Accumulator n in engine e as the word reads it: inside a bound, unit by unit, the older value or the result (R175). -/
def State.rAcc (s : State) (e n : Nat) : Acc :=
  BitVec.ofNat 131072 (s.inBound (.acc e n) false 32 4096 ((s.wasEng e).result s.me.place.engCtx n).toNat)

/-- A task that loses some units of accumulator n of context number k to a later word goes on beside it (R142, R176). -/
def Engine.loseAcc (x : Engine) (k n units : Nat) : Engine :=
  { x with tasks := x.tasks.map (fun t =>
      if t.ctx == k && t.ad == n then { t with lost := some (units ||| ((t.lost.map Prod.fst).getD 0), t.base ((x.part k).accum n)) } else t) }

/-- The units of an accumulator within a shape. -/
def shapeMask (rows cols : Nat) : Nat := packBits 64 rows (fun _ => 2 ^ cols - 1)

/-- Write some units of accumulator n in engine e from v; tasks that still write them lose them. -/
def State.wAccIn (s : State) (e n : Nat) (v : Acc) (units L : Nat) : State :=
  if units = 0 then s
  else
    let k := s.me.place.engCtx
    let x := s.myEng e
    let old := x.result k n
    let new : Acc := if units = wholeDest then v else BitVec.ofNat 131072 (mergeTaken units 32 4096 ((x.part k).accum n).toNat v.toNat)
    (s.onEng e (fun y => (y.loseAcc k n units).setPart k (((y.loseAcc k n units).part k).putA n new))).mod
      (fun c => c.noteIn units (.acc e n) old.toNat s.cycle L true)

/-- Write accumulator n in engine e; tasks that still write it lose it. -/
def State.wAcc (s : State) (e n : Nat) (v : Acc) (L : Nat) : State := s.wAccIn e n v wholeDest L

/-- Drain status of accumulator n in engine e as the word reads it (R175). -/
def State.rDrain (s : State) (e n : Nat) : Byte :=
  BitVec.ofNat 8 (s.inBound (.drain e n) false 1 8 ((s.wasPart e).drainOf n).toNat)

/-- Write the drain status of accumulator n with a numbered bound. -/
def State.wDrain (s : State) (e n : Nat) (v L : Nat) : State :=
  let old := ((s.myEng e).part s.me.place.engCtx).drainOf n
  (s.onPart e (fun x => { x with drain := tableSet x.drain n (BitVec.ofNat 8 v) 0 })).mod (fun c => c.note (.drain e n) old.toNat s.cycle L true)

end Sys2Proof.Machine
end

