-- ==== Sys2Proof/Machine/Memory.lean ====
section
/-!
DEFINITION. Memory words: scalar, strong, vector, gathered and private-lane accesses, atomics, PORT, fences and cache words
(R62 to R73, R87, R92, R95, R103 to R109, R299 to R309, R314, R315, R317).

Every access is performed at its home in program order (log 2), so scopes and fences order nothing further.
-/
namespace Sys2Proof.Machine

/-! ## Checks -/

/-- A sequencer-side check of a flat access (R72, R300). -/
def State.seqFlat (s : State) (cls : Nat) (a : Acc4) (write : Bool) (va : Dword) (size : Nat) : Verdict :=
  match s.flatFault s.party a va.toNat size with
  | none => .ok
  | some r => .trap false [s.memRec r 1 cls write va]

/-- The record of engine e for a flat access. -/
def State.engFlat (s : State) (e : Nat) (a : Acc4) (write : Bool) (va : Dword) (size : Nat) : Option FaultRec :=
  (s.flatFault s.party a va.toNat size).map (fun r => s.engRec e r 1 6 write va)

/-- The record of engine e for an engine-local access of n bytes (R62, R304). -/
def State.engLocal (s : State) (e : Nat) (write : Bool) (a : Dword) (align n : Nat) : Option FaultRec :=
  if 2 ^ 32 ≤ a.toNat then some (s.engRec e rPROT 0 6 write a)
  else if a.toNat % align ≠ 0 then some (s.engRec e rALIGN 0 6 write a)
  else if (s.localAt a.toNat n).isNone then some (s.engRec e rPROT 0 6 write a)
  else none

/-- The physical address of a flat access, if it translates. -/
def State.homeOf (s : State) (a : Acc4) (va : Dword) : Option Nat :=
  match s.flat s.party a va.toNat with
  | .ok pa => some pa
  | .error _ => none

/-- Whether the home of a flat access is a format view. -/
def State.isView (s : State) (a : Acc4) (va : Dword) : Bool :=
  match s.homeOf a va with
  | some pa => paKind pa == .view
  | none => false

/-- Whether the home of a flat access lies outside the package. -/
def State.isRemote (s : State) (a : Acc4) (va : Dword) : Bool :=
  match s.homeOf a va with
  | some pa => (match paKind pa with | .link _ => true | .host => true | _ => false)
  | none => false

/-! ## Plain and strong scalar accesses (R301, R302) -/

/-- A loaded value of 2^sz bytes, extended. -/
def loadExt (sz : Nat) (sgn : Bool) (v : Nat) : Dword :=
  if sgn then sext64 (8 * 2 ^ sz) v else BitVec.ofNat 64 v

/-- A held access of the context in focus that goes through a link window stays in flight until its data returns (R300, R412). -/
def State.through (s : State) (a : Acc4) (va : Dword) (d : Dest) : State :=
  match (s.homeOf a va).map paKind with
  | some (.link w) => s.mod (fun c => { c with linked := (d, w) :: c.linked })
  | _ => s

/-- A scalar load from flat memory. -/
def State.loadS (s : State) (sD : BitVec 5) (sz : Nat) (sgn : Bool) (va : Dword) : State :=
  let v := leValue (s.flatLoad s.party va.toNat (2 ^ sz))
  ((s.through .read va (.s sD.toNat)).touch (.context s.focus) s.party .read va.toNat (2 ^ sz)).wSheld sD (loadExt sz sgn v)

/-- A scalar store to flat memory. -/
def State.storeS (s : State) (sz : Nat) (va v : Dword) : State :=
  (s.touch (.context s.focus) s.party .write va.toNat (2 ^ sz)).flatStore s.party va.toNat (leBytes (2 ^ sz) v.toNat)

/-- LDS (R301). -/
def execLds (g : Gate) (sgn : Bool) (sz : BitVec 2) (sA sD : BitVec 5) (s : State) : Answer :=
  runSeqM (.lds g sgn sz sA sD) g (useS [sA, sD]) (fun t => t.seqFlat 6 .read false (t.rS sA) (2 ^ sz.toNat))
    (fun t => t.loadS sD sz.toNat sgn (t.rS sA)) s

/-- LDS with a displacement (R301). -/
def execLdsLiteral (g : Gate) (sgn : Bool) (sz : BitVec 2) (sA sD : BitVec 5) (lit : Dword) (s : State) : Answer :=
  runSeqM (.ldsLiteral g sgn sz sA sD lit) g (useS [sA, sD])
    (fun t => t.seqFlat 6 .read false (t.rS sA + lit) (2 ^ sz.toNat)) (fun t => t.loadS sD sz.toNat sgn (t.rS sA + lit)) s

/-- STS (R301). -/
def execSts (g : Gate) (sz : BitVec 2) (sA sS : BitVec 5) (s : State) : Answer :=
  runSeqM (.sts g sz sA sS) g (useS [sA, sS]) (fun t => t.seqFlat 6 .write true (t.rS sA) (2 ^ sz.toNat))
    (fun t => t.storeS sz.toNat (t.rS sA) (t.rS sS)) s

/-- STS with a displacement (R301). -/
def execStsLiteral (g : Gate) (sz : BitVec 2) (sA sS : BitVec 5) (lit : Dword) (s : State) : Answer :=
  runSeqM (.stsLiteral g sz sA sS lit) g (useS [sA, sS])
    (fun t => t.seqFlat 6 .write true (t.rS sA + lit) (2 ^ sz.toNat)) (fun t => t.storeS sz.toNat (t.rS sA + lit) (t.rS sS)) s

/-! ## Vector accesses of 256 bytes (R302, R304) -/

/-- The per-engine base a_e (R302, R303). -/
def State.engBase (s : State) (e : Nat) (sA sE : BitVec 5) (disp : BitVec 32) (lit : Option Dword) : Dword :=
  s.baseDisp sA disp lit + BitVec.ofNat 64 e * s.rS sE

/-- The record of engine e for a 256-byte access, when some lane acts. -/
def State.vecRec (s : State) (e : Nat) (spc write : Bool) (m : LaneMask) (va : Dword) : Option FaultRec :=
  if m = 0 then none
  else if spc then s.engLocal e write va 256 256
  else s.engFlat e (if write then .write else .read) write va 256

/-- The lanes of a 256-byte access. -/
def State.vecLoad (s : State) (e : Nat) (spc : Bool) (va : Dword) : List Nat :=
  lanes (vecOfBytes (if spc then s.localRead e va.toNat 256 else s.flatLoad s.party va.toNat 256))

/-- What a read of n bytes into vector `code` of engine e leaves besides its data, unless it is engine-local. -/
def State.vecTouch (s : State) (e code : Nat) (spc : Bool) (va : Dword) (n : Nat) : State :=
  if spc then s else (s.through .read va (.v e code)).touch (.context s.focus) s.party .read va.toNat n

/-- Store the active lanes of a vector at a physical address; a view takes each touched block at once (R87). -/
def State.physStoreLanes (s : State) (key : Nat) (pa : Nat) (v : List Nat) (m : LaneMask) : State :=
  match paKind pa, s.windowAt pa with
  | .view, some w =>
    let per := w.elems * w.esize
    (List.range (256 / per)).foldl (fun t k =>
      if (List.range (per / 4)).any (fun i => m.getLsbD (k * (per / 4) + i)) then
        let b := (pa - w.vbase) / per + k
        let old := t.viewBytes key w b
        t.viewStoreBlock key w b ((List.range per).map (fun i =>
          let ln := (k * per + i) / 4
          if m.getLsbD ln then BitVec.ofNat 8 (v.getD ln 0 >>> (8 * (i % 4))) else old.getD i 0))
      else t) s
  | _, _ => (List.range 64).foldl (fun t i => if m.getLsbD i then t.physWrite key (pa + 4 * i) (leBytes 4 (v.getD i 0)) else t) s

/-- Store the active lanes of a vector. -/
def State.vecStore (s : State) (e : Nat) (spc : Bool) (va : Dword) (v : List Nat) (m : LaneMask) : State :=
  if spc then s.storeLanes e va.toNat v m false
  else match s.homeOf .write va with
    | none => s
    | some pa =>
      let t := (s.touch (.context s.focus) s.party .write va.toNat 256).physStoreLanes (s.regionKey s.me.region) pa v m
      (List.range 64).foldl (fun u i => if m.getLsbD i then u.pbStore u.me.place.die (pa + 4 * i) (leBytes 4 (v.getD i 0)) else u) t

/-- Write the vector result of a held load: the register is pending, a write port stores. -/
def State.putHeld (s : State) (e code addr : Nat) (m : LaneMask) (z : Bool) (new : List Nat) : State :=
  let out := mergeLanes m z (lanes (s.oldVec e code)) new
  if code < 32 then s.wVheld e code (vecOf out) (if z then wholeDest else m.toNat) else s.storeLanes e addr out m z

/-- A word of the engine side of class M that may pop ports. -/
def engineM (i : Instr) (reads writes : List Nat) (uses : List Dest) (check : State → Verdict) (eff : State → State) (s : State) : Answer :=
  runPop i 6 (fun t => uses ++ t.useV (reads ++ writes)) (fun t => (t.portCheck 6 reads writes).and (check t))
    (fun t => (eff t).popAll (reads ++ writes)) s

/-- LDA: a scalar or vector acquire load (R107, R302). -/
def execLda (g : Gate) (f : StrongFields) (lit : Option Dword) (s : State) : Answer :=
  if f.vec then
    engineM (.lda g f lit) [] [f.r.toNat] (useS [f.sA, f.sE])
      (fun t => State.engineRecs (t.acting g) (fun e => t.vecRec e f.spc false (t.laneMask e f.lq f.ln) (t.engBase e f.sA f.sE f.disp lit)))
      (fun t => t.each (t.acting g) (fun u e =>
        let va := t.engBase e f.sA f.sE f.disp lit
        let m := t.laneMask e f.lq f.ln
        (if m = 0 then u else u.vecTouch e f.r.toNat f.spc va 256).putHeld e f.r.toNat (t.portAddr (f.r.toNat - 32)) m false (u.vecLoad e f.spc va))) s
  else
    let sD : BitVec 5 := BitVec.ofNat 5 f.r.toNat
    runSeqM (.lda g f lit) g (useS [f.sA, sD]) (fun t => t.seqFlat 6 .read false (t.baseDisp f.sA f.disp lit) (2 ^ f.sz.toNat))
      (fun t => t.loadS sD f.sz.toNat f.sgn (t.baseDisp f.sA f.disp lit)) s

/-- The record of a strong store to a view (R87). -/
def State.viewRec (s : State) (e : Nat) (a : Acc4) (va : Dword) : Option FaultRec :=
  if s.isView a va then some (s.engRec e rPROT 1 6 true va) else none

/-- A vector release store; `strong` is STX. -/
def strongVec (i : Instr) (g : Gate) (f : StrongFields) (lit : Option Dword) (strong : Bool) (s : State) : Answer :=
  engineM i [f.r.toNat] [] (useS [f.sA, f.sE])
    (fun t => State.engineRecs (t.acting g) (fun e =>
      let m := t.laneMask e f.lq f.ln
      let va := t.engBase e f.sA f.sE f.disp lit
      match t.vecRec e f.spc true m va with
      | some r => some r
      | none => if strong && !f.spc && m ≠ 0 then t.viewRec e .write va else none))
    (fun t => t.each (t.acting g) (fun u e =>
      u.vecStore e f.spc (t.engBase e f.sA f.sE f.disp lit) (lanes (t.rVec e f.r.toNat)) (t.laneMask e f.lq f.ln))) s

/-- A scalar release store; `strong` is STX. -/
def strongScalar (i : Instr) (g : Gate) (f : StrongFields) (lit : Option Dword) (strong : Bool) (s : State) : Answer :=
  let sS : BitVec 5 := BitVec.ofNat 5 f.r.toNat
  runSeqM i g (useS [f.sA, sS])
    (fun t =>
      let va := t.baseDisp f.sA f.disp lit
      (t.seqFlat 6 .write true va (2 ^ f.sz.toNat)).and
        (if strong && t.isView .write va then .trap false [t.memRec rPROT 1 6 true va] else .ok))
    (fun t => t.storeS f.sz.toNat (t.baseDisp f.sA f.disp lit) (t.rS sS)) s

/-- STL (R107, R302). -/
def execStl (g : Gate) (f : StrongFields) (lit : Option Dword) (s : State) : Answer :=
  if f.vec then strongVec (.stl g f lit) g f lit false s else strongScalar (.stl g f lit) g f lit false s

/-- STX (R87, R119, R302). -/
def execStx (g : Gate) (f : StrongFields) (lit : Option Dword) (s : State) : Answer :=
  if f.vec then strongVec (.stx g f lit) g f lit true s else strongScalar (.stx g f lit) g f lit true s

/-- VLD (R304). -/
def execVld (g : Gate) (f : MemFields) (lit : Option Dword) (s : State) : Answer :=
  engineM (.vld g f lit) [] [f.vR.toNat] (useS [f.sA, f.sE])
    (fun t => State.engineRecs (t.acting g) (fun e => t.vecRec e f.spc false (t.laneMask e f.lq f.ln) (t.engBase e f.sA f.sE f.disp lit)))
    (fun t => t.each (t.acting g) (fun u e =>
      let va := t.engBase e f.sA f.sE f.disp lit
      let m := t.laneMask e f.lq f.ln
      (if m = 0 then u else u.vecTouch e f.vR.toNat f.spc va 256).putHeld e f.vR.toNat 0 m f.z (u.vecLoad e f.spc va))) s

/-- VST (R304). -/
def execVst (g : Gate) (f : MemFields) (lit : Option Dword) (s : State) : Answer :=
  engineM (.vst g f lit) [f.vR.toNat] [] (useS [f.sA, f.sE])
    (fun t => State.engineRecs (t.acting g) (fun e => t.vecRec e f.spc true (t.laneMask e f.lq f.ln) (t.engBase e f.sA f.sE f.disp lit)))
    (fun t => t.each (t.acting g) (fun u e =>
      u.vecStore e f.spc (t.engBase e f.sA f.sE f.disp lit) (lanes (t.rVec e f.vR.toNat)) (t.laneMask e f.lq f.ln))) s

/-! ## Gathered accesses (R305) -/

/-- The address of lane k of a gathered word. -/
def gatherAt (base : Dword) (idx : Vec) (sh : BitVec 2) (k : Nat) : Dword := base + sext64 32 (bits idx.toNat (32 * k) 32) <<< sh.toNat

/-- Lanes of a mask in ascending order. -/
def laneList (m : LaneMask) : List Nat := (List.range 64).filter (fun k => m.getLsbD k)

/-- The record of the first active lane of engine e that fails. -/
def State.gatherRec (s : State) (e : Nat) (f : MemFields) (lit : Option Dword) (a : Acc4) (write : Bool) (more : Nat → Dword → Option FaultRec) : Option FaultRec :=
  let base := s.engBase e f.sA f.sE f.disp lit
  let idx := s.rVec e f.vI.toNat
  (laneList (s.laneMask e f.lq f.ln)).findSome? (fun k =>
    let va := gatherAt base idx f.sh k
    match if f.spc then s.engLocal e write va 4 4 else s.engFlat e a write va 4 with
    | some r => some r
    | none => more k va)

/-- A 4-byte load in engine e. -/
def State.load4 (s : State) (e : Nat) (spc : Bool) (va : Dword) : Nat :=
  leValue (if spc then s.localRead e va.toNat 4 else s.flatLoad s.party va.toNat 4)

/-- A 4-byte store in engine e. -/
def State.store4 (s : State) (e : Nat) (spc : Bool) (va : Dword) (v : Nat) : State :=
  if spc then s.localWrite e va.toNat (leBytes 4 v) else (s.touch (.context s.focus) s.party .write va.toNat 4).flatStore s.party va.toNat (leBytes 4 v)

/-- VLDG (R305). -/
def execVldg (g : Gate) (f : MemFields) (lit : Option Dword) (s : State) : Answer :=
  engineM (.vldg g f lit) [f.vI.toNat] [f.vR.toNat] (useS [f.sA, f.sE])
    (fun t => State.engineRecs (t.acting g) (fun e => t.gatherRec e f lit .read false (fun _ _ => none)))
    (fun t => t.each (t.acting g) (fun u e =>
      let base := t.engBase e f.sA f.sE f.disp lit
      let idx := t.rVec e f.vI.toNat
      let m := t.laneMask e f.lq f.ln
      ((laneList m).foldl (fun w k => w.vecTouch e f.vR.toNat f.spc (gatherAt base idx f.sh k) 4) u).putHeld e f.vR.toNat (t.portAddr (f.vR.toNat - 32)) m f.z
        ((List.range 64).map (fun k => if m.getLsbD k then u.load4 e f.spc (gatherAt base idx f.sh k) else 0)))) s

/-- VSTG: the higher eid, and within one engine the higher lane, wins (R305). Each lane is a write of its own, so a block of a format view
is encoded after every lane that falls in it (R87): DESIGN CHOICE, log 14. -/
def execVstg (g : Gate) (f : MemFields) (lit : Option Dword) (s : State) : Answer :=
  engineM (.vstg g f lit) [f.vI.toNat, f.vR.toNat] [] (useS [f.sA, f.sE])
    (fun t => State.engineRecs (t.acting g) (fun e => t.gatherRec e f lit .write true (fun _ _ => none)))
    (fun t => t.each (t.acting g) (fun u e =>
      let base := t.engBase e f.sA f.sE f.disp lit
      let idx := t.rVec e f.vI.toNat
      let v := (t.rVec e f.vR.toNat).toNat
      (laneList (t.laneMask e f.lq f.ln)).foldl (fun w k => w.store4 e f.spc (gatherAt base idx f.sh k) (bits v (32 * k) 32)) u)) s

/-! ## Private lanes (R64, R306) -/

/-- The private offset of lane k. -/
def privOff (f : MemFields) (lit : Option Dword) (idx : Vec) (k : Nat) : Nat :=
  (bits idx.toNat (32 * k) 32 + (match lit with | some l => l.toNat | none => f.disp.toNat)) % 2 ^ 32

/-- The engine-local address of a private offset of lane k (R64). -/
def privAddr (p k : Nat) : Nat := p / 4 * 256 + 4 * k + p % 4

/-- The record of the first active lane of engine e whose offset fails. Its address is the private offset, space 0: R64 names none, DESIGN
CHOICE, log 40. -/
def State.privRec (s : State) (e : Nat) (f : MemFields) (lit : Option Dword) (write : Bool) : Option FaultRec :=
  let idx := s.rVec e f.vI.toNat
  (laneList (s.laneMask e f.lq f.ln)).findSome? (fun k =>
    let p := privOff f lit idx k
    if 0x2000 ≤ p then some (s.engRec e rPROT 0 6 write (BitVec.ofNat 64 p))
    else if p % 2 ^ f.sz.toNat ≠ 0 then some (s.engRec e rALIGN 0 6 write (BitVec.ofNat 64 p))
    else none)

/-- VLDP (R306). -/
def execVldp (g : Gate) (f : MemFields) (lit : Option Dword) (s : State) : Answer :=
  let high := if f.sz = 3 then [f.vR.toNat + 1] else []
  engineM (.vldp g f lit) [f.vI.toNat] ([f.vR.toNat] ++ high) []
    (fun t => State.engineRecs (t.acting g) (fun e => t.privRec e f lit false))
    (fun t => t.each (t.acting g) (fun u e =>
      let idx := t.rVec e f.vI.toNat
      let m := t.laneMask e f.lq f.ln
      let at_ (n o k : Nat) : Nat := if m.getLsbD k then leValue (u.localRead e (privAddr (privOff f lit idx k + o) k) n) else 0
      let low (k : Nat) : Nat :=
        let n := min 4 (2 ^ f.sz.toNat)
        if f.sgn then wrapInt 32 (toSigned (8 * n) (at_ n 0 k)) else at_ n 0 k
      let u1 := u.putVec e f.vR.toNat 0 m f.z ((List.range 64).map low) 6
      if f.sz = 3 then u1.putVec e (f.vR.toNat + 1) 0 m f.z ((List.range 64).map (at_ 4 4)) 6 else u1)) s

/-- VSTP (R306). -/
def execVstp (g : Gate) (f : MemFields) (lit : Option Dword) (s : State) : Answer :=
  let high := if f.sz = 3 then [f.vR.toNat + 1] else []
  engineM (.vstp g f lit) ([f.vI.toNat, f.vR.toNat] ++ high) [] []
    (fun t => State.engineRecs (t.acting g) (fun e => t.privRec e f lit true))
    (fun t => t.each (t.acting g) (fun u e =>
      let idx := t.rVec e f.vI.toNat
      let v := (t.rVec e f.vR.toNat).toNat
      let h := if f.sz = 3 then (t.rVec e (f.vR.toNat + 1)).toNat else 0
      (laneList (t.laneMask e f.lq f.ln)).foldl (fun w k =>
        let p := privOff f lit idx k
        let w1 := w.localWrite e (privAddr p k) (leBytes (min 4 (2 ^ f.sz.toNat)) (bits v (32 * k) 32))
        if f.sz = 3 then w1.localWrite e (privAddr (p + 4) k) (leBytes 4 (bits h (32 * k) 32)) else w1) u)) s

/-! ## Atomics (R103, R307, R308) -/

/-- The value an atomic stores, w bits wide. -/
def atomOp (op w old v : Nat) : Nat :=
  let less (a b : Nat) : Bool := decide (toSigned w a < toSigned w b)
  match op with
  | 0 => (old + v) % 2 ^ w
  | 1 => old &&& v
  | 2 => old ||| v
  | 3 => old ^^^ v
  | 4 => if less v old then v else old
  | 5 => if less old v then v else old
  | 6 => min old v
  | 7 => max old v
  | 8 => v
  | _ => (fadd32 old v).1

/-- Why an atomic at a flat address faults beyond translation: a view, or outside the package below .s (R87, R103). -/
def State.atomFault (s : State) (scope : BitVec 3) (va : Dword) : Bool :=
  s.isView .atomic va || (s.isRemote .atomic va && scope ≠ 4)

/-- Perform an atomic at its home: the old value and the state. A remote old value is a free value (log 7). -/
def State.atomAt (s : State) (va : Dword) (dw : Bool) (key : Nat) (f : Nat → Nat) (out : Nat → Outgoing) : Nat × State :=
  let n := if dw then 8 else 4
  match s.homeOf .atomic va with
  | none => (0, s)
  | some pa =>
    if s.isRemote .atomic va then
      let t := s.touch (.context s.focus) s.party .atomic va.toNat n
      (Config.freeBits s.free (2 ^ 53 + key) % 2 ^ (8 * n), { t with outbox := t.outbox ++ [out pa] })
    else
      let old := s.physValue (s.regionKey s.me.region) pa n
      let t := (s.touch (.context s.focus) s.party .atomic va.toNat n).physWrite (s.regionKey s.me.region) pa (leBytes n (f old))
      (old, t.pbStore s.me.place.die pa (leBytes n (f old)))

/-- The check of a scalar atomic. -/
def State.atomCheck (s : State) (f : AtomFields) (lit : Option Dword) : Verdict :=
  let va := s.baseDisp f.sA f.disp lit
  (s.seqFlat 6 .atomic true va (if f.sz then 8 else 4)).and
    (if s.atomFault f.scope va then .trap false [s.memRec rPROT 1 6 true va] else .ok)

/-- ATOM (R307). -/
def execAtom (g : Gate) (f : AtomFields) (lit : Option Dword) (s : State) : Answer :=
  runSeqM (.atom g f lit) g (useS [f.sA, f.sV, f.sD]) (fun t => t.atomCheck f lit)
    (fun t =>
      let w := if f.sz then 64 else 32
      let v := bits (t.rS f.sV).toNat 0 w
      let va := t.baseDisp f.sA f.disp lit
      let (old, u) := (t.through .atomic va (.s f.sD.toNat)).atomAt va f.sz 0 (fun o => atomOp f.op.toNat w o v)
        (fun pa => .atomic pa f.sz f.op.toNat (t.rS f.sV))
      u.wSheld f.sD (BitVec.ofNat 64 old)) s

/-- ATCAS (R307). -/
def execAtcas (g : Gate) (f : AtomFields) (lit : Option Dword) (s : State) : Answer :=
  runSeqM (.atcas g f lit) g (useS [f.sA, f.sV, f.sC, f.sD]) (fun t => t.atomCheck f lit)
    (fun t =>
      let w := if f.sz then 64 else 32
      let va := t.baseDisp f.sA f.disp lit
      let (old, u) := (t.through .atomic va (.s f.sD.toNat)).atomAt va f.sz 0
        (fun o => if o = bits (t.rS f.sC).toNat 0 w then bits (t.rS f.sV).toNat 0 w else o)
        (fun pa => .cas pa f.sz (t.rS f.sC) (t.rS f.sV))
      u.wSheld f.sD (BitVec.ofNat 64 old)) s

/-- One lane of VATOM: the old value and the state. -/
def State.vatomLane (s : State) (e k : Nat) (f : MemFields) (va : Dword) (v : Nat) : Nat × State :=
  if f.spc then
    let old := leValue (s.localRead e va.toNat 4)
    (old, s.localWrite e va.toNat (leBytes 4 (atomOp f.op.toNat 32 old v)))
  else s.atomAt va false (64 * e + k) (fun o => atomOp f.op.toNat 32 o v) (fun pa => .atomic pa false f.op.toNat (BitVec.ofNat 64 v))

/-- VATOM in engine e: the lanes in order, and the old values. -/
def State.vatomEng (s : State) (e : Nat) (f : MemFields) (base : Dword) (idx : Vec) (v : Nat) : List Nat → List (Nat × Nat) → List (Nat × Nat) × State
  | [], out => (out, s)
  | k :: ks, out =>
    let (old, t) := s.vatomLane e k f (gatherAt base idx f.sh k) (bits v (32 * k) 32)
    t.vatomEng e f base idx v ks ((k, old) :: out)

/-- The lanes of a VATOM of engine e whose old values are to come through link windows. -/
def State.vatomThrough (s : State) (e : Nat) (f : MemFields) (base : Dword) (idx : Vec) (ks : List Nat) : State :=
  if f.spc || f.nr then s else ks.foldl (fun t k => t.through .atomic (gatherAt base idx f.sh k) (.v e f.vR.toNat)) s

/-- VATOM (R308). -/
def execVatom (g : Gate) (f : MemFields) (lit : Option Dword) (s : State) : Answer :=
  engineM (.vatom g f lit) [f.vI.toNat, f.vR.toNat] (if f.nr then [] else [f.vR.toNat]) (useS [f.sA, f.sE])
    (fun t => State.engineRecs (t.acting g) (fun e => t.gatherRec e f lit .atomic true
      (fun _ va => if !f.spc && t.atomFault f.scope va then some (t.engRec e rPROT 1 6 true va) else none)))
    (fun t => t.each (t.acting g) (fun u e =>
      let m := t.laneMask e f.lq f.ln
      let base := t.engBase e f.sA f.sE f.disp lit
      let idx := t.rVec e f.vI.toNat
      let (out, w) := (u.vatomThrough e f base idx (laneList m)).vatomEng e f base idx (t.rVec e f.vR.toNat).toNat (laneList m) []
      if f.nr then w
      else w.putHeld e f.vR.toNat 0 m false ((List.range 64).map (fun k => ((out.find? (fun p => p.1 == k)).map Prod.snd).getD 0)))) s

/-- Data of a held load returns (R300): entry n of the context's pending destinations. -/
def execLoadDataReturn (cid : Nat) (n : Nat) (s : State) : Answer :=
  .next (if (tableFind s.ctxs cid).isSome then s.modCtx cid (fun c =>
    let left := c.pending.eraseIdx n
    { c with pending := left, linked := c.linked.filter (fun x => left.contains x.1) }) else s)

/-! ## Ports (R309) -/

/-- The parameter set that PORT loads. -/
def portLoad (l0 l1 l2 h : Dword) (boff : BitVec 32) : PortSet :=
  let base := (bits h.toNat 32 32 + boff.toNat) % 2 ^ 32
  let raw := l0.toNat + l1.toNat * 2 ^ 64 + l2.toNat * 2 ^ 128 + bits h.toNat 0 1 * 2 ^ 192 + bits h.toNat 16 16 * 2 ^ 208 + base * 2 ^ 224
  ⟨BitVec.ofNat 256 raw, 0, 0, 0, 0⟩

/-- Load a port: from the next bundle on it holds the new set, whatever pops it in this one (R95, R309). -/
def State.loadPort (s : State) (k : BitVec 2) (p : PortSet) : State :=
  { s.mod (fun c => c.putG k.toNat p) with issue := { s.issue with ports := k.toNat :: s.issue.ports } }

/-- PORT: the new set takes effect from the next bundle. -/
def execPort (g : Gate) (gN : BitVec 2) (sL sH : BitVec 5) (boff : BitVec 32) (lit : Option Dword) (s : State) : Answer :=
  runSeqM (.port g gN sL sH boff lit) g (useS (if sL = 0 then [sH] else [sL, sL + 1, sL + 2, sH])) free
    (fun t =>
      let l (i : BitVec 5) : Dword := if sL = 0 then 0 else t.rS (sL + i)
      t.loadPort gN (portLoad (l 0) (l 1) (l 2) (t.rSLit sH lit) boff)) s

/-! ## Order, prefetch, caches (R109, R314, R315, R317) -/

/-- FENCE: all accesses are already in order (log 2). -/
def execFence (g : Gate) (scope : BitVec 3) (kind : BitVec 2) (s : State) : Answer :=
  runSeqM (.fence g scope kind) g [] free id s

/-- Do something to the pantry line that holds a flat address; an address that does not translate, or that lies outside HBM, has no effect
on lines (R315, R317). -/
def State.onLine (s : State) (va : Dword) (f : State → Nat → State) : State :=
  match s.homeOf .find va with
  | some pa => if paKind pa = .hbm then f (s.findHome .find va) (pa / 128) else s.findHome .find va
  | none => s.findHome .find va

/-- PFX: the lines come into their pantries; no value that any agent reads changes (R315). -/
def execPfx (g : Gate) (sA : BitVec 5) (disp : BitVec 32) (lines : BitVec 16) (lit : Option Dword) (s : State) : Answer :=
  runSeqM (.pfx g sA disp lines lit) g (useS [sA]) free
    (fun t =>
      (List.range (lines.toNat + 1)).foldl (fun u i =>
        u.onLine (t.baseDisp sA disp lit + BitVec.ofNat 64 (128 * i)) (fun w l => w.readsHbm (.context w.focus) (w.regionKey w.party.region) (l * 128) 128)) t) s

/-- CWB: the line is written back and stays; no value that any agent reads changes (R71). -/
def execCwb (g : Gate) (sA : BitVec 5) (s : State) : Answer :=
  runSeqM (.cwb g sA) g (useS [sA]) free (fun t => t.onLine (t.rS sA) State.writeBack) s

/-- CINV: the line is written back and leaves the pantry; no value that any agent reads changes (R71). -/
def execCinv (g : Gate) (sA : BitVec 5) (s : State) : Answer :=
  runSeqM (.cinv g sA) g (useS [sA]) free (fun t => t.onLine (t.rS sA) State.dropLine) s

/-- PBINV: removes a parameter block from the die's cache (R92). The cache goes by physical address, so an address that does not translate
removes nothing: DESIGN CHOICE, log 46. -/
def execPbinv (g : Gate) (sA : BitVec 5) (s : State) : Answer :=
  runSeqM (.pbinv g sA) g (useS [sA]) free
    (fun t =>
      let u := t.findHome .read (t.rS sA)
      match t.homeOf .read (t.rS sA) with
      | none => u
      | some pa =>
        let d := u.me.place.die
        let x := u.die d
        u.setDie d { x with pbCache := x.pbCache.filter (fun e => e.addr ≠ pa / 64 * 64) }) s

end Sys2Proof.Machine
end

