-- ==== Sys2Proof/Machine/Copies.lean ====
section
/-!
DEFINITION. Copies: CPY, CPYL, CPYW and CPYK at issue, and what their parts do when they run in the background (R75 to R84,
R88 to R94, R310 to R313). The accesses of a part are made together, when it completes or stops (log 14).
-/
namespace Sys2Proof.Machine

/-! ## Meeting memory in the background -/

/-- A fault that a part meets: reason, space, whether it writes, the record's address, and its bytes 24 to 31. -/
structure Meet where
  reason : Nat
  space  : Nat
  write  : Bool
  addr   : Dword
  extra  : Dword
  deriving DecidableEq, Repr

/-- What a unit of a part meets (R83, R89). -/
inductive Reach where
  | ok | hold | fail (m : Meet)
  deriving DecidableEq, Repr

/-- The first of two that is not ok. -/
def Reach.and (a b : Reach) : Reach :=
  match a with
  | .ok => b
  | _ => a

/-- The packing of coordinates into a record is not stated: a free value (R56, log 3). -/
def State.coordWord (s : State) (tile : Nat) : Dword := BitVec.ofNat 64 (Config.freeBits s.free (2 ^ 50 + tile))

/-- The address of a tensor record (R56). -/
def tensorAddr (id tile : Nat) : Dword := BitVec.ofNat 64 (id + tile % 2 ^ 48 * 65536)

/-- What an access to elements along c0 of a tensor meets (R79). -/
def State.tensorReach (s : State) (p : Party) (id : Nat) (c : List Int) (n : Nat) (write : Bool) : Reach :=
  match s.tensor p id with
  | none => .fail ⟨rPROT, 2, write, tensorAddr id 0, s.coordWord 0⟩
  | some t =>
    ((List.range n).findSome? (fun (i : Nat) =>
      let d := (c.getD 0 0 + (i : Int)) :: c.drop 1
      if !t.inside d then none
      else match s.tile p id t (t.place d).1 write with
        | .ok _ => none
        | .error r => some (Reach.fail ⟨r, 2, write, tensorAddr id (t.place d).1, s.coordWord (t.place d).1⟩))).getD .ok

/-! ## KV addresses (R80) -/

/-- Sequence of a KV address. -/
def kvSeq (k : Dword) : Nat := bits k.toNat 32 20
/-- Layer of a KV address. -/
def kvLayer (k : Dword) : Nat := bits k.toNat 24 8
/-- Plane of a KV address. -/
def kvPlane (k : Dword) : Nat := bits k.toNat 52 1
/-- Position of a KV address. -/
def kvPos (k : Dword) : Nat := bits k.toNat 0 24
/-- The KV address at another position. -/
def kvAt (k : Dword) (pos : Nat) : Dword := BitVec.ofNat 64 (putBits k.toNat 0 24 pos)
/-- The KV address in another plane. -/
def kvIn (k : Dword) (plane : Nat) : Dword := BitVec.ofNat 64 (putBits k.toNat 52 1 plane)

/-- Whether a leaf's pin count can still rise (R408). -/
def State.pinRoom (s : State) (region leaf : Nat) : Bool := bits (s.physValue (s.regionKey region) leaf 8) 4 8 < 255

/-- A KV block as an operation translates it: it waits at a block whose leaf can take no further pin (R408). -/
def State.kvPinned (s : State) (p : Party) (k : Dword) (c : Card) (pos : Nat) : BlockAt :=
  match s.kvBlock p (kvSeq k) c (kvLayer k) (kvPlane k) (pos / 16), s.leafAt (s.regionKey p.region) c.root (kvLayer k) (kvPlane k) (pos / 16) with
  | .frame f, .leaf l => if s.issue.pins.any (fun x => x.leaf == some l) || s.pinRoom p.region l then .frame f else .hold
  | b, _ => b

/-- What an access to a position of KV space meets (R82, R83): reads at or beyond LEN never fault. -/
def State.kvReach (s : State) (p : Party) (k : Dword) (pos : Nat) (write : Bool) (extra : Dword) : Reach :=
  match s.cardFor p (kvSeq k) (kvLayer k) with
  | none => .fail ⟨rPROT, 3, write, kvAt k pos, extra⟩
  | some c =>
    if !write && c.len ≤ pos then .ok
    else match s.kvPinned p k c pos with
      | .frame _ => .ok
      | .hold => .hold
      | .fail r => .fail ⟨r, 3, write, kvAt k pos, extra⟩

/-- The physical address of byte `off` of a position's row; none beyond what is resident. -/
def State.kvByteAt (s : State) (p : Party) (k : Dword) (pos off : Nat) : Option Nat :=
  match s.cardFor p (kvSeq k) (kvLayer k) with
  | none => none
  | some c => match s.kvBlock p (kvSeq k) c (kvLayer k) (kvPlane k) (pos / 16) with
    | .frame f => some (f + pos % 16 * (c.heads * kvRowBytes c.kvf c.d) + off)
    | _ => none

/-- Length of a sequence, 0 where its card fails. -/
def State.kvLen (s : State) (p : Party) (k : Dword) : Nat := ((s.cardFor p (kvSeq k) (kvLayer k)).map Card.len).getD 0

/-! ## Units of a copy -/

/-- Where a unit of a copy lies. -/
inductive Cell where
  /-- Bytes at a flat address. -/
  | flat (va : Nat)
  /-- Bytes at an engine-local address of an engine. -/
  | loc (eid a : Nat)
  /-- The low nibble of an engine-local byte. -/
  | nibble (eid a : Nat)
  /-- n elements along c0 of a tensor. -/
  | elems (id : Nat) (c : List Int) (n : Nat)
  /-- Bytes of the stream of a (plane, sequence, layer) from a byte offset (R91). -/
  | kv (k : Dword) (off rowBytes : Nat)
  deriving DecidableEq, Repr

/-- What an access to a unit of n bytes meets. -/
def State.cellReach (s : State) (p : Party) (n : Nat) (write : Bool) (extra : Dword) : Cell → Reach
  | .flat va => ((List.range n).findSome? (fun i => match s.flat p (if write then .write else .read) (va + i) with
      | .ok _ => none
      | .error r => some (Reach.fail ⟨r, 1, write, BitVec.ofNat 64 (va + i), 0⟩))).getD .ok
  | .loc _ a => if (s.localAt a n).isSome then .ok else .fail ⟨rPROT, 0, write, BitVec.ofNat 64 a, 0⟩
  | .nibble _ a => if (s.localAt a 1).isSome then .ok else .fail ⟨rPROT, 0, write, BitVec.ofNat 64 a, 0⟩
  | .elems id c m => s.tensorReach p id c m write
  | .kv k off rb => (List.range n).foldl (fun r i => r.and (s.kvReach p k ((off + i) / max 1 rb) write extra)) .ok

/-- Read a unit of n bytes that can be reached. -/
def State.cellRead (s : State) (p : Party) (n : Nat) : Cell → List Byte
  | .flat va => (List.range n).flatMap (fun i => s.flatLoad p (va + i) 1)
  | .loc e a => s.localRead e a n
  | .nibble e a => s.localRead e a 1
  | .elems id c m => match s.tensor p id with
    | none => List.replicate n 0
    | some t => leBytes n (packBits t.ebits m (fun i => match s.tensorElem p id t ((c.getD 0 0 + i) :: c.drop 1) with
        | .ok v => v
        | .error _ => 0))
  | .kv k off rb => (List.range n).map (fun i =>
      let pos := (off + i) / max 1 rb
      if s.kvLen p k ≤ pos then 0
      else match s.kvByteAt p k pos ((off + i) % max 1 rb) with
        | some pa => (s.physRead (s.regionKey p.region) pa 1).getD 0 0
        | none => 0)

/-- Write a unit that can be reached; what lies in one page is one write, which a format window encodes once (R87). A copy's writes
do not reach the parameter-block cache (R92). -/
def State.cellWrite (s : State) (p : Party) (bs : List Byte) : Cell → State
  | .flat va =>
    if va % 4096 + bs.length ≤ 4096 then s.flatStoreRaw p va bs
    else (List.range bs.length).foldl (fun t i => t.flatStoreRaw p (va + i) [bs.getD i 0]) s
  | .loc e a => s.localWrite e a bs
  | .nibble e a => s.localWrite e a [BitVec.ofNat 8 (putBits (leValue (s.localRead e a 1)) 0 4 (bs.getD 0 0).toNat)]
  | .elems id c m => match s.tensor p id with
    | none => s
    | some t => (List.range m).foldl (fun u (i : Nat) =>
        match u.tensorPut p id t ((c.getD 0 0 + (i : Int)) :: c.drop 1) (bits (leValue bs) (t.ebits * i) t.ebits) with
        | .ok v => v
        | .error _ => u) s
  | .kv k off rb => (List.range bs.length).foldl (fun t i =>
      match t.kvByteAt p k ((off + i) / max 1 rb) ((off + i) % max 1 rb) with
      | some pa => t.physWrite (t.regionKey p.region) pa [bs.getD i 0]
      | none => t) s

/-- The pieces of n bytes of a KV stream from byte `off`, each in one position's row: first byte and length. -/
def kvPieces (off n rowBytes : Nat) : List (Nat × Nat) :=
  let rb := max 1 rowBytes
  if n = 0 then []
  else (List.range ((off + n - 1) / rb - off / rb + 1)).map (fun i =>
    let a := max off ((off / rb + i) * rb)
    (a, min (off + n) ((off / rb + i + 1) * rb) - a))

/-- What reading or writing a unit of n bytes leaves besides its bytes: misses in a core and the buffers of its die, the REF bit of a KV
frame, an error met by what it reads (R399, R401, R422, R435). -/
def State.cellTouch (s : State) (v : EccVictim) (p : Party) (n : Nat) (write : Bool) : Cell → State
  | .flat va => s.touchFlat v p (if write then .write else .read) va n
  | .elems id c m => match s.tensor p id with
    | none => s
    | some t => (List.range m).foldl (fun u (i : Nat) =>
        let d := (c.getD 0 0 + (i : Int)) :: c.drop 1
        if !t.inside d then u
        else
          let w := u.touchTile v p id t (t.place d).1 write
          match w.tile p id t (t.place d).1 write with
          | .ok f => if write && 8 ≤ t.ebits then w else w.reads v (w.regionKey p.region) (f + (t.place d).2 / 8) (max 1 (t.ebits / 8))
          | .error _ => w) s
  | .kv k off rb => (kvPieces off n rb).foldl (fun t x =>
      let pos := x.1 / max 1 rb
      match t.cardFor p (kvSeq k) (kvLayer k), t.kvByteAt p k pos (x.1 % max 1 rb) with
      | some c, some pa => if !write && c.len ≤ pos then t else t.touchKv v p (kvSeq k) c (kvLayer k) (kvPlane k) (pos / 16) pa x.2 write
      | _, _ => t) s
  | _ => s

/-- What a unit of n bytes of a copy has translated: every KV block and tile in which it lies, whose frames stay, and flat pages. -/
def State.cellTrans (s : State) (p : Party) (n : Nat) (write : Bool) : Cell → List Trans
  | .kv k off rb =>
    match s.cardFor p (kvSeq k) (kvLayer k) with
    | none => []
    | some c => ((kvPieces off n rb).map (fun x => x.1 / max 1 rb / 16)).eraseDups.filterMap (fun b =>
      match s.leafAt (s.regionKey p.region) c.root (kvLayer k) (kvPlane k) b, s.kvBlock p (kvSeq k) c (kvLayer k) (kvPlane k) b with
      | .leaf pa, .frame f => some (.block (kvSeq k) (kvLayer k) (kvPlane k) b pa (some f))
      | _, _ => none)
  | .elems id c m => match s.tensor p id with
    | none => []
    | some t => (List.range m).filterMap (fun (i : Nat) =>
        let d := (c.getD 0 0 + (i : Int)) :: c.drop 1
        if !t.inside d then none
        else match s.tile p id t (t.place d).1 write with
          | .ok f => some (.tile id (t.place d).1 f)
          | .error _ => none)
  | .flat va => [va, va + n - 1].eraseDups.filterMap (fun a => match s.flatPage p (if write then .write else .read) a with
    | .ok h => some (.page (a / 2 ^ h.bits * 2 ^ h.bits) h.bits)
    | .error _ => none)
  | _ => []

/-- A copy's part as numbered units of `size` bytes, `row` of them in a row. -/
structure Plan where
  units : Nat
  size  : Nat
  row   : Nat
  src   : Nat → Cell
  dst   : Nat → Cell

/-- Units from k on that are one write: those of a row in one page of flat memory. -/
def Plan.burst (pl : Plan) (k : Nat) : Nat :=
  match pl.dst k with
  | .flat va => max 1 (min (min (pl.units - k) (pl.row - k % max 1 pl.row)) ((4096 - va % 4096) / max 1 pl.size))
  | _ => 1

/-- Read units from k on until one cannot be reached: how many were read, what they hold, and what the next one met. -/
def State.planRead (s : State) (p : Party) (extra : Dword) (pl : Plan) : Nat → Nat → List (List Byte) → Nat × List (List Byte) × Reach
  | 0, k, held => (k, held, .ok)
  | n + 1, k, held =>
    match (s.cellReach p pl.size false extra (pl.src k)).and (s.cellReach p pl.size true extra (pl.dst k)) with
    | .ok => s.planRead p extra pl n (k + 1) (held ++ [s.cellRead p pl.size (pl.src k)])
    | r => (k, held, r)

/-- Write units from k on until one cannot be reached. -/
def State.planWrite (s : State) (v : EccVictim) (p : Party) (extra : Dword) (pl : Plan) (held : List (List Byte)) : Nat → Nat → State × Nat × Reach
  | 0, k => (s, k, .ok)
  | n + 1, k =>
    if pl.units ≤ k then (s, k, .ok)
    else match s.cellReach p pl.size true extra (pl.dst k) with
    | .ok =>
      let t := (s.cellTouch v p pl.size true (pl.dst k)).cellWrite p ((List.range (pl.burst k)).flatMap (fun i => held.getD (k + i) [])) (pl.dst k)
      t.planWrite v p extra pl held n (k + pl.burst k)
    | r => (s, k, r)

/-- Run a copy's part: every unit is read before any is written (R91). -/
def State.planRun (s : State) (v : EccVictim) (p : Party) (extra : Dword) (pl : Plan) (q : Part) : State × Part × Reach :=
  let (k, held, r) := s.planRead p extra pl (pl.units - q.pos) q.pos q.held
  let u := (List.range (k - q.pos)).foldl (fun t i => t.cellTouch v p pl.size false (pl.src (q.pos + i))) s
  match r with
  | .ok =>
    let (t, w, r1) := u.planWrite v p extra pl held (pl.units - q.start) q.start
    (t, { q with pos := k, held := held, start := w }, r1)
  | _ => (u, { q with pos := k, held := held }, r)

/-! ## CPY (R90 to R92, R310) -/

/-- A parameter block. -/
structure CpyBlock where
  src  : Nat
  dst  : Nat
  ctl  : Nat
  n0   : Nat
  n1   : Nat
  n2   : Nat
  ss   : Nat
  ds   : Nat
  estr : Int
  cc   : Nat
  deriving DecidableEq, Repr

/-- The fields of a parameter block. -/
def cpyBlock (b : BitVec 512) : CpyBlock :=
  let d (i : Nat) : Nat := bits b.toNat (64 * i) 64
  ⟨d 0, d 1, d 2, bits (d 3) 0 32, bits (d 3) 32 16, bits (d 3) 48 16, d 4, d 5, toSigned 64 (d 6), d 7⟩

/-- Space of a side. -/
def CpyBlock.space (b : CpyBlock) (dst : Bool) : Nat := if dst then bits b.ctl 3 3 else bits b.ctl 0 3
/-- Address field of a side. -/
def CpyBlock.base (b : CpyBlock) (dst : Bool) : Nat := if dst then b.dst else b.src
/-- Strides of a side. -/
def CpyBlock.strides (b : CpyBlock) (dst : Bool) : Nat := if dst then b.ds else b.ss
/-- Whether the copy runs in engines. -/
def CpyBlock.inEngines (b : CpyBlock) : Bool := b.space false == 1 || b.space true == 1
/-- Offset of a side in bytes for row i1 of plane i2 (R91). -/
def CpyBlock.rowOff (b : CpyBlock) (dst : Bool) (i1 i2 : Nat) : Int :=
  i1 * toSigned 32 (bits (b.strides dst) 0 32) + i2 * toSigned 32 (bits (b.strides dst) 32 32)
/-- Per-engine offset of a side: only the side that is not engine-local has one. -/
def CpyBlock.engOff (b : CpyBlock) (dst : Bool) (e : Nat) : Int := if b.space dst = 1 then 0 else (e % 16 : Nat) * b.estr
/-- The tensor id of a tensor side. -/
def CpyBlock.tensorId (b : CpyBlock) (dst : Bool) : Nat := bits (b.base dst) 0 16

/-- Bytes of a unit: of an element of the tensor side, else one. -/
def State.cpyUnit (s : State) (p : Party) (b : CpyBlock) : Nat :=
  let eb (dst : Bool) : Nat := if b.space dst = 2 then ((s.tensor p (b.tensorId dst)).map Tensor.ebits).getD 8 else 8
  max (max 1 (eb false / 8)) (eb true / 8)

/-- Elements of a unit on a tensor side. -/
def State.cpyElems (s : State) (p : Party) (b : CpyBlock) (dst : Bool) : Nat :=
  if ((s.tensor p (b.tensorId dst)).map Tensor.ebits).getD 8 = 4 then 2 else 1

/-- Bytes that one position contributes to the stream of a KV address. -/
def State.kvRow (s : State) (p : Party) (k : Dword) : Nat :=
  match s.cardFor p (kvSeq k) (kvLayer k) with
  | some c => c.heads * kvRowBytes c.kvf c.d
  | none => 1

/-- Unit k of a side in engine e. -/
def State.cpyCell (s : State) (p : Party) (b : CpyBlock) (dst : Bool) (e k : Nat) : Cell :=
  let u := s.cpyUnit p b
  let per := b.n0 / u
  let i0 := k % max 1 per
  let i1 := k / max 1 per % max 1 b.n1
  let i2 := k / max 1 per / max 1 b.n1
  let base := b.base dst
  let off : Int := b.rowOff dst i1 i2 + (i0 * u : Nat) + b.engOff dst e
  match b.space dst with
  | 0 => .flat (((base : Int) + off).toNat)
  | 1 => .loc e (((base : Int) + off).toNat)
  | 2 =>
    let n := s.cpyElems p b dst
    .elems (b.tensorId dst) [toSigned 24 (bits base 40 24) + (i0 * n : Nat), toSigned 24 (bits base 16 24) + i1 + b.engOff dst e,
      toSigned 32 (bits b.cc 0 32) + i2, toSigned 32 (bits b.cc 32 32)] n
  | _ =>
    let rb := s.kvRow p (BitVec.ofNat 64 base)
    .kv (BitVec.ofNat 64 base) (((kvPos (BitVec.ofNat 64 base) * rb : Nat) + off).toNat) rb

/-- The plan of a CPY in engine e. -/
def State.cpyPlan (s : State) (p : Party) (b : CpyBlock) (e : Nat) : Plan :=
  let u := s.cpyUnit p b
  ⟨b.n0 / u * b.n1 * b.n2, u, b.n0 / u, s.cpyCell p b false e, s.cpyCell p b true e⟩

/-- The least and the greatest row offset of a side. -/
def CpyBlock.span (b : CpyBlock) (dst : Bool) : Int × Int :=
  let a : Int := (b.n1 - 1 : Nat) * toSigned 32 (bits (b.strides dst) 0 32)
  let c : Int := (b.n2 - 1 : Nat) * toSigned 32 (bits (b.strides dst) 32 32)
  (min 0 a + min 0 c, max 0 a + max 0 c)

/-- Whether a side in engine e keeps its space's rules (R91). -/
def State.cpySideOk (s : State) (p : Party) (b : CpyBlock) (dst : Bool) (e : Nat) : Bool :=
  let (lo, hi) := b.span dst
  let base := b.base dst
  let off := b.engOff dst e
  match b.space dst with
  | 0 => decide (0 ≤ (base : Int) + off + lo ∧ (base : Int) + off + hi + b.n0 ≤ 2 ^ 56)
  | 1 => (List.range b.n2).all (fun i2 => (List.range b.n1).all (fun i1 =>
      decide (0 ≤ (base : Int) + b.rowOff dst i1 i2) && (s.localAt ((base : Int) + b.rowOff dst i1 i2).toNat b.n0).isSome))
  | 2 => (match s.tensor p (b.tensorId dst) with
      | some t => t.mode ≠ 2 && b.strides dst == 0 && b.n0 * 8 % t.ebits == 0
      | none => false)
  | 3 =>
    let k := BitVec.ofNat 64 base
    let rb := s.kvRow p k
    decide (base < 2 ^ 53) && (s.cardFor p (kvSeq k) (kvLayer k)).isSome &&
      decide (0 ≤ ((kvPos k * rb : Nat) : Int) + off + lo ∧ ((kvPos k * rb : Nat) : Int) + off + hi + b.n0 ≤ (2 ^ 24 * rb : Nat))
  | _ => false

/-- Whether a parameter block keeps R90 and R91 in the engines it runs in. -/
def State.cpyOk (s : State) (p : Party) (b : CpyBlock) (l : List Nat) : Bool :=
  let st (d : Bool) : Nat := b.space d
  b.ctl % 2 ^ 31 < 64 && b.ctl < 2 ^ 32 && 1 ≤ b.n0 && 1 ≤ b.n1 && 1 ≤ b.n2 && !(st false == 2 && st true == 2) &&
    (st false == 2 || st true == 2 || b.cc == 0) && (b.estr == 0 || (b.inEngines && !(st false == 1 && st true == 1))) &&
    l.all (fun e => s.cpySideOk p b false e && s.cpySideOk p b true e)

/-- The parameter block at a physical address: from the die's cache where it is there (R92). -/
def State.pbRead (s : State) (p : Party) (pa : Nat) : BitVec 512 :=
  match (s.die p.die).pbCache.find? (fun e => e.addr == pa) with
  | some e => e.block
  | none => BitVec.ofNat 512 (s.physValue (s.regionKey p.region) pa 64)

/-- What fetching a parameter block leaves besides its data: a block in the cache is not read from memory (R92, R399, R435). -/
def State.pbTouch (s : State) (p : Party) (va pa : Nat) : State :=
  if (s.die p.die).pbCache.any (fun e => e.addr == pa) then s.touch (.context s.focus) p .read va 0 else s.touch (.context s.focus) p .read va 64

/-- Keep a parameter block in the die's cache (R92). -/
def State.pbKeep (s : State) (p : Party) (pa : Nat) : State :=
  let d := s.die p.die
  let e : PbEntry := ⟨pa, s.pbRead p pa⟩
  s.setDie p.die { d with pbCache := (e :: d.pbCache.filter (fun x => x.addr ≠ pa)).take Config.pbEntries }

/-- The parameter block that a CPY names, when it translates. -/
def State.cpyFetch (s : State) (sP : BitVec 5) : Option CpyBlock :=
  (s.homeOf .read (s.rS sP)).map (fun pa => cpyBlock (s.pbRead s.party pa))

/-- The engines a CPY runs in; 16 stands for the sequencer. -/
def State.cpyEngines (s : State) (g : Gate) (b : CpyBlock) : List Nat := if b.inEngines then s.acting g else [16]

/-! ## Starting an operation (R88, R111) -/

/-- Start an operation of the context in focus; token 0 names none. `base` gives what a multiply has read of its accumulator. -/
def State.startOp (s : State) (token : Nat) (comm : Bool) (kind : OpKind) (parts : List (Nat × Nat))
    (base : Nat → Option (Nat × Acc) := fun _ => none) : State :=
  let o : Op := ⟨s.owner, s.focus, s.me.region, s.me.place.gangNo, s.me.place.gangNo, s.me.place.engCtx, token, BitVec.ofNat 64 s.issue.bundle, comm,
    s.cycle, kind, parts.map (fun p => { eid := p.1, state := .running, pos := 0, start := p.2, at_ := s.cycle, turn := s.now, base := base p.1 }), [], s.windowTable⟩
  let s1 := { s with ops := tableInsert s.ops s.nextOp o, nextOp := s.nextOp + 1 }
  if token = 0 then s1
  else s1.mod (fun c => { c.outlive (.s token) wholeDest with
    tokens := c.tokens ||| BitVec.ofNat 32 (2 ^ token), inflight := c.inflight.filter (fun e => e.dest ≠ .s token) })

/-- The check of CPY. -/
def State.cpyCheck (s : State) (g : Gate) (sP : BitVec 5) : Verdict :=
  let va := s.rS sP
  match s.flatFault s.party .read va.toNat 64 with
  | some r => .trap false [s.memRec r 1 6 false va]
  | none => match s.cpyFetch sP with
    | some b => if s.cpyOk s.party b (s.cpyEngines g b) then .ok else .trap false [s.memRec rPROT 1 6 false va]
    | none => .ok

/-- Whether CPY acts: in an engine where its predicate holds when its block has an engine-local side, else at the sequencer (R170,
R299). A block that cannot be read has no side, and its fault is the sequencer's (R91). -/
def State.cpyActs (s : State) (g : Gate) (sP : BitVec 5) : Bool :=
  match s.flatFault s.party .read (s.rS sP).toNat 64, s.cpyFetch sP with
  | none, some b => if b.inEngines then !(s.acting g).isEmpty else s.gateM g
  | _, _ => s.gateM g

/-- Start the copy of a block that has been read and checked. -/
def State.cpyStart (s : State) (g : Gate) (sP sT : BitVec 5) : State :=
  match s.homeOf .read (s.rS sP) with
  | none => s
  | some pa =>
    let blk := s.pbRead s.party pa
    let b := cpyBlock blk
    ((s.pbTouch s.party (s.rS sP).toNat pa).pbKeep s.party pa).startOp sT.toNat (b.ctl.testBit 31) (.cpy blk)
      ((s.cpyEngines g b).map (fun e => (e, 0)))

/-- CPY (R90, R91, R310). -/
def execCpy (g : Gate) (sP sT : BitVec 5) (s : State) : Answer :=
  runWord (.cpy g sP sT) ⟨6, fun _ => useS [sP, sT], free, fun t => t.cpyActs g sP, fun t => t.cpyCheck g sP⟩
    (fun t => t.cpyStart g sP sT) s

/-! ## CPYL (R93, R311) -/

/-- Flat address of a lane's element. -/
def cpylAddr (base : Dword) (offs : Vec) (i : Nat) : Dword := base + sext64 32 (bits offs.toNat (32 * i) 32)

/-- The plan of a CPYL in an engine: one unit per active lane. -/
def cpylPlan (base : Dword) (lbase size : Nat) (toFlat : Bool) (offs : Vec) (m : LaneMask) (e : Nat) : Plan :=
  let ls := laneList m
  let fl (k : Nat) : Cell := .flat (cpylAddr base offs (ls.getD k 0)).toNat
  let lo (k : Nat) : Cell := .loc e (lbase + ls.getD k 0 * size)
  ⟨ls.length, size, 1, if toFlat then lo else fl, if toFlat then fl else lo⟩

/-- One request of a scatter: the engine and the number of its unit, its flat address, and the bytes it writes. -/
structure Request where
  eid  : Nat
  k    : Nat
  va   : Nat
  data : List Byte
  deriving DecidableEq, Repr

/-- The requests that the running parts of a scatter have yet to make, by eid and lane, with the bytes that each part has read. -/
def scatterRequests (base : Dword) (size : Nat) (offs : Table Vec) (ls : Table LaneMask) (parts : List Part) : List Request :=
  (parts.filter (fun q => q.state == .running)).flatMap (fun q =>
    let l := laneList (tableGet ls q.eid 0)
    ((List.range l.length).filter (fun k => q.start ≤ k && !q.wrote.contains k)).map (fun k =>
      ⟨q.eid, k, (cpylAddr base (tableGet offs q.eid 0) (l.getD k 0)).toNat, (q.held.getD k []).take size⟩))

/-- The byte that the requests of a line write at one of its addresses: that of the last one, the highest (eid, lane) (R93). -/
def lineByte (l : List Request) (a : Nat) : Option Byte :=
  l.foldl (fun r x => if x.va ≤ a ∧ a < x.va + x.data.length then some (x.data.getD (a - x.va) 0) else r) none

/-- The bytes of a line that a line operation writes, run by run: address and bytes. -/
def lineRuns (f : Nat → Option Byte) : Nat → Nat → List (Nat × List Byte)
  | 0, _ => []
  | n + 1, a => match f a with
    | none => lineRuns f n (a + 1)
    | some b => match lineRuns f n (a + 1) with
      | (c, bs) :: t => if c = a + 1 then (a, b :: bs) :: t else (a, [b]) :: (c, bs) :: t
      | [] => [(a, [b])]

/-- Write some bytes of a line, from address `a`, at its home `pa`: a format window encodes each block that they touch once (R87, R93). -/
def State.lineWrite (s : State) (key : Nat) (pa a : Nat) (f : Nat → Option Byte) : State :=
  match paKind pa, s.windowAt pa with
  | .view, some w =>
    let old := s.viewRead key w pa 128
    let per := w.elems * w.esize
    (List.range (ceilDiv 128 per)).foldl (fun t i =>
      let here := (List.range per).map (fun j => i * per + j) |>.filter (fun o => decide (o < 128))
      if here.any (fun o => (f (a + o)).isSome) then
        t.viewWrite key w (pa + i * per) (here.map (fun o => (f (a + o)).getD (old.getD o 0)))
      else t) s
  | _, _ => (lineRuns f 128 a).foldl (fun t x => t.physWrite key (pa + (x.1 - a)) x.2) s

/-- Drop from the requests of a line what a part of a higher eid that no longer runs has scattered before: its bytes stay (R93). -/
def scatterLeft (above : Nat → Nat → Bool) (l : List Request) (a : Nat) : Option Byte :=
  lineByte (l.filter (fun x => !(above x.eid a))) a

/-- What a scatter has done: the requests it has written, and for each engine that has met a fault, what it met. -/
structure Scattered where
  state : State
  done  : List Request
  met   : Table Reach

/-- One line operation of a scatter: the requests of the engines that have not stopped, in one write; where the line cannot be reached each of
them stops (R89, R93). -/
def State.scatterLine (v : EccVictim) (p : Party) (size : Nat) (extra : Nat → Dword) (above : Nat → Nat → Bool) (r : Scattered) (line : List Request) : Scattered :=
  let l := line.filter (fun x => (tableFind r.met x.eid).isNone)
  match l with
  | [] => r
  | x :: _ =>
    match r.state.flat p .write x.va with
    | .ok pa =>
      let a := x.va / 128 * 128
      let t := (r.state.cellTouch v p size true (.flat x.va)).lineWrite (r.state.regionKey p.region) (pa / 128 * 128) a (scatterLeft above l)
      ⟨t, r.done ++ l, r.met⟩
    | .error e => ⟨r.state, r.done, l.foldl (fun m y => if (tableFind m y.eid).isSome then m
        else tableInsert m y.eid (.fail ⟨e, 1, true, BitVec.ofNat 64 y.va, extra y.eid⟩)) r.met⟩

/-- The lines of a list of requests, in the order of the first that touches each (R93). -/
def linesOf (l : List Request) : List (List Request) :=
  let keys := l.foldl (fun (a : List Nat) x => if a.contains (x.va / 128) then a else a ++ [x.va / 128]) []
  keys.map (fun k => l.filter (fun x => x.va / 128 == k))

/-- Run the running parts of a scatter together: what each has yet to write, line by line. -/
def State.scatterRun (s : State) (v : EccVictim) (p : Party) (base : Dword) (lbase size : Nat) (offs : Table Vec) (ls : Table LaneMask)
    (extra : Nat → Dword) (parts : List Part) : State × List (Part × Reach) :=
  let lanesOf (e : Nat) : List Nat := laneList (tableGet ls e 0)
  let read := parts.map (fun q => if q.state ≠ .running || !q.held.isEmpty then q
    else { q with pos := (lanesOf q.eid).length, held := (lanesOf q.eid).map (fun i => s.localRead q.eid (lbase + i * size) size) })
  let wrote (q : Part) (k : Nat) : Bool := q.state == .finished || decide (k < q.start) || q.wrote.contains k
  let above (e a : Nat) : Bool := (parts.filter (fun q => e < q.eid && q.state ≠ .running)).any (fun q =>
    (List.range (lanesOf q.eid).length).any (fun k => wrote q k &&
      (let b := (cpylAddr base (tableGet offs q.eid 0) ((lanesOf q.eid).getD k 0)).toNat
       decide (b ≤ a) && decide (a < b + size))))
  let r := (linesOf (scatterRequests base size offs ls read)).foldl (State.scatterLine v p size extra above) ⟨s, [], []⟩
  (r.state, read.map (fun q =>
    let now := q.wrote ++ (r.done.filter (fun x => x.eid == q.eid)).map Request.k
    let left := (List.range (lanesOf q.eid).length).filter (fun k => q.start ≤ k && !now.contains k)
    match tableFind r.met q.eid with
    | some m => ({ q with start := left.headD 0, wrote := now }, m)
    | none => (if q.state = .running then { q with start := (lanesOf q.eid).length, wrote := [] } else q, .ok)))

/-- The first active lane of CPYL that breaks a rule in engine e. -/
def State.cpylRec (s : State) (e : Nat) (f : CpylFields) : Option FaultRec :=
  let n := 4 * 2 ^ f.sz.toNat
  let offs := s.rVec e f.vO.toNat
  (laneList (s.laneMask e f.lq f.ln)).findSome? (fun i =>
    let fa := cpylAddr (s.rS f.sB) offs i
    let la := f.lbase.toNat + i * n
    if fa.toNat % n ≠ 0 then some (s.engRec e rALIGN 1 6 f.dir fa)
    else if la % n ≠ 0 then some (s.engRec e rALIGN 0 6 (!f.dir) (BitVec.ofNat 64 la))
    else if (s.localAt la n).isNone then some (s.engRec e rPROT 0 6 (!f.dir) (BitVec.ofNat 64 la))
    else none)

/-- CPYL. -/
def execCpyl (g : Gate) (f : CpylFields) (s : State) : Answer :=
  engineM (.cpyl g f) [f.vO.toNat] [] (useS [f.sT, f.sB])
    (fun t => if (t.acting g).isEmpty then .ok else State.engineRecs (t.acting g) (fun e => t.cpylRec e f))
    (fun t => if (t.acting g).isEmpty then t
      else t.startOp f.sT.toNat f.comm
        (.cpyl (t.rS f.sB) f.lbase.toNat (4 * 2 ^ f.sz.toNat) f.dir ((t.acting g).map (fun e => (e, t.rVec e f.vO.toNat)))
          ((t.acting g).map (fun e => (e, t.laneMask e f.lq f.ln))))
        ((t.acting g).map (fun e => (e, 0)))) s

/-! ## CPYW (R78, R94, R312) -/

/-- Rows of a CPYW. -/
def cpywRows (f : CpywFields) : Nat := (f.wx.toNat + 1) * (f.wy.toNat + 1)
/-- Elements of a row. -/
def cpywCh (f : CpywFields) : Nat := f.nch.toNat + 1

/-- Coordinates of element j of row m in engine e (R78). -/
def cpywCoord (t : Tensor) (a b : Dword) (f : CpywFields) (e m j : Nat) : List Int :=
  let x0 : Int := toSigned 16 (bits a.toNat 32 16) + e * toSigned 8 f.esx.toNat
  let y0 : Int := toSigned 16 (bits a.toNat 48 16) + e * toSigned 8 f.esy.toNat
  let w := f.wx.toNat + 1
  [(bits b.toNat 16 16 + j : Nat), x0 + (m % w * t.sx + bits b.toNat 0 8 * t.dx : Nat), y0 + (m / w * t.sy + bits b.toNat 8 8 * t.dy : Nat),
    (bits a.toNat 16 16 : Nat)]

/-- The plan of a CPYW in engine e; two INT4 elements make a byte. -/
def cpywPlan (t : Tensor) (a b : Dword) (f : CpywFields) (e : Nat) : Plan :=
  let per := if t.ebits = 4 then 2 else 1
  let units := ceilDiv (cpywCh f) per
  let u := max 1 (t.ebits / 8)
  let row (k : Nat) : Nat := k / max 1 units
  let col (k : Nat) : Nat := k % max 1 units
  let whole (k : Nat) : Bool := decide (per * (col k + 1) ≤ cpywCh f)
  let dst (k : Nat) : Nat := bits b.toNat 32 32 + row k * f.pitch.toNat + col k * u
  ⟨cpywRows f * units, u, units,
    fun k => .elems (bits a.toNat 0 16) (cpywCoord t a b f e (row k) (per * col k)) (if whole k then per else 1),
    fun k => if whole k then .loc e (dst k) else .nibble e (dst k)⟩

/-- A record of engine e for a tensor that cannot be used: bytes 24 to 31 hold coordinates (R56). -/
def State.tensorRec (s : State) (e cls id : Nat) : FaultRec :=
  { s.engRec e rPROT 2 cls false (tensorAddr id 0) with extra := s.coordWord 0 }

/-- The synchronous faults of CPYW in engine e (R312). -/
def State.cpywRec (s : State) (e : Nat) (f : CpywFields) : Option FaultRec :=
  let a := s.rS f.sA
  let id := bits a.toNat 0 16
  match s.tensor s.party id with
  | none => some (s.tensorRec e 6 id)
  | some t =>
    let d := bits (s.rS f.sB).toNat 32 32
    let n := ceilDiv (cpywCh f * t.ebits) 8
    if t.mode ≠ 2 then some (s.tensorRec e 6 id)
    else if f.pitch.toNat * 8 < cpywCh f * t.ebits then some (s.engRec e rPROT 0 6 true (BitVec.ofNat 64 d))
    else ((List.range (cpywRows f)).find? (fun m => (s.localAt (d + m * f.pitch.toNat) n).isNone)).map
      (fun m => s.engRec e rPROT 0 6 true (BitVec.ofNat 64 (d + m * f.pitch.toNat)))

/-- CPYW. -/
def execCpyw (g : Gate) (f : CpywFields) (s : State) : Answer :=
  runEng (.cpyw g f) 6 g (fun _ => useS [f.sT, f.sA, f.sB])
    (fun t => State.engineRecs (t.acting g) (fun e => t.cpywRec e f))
    (fun t => t.startOp f.sT.toNat f.comm (.cpyw (t.rS f.sA) (t.rS f.sB) f) ((t.acting g).map (fun e => (e, 0)))) s

/-! ## CPYK (R94, R313) -/

/-- A record of engine e in KV space; bytes 24 to 31 hold its KCUR (R56). -/
def State.kvRec (s : State) (e reason cls : Nat) (k : Dword) : FaultRec :=
  { s.engRec e reason 3 cls false k with extra := (s.wasPart e).kcur }

/-- The KV address in a descriptor register (R285). -/
def kvDesc (v : Vec) : Dword := BitVec.ofNat 64 (bits v.toNat 0 32 + bits v.toNat 32 21 * 2 ^ 32)

/-- The card checks of a descriptor in engine e (R286). -/
def State.kvDescRec (s : State) (e cls : Nat) (v : Vec) (k : Dword) (heads : Bool) : Option FaultRec :=
  match s.cardFor s.party (kvSeq k) (kvLayer k) with
  | none => some (s.kvRec e rPROT cls k)
  | some c =>
    if heads && c.heads ≤ bits v.toNat 64 8 then some (s.kvRec e rPROT cls k)
    else if kvPos k % 16 ≠ 0 then some (s.kvRec e rPROT cls k)
    else if bits v.toNat 53 11 ≠ 0 || (heads && bits v.toNat 72 24 ≠ 0) then some (s.kvRec e rPROT cls k)
    else none

/-- The checks of CPYK in engine e. -/
def State.cpykRec (s : State) (e : Nat) (vK : BitVec 6) (dst nblk : Nat) : Option FaultRec :=
  let v := s.rV e vK.toNat
  let k := kvDesc v
  match s.kvDescRec e 6 v k false with
  | some r => some r
  | none => match s.cardFor s.party (kvSeq k) (kvLayer k) with
    | none => none
    | some c => ((List.range nblk).find? (fun b => (s.localAt (dst + b * c.blockSize) c.blockSize).isNone)).map
        (fun b => s.engRec e rPROT 0 6 true (BitVec.ofNat 64 (dst + b * c.blockSize)))

/-- CPYK. -/
def execCpyk (g : Gate) (sT : BitVec 5) (vK : BitVec 6) (sD : BitVec 5) (nblk : BitVec 8) (comm : Bool) (s : State) : Answer :=
  runEng (.cpyk g sT vK sD nblk comm) 6 g (fun t => useS [sT, sD] ++ t.useV [vK.toNat])
    (fun t => State.engineRecs (t.acting g) (fun e => t.cpykRec e vK (bits (t.rS sD).toNat 0 32) nblk.toNat))
    (fun t => t.startOp sT.toNat comm
      (.cpyk ((t.acting g).map (fun e => (e, kvDesc (t.rV e vK.toNat)))) (bits (t.rS sD).toNat 0 32) nblk.toNat)
      ((t.acting g).map (fun e => (e, kvPos (kvDesc (t.rV e vK.toNat)))))) s

/-- Bytes of a block with zero at and beyond LEN. -/
def State.blockBytesAt (s : State) (p : Party) (c : Card) (frame pos : Nat) : List Byte :=
  let n := min 16 (c.len - pos) * (c.blockSize / 16)
  s.physRead (s.regionKey p.region) frame n ++ List.replicate (c.blockSize - n) 0

/-- Copy blocks of CPYK in ascending order; n bounds the blocks left. -/
def State.cpykRun (s : State) (v : EccVictim) (p : Party) (e : Nat) (k : Dword) (dst nblk : Nat) (extra : Dword) : Nat → Part → State × Part × Reach
  | 0, q => (s, q, .ok)
  | n + 1, q =>
    let b := (q.start - kvPos k) / 16
    if nblk ≤ b then (s, q, .ok)
    else match s.cardFor p (kvSeq k) (kvLayer k) with
      | none => (s, q, .fail ⟨rPROT, 3, false, kvAt k q.start, extra⟩)
      | some c =>
        let next (t : State) (bs : List Byte) : State × Part × Reach :=
          State.cpykRun (t.localWrite e (dst + b * c.blockSize) bs) v p e k dst nblk extra n { q with pos := q.pos + 1, start := q.start + 16 }
        if c.len ≤ q.start then next s (List.replicate c.blockSize 0)
        else match s.kvPinned p k c q.start with
          | .frame f => next (s.touchKv v p (kvSeq k) c (kvLayer k) (kvPlane k) (q.start / 16) f c.blockSize false) (s.blockBytesAt p c f q.start)
          | .hold => (s, q, .hold)
          | .fail r => (s, q, .fail ⟨r, 3, false, kvAt k q.start, extra⟩)

end Sys2Proof.Machine
end

