-- ==== Sys2Proof/Machine/Tile.lean ====
section
/-!
DEFINITION. The T words but for KVMM, KVMV and GMMA, and the K words: slots and their tags, dense and sparse multiplies,
accumulators, drains, shape registers, latches (R67 to R69, R138, R144, R145, R273 to R284, R293 to R298).
-/
namespace Sys2Proof.Machine

/-! ## Slots (R68, R276 to R279) -/

/-- Whether the issuing context owns a slot. -/
def State.mine (s : State) (o : OSlot) : Bool := o.owner == s.owner

/-- Why a word that writes or retags slot n of engine e holds (R68, R279). -/
def State.slotHold (s : State) (e n : Nat) : Busy :=
  let o := s.rO e n
  if o.owner ≠ 0 && !(s.mine o) then .no else (Busy.when (s.mine o && o.loading)).or (s.slotBusy e n)

/-- Why a word that reads slot n of engine e holds (R68). -/
def State.slotReadHold (s : State) (e n : Nat) : Busy :=
  let o := s.rO e n
  Busy.when (s.mine o && o.loading)

/-- A STATE record of engine e unless a condition holds. -/
def State.engState (s : State) (e cls : Nat) (ok : Bool) : Option FaultRec :=
  if ok then none else some (s.engRec e rSTATE 0 cls false 0)

/-- The slots of a run. -/
def slotRun (o : BitVec 5) (n : BitVec 3) : List Nat := (List.range (n.toNat + 1)).map (fun i => o.toNat + i)

/-- A slot as OCLM leaves it (R67); its scale side-area stays, which only slot loads write (R126). -/
def OSlot.claimed (o : OSlot) (cid : Nat) : OSlot := { owner := cid, scale := o.scale }

/-- A hold of a T word in every active engine, whatever its predicate (R170, R177). -/
def tHolds (busy : State → Nat → Busy) (t : State) : Verdict := t.unitHolds 4 t.actives (busy t)

/-- The records of a T word in the engines in which it acts. -/
def tRecs (g : Gate) (bad : State → Nat → Option FaultRec) (t : State) : Verdict := State.engineRecs (t.acting g) (bad t)

/-- Why a word that claims or releases a run of slots of engine e holds. -/
def State.runHold (s : State) (e : Nat) (o : BitVec 5) (n : BitVec 3) : Busy := (slotRun o n).foldl (fun b k => b.or (s.slotHold e k)) .no

/-- OCLM (R67, R68, R276). -/
def execOclm (g : Gate) (n : BitVec 3) (o : BitVec 5) (s : State) : Answer :=
  runUnit (.oclm g n o) 4 g (fun _ => []) (tHolds (fun t e => t.runHold e o n))
    (tRecs g (fun t e => t.engState e 4 ((slotRun o n).all (fun k => (t.rO e k).owner == 0 || t.mine (t.rO e k)))))
    (fun t => t.each (t.acting g) (fun u e => (slotRun o n).foldl (fun v k => v.wO e k (((v.myEng e).slot k).claimed v.owner) 2) u)) s

/-- OREL (R68, R276). -/
def execOrel (g : Gate) (n : BitVec 3) (o : BitVec 5) (s : State) : Answer :=
  runUnit (.orel g n o) 4 g (fun _ => []) (tHolds (fun t e => t.runHold e o n))
    (tRecs g (fun t e => t.engState e 4 ((slotRun o n).all (fun k => t.mine (t.rO e k)))))
    (fun t => t.each (t.acting g) (fun u e => (slotRun o n).foldl (fun v k => v.wTags e k (fun x => { x with owner := 0 }) false 1) u)) s

/-- Bytes that OLD reads: address and length of each source row (R277). -/
def oldRows (fmt : Nat) (tr : Bool) (base pitch : Nat) : List (Nat × Nat) :=
  if tr then (List.range ((slotCap fmt).getD 64)).map (fun k => (base + k * pitch, 64 * fmtBits fmt / 8))
  else (List.range 64).map (fun r => (base + r * pitch, 128))

/-- Slot contents and scale bytes after an OLD in engine e (R277); only MXFP4 reads scales, and else the area stays (R126). -/
def State.oldData (s : State) (e : Nat) (o : OSlot) (fmt : Nat) (tr : Bool) (base sbase pitch : Nat) : Slot × BitVec 4096 :=
  let rows := (oldRows fmt tr base pitch).map (fun r => leValue (s.localRead e r.1 r.2))
  let w := fmtBits fmt
  let cap := (slotCap fmt).getD 64
  let data := if tr then packBits w (64 * cap) (fun i => bits (rows.getD (i % cap) 0) (w * (i / cap)) w)
    else packBits 1024 64 (fun r => rows.getD r 0)
  (BitVec.ofNat 65536 data, if fmt = 0xA then BitVec.ofNat 4096 (leValue (s.localRead e sbase 512)) else o.scale)

/-- The record of a source or destination range that OLD or ADRN cannot reach in engine e (R277, R296). -/
def State.localRec (s : State) (e : Nat) (write : Bool) (ranges : List (Nat × Nat)) : Option FaultRec :=
  (ranges.find? (fun r => (s.localAt r.1 r.2).isNone)).map (fun r => s.engRec e rPROT 0 4 write (BitVec.ofNat 64 r.1))

/-- OLD (R67, R277): the rows are read at issue, and the slot is LOADING until its load completes. -/
def execOld (g : Gate) (o sA sS : BitVec 5) (tr : Bool) (fmt : BitVec 4) (pitch : BitVec 16) (s : State) : Answer :=
  runUnit (.old g o sA sS tr fmt pitch) 4 g (fun _ => useS [sA, sS]) (tHolds (fun t e => t.slotHold e o.toNat))
    (tRecs g (fun t e =>
      let base := bits (t.rS sA).toNat 0 32
      let sb := bits (t.rS sS).toNat 0 32
      if !(t.mine (t.rO e o.toNat)) then t.engState e 4 false
      else if base % 4 ≠ 0 then some (t.engRec e rALIGN 0 4 false (BitVec.ofNat 64 base))
      else if fmt = 10 ∧ sb % 4 ≠ 0 then some (t.engRec e rALIGN 0 4 false (BitVec.ofNat 64 sb))
      else t.localRec e false (oldRows fmt.toNat tr base pitch.toNat ++ (if fmt = 10 then [(sb, 512)] else []))))
    (fun t =>
      let base := bits (t.rS sA).toNat 0 32
      let sb := bits (t.rS sS).toNat 0 32
      t.each (t.acting g) (fun u e =>
        let x := (u.myEng e).slot o.toNat
        let (d, y) := u.oldData e x fmt.toNat tr base sb pitch.toNat
        u.wO e o.toNat { x with data := d, scale := y, loading := true, fmt := fmt } 1)) s

/-- The load of a slot completes: it becomes CLAIMED, or FREE when its owner has gone (R67, R68). Event of engine key
`eng`. -/
def execOldLoadComplete (eng : Nat) (slot : BitVec 5) (s : State) : Answer :=
  let o := s.slotAt (eng / 16) (eng % 16) slot.toNat
  .next (if !o.loading then s
    else s.modEng (eng / 16) (eng % 16) (fun x => x.putO slot.toNat
      { o with loading := false, owner := if (tableFind s.ctxs o.owner).isSome then o.owner else 0 }))

/-- The hold of OTAG: with Q a slot that the context itself has LOADING, else a busy one too (R278, R279). -/
def State.otagHold (s : State) (q : Bool) (e : Nat) (o : BitVec 5) : Busy := if q then s.slotReadHold e o.toNat else s.slotHold e o.toNat

/-- The records of OTAG: without Q the slot must be the context's (R278). -/
def State.otagRec (s : State) (q : Bool) (e : Nat) (o : BitVec 5) : Option FaultRec :=
  if q then none else s.engState e 4 (s.mine (s.rO e o.toNat))

/-- Set the tags of a slot (R278). -/
def State.otag (s : State) (g : Gate) (o : BitVec 5) (user : Dword) (setf : Bool) (fmt : BitVec 4) : State :=
  s.each (s.acting g) (fun u e =>
    u.wTags e o.toNat (fun x => { x with tag := BitVec.ofNat 16 user.toNat, fmt := if setf then fmt else x.fmt }) setf 2)

/-- Test the user tag of a slot (R278). -/
def State.otagQ (s : State) (g : Gate) (o : BitVec 5) (pd : BitVec 3) (user : Dword) : State :=
  s.each (s.acting g) (fun u e =>
    u.wP e pd (u.mine (u.rO e o.toNat) && (u.rO e o.toNat).tag == BitVec.ofNat 16 user.toNat) 2)

/-- A form of OTAG: its user tag and its effect. -/
def otagWord (i : Instr) (g : Gate) (uses : List Dest) (q : Bool) (o : BitVec 5) (eff : State → State) (s : State) : Answer :=
  runUnit i 4 g (fun _ => uses) (tHolds (fun t e => t.otagHold q e o)) (tRecs g (fun t e => t.otagRec q e o)) eff s

/-- OTAG with a scalar (R278). -/
def execOtag (g : Gate) (sU : BitVec 5) (setf : Bool) (fmt : BitVec 4) (o : BitVec 5) (s : State) : Answer :=
  otagWord (.otag g sU setf fmt o) g (useS [sU]) false o (fun t => t.otag g o (t.rS sU) setf fmt) s

/-- OTAG.Q with a scalar (R278). -/
def execOtagQ (g : Gate) (sU : BitVec 5) (pd : BitVec 3) (o : BitVec 5) (s : State) : Answer :=
  otagWord (.otagQ g sU pd o) g (useS [sU]) true o (fun t => t.otagQ g o pd (t.rS sU)) s

/-- OTAG with a literal user tag (R278); with Q, the FMT field holds pd. -/
def execOtagLiteral (g : Gate) (q setf : Bool) (fmt : BitVec 4) (o : BitVec 5) (lit : Dword) (s : State) : Answer :=
  otagWord (.otagLiteral g q setf fmt o lit) g [] q o
    (fun t => if q then t.otagQ g o (BitVec.ofNat 3 fmt.toNat) lit else t.otag g o lit setf fmt) s

/-! ## Multiplies (R280 to R284, R292) -/

/-- The accumulator that a multiply of the background starts from, where a bound makes it another than the newest: what the word reads of the
elements to which it adds (R175, R274). -/
def State.opBase (s : State) (ad : BitVec 2) (za : Bool) (e : Nat) : Option (Nat × Acc) :=
  let b := s.rAcc e ad.toNat
  if za || b == (s.myEng e).result s.me.place.engCtx ad.toNat then none else some (wholeDest, b)

/-- A multiply of the background starts: with ZA its accumulator is zero; else it stays, element by element, until something is added (R274). -/
def State.opStart (s : State) (e : Nat) (ad : BitVec 2) (za : Bool) : State :=
  if za then (s.wAcc e ad.toNat 0 1).wDrain e ad.toNat 0 1 else s

/-- The accumulator that a multiply starts from: zero with ZA, else what it reads of the elements that it writes; the others stay
(R274, R280). -/
def State.accStart (s : State) (e : Nat) (ad : BitVec 2) (za : Bool) (units L : Nat) : State :=
  if za then (s.wAcc e ad.toNat 0 L).wDrain e ad.toNat 0 L else s.wAccIn e ad.toNat (s.rAcc e ad.toNat) units L

/-- Start a multiply in engine e: its base, its groups from this cycle on, the array occupied for so many cycles (R443). -/
def State.startTask (s : State) (e : Nat) (ad : BitVec 2) (za : Bool) (t : MulTask) : State :=
  let s2 := s.accStart e ad za (if t.groups = 0 then 0 else shapeMask t.rows t.cols) 72
  (s2.onEng e (fun x => { x with tasks := x.tasks ++ [t], busy := s.cycle + max 1 t.groups })).count (some s.me.place.die) 1 t.groups

/-- MMA (R281, R282). -/
def execMma (g : Gate) (ad : BitVec 2) (oa ob : BitVec 5) (zs : BitVec 4) (za : Bool) (s : State) : Answer :=
  runUnit (.mma g ad oa ob zs za) 4 g (fun _ => [])
    (fun t => t.multiplyHolds g (fun e => (t.accBusy e ad.toNat).or ((t.slotReadHold e oa.toNat).or (t.slotReadHold e ob.toNat))))
    (tRecs g (fun t e =>
      let a := t.rO e oa.toNat
      let b := t.rO e ob.toNat
      t.engState e 4 (t.mine a && t.mine b && (tagPair a.fmt.toNat b.fmt.toNat).isSome)))
    (fun t => t.each (t.acting g) (fun u e =>
      let a := u.rO e oa.toNat
      let b := u.rO e ob.toNat
      let grp := ((tagPair a.fmt.toNat b.fmt.toNat).map Prod.fst).getD 1
      let sh := u.shape e zs ((slotCap a.fmt.toNat).getD 64)
      u.startTask e ad za ⟨u.me.place.engCtx, false, ad.toNat, [oa.toNat, ob.toNat], a, b, {}, {}, sh.rows, sh.cols, sh.klen, grp,
        ceilDiv sh.klen grp, 0, u.cycle, none⟩)) s

/-- Logical groups of a K group of MMSP (R283). -/
def sparseGroup (fmt : Nat) : Nat := if slotCap fmt = some 64 then 1 else 2

/-- MMSP (R283). -/
def execMmsp (g : Gate) (ad : BitVec 2) (oa ob : BitVec 5) (zs : BitVec 4) (za : Bool) (om : BitVec 5) (s : State) : Answer :=
  runUnit (.mmsp g ad oa ob zs za om) 4 g (fun _ => [])
    (fun t => t.multiplyHolds g (fun e =>
      [oa.toNat, ob.toNat, ob.toNat + 1, om.toNat].foldl (fun x k => x.or (t.slotReadHold e k)) (t.accBusy e ad.toNat)))
    (tRecs g (fun t e =>
      let a := t.rO e oa.toNat
      let b := t.rO e ob.toNat
      let b1 := t.rO e (ob.toNat + 1)
      t.engState e 4 (t.mine a && t.mine b && t.mine b1 && t.mine (t.rO e om.toNat) && b.fmt == b1.fmt &&
        (match tagPair a.fmt.toNat b.fmt.toNat with | some (n, _) => n ≠ 4 | none => false))))
    (fun t => t.each (t.acting g) (fun u e =>
      let a := u.rO e oa.toNat
      let lgs := sparseGroup a.fmt.toNat
      let sh := u.shape e zs (2 * (slotCap a.fmt.toNat).getD 64)
      u.startTask e ad za ⟨u.me.place.engCtx, true, ad.toNat, [oa.toNat, ob.toNat, ob.toNat + 1, om.toNat], a, u.rO e ob.toNat,
        u.rO e (ob.toNat + 1), u.rO e om.toNat, sh.rows, sh.cols, sh.klen, lgs, ceilDiv (ceilDiv sh.klen 4) lgs, 0, u.cycle, none⟩)) s

/-! ## Accumulators (R293) -/

/-- AZRO (R144, R293). -/
def execAzro (g : Gate) (a : BitVec 2) (s : State) : Answer :=
  runUnit (.azro g a) 4 g (fun _ => []) (tHolds (fun t e => t.accBusy e a.toNat)) free
    (fun t => t.each (t.acting g) (fun u e => (u.wAcc e a.toNat 0 2).wDrain e a.toNat 0 2)) s

/-- AADD (R293). -/
def execAadd (g : Gate) (int : Bool) (zs : BitVec 4) (as_ ad : BitVec 2) (s : State) : Answer :=
  runUnit (.aadd g int zs as_ ad) 4 g (fun _ => []) (tHolds (fun t e => (t.accBusy e ad.toNat).or (t.accBusy e as_.toNat))) free
    (fun t => t.each (t.acting g) (fun u e =>
      let sh := u.shape e zs 64
      let src := u.rAcc e as_.toNat
      let (out, fl) := accMap sh.rows sh.cols (fun i j old =>
        let b := (accElem src i j).toNat
        if int then ((old + b) % 2 ^ 32, 0) else fadd32 old b) (u.rAcc e ad.toNat)
      (u.wAccIn e ad.toNat out (shapeMask sh.rows sh.cols) 68).raise e fl)) s

/-! ## Drains (R294 to R297) -/

/-- Bytes of one element or block of a drain row in the scratchpad, and columns it covers. -/
def drainUnit (fmt : Nat) : Nat × Nat := if blockBytes fmt = 0 then (fmtBits fmt / 8, 1) else (blockBytes fmt, 16)

/-- The scratchpad ranges that a drain writes, row by row. -/
def drainRanges (f : DrainFields) (base : Nat) (sh : Shape) : List (Nat × Nat) :=
  let (b, n) := drainUnit f.fmt.toNat
  if sh.cols = 0 then [] else (List.range sh.rows).map (fun i => (base + i * f.pitch.toNat, ceilDiv sh.cols n * b))

/-- One drained element: its pattern, its status bits, the stream after it (R144, R296). -/
def drainElem (f : DrainFields) (x : Num) (t : RStream) : Nat × Nat × RStream :=
  match floatFmt f.fmt.toNat with
  | some m =>
    let (y, u) := RStream.roundF ⟨t.gen, 0⟩ m f.rm.toNat x
    let sub := f.ftz && bits y m.mb m.eb == 0 && bits y 0 m.mb ≠ 0
    let st := (if u.flags &&& flOF ≠ 0 then 4 else 0) + (if sub then 8 else 0)
    (if sub then y / 2 ^ m.width * 2 ^ m.width else y, st, ⟨u.gen, t.flags ||| u.flags ||| (if sub then flUF ||| flNX else 0)⟩)
  | none =>
    let (w, sg) := (intFmt f.fmt.toNat).getD (32, true)
    let (y, u) := RStream.roundI ⟨t.gen, 0⟩ w sg f.rm.toNat x
    (y, if u.flags &&& flNV ≠ 0 ∧ !x.isNan then 4 else 0, ⟨u.gen, if f.int then t.flags else t.flags ||| u.flags⟩)

/-- The elements of one drained row, in column order. -/
def drainRow (f : DrainFields) : List Num → RStream → List Nat × Nat × RStream
  | [], t => ([], 0, t)
  | x :: xs, t =>
    let (y, st, t1) := drainElem f x t
    let (ys, st1, t2) := drainRow f xs t1
    (y :: ys, st ||| st1, t2)

/-- The blocks of one drained row, n blocks left. -/
def drainBlocks (f : DrainFields) : Nat → List Num → RStream → List Nat × Nat × RStream
  | 0, _, t => ([], 0, t)
  | n + 1, xs, t =>
    let pad := (xs.take 16) ++ List.replicate (16 - min 16 xs.length) (.fin false 0 0 false)
    let (blk, u) := encodeKb ((kbM f.fmt.toNat).getD 2) f.rm.toNat pad ⟨t.gen, 0⟩
    let (ys, st, t2) := drainBlocks f n (xs.drop 16) ⟨u.gen, t.flags ||| u.flags⟩
    (blk :: ys, (if u.flags &&& flOF ≠ 0 then 4 else 0) ||| st, t2)

/-- One drained row: its units, its status, the stream after it. -/
def drainOne (f : DrainFields) (a : Acc) (cols i : Nat) (t : RStream) : List Nat × Nat × RStream :=
  let xs := (List.range cols).map (fun j =>
    let b := (accElem a i j).toNat
    if f.int then numOfInt (toSigned 32 b) else decodeF fFP32 b)
  let special := xs.foldl (fun st x => st ||| (match x with | .nan _ => if f.int then 0 else 1 | .inf _ => 2 | _ => 0)) 0
  let (ys, st, t1) := if blockBytes f.fmt.toNat = 0 then drainRow f xs t else drainBlocks f (ceilDiv cols 16) xs t
  (ys, special ||| st, t1)

/-- All drained rows, rows i to i + n − 1. -/
def drainRows (f : DrainFields) (a : Acc) (cols : Nat) : Nat → Nat → RStream → List (List Nat) × Nat × RStream
  | 0, _, t => ([], 0, t)
  | n + 1, i, t =>
    let (ys, st, t1) := drainOne f a cols i t
    let (rest, st1, t2) := drainRows f a cols n (i + 1) t1
    (ys :: rest, st ||| st1, t2)

/-- Where the units of drained rows stand in a slot: bit position, width and value of each (R295). -/
def drainPlaces (f : DrainFields) (rows : List (List Nat)) : List (Nat × Nat × Nat) :=
  let w := if blockBytes f.fmt.toNat = 0 then fmtBits f.fmt.toNat else 8 * blockBytes f.fmt.toNat
  let per := 64 * w / (drainUnit f.fmt.toNat).2
  rows.zipIdx.flatMap (fun r => r.1.zipIdx.map (fun u => (1024 * r.2 + f.part.toNat * per + w * u.2, w, u.1)))

/-- Put the units of drained rows into a slot, unit by unit (R295). -/
def OSlot.fill (o : OSlot) (f : DrainFields) (rows : List (List Nat)) : OSlot :=
  { o with data := BitVec.ofNat 65536 ((drainPlaces f rows).foldl (fun d p => putBits d p.1 p.2.1 p.2.2) o.data.toNat)
           fmt := if f.part = 0 then f.fmt else o.fmt }

/-- The 4-bit units of a slot that drained rows write, and the format tag with them where PART is 0. -/
def drainSlotUnits (f : DrainFields) (rows : List (List Nat)) : Nat :=
  (drainPlaces f rows).foldl (fun d p => d ||| (2 ^ (p.2.1 / 4) - 1) * 2 ^ (p.1 / 4)) (if f.part = 0 then tagUnit else 0)

/-- The scalar that addresses a scratchpad destination. -/
def drainUses (f : DrainFields) : List Dest := if f.dst then [] else useS [f.addr]

/-- The effect of ADRN in engine e (R296). -/
def State.drain (s : State) (e : Nat) (f : DrainFields) : State :=
  let sh := s.shape e f.zs 64
  let (rows, st, t) := drainRows f (s.rAcc e f.acc.toNat) sh.cols sh.rows 0 ⟨(s.drawing e).gen.toNat, 0⟩
  let base := bits (s.rS f.addr).toNat 0 32
  let (b, _) := drainUnit f.fmt.toNat
  let s1 := s.drawn e t.gen
  let s2 := if f.dst then s1.wOpart e f.addr.toNat (((s1.myEng e).slot f.addr.toNat).fill f rows) 72 (drainSlotUnits f rows)
    else (rows.zipIdx).foldl (fun u r => u.localWrite e (base + r.2 * f.pitch.toNat) (r.1.flatMap (fun y => leBytes b y))) s1
  let s3 := ((s2.raise e t.flags).wDrain e f.acc.toNat st 4).onPart e (fun y =>
    { y with drainT := tableSet y.drainT f.acc.toNat (s.cycle + 4) 0 })
  if f.clr then s3.wAcc e f.acc.toNat 0 72 else s3

/-- ADRN (R294 to R296). -/
def execAdrn (g : Gate) (f : DrainFields) (s : State) : Answer :=
  runUnit (.adrn g f) 4 g (fun _ => drainUses f)
    (tHolds (fun t e => (t.accBusy e f.acc.toNat).or (if f.dst then t.slotHold e f.addr.toNat else .no)))
    (tRecs g (fun t e =>
      let base := bits (t.rS f.addr).toNat 0 32
      if f.dst then t.engState e 4 (t.mine (t.rO e f.addr.toNat) && (f.part == 0 || (t.rO e f.addr.toNat).fmt == f.fmt))
      else if base % 4 ≠ 0 then some (t.engRec e rALIGN 0 4 true (BitVec.ofNat 64 base))
      else t.localRec e true (drainRanges f base (t.shape e f.zs 64))))
    (fun t => t.each (t.acting g) (fun u e => u.drain e f)) s

/-- An ADRN of accumulator `an` has issued less than 4 cycles ago in some engine of the context (R145). -/
def State.drainRecent (s : State) (an : BitVec 2) : Bool :=
  (List.range 16).any (fun e => decide (s.cycle < tableGet (s.wasPart e).drainT an.toNat 0))

/-- DSTQ (R145, R297). -/
def execDstq (g : Gate) (ok : Bool) (sel : BitVec 4) (an : BitVec 2) (pd : BitVec 3) (s : State) : Answer :=
  runUnit (.dstq g ok sel an pd) 4 g (fun _ => []) (fun t => if t.drainRecent an then .hold else .ok) free
    (fun t => t.each (t.acting g) (fun u e =>
      u.wP e pd (decide (t.rDrain e an.toNat &&& BitVec.ofNat 8 sel.toNat ≠ 0) != ok) 2)) s

/-! ## Shapes (R274, R275) -/

/-- A shape register after SHP (R275). -/
def shapePut (old : Nat) (v : Nat) (wm : BitVec 3) : Dword :=
  let f (k : Nat) (lo w top : Nat) : Nat := if wm.getLsbD k then min top (bits v lo w) else bits old lo w
  BitVec.ofNat 64 (f 0 0 7 64 + f 1 8 7 64 * 2 ^ 8 + f 2 16 9 256 * 2 ^ 16)

/-- SHP (R275). -/
def execShp (g : Gate) (zd : BitVec 3) (vsrc : Bool) (va : BitVec 6) (sS : BitVec 5) (wm : BitVec 3) (lit : Option Dword) (s : State) : Answer :=
  let codes := if vsrc then [va.toNat] else []
  runPop (.shp g zd vsrc va sS wm lit) 4 (fun t => useS [sS] ++ t.useV codes) (fun t => t.portCheck 4 codes [])
    (fun t => (t.each (t.acting g) (fun u e =>
      let v := if vsrc then bits (t.rVec e va.toNat).toNat 0 64 else (u.rSLit sS lit).toNat
      u.wZ e zd (shapePut (((u.myEng e).part u.me.place.engCtx).zreg zd.toNat).toNat v wm) 2)).popAll codes) s

/-! ## Latches (R138, R298) -/

/-- Write the latches of engine e in this cycle; sides not given keep theirs. What groups of tasks and of operations under way may
still use is kept (R138). -/
def State.putLatch (s : State) (e : Nat) (row col : Option (BitVec 512)) : State :=
  s.onEng e (fun x =>
    let l := x.latch.headD (latchAt [] 0)
    let n : Latches := ⟨s.cycle, row.getD l.row, col.getD l.col⟩
    let l := n :: x.latch.filter (fun y => y.cycle ≠ s.cycle)
    { x with latch := if (s.arrayOps s.me.place.gangNo e).isEmpty then l.take 9 else l })

/-- Both sides or one, by SIDE. -/
def State.putSides (s : State) (e : Nat) (side : BitVec 2) (row col : BitVec 512) : State :=
  s.putLatch e (if side.getLsbD 0 then some row else none) (if side.getLsbD 1 then some col else none)

/-- SCL (R298). -/
def execScl (g : Gate) (va : BitVec 6) (side : BitVec 2) (s : State) : Answer :=
  runPop (.scl g va side) 5 (fun t => t.useV [va.toNat]) (fun t => t.portCheck 5 [va.toNat] [])
    (fun t => (t.each (t.acting g) (fun u e =>
      let v := (t.rVec e va.toNat).toNat
      u.putSides e side (BitVec.ofNat 512 v) (BitVec.ofNat 512 (bits v 512 512)))).popAll [va.toNat]) s

/-- Sixty-four equal bytes. -/
def sameBytes (b : Nat) : BitVec 512 := BitVec.ofNat 512 (packBits 8 64 (fun _ => b))

/-- SCLI (R298). -/
def execScli (g : Gate) (rx cx : BitVec 8) (side : BitVec 2) (lit : Option Dword) (s : State) : Answer :=
  let r := match lit with | some l => bits l.toNat 0 8 | none => rx.toNat
  let c := match lit with | some l => bits l.toNat 8 8 | none => cx.toNat
  runEng (.scli g rx cx side lit) 5 g (fun _ => []) free
    (fun t => t.each (t.acting g) (fun u e => u.putSides e side (sameBytes r) (sameBytes c))) s

/-- SCLZ (R298). -/
def execSclz (g : Gate) (s : State) : Answer :=
  runEng (.sclz g) 5 g (fun _ => []) free
    (fun t => t.each (t.acting g) (fun u e => u.putSides e 3 (sameBytes 127) (sameBytes 127))) s

end Sys2Proof.Machine
end

