-- ==== Sys2Proof/Machine/Gather.lean ====
section
/-!
DEFINITION. KVMM, KVMV and GMMA: their checks at issue, and the arithmetic of their parts (R137, R139, R285 to R292).
-/
namespace Sys2Proof.Machine

/-! ## Checks (R286 to R289) -/

/-- K group of a slot tag with a card's format (R286). -/
def kvGroup (fmt kvf : Nat) : Option Nat :=
  if fmt = 1 ∨ fmt = 2 then some 1
  else if (fmt = 3 ∨ fmt = 4) ∧ (kvf = 3 ∨ kvf = 4 ∨ kvf = 0xC ∨ kvf = 0xD) then some 2
  else none

/-- The descriptor of a KV multiply in engine e, in its plane (R285). -/
def State.kvWordAt (s : State) (e : Nat) (vk : BitVec 6) (plane : Nat) : Dword := kvIn (kvDesc (s.rV e vk.toNat)) plane

/-- The head of a descriptor. -/
def State.kvHead (s : State) (e : Nat) (vk : BitVec 6) : Nat := bits (s.rV e vk.toNat).toNat 64 8

/-- The card a descriptor names. -/
def State.kvCard (s : State) (p : Party) (k : Dword) : Option Card := s.cardFor p (kvSeq k) (kvLayer k)

/-- The slots of the query tile of KVMM in engine e (R287). -/
def State.queryRun (s : State) (e oq : Nat) (k : Dword) : List Nat :=
  let cap := (slotCap (s.rO e oq).fmt.toNat).getD 64
  (List.range (match s.kvCard s.party k with | some c => ceilDiv c.d cap | none => 1)).map (fun i => oq + i)

/-- The slot conditions of a KV multiply in engine e. -/
def State.kvSlotsRec (s : State) (e : Nat) (l : List Nat) (k : Dword) : Option FaultRec :=
  let o := s.rO e (l.headD 0)
  s.engState e 4 (l.all (fun n => n < 32 && s.mine (s.rO e n) && (s.rO e n).fmt == o.fmt) &&
    (match s.kvCard s.party k with | some c => (kvGroup o.fmt.toNat c.kvf).isSome | none => true))

/-- Why a multiply of the background holds in engine e, its array apart (R113, R177, R279). -/
def State.gatherBusy (s : State) (e : Nat) (ad : BitVec 2) (l : List Nat) : Busy :=
  (l.filter (fun n => n < 32)).foldl (fun b n => b.or (s.slotReadHold e n)) (s.accBusy e ad.toNat)

/-- KVMM (R285 to R287). -/
def execKvmm (g : Gate) (ad : BitVec 2) (oq : BitVec 5) (vk : BitVec 6) (zs : BitVec 4) (za : Bool) (s : State) : Answer :=
  runUnit (.kvmm g ad oq vk zs za) 4 g (fun t => t.useV [vk.toNat])
    (fun t => t.multiplyHolds g (fun e => t.gatherBusy e ad (t.queryRun e oq.toNat (t.kvWordAt e vk 0))))
    (tRecs g (fun t e =>
        let k := t.kvWordAt e vk 0
        match t.kvDescRec e 4 (t.rV e vk.toNat) k true with
        | some r => some r
        | none => t.kvSlotsRec e (t.queryRun e oq.toNat k) k))
    (fun t =>
      let l := t.acting g
      let shp (e : Nat) : Shape := t.shape e zs 64
      (t.each l (fun u e => u.opStart e ad za)).startOp 0 false
        (.kvmm ad.toNat oq.toNat (l.map (fun e => (e, (t.queryRun e oq.toNat (t.kvWordAt e vk 0)).map (t.rO e))))
          (l.map (fun e => (e, t.kvWordAt e vk 0))) (l.map (fun e => (e, t.kvHead e vk)))
          (l.map (fun e => (e, (shp e).rows))) (l.map (fun e => (e, (shp e).cols))))
        (l.map (fun e => (e, kvPos (t.kvWordAt e vk 0)))) (t.opBase ad za)) s

/-- KVMV (R285, R286, R288). -/
def execKvmv (g : Gate) (ad : BitVec 2) (oq : BitVec 5) (vk : BitVec 6) (zs : BitVec 4) (za : Bool) (dsel : BitVec 2) (s : State) : Answer :=
  runUnit (.kvmv g ad oq vk zs za dsel) 4 g (fun t => t.useV [vk.toNat])
    (fun t => t.multiplyHolds g (fun e => t.gatherBusy e ad [oq.toNat]))
    (tRecs g (fun t e =>
        let k := t.kvWordAt e vk 1
        match t.kvDescRec e 4 (t.rV e vk.toNat) k true with
        | some r => some r
        | none =>
          if (match t.kvCard t.party k with | some c => decide (c.d ≤ dsel.toNat * 64) | none => false) then t.engState e 4 false
          else t.kvSlotsRec e [oq.toNat] k))
    (fun t =>
      let l := t.acting g
      let shp (e : Nat) : Shape := t.shape e zs ((slotCap (t.rO e oq.toNat).fmt.toNat).getD 64)
      (t.each l (fun u e => u.opStart e ad za)).startOp 0 false
        (.kvmv ad.toNat oq.toNat (l.map (fun e => (e, [t.rO e oq.toNat]))) (l.map (fun e => (e, t.kvWordAt e vk 1)))
          (l.map (fun e => (e, t.kvHead e vk))) (l.map (fun e => (e, (shp e).rows))) (l.map (fun e => (e, (shp e).cols)))
          (l.map (fun e => (e, (shp e).klen))) (dsel.toNat * 64))
        (l.map (fun e => (e, kvPos (t.kvWordAt e vk 1)))) (t.opBase ad za)) s

/-- K length of a GMMA in engine e. -/
def State.gmmaShape (s : State) (e : Nat) (oa : BitVec 5) (zs : BitVec 4) : Shape :=
  s.shape e zs ((slotCap (s.rO e oa.toNat).fmt.toNat).getD 64)

/-- The synchronous faults of GMMA in engine e (R289). -/
def State.gmmaRec (s : State) (e : Nat) (oa : BitVec 5) (vi : BitVec 6) (zs : BitVec 4) (sT : Dword) : Option FaultRec :=
  let bad : Option FaultRec := some (s.tensorRec e 4 (bits sT.toNat 0 16))
  if 65536 ≤ sT.toNat then bad
  else match s.tensor s.party sT.toNat with
    | none => bad
    | some t =>
      let o := s.rO e oa.toNat
      let sh := s.gmmaShape e oa zs
      if t.mode = 2 then bad
      else s.engState e 4 (s.mine o && (tagPair o.fmt.toNat t.fmt).isSome && decide (vi.toNat + ceilDiv sh.klen 64 ≤ 32))

/-- GMMA (R289). -/
def execGmma (g : Gate) (ad : BitVec 2) (oa : BitVec 5) (vi : BitVec 6) (zs : BitVec 4) (za : Bool) (sT sC : BitVec 5) (s : State) : Answer :=
  let regs (t : State) (e : Nat) : List Nat := (List.range (ceilDiv (t.gmmaShape e oa zs).klen 64)).map (fun i => vi.toNat + i)
  runUnit (.gmma g ad oa vi zs za sT sC) 4 g (fun t => useS [sT, sC] ++ t.useE (fun e => (regs t e).map (fun n => .v e n)))
    (fun t => t.multiplyHolds g (fun e => t.gatherBusy e ad [oa.toNat]))
    (tRecs g (fun t e => t.gmmaRec e oa vi zs (t.rS sT)))
    (fun t =>
      let l := t.acting g
      let c := (t.rS sC).toNat
      (t.each l (fun u e => u.opStart e ad za)).startOp 0 false
        (.gmma ad.toNat oa.toNat (l.map (fun e => (e, [t.rO e oa.toNat]))) (bits (t.rS sT).toNat 0 16)
          (toSigned 32 (bits c 0 32)) (toSigned 32 (bits c 32 32)) (l.map (fun e => (e, (regs t e).map (t.rV e))))
          (l.map (fun e => (e, (t.gmmaShape e oa zs).rows))) (l.map (fun e => (e, (t.gmmaShape e oa zs).cols)))
          (l.map (fun e => (e, (t.gmmaShape e oa zs).klen))))
        (l.map (fun e => (e, 0))) (t.opBase ad za)) s

/-! ## Parts in the background -/

/-- Latches that scale by 2^0 (R286). -/
def unitLatch : Latches := ⟨0, BitVec.ofNat 512 (packBits 8 64 (fun _ => 127)), BitVec.ofNat 512 (packBits 8 64 (fun _ => 127))⟩

/-- Add to some units of a part's accumulator and raise flags: what the word has read of those to which it adds for the first time is their base,
and the results override every earlier write of them (R175, R176). -/
def State.addTo (s : State) (o : Op) (q : Part) (ad units : Nat) (f : Acc → Acc × Flags) : State :=
  let t := s.modEng o.gang q.eid (fun x =>
    let a0 := (x.part o.ctxNo).accum ad
    let (a, fl) := f (match q.base with
      | some (left, b) => BitVec.ofNat 131072 (mergeTaken (left &&& units) 32 4096 a0.toNat b.toNat)
      | none => a0)
    x.setPart o.ctxNo (((x.part o.ctxNo).putA ad a).raise fl))
  (s.sidesOf o.cid).foldl (fun u k => u.modCtx k (fun c => c.supersede (.acc q.eid ad) units)) t

/-- A part that has added to some units. -/
def Part.added (q : Part) (units : Nat) : Part := { q with base := q.base.map (fun b => (lessBits b.1 units, b.2)) }

/-- The units of an accumulator in some rows and in columns from a up to b. -/
def colMask (rows a b : Nat) : Nat := packBits 64 rows (fun _ => 2 ^ b - 2 ^ a)

/-- Add the groups of a list of products, G at a time, to one element (R137). -/
def addGroups (grp : Nat) : Nat → List (Num × Num) → Nat → Nat × Flags
  | 0, _, old => (old, 0)
  | n + 1, ps, old =>
    let r := accGroup false unitLatch 0 0 old (ps.take grp)
    let t := addGroups grp n (ps.drop grp) r.1
    (t.1, r.2 ||| t.2)

/-- Column j of a score tile: the key's products with every row of the query tile (R287). -/
def kvmmColumn (q : List OSlot) (grp d rows j : Nat) (key : Nat → Num) (a : Acc) : Acc × Flags :=
  let cap := (slotCap ((q.headD {}).fmt.toNat)).getD 64
  (List.range rows).foldl (fun (x : Acc × Flags) i =>
    let ps := (List.range d).map (fun n => ((q.getD (n / cap) {}).elem i (n % cap), key n))
    let r := addGroups grp (ceilDiv d grp) ps (accElem x.1 i j).toNat
    (Acc.put x.1 i j r.1, x.2 ||| r.2)) (a, 0)

/-- Score columns of one block: positions from `lo` up to `hi` below LEN (R287). -/
def State.kvmmBlock (s : State) (p : Party) (c : Card) (frame : Nat) (q : List OSlot) (grp h rows p0 lo hi : Nat) (a : Acc) : Acc × Flags :=
  (List.range (min hi c.len - lo)).foldl (fun (x : Acc × Flags) i =>
    let pos := lo + i
    let r := kvmmColumn q grp c.d rows (pos - p0) (fun n => s.kvElem (s.regionKey p.region) c frame (pos % 16) h n) x.1
    (r.1, x.2 ||| r.2)) (a, 0)

/-- Value groups of one block: positions from `lo` up to `hi` (R288). -/
def State.kvmvBlock (s : State) (p : Party) (c : Card) (frame : Nat) (q : OSlot) (grp h rows cols p0 d0 lo hi : Nat) (a : Acc) : Acc × Flags :=
  (List.range (ceilDiv (hi - lo) grp)).foldl (fun (x : Acc × Flags) n =>
    let ks := (List.range grp).map (fun i => lo + n * grp + i) |>.filter (fun pos => decide (pos < hi) && decide (pos < c.len))
    let r := accMap rows (min cols (c.d - d0)) (fun i j old => accGroup false unitLatch i j old
      (ks.map (fun pos => (q.elem i (pos - p0), s.kvElem (s.regionKey p.region) c frame (pos % 16) h (d0 + j))))) x.1
    (r.1, x.2 ||| r.2)) (a, 0)

/-- Run a KV multiply's part block by block (R287, R288, R290); `last` is the position after its last one, n bounds the
blocks left, `f` does one block, which adds to the units that `units` gives. -/
def State.kvRun (s : State) (p : Party) (o : Op) (ad : Nat) (k : Dword) (last : Nat) (extra : Dword) (units : Card → Nat → Nat → Nat)
    (f : State → Card → Nat → Nat → Nat → Acc → Acc × Flags) : Nat → Part → State × Part × Reach
  | 0, q => (s, q, .ok)
  | n + 1, q =>
    if last ≤ q.start then (s, q, .ok)
    else match s.cardFor p (kvSeq k) (kvLayer k) with
      | none => (s, q, .fail ⟨rPROT, 3, false, kvAt k q.start, extra⟩)
      | some c =>
        let hi := min last (q.start / 16 * 16 + 16)
        let q1 : Part := { q with pos := q.pos + (hi - q.start), start := hi }
        if c.len ≤ q.start then State.kvRun s p o ad k last extra units f n q1
        else match s.kvPinned p k c q.start with
          | .frame fr =>
            let t := s.touchKv (.context o.cid) p (kvSeq k) c (kvLayer k) (kvPlane k) (q.start / 16) fr c.blockSize false
            let m := units c q.start hi
            State.kvRun (t.addTo o q ad m (f s c fr q.start hi)) p o ad k last extra units f n (q1.added m)
          | .hold => (s, q, .hold)
          | .fail r => (s, q, .fail ⟨r, 3, false, kvAt k q.start, extra⟩)

/-- Element (j, k) of the gathered operand (R289). -/
def gmmaCoord (c0b c2 : Int) (idx : List Vec) (j k : Nat) : List Int :=
  [c0b + j, toSigned 32 (bits (idx.getD (k / 64) 0).toNat (32 * (k % 64)) 32), c2, 0]

/-- The value of a gathered element that can be reached. -/
def State.gmmaElem (s : State) (p : Party) (tid : Nat) (t : Tensor) (c : List Int) : Num :=
  match s.tensorElem p tid t c with
  | .ok v => decodeElem t.fmt v
  | .error _ => .fin false 0 0 false

/-- Add one K group of gathered products; those of positions that read PAD raise no flag (R79, R143). The flags of
the addition to the accumulator are raised all the same: DESIGN CHOICE, log 46. -/
def gmmaGroup (int : Bool) (l : Latches) (i j old : Nat) (ps : List (Bool × Num × Num)) : Nat × Flags :=
  if int then accGroup true l i j old (ps.map Prod.snd)
  else accSum l i j old (ps.map (fun x => mulN x.2.1 x.2.2)) (sumFlags ((ps.filter Prod.fst).map (fun x => mulN x.2.1 x.2.2)))

/-- The cycle in which the groups of a part can begin to enter the array: its own turn, after every multiply before it (R292). -/
def State.entryCycle (s : State) (o : Op) (q : Part) : Nat := max q.at_ (s.eng o.seat q.eid).busy

/-- What the K groups of one tile of 8 indices add to an accumulator; `at_` is the cycle in which the first of them enters. -/
def State.gmmaTile (s : State) (p : Party) (a : OSlot) (tid : Nat) (t : Tensor) (c0b c2 : Int) (idx : List Vec) (rows cols : Nat)
    (ks : List Nat) (tile at_ : Nat) (l : List Latches) (x : Acc) : Acc × Flags :=
  let (grp, int) := (tagPair a.fmt.toNat t.fmt).getD (1, false)
  (List.range (8 / grp)).foldl (fun (y : Acc × Flags) i =>
    let r := accMap rows cols (fun ri j old => gmmaGroup int (latchAt l (at_ + i)) ri j old
      ((ks.filter (fun k => k / grp == 8 * tile / grp + i)).map (fun k =>
        let c := gmmaCoord c0b c2 idx j k
        (t.inside c, a.elem ri k, s.gmmaElem p tid t c)))) y.1
    (r.1, y.2 ||| r.2)) (x, 0)

/-- Run a GMMA's part, one K tile of 8 indices after the other (R139, R289, R290). Its groups enter one per cycle from `at_` on, as
early as they can, and each uses the latches of its own cycle (R138): DESIGN CHOICE, log 14. -/
def State.gmmaRun (s : State) (p : Party) (o : Op) (ad : Nat) (a : OSlot) (tid : Nat) (c0b c2 : Int) (idx : List Vec) (rows cols klen : Nat) :
    Nat → Nat → Part → State × Part × Reach
  | 0, _, q => (s, q, .ok)
  | n + 1, at_, q =>
    if klen ≤ 8 * q.pos then (s, q, .ok)
    else match s.tensor p tid with
      | none => (s, q, .fail ⟨rPROT, 2, false, tensorAddr tid 0, s.coordWord 0⟩)
      | some t =>
        let ks := (List.range 8).map (fun i => 8 * q.pos + i) |>.filter (fun k => decide (k < klen))
        let met : Reach := ks.foldl (fun (r : Reach) k => r.and ((List.range cols).foldl (fun (v : Reach) j => v.and (s.tensorReach p tid (gmmaCoord c0b c2 idx j k) 1 false)) .ok)) .ok
        match met with
        | .ok =>
          let grp := ((tagPair a.fmt.toNat t.fmt).map Prod.fst).getD 1
          let s1 := ks.foldl (fun u k => u.cellTouch (.context o.cid) p 0 false (.elems tid (gmmaCoord c0b c2 idx 0 k) cols)) s
          let m := shapeMask rows cols
          State.gmmaRun (s1.addTo o q ad m (s.gmmaTile p a tid t c0b c2 idx rows cols ks q.pos at_ (s.eng o.seat q.eid).latch))
            p o ad a tid c0b c2 idx rows cols klen n (at_ + 8 / grp) (({ q with pos := q.pos + 1 } : Part).added m)
        | r => (s, q, r)

/-! ## Running a part -/

/-- OP of KCUR (R290). -/
def OpKind.kcurOp : OpKind → Nat
  | .kvmm _ _ _ _ _ _ _ => 1
  | .kvmv _ _ _ _ _ _ _ _ _ => 2
  | .gmma _ _ _ _ _ _ _ _ _ _ => 3
  | _ => 4

/-- Class of the issuing word. -/
def OpKind.cls (k : OpKind) : Nat := if k.accOf.isSome then 4 else 6

/-- KCUR of a part that stops (R290). -/
def kcurOf (o : Op) (q : Part) : Dword :=
  BitVec.ofNat 64 (2 ^ 63 + o.kind.kcurOp * 2 ^ 60 + (if o.kind.inKv then q.start % 2 ^ 24 else 0) * 2 ^ 32 + q.pos % 2 ^ 32)

/-- Blocks or tiles that a part can have left: a bound for its run. -/
def partFuel : Nat := 4096

/-- A KV part that continues below its first position starts there. -/
def Part.from (q : Part) (p0 : Nat) : Part := { q with start := max q.start p0 }

/-- The plan of a copy's part. -/
def State.partPlan (s : State) (p : Party) (o : Op) (e : Nat) : Option Plan :=
  match o.kind with
  | .cpy blk => some (s.cpyPlan p (cpyBlock blk) e)
  | .cpyl base lbase size toFlat offs ls => some (cpylPlan base lbase size toFlat (tableGet offs e 0) (tableGet ls e 0) e)
  | .cpyw a b f => (s.tensor p (bits a.toNat 0 16)).map (fun t => cpywPlan t a b f e)
  | _ => none

/-- Run one part as far as it goes: the state, the part, and what stopped it. `p` is the operation's party. -/
def State.runPart (s : State) (p : Party) (o : Op) (q : Part) : State × Part × Reach :=
  let e := q.eid
  let kcur := if e < 16 then ((s.eng o.gang e).part o.ctxNo).kcur else 0
  if q.bad then (s, { q with bad := false }, .fail ⟨rPROT, 3, false, kvAt (match o.kind with
    | .cpyk kv _ _ => tableGet kv e 0
    | .kvmm _ _ _ kv _ _ _ => tableGet kv e 0
    | .kvmv _ _ _ kv _ _ _ _ _ => tableGet kv e 0
    | _ => 0) q.start, kcur⟩)
  else match o.kind with
    | .cpy _ | .cpyl _ _ _ _ _ _ | .cpyw _ _ _ => match s.partPlan p o e with
      | some pl => s.planRun (.context o.cid) p kcur pl q
      | none => (s, q, .fail ⟨rPROT, 2, false, tensorAddr (match o.kind with | .cpyw a _ _ => bits a.toNat 0 16 | _ => 0) 0, s.coordWord 0⟩)
    | .cpyk kv dst nblk =>
      let k := tableGet kv e 0
      s.cpykRun (.context o.cid) p e k dst nblk kcur partFuel (q.from (kvPos k))
    | .kvmm ad _ sl kv head rows cols =>
      let k := tableGet kv e 0
      let qs := tableGet sl e []
      s.kvRun p o ad k (kvPos k + tableGet cols e 0) kcur
        (fun c lo hi => colMask (tableGet rows e 0) (lo - kvPos k) (min hi c.len - kvPos k))
        (fun t c fr lo hi => t.kvmmBlock p c fr qs ((kvGroup (qs.headD {}).fmt.toNat c.kvf).getD 1) (tableGet head e 0) (tableGet rows e 0) (kvPos k) lo hi)
        partFuel (q.from (kvPos k))
    | .kvmv ad _ sl kv head rows cols klen d0 =>
      let k := tableGet kv e 0
      let qs := tableGet sl e []
      s.kvRun p o ad k (kvPos k + tableGet klen e 0) kcur
        (fun c _ _ => shapeMask (tableGet rows e 0) (min (tableGet cols e 0) (c.d - d0)))
        (fun t c fr lo hi => t.kvmvBlock p c fr (qs.headD {}) ((kvGroup (qs.headD {}).fmt.toNat c.kvf).getD 1) (tableGet head e 0) (tableGet rows e 0)
          (tableGet cols e 0) (kvPos k) d0 lo hi)
        partFuel (q.from (kvPos k))
    | .gmma ad _ sl tid c0b c2 idx rows cols klen =>
      s.gmmaRun p o ad ((tableGet sl e []).headD {}) tid c0b c2 (tableGet idx e []) (tableGet rows e 0) (tableGet cols e 0) (tableGet klen e 0) partFuel (s.entryCycle o q) q
    | .tinv _ _ => (s, q, .ok)
    | .btinv _ _ _ => (s, q, .ok)

/-- The K groups that a part still has to put into the array (R287 to R289). -/
def State.groupsLeft (s : State) (p : Party) (o : Op) (q : Part) : Nat :=
  let e := q.eid
  let kvg (sl : Table (List OSlot)) (k : Dword) : Nat × Nat := match s.kvCard p k with
    | some c => ((kvGroup ((tableGet sl e []).headD {}).fmt.toNat c.kvf).getD 1, c.d)
    | none => (1, 0)
  match o.kind with
  | .kvmm _ _ sl kv _ _ cols =>
    let k := tableGet kv e 0
    if kvPos k + tableGet cols e 0 ≤ q.start then 0 else ceilDiv (kvg sl k).2 (kvg sl k).1
  | .kvmv _ _ sl kv _ _ _ klen _ =>
    let k := tableGet kv e 0
    ceilDiv (kvPos k + tableGet klen e 0 - max q.start (kvPos k)) (kvg sl k).1
  | .gmma _ _ sl tid _ _ _ _ _ klen =>
    let grp := match s.tensor p tid with
      | some t => ((tagPair ((tableGet sl e []).headD {}).fmt.toNat t.fmt).map Prod.fst).getD 1
      | none => 1
    ceilDiv (tableGet klen e 0 - 8 * q.pos) grp
  | _ => 0

/-! ## What an operation has translated and not passed (R84, R319, R410) -/

/-- Add what a list does not hold yet. -/
def addNew (l : List Trans) (x : List Trans) : List Trans := x.foldl (fun a t => if a.contains t then a else a ++ [t]) l

/-- Whether a translation is of a KV block. -/
def Trans.isBlock : Trans → Bool
  | .block _ _ _ _ _ _ => true
  | _ => false

/-- The translations of units a to b − 1 of one side of a copy. -/
def State.sideTrans (s : State) (p : Party) (size : Nat) (write : Bool) (side : Nat → Cell) (a b : Nat) : List Trans :=
  (List.range (b - a)).foldl (fun l i => addNew l (s.cellTrans p size write (side (a + i)))) []

/-- What a copy's part has translated and not passed: its KV blocks until the copy completes, the pages and tiles of which it has
read or written some units and not others, and those it has yet to write. -/
def State.copyTrans (s : State) (p : Party) (pl : Plan) (q : Part) : List Trans :=
  let read := if q.state = .finished then pl.units else q.pos
  let wrote := if q.state = .finished then pl.units else q.start
  let src := s.sideTrans p pl.size false pl.src 0 read
  let dst := s.sideTrans p pl.size true pl.dst 0 read
  let srcLeft := s.sideTrans p pl.size false pl.src read pl.units
  let dstLeft := s.sideTrans p pl.size true pl.dst wrote pl.units
  addNew (src.filter (fun t => t.isBlock || srcLeft.contains t)) (dst.filter (fun t => t.isBlock || dstLeft.contains t))

/-- The tiles of the K indices a to b − 1 of a GMMA's part. -/
def State.gmmaTrans (s : State) (p : Party) (tid : Nat) (c0b c2 : Int) (idx : List Vec) (cols a b : Nat) : List Trans :=
  (List.range (b - a)).foldl (fun l i => addNew l (s.cellTrans p 0 false (.elems tid (gmmaCoord c0b c2 idx 0 (a + i)) cols))) []

/-- What one part has translated and not passed. -/
def State.partTrans (s : State) (p : Party) (o : Op) (q : Part) : List Trans :=
  let e := q.eid
  if q.state = .cancelled then []
  else match o.kind with
    | .gmma _ _ _ tid c0b c2 idx _ cols klen =>
      let tiles (a b : Nat) : List Trans := s.gmmaTrans p tid c0b c2 (tableGet idx e []) (tableGet cols e 0) a b
      if q.state = .finished then [] else (tiles 0 (8 * q.pos)).filter (fun t => (tiles (8 * q.pos) (tableGet klen e 0)).contains t)
    | _ => match s.partPlan p o e with
      | some pl => s.copyTrans p pl q
      | none => []

/-- The pins that a stopped operation needs. -/
def State.wantPins (s : State) (p : Party) (o : Op) : List Trans :=
  let t : State := { s with issue := { s.issue with pins := o.pins } }
  o.parts.foldl (fun l q => addNew l (t.partTrans p o q)) []

/-- Give an operation new pins: the leaf of each KV block counts it once (R84, R408). -/
def State.repin (s : State) (id : Nat) (o : Op) (l : List Trans) : State :=
  let leaves (x : List Trans) : List Nat := (x.filterMap Trans.leaf).eraseDups
  let s1 := ((leaves l).filter (fun x => !(leaves o.pins).contains x)).foldl (fun t x => t.leafPin o.region x true) s
  let s2 := ((leaves o.pins).filter (fun x => !(leaves l).contains x)).foldl (fun t x => t.leafPin o.region x false) s1
  { s2 with ops := tableInsert s2.ops id { o with pins := l } }

end Sys2Proof.Machine
end

