-- ==== Sys2Proof/Decode.lean ====
section
/-!
DEFINITION. The decoder, total on any bytes, and the encoder.

A word is read into its parts (R165, R166), its class and opcode choose a layout of F (R180 to R187 and the layout tables
of the instruction chapters), and the fields are cut off from bit 0 up. A reserved bit that is set, a len that
the opcode does not permit and an opcode marked illegal give `none`; codes that are reserved inside a field are refused by
`Instr.wellFormed`. Kubor words (R328) have a decoder of their own.
-/
namespace Sys2Proof

open Machine (leValue leBytes)

/-- Cut fields of the given widths off a number from bit 0 up; the last entry is what is left above them. -/
def unpackFields : List Nat → Nat → List Nat
  | [], f => [f]
  | w :: ws, f => f % 2 ^ w :: unpackFields ws (f / 2 ^ w)

/-- Join (width, value) fields from bit 0 up. -/
def packFields : List (Nat × Nat) → Nat
  | [] => 0
  | (w, v) :: t => v % 2 ^ w + 2 ^ w * packFields t

/-- A word taken apart (R165, R166): class, opcode, whether it has an extension, its literal, predicate, and F. -/
structure Parts where
  cls  : Nat
  op   : Nat
  ext  : Bool
  lit  : Option Dword
  gate : Gate
  f    : Nat
  deriving DecidableEq, Repr

/-- The fields of R253 from F. -/
def QFields.ofBits (f : Nat) : Option QFields :=
  match unpackFields [6, 6, 3, 1, 6, 6, 4, 1, 1, 3, 3] f with
  | [ka, kb, lq, ln, pa, pb, fmt, desc, uns, j, k, 0] => some ⟨.ofNat 3 k, .ofNat 3 j, uns == 1, desc == 1, .ofNat 4 fmt, .ofNat 6 pb, .ofNat 6 pa, ln == 1, .ofNat 3 lq, .ofNat 6 kb, .ofNat 6 ka⟩
  | _ => none

/-- F from the fields of R253. -/
def QFields.toBits (d : QFields) : Nat :=
  packFields [(6, d.ka.toNat), (6, d.kb.toNat), (3, d.lq.toNat), (1, d.ln.toNat), (6, d.pa.toNat), (6, d.pb.toNat), (4, d.fmt.toNat), (1, d.desc.toNat), (1, d.uns.toNat), (3, d.j.toNat), (3, d.k.toNat)]

/-- The fields of R234 from F. -/
def VFields.ofBits (f : Nat) : Option VFields :=
  match unpackFields [6, 6, 3, 1, 6, 6, 3, 4, 4, 1, 1, 4, 3, 8] f with
  | [vd, va, lq, ln, vb, vc, rm, fmt, fmt2, sat, z, sub, qc, imm, 0] => some ⟨.ofNat 8 imm, .ofNat 3 qc, .ofNat 4 sub, z == 1, sat == 1, .ofNat 4 fmt2, .ofNat 4 fmt, .ofNat 3 rm, .ofNat 6 vc, .ofNat 6 vb, ln == 1, .ofNat 3 lq, .ofNat 6 va, .ofNat 6 vd⟩
  | _ => none

/-- F from the fields of R234. -/
def VFields.toBits (d : VFields) : Nat :=
  packFields [(6, d.vd.toNat), (6, d.va.toNat), (3, d.lq.toNat), (1, d.ln.toNat), (6, d.vb.toNat), (6, d.vc.toNat), (3, d.rm.toNat), (4, d.fmt.toNat), (4, d.fmt2.toNat), (1, d.sat.toNat), (1, d.z.toNat), (4, d.sub.toNat), (3, d.qc.toNat), (8, d.imm.toNat)]

/-- The fields of R302 from F. -/
def StrongFields.ofBits (f : Nat) : Option StrongFields :=
  match unpackFields [6, 5, 1, 1, 3, 2, 1, 32, 3, 1, 5] f with
  | [r, sA, vec, spc, scope, sz, sgn, disp, lq, ln, sE, 0] => some ⟨.ofNat 5 sE, ln == 1, .ofNat 3 lq, .ofNat 32 disp, sgn == 1, .ofNat 2 sz, .ofNat 3 scope, spc == 1, vec == 1, .ofNat 5 sA, .ofNat 6 r⟩
  | _ => none

/-- F from the fields of R302. -/
def StrongFields.toBits (d : StrongFields) : Nat :=
  packFields [(6, d.r.toNat), (5, d.sA.toNat), (1, d.vec.toNat), (1, d.spc.toNat), (3, d.scope.toNat), (2, d.sz.toNat), (1, d.sgn.toNat), (32, d.disp.toNat), (3, d.lq.toNat), (1, d.ln.toNat), (5, d.sE.toNat)]

/-- The fields of R307 from F. -/
def AtomFields.ofBits (f : Nat) : Option AtomFields :=
  match unpackFields [5, 5, 5, 1, 3, 4, 1, 5, 32] f with
  | [sD, sA, sV, 0, scope, op, sz, sC, disp, 0] => some ⟨.ofNat 32 disp, .ofNat 5 sC, sz == 1, .ofNat 4 op, .ofNat 3 scope, .ofNat 5 sV, .ofNat 5 sA, .ofNat 5 sD⟩
  | _ => none

/-- F from the fields of R307. -/
def AtomFields.toBits (d : AtomFields) : Nat :=
  packFields [(5, d.sD.toNat), (5, d.sA.toNat), (5, d.sV.toNat), (1, 0), (3, d.scope.toNat), (4, d.op.toNat), (1, d.sz.toNat), (5, d.sC.toNat), (32, d.disp.toNat)]

/-- The fields of R303 from F. -/
def MemFields.ofBits (f : Nat) : Option MemFields :=
  match unpackFields [6, 6, 1, 3, 5, 5, 3, 1, 1, 4, 2, 1, 2, 1, 32] f with
  | [vR, vI, spc, scope, sA, sE, lq, ln, z, op, sz, sgn, sh, nr, disp, 0] => some ⟨.ofNat 32 disp, nr == 1, .ofNat 2 sh, sgn == 1, .ofNat 2 sz, .ofNat 4 op, z == 1, ln == 1, .ofNat 3 lq, .ofNat 5 sE, .ofNat 5 sA, .ofNat 3 scope, spc == 1, .ofNat 6 vI, .ofNat 6 vR⟩
  | _ => none

/-- F from the fields of R303. -/
def MemFields.toBits (d : MemFields) : Nat :=
  packFields [(6, d.vR.toNat), (6, d.vI.toNat), (1, d.spc.toNat), (3, d.scope.toNat), (5, d.sA.toNat), (5, d.sE.toNat), (3, d.lq.toNat), (1, d.ln.toNat), (1, d.z.toNat), (4, d.op.toNat), (2, d.sz.toNat), (1, d.sgn.toNat), (2, d.sh.toNat), (1, d.nr.toNat), (32, d.disp.toNat)]

/-- The fields of R258 from F. -/
def XFields.ofBits (f : Nat) : Option XFields :=
  match unpackFields [6, 6, 3, 1, 4, 4, 6] f with
  | [vd, va, lq, ln, pat, m, vb, 0] => some ⟨.ofNat 6 vb, .ofNat 4 m, .ofNat 4 pat, ln == 1, .ofNat 3 lq, .ofNat 6 va, .ofNat 6 vd⟩
  | _ => none

/-- F from the fields of R258. -/
def XFields.toBits (d : XFields) : Nat :=
  packFields [(6, d.vd.toNat), (6, d.va.toNat), (3, d.lq.toNat), (1, d.ln.toNat), (4, d.pat.toNat), (4, d.m.toNat), (6, d.vb.toNat)]

/-- C words (class 000). -/
def decodeC (op : Nat) (ext : Bool) (l : Option Dword) (g : Gate) (f : Nat) : Option Instr :=
  match op, ext, l with
  | 0x00, false, none => match unpackFields [] f with | [0] => some (.nop g) | _ => none
  | 0x01, false, none => match unpackFields [16] f with | [n, 0] => some (.nopw g (.ofNat 16 n)) | _ => none
  | 0x02, false, none => match unpackFields [16] f with | [off, 0] => some (.br g (.ofNat 16 off)) | _ => none
  | 0x02, false, some x => match unpackFields [] f with | [0] => some (.brLong g x) | _ => none
  | 0x03, false, none => match unpackFields [11, 2, 3] f with | [off, cond, p, 0] => some (.brf g (.ofNat 3 p) (.ofNat 2 cond) (.ofNat 11 off)) | _ => none
  | 0x03, false, some x => match unpackFields [11, 2, 3] f with | [0, cond, p, 0] => some (.brfLong g (.ofNat 3 p) (.ofNat 2 cond) x) | _ => none
  | 0x04, false, none => match unpackFields [5, 5, 3] f with | [sN, sI, sh, 0] => some (.jmpi g (.ofNat 3 sh) (.ofNat 5 sI) (.ofNat 5 sN)) | _ => none
  | 0x05, false, none => match unpackFields [16] f with | [off, 0] => some (.call g (.ofNat 16 off)) | _ => none
  | 0x05, false, some x => match unpackFields [] f with | [0] => some (.callLong g x) | _ => none
  | 0x06, false, none => match unpackFields [5] f with | [sN, 0] => some (.ret g (.ofNat 5 sN)) | _ => none
  | 0x07, true, l => match unpackFields [5, 11, 9, 3, 26, 26] f with | [sC, imm, X_len, X_fx, X_incA, X_incB, 0] => some (.loop g (.ofNat 11 imm) (.ofNat 5 sC) ⟨.ofNat 26 X_incB, .ofNat 26 X_incA, .ofNat 3 X_fx, .ofNat 9 X_len⟩ l) | _ => none
  | 0x08, true, l => match unpackFields [5, 11, 9, 3, 26, 26] f with | [sC, imm, X_len, X_fx, X_incA, X_incB, 0] => some (.loopx g (.ofNat 11 imm) (.ofNat 5 sC) ⟨.ofNat 26 X_incB, .ofNat 26 X_incA, .ofNat 3 X_fx, .ofNat 9 X_len⟩ l) | _ => none
  | 0x09, false, none => match unpackFields [12, 1, 3] f with | [off, pneg, p, 0] => some (.brp g (.ofNat 3 p) (pneg == 1) (.ofNat 12 off)) | _ => none
  | 0x09, false, some x => match unpackFields [12, 1, 3] f with | [0, pneg, p, 0] => some (.brpLong g (.ofNat 3 p) (pneg == 1) x) | _ => none
  | 0x0A, false, none => match unpackFields [] f with | [0] => some (.join g) | _ => none
  | 0x0B, false, none => match unpackFields [2, 5] f with | [j, sM, 0] => some (.jinit g (.ofNat 5 sM) (.ofNat 2 j)) | _ => none
  | 0x0B, false, some x => match unpackFields [2, 5] f with | [j, 0, 0] => some (.jinitLiteral g (.ofNat 2 j) x) | _ => none
  | 0x0C, false, none => match unpackFields [2] f with | [j, 0] => some (.jarv g (.ofNat 2 j)) | _ => none
  | 0x0D, false, none => match unpackFields [2] f with | [j, 0] => some (.jwait g (.ofNat 2 j)) | _ => none
  | 0x0E, false, none => match unpackFields [12, 1, 3] f with | [off, pneg, p, 0] => some (.split g (.ofNat 3 p) (pneg == 1) (.ofNat 12 off)) | _ => none
  | 0x0E, false, some x => match unpackFields [12, 1, 3] f with | [0, pneg, p, 0] => some (.splitLong g (.ofNat 3 p) (pneg == 1) x) | _ => none
  | 0x0F, false, none => match unpackFields [] f with | [0] => some (.merge g) | _ => none
  | 0x10, false, none => match unpackFields [3] f with | [h, 0] => some (.regrp g (.ofNat 3 h)) | _ => none
  | 0x11, false, none => match unpackFields [] f with | [0] => some (.pass g) | _ => none
  | 0x12, false, none => match unpackFields [5] f with | [sT, 0] => some (.park g (.ofNat 5 sT)) | _ => none
  | 0x13, false, none => match unpackFields [5] f with | [sA, 0] => some (.spawn g (.ofNat 5 sA)) | _ => none
  | 0x14, false, none => match unpackFields [] f with | [0] => some (.exit g) | _ => none
  | 0x15, false, none => match unpackFields [] f with | [0] => some (.done g) | _ => none
  | 0x16, false, none => match unpackFields [] f with | [0] => some (.idemb g) | _ => none
  | 0x17, false, none => match unpackFields [] f with | [0] => some (.ideme g) | _ => none
  | 0x18, false, none => match unpackFields [3, 5, 5] f with | [hD, sN, sA, 0] => some (.gnew g (.ofNat 5 sA) (.ofNat 5 sN) (.ofNat 3 hD)) | _ => none
  | 0x19, false, none => match unpackFields [3, 5] f with | [hD, sN, 0] => some (.gjoin g (.ofNat 5 sN) (.ofNat 3 hD)) | _ => none
  | 0x1A, false, none => match unpackFields [3, 1] f with | [h, cnt, 0] => some (.gleave g (cnt == 1) (.ofNat 3 h)) | _ => none
  | 0x1B, false, none => match unpackFields [3, 1] f with | [h, cnt, 0] => some (.garv g (cnt == 1) (.ofNat 3 h)) | _ => none
  | 0x1C, false, none => match unpackFields [3] f with | [h, 0] => some (.gwait g (.ofNat 3 h)) | _ => none
  | 0x1D, false, none => match unpackFields [3, 1] f with | [h, cnt, 0] => some (.gbar g (cnt == 1) (.ofNat 3 h)) | _ => none
  | 0x1E, false, none => match unpackFields [5, 3, 3, 1] f with | [sD, h, fs, cnt, 0] => some (.gvote g (cnt == 1) (.ofNat 3 fs) (.ofNat 3 h) (.ofNat 5 sD)) | _ => none
  | 0x1F, true, none => match unpackFields [5, 5, 3, 1, 2, 5, 4] f with | [sD, sC, h, cnt, 0, sS, op, 0] => some (.grdc g (cnt == 1) (.ofNat 3 h) (.ofNat 5 sC) (.ofNat 5 sD) (.ofNat 4 op) (.ofNat 5 sS)) | _ => none
  | 0x20, false, none => match unpackFields [3] f with | [h, 0] => some (.gwin g (.ofNat 3 h)) | _ => none
  | 0x21, false, none => match unpackFields [5, 3, 3] f with | [sD, h, which, 0] => some (.gqry g (.ofNat 3 which) (.ofNat 3 h) (.ofNat 5 sD)) | _ => none
  | 0x22, false, none => match unpackFields [16] f with | [code, 0] => some (.trap g (.ofNat 16 code)) | _ => none
  | 0x22, false, some x => match unpackFields [] f with | [0] => some (.trapLiteral g x) | _ => none
  | 0x23, false, none => match unpackFields [] f with | [0] => some (.sysret g) | _ => none
  | 0x24, false, none => match unpackFields [16] f with | [code, 0] => some (.brk g (.ofNat 16 code)) | _ => none
  | 0x25, false, none => match unpackFields [5, 11] f with | [sD, cr, 0] => some (.csrd g (.ofNat 11 cr) (.ofNat 5 sD)) | _ => none
  | 0x26, false, none => match unpackFields [5, 11] f with | [sS, cr, 0] => some (.cswr g (.ofNat 11 cr) (.ofNat 5 sS)) | _ => none
  | 0x26, false, some x => match unpackFields [5, 11] f with | [0, cr, 0] => some (.cswrLiteral g (.ofNat 11 cr) x) | _ => none
  | 0x27, false, none => match unpackFields [5, 11] f with | [sM, off, 0] => some (.brdl g (.ofNat 11 off) (.ofNat 5 sM)) | _ => none
  | 0x27, false, some x => match unpackFields [5, 11] f with | [sM, 0, 0] => some (.brdlLong g (.ofNat 5 sM) x) | _ => none
  | _, _, _ => none

/-- S words (class 001). -/
def decodeS (op : Nat) (ext : Bool) (l : Option Dword) (g : Gate) (f : Nat) : Option Instr :=
  match op, ext, l with
  | 0x01, false, none => match unpackFields [5, 5, 5] f with | [sd, sa, sb, 0] => some (.add g (.ofNat 5 sb) (.ofNat 5 sa) (.ofNat 5 sd)) | _ => none
  | 0x01, false, some x => match unpackFields [5, 5, 5] f with | [sd, sa, 0, 0] => some (.addLiteral g (.ofNat 5 sa) (.ofNat 5 sd) x) | _ => none
  | 0x02, false, none => match unpackFields [5, 5, 5] f with | [sd, sa, sb, 0] => some (.sub g (.ofNat 5 sb) (.ofNat 5 sa) (.ofNat 5 sd)) | _ => none
  | 0x02, false, some x => match unpackFields [5, 5, 5] f with | [sd, sa, 0, 0] => some (.subLiteral g (.ofNat 5 sa) (.ofNat 5 sd) x) | _ => none
  | 0x03, false, none => match unpackFields [5, 5, 5] f with | [sd, sa, sb, 0] => some (.mul g (.ofNat 5 sb) (.ofNat 5 sa) (.ofNat 5 sd)) | _ => none
  | 0x03, false, some x => match unpackFields [5, 5, 5] f with | [sd, sa, 0, 0] => some (.mulLiteral g (.ofNat 5 sa) (.ofNat 5 sd) x) | _ => none
  | 0x04, false, none => match unpackFields [5, 5, 5] f with | [sd, sa, sb, 0] => some (.mulh g (.ofNat 5 sb) (.ofNat 5 sa) (.ofNat 5 sd)) | _ => none
  | 0x04, false, some x => match unpackFields [5, 5, 5] f with | [sd, sa, 0, 0] => some (.mulhLiteral g (.ofNat 5 sa) (.ofNat 5 sd) x) | _ => none
  | 0x05, false, none => match unpackFields [5, 5, 5] f with | [sd, sa, sb, 0] => some (.mulhu g (.ofNat 5 sb) (.ofNat 5 sa) (.ofNat 5 sd)) | _ => none
  | 0x05, false, some x => match unpackFields [5, 5, 5] f with | [sd, sa, 0, 0] => some (.mulhuLiteral g (.ofNat 5 sa) (.ofNat 5 sd) x) | _ => none
  | 0x06, false, none => match unpackFields [5, 5, 5] f with | [sd, sa, sb, 0] => some (.divs g (.ofNat 5 sb) (.ofNat 5 sa) (.ofNat 5 sd)) | _ => none
  | 0x06, false, some x => match unpackFields [5, 5, 5] f with | [sd, sa, 0, 0] => some (.divsLiteral g (.ofNat 5 sa) (.ofNat 5 sd) x) | _ => none
  | 0x07, false, none => match unpackFields [5, 5, 5] f with | [sd, sa, sb, 0] => some (.divu g (.ofNat 5 sb) (.ofNat 5 sa) (.ofNat 5 sd)) | _ => none
  | 0x07, false, some x => match unpackFields [5, 5, 5] f with | [sd, sa, 0, 0] => some (.divuLiteral g (.ofNat 5 sa) (.ofNat 5 sd) x) | _ => none
  | 0x08, false, none => match unpackFields [5, 5, 5] f with | [sd, sa, sb, 0] => some (.rems g (.ofNat 5 sb) (.ofNat 5 sa) (.ofNat 5 sd)) | _ => none
  | 0x08, false, some x => match unpackFields [5, 5, 5] f with | [sd, sa, 0, 0] => some (.remsLiteral g (.ofNat 5 sa) (.ofNat 5 sd) x) | _ => none
  | 0x09, false, none => match unpackFields [5, 5, 5] f with | [sd, sa, sb, 0] => some (.remu g (.ofNat 5 sb) (.ofNat 5 sa) (.ofNat 5 sd)) | _ => none
  | 0x09, false, some x => match unpackFields [5, 5, 5] f with | [sd, sa, 0, 0] => some (.remuLiteral g (.ofNat 5 sa) (.ofNat 5 sd) x) | _ => none
  | 0x0A, false, none => match unpackFields [5, 5, 5] f with | [sd, sa, sb, 0] => some (.and g (.ofNat 5 sb) (.ofNat 5 sa) (.ofNat 5 sd)) | _ => none
  | 0x0A, false, some x => match unpackFields [5, 5, 5] f with | [sd, sa, 0, 0] => some (.andLiteral g (.ofNat 5 sa) (.ofNat 5 sd) x) | _ => none
  | 0x0B, false, none => match unpackFields [5, 5, 5] f with | [sd, sa, sb, 0] => some (.or g (.ofNat 5 sb) (.ofNat 5 sa) (.ofNat 5 sd)) | _ => none
  | 0x0B, false, some x => match unpackFields [5, 5, 5] f with | [sd, sa, 0, 0] => some (.orLiteral g (.ofNat 5 sa) (.ofNat 5 sd) x) | _ => none
  | 0x0C, false, none => match unpackFields [5, 5, 5] f with | [sd, sa, sb, 0] => some (.xor g (.ofNat 5 sb) (.ofNat 5 sa) (.ofNat 5 sd)) | _ => none
  | 0x0C, false, some x => match unpackFields [5, 5, 5] f with | [sd, sa, 0, 0] => some (.xorLiteral g (.ofNat 5 sa) (.ofNat 5 sd) x) | _ => none
  | 0x0D, false, none => match unpackFields [5, 5, 5] f with | [sd, sa, sb, 0] => some (.andn g (.ofNat 5 sb) (.ofNat 5 sa) (.ofNat 5 sd)) | _ => none
  | 0x0D, false, some x => match unpackFields [5, 5, 5] f with | [sd, sa, 0, 0] => some (.andnLiteral g (.ofNat 5 sa) (.ofNat 5 sd) x) | _ => none
  | 0x0E, false, none => match unpackFields [5, 5, 5] f with | [sd, sa, sb, 0] => some (.shl g (.ofNat 5 sb) (.ofNat 5 sa) (.ofNat 5 sd)) | _ => none
  | 0x0E, false, some x => match unpackFields [5, 5, 5] f with | [sd, sa, 0, 0] => some (.shlLiteral g (.ofNat 5 sa) (.ofNat 5 sd) x) | _ => none
  | 0x0F, false, none => match unpackFields [5, 5, 5] f with | [sd, sa, sb, 0] => some (.shr g (.ofNat 5 sb) (.ofNat 5 sa) (.ofNat 5 sd)) | _ => none
  | 0x0F, false, some x => match unpackFields [5, 5, 5] f with | [sd, sa, 0, 0] => some (.shrLiteral g (.ofNat 5 sa) (.ofNat 5 sd) x) | _ => none
  | 0x10, false, none => match unpackFields [5, 5, 5] f with | [sd, sa, sb, 0] => some (.sar g (.ofNat 5 sb) (.ofNat 5 sa) (.ofNat 5 sd)) | _ => none
  | 0x10, false, some x => match unpackFields [5, 5, 5] f with | [sd, sa, 0, 0] => some (.sarLiteral g (.ofNat 5 sa) (.ofNat 5 sd) x) | _ => none
  | 0x11, false, none => match unpackFields [5, 5, 5] f with | [sd, sa, sb, 0] => some (.rotl g (.ofNat 5 sb) (.ofNat 5 sa) (.ofNat 5 sd)) | _ => none
  | 0x11, false, some x => match unpackFields [5, 5, 5] f with | [sd, sa, 0, 0] => some (.rotlLiteral g (.ofNat 5 sa) (.ofNat 5 sd) x) | _ => none
  | 0x12, false, none => match unpackFields [5, 5, 5] f with | [sd, sa, sb, 0] => some (.mins g (.ofNat 5 sb) (.ofNat 5 sa) (.ofNat 5 sd)) | _ => none
  | 0x12, false, some x => match unpackFields [5, 5, 5] f with | [sd, sa, 0, 0] => some (.minsLiteral g (.ofNat 5 sa) (.ofNat 5 sd) x) | _ => none
  | 0x13, false, none => match unpackFields [5, 5, 5] f with | [sd, sa, sb, 0] => some (.minu g (.ofNat 5 sb) (.ofNat 5 sa) (.ofNat 5 sd)) | _ => none
  | 0x13, false, some x => match unpackFields [5, 5, 5] f with | [sd, sa, 0, 0] => some (.minuLiteral g (.ofNat 5 sa) (.ofNat 5 sd) x) | _ => none
  | 0x14, false, none => match unpackFields [5, 5, 5] f with | [sd, sa, sb, 0] => some (.maxs g (.ofNat 5 sb) (.ofNat 5 sa) (.ofNat 5 sd)) | _ => none
  | 0x14, false, some x => match unpackFields [5, 5, 5] f with | [sd, sa, 0, 0] => some (.maxsLiteral g (.ofNat 5 sa) (.ofNat 5 sd) x) | _ => none
  | 0x15, false, none => match unpackFields [5, 5, 5] f with | [sd, sa, sb, 0] => some (.maxu g (.ofNat 5 sb) (.ofNat 5 sa) (.ofNat 5 sd)) | _ => none
  | 0x15, false, some x => match unpackFields [5, 5, 5] f with | [sd, sa, 0, 0] => some (.maxuLiteral g (.ofNat 5 sa) (.ofNat 5 sd) x) | _ => none
  | 0x16, true, l => match unpackFields [3, 5, 5, 3, 4, 2] f with | [fd, sa, sb, fc, cond, comb, 0] => some (.cmp g (.ofNat 3 fc) (.ofNat 5 sb) (.ofNat 5 sa) (.ofNat 3 fd) (.ofNat 2 comb) (.ofNat 4 cond) l) | _ => none
  | 0x17, false, none => match unpackFields [3, 3, 3, 4] f with | [fd, fa, fb, tt, 0] => some (.flop g (.ofNat 4 tt) (.ofNat 3 fb) (.ofNat 3 fa) (.ofNat 3 fd)) | _ => none
  | 0x18, true, none => match unpackFields [5, 5, 5, 1, 3] f with | [sd, sa, sb, 0, fc, 0] => some (.sel g (.ofNat 5 sb) (.ofNat 5 sa) (.ofNat 5 sd) (.ofNat 3 fc)) | _ => none
  | 0x19, false, none => match unpackFields [5, 5] f with | [sd, sa, 0] => some (.mov g (.ofNat 5 sa) (.ofNat 5 sd)) | _ => none
  | 0x1A, false, none => match unpackFields [5, 11] f with | [sd, imm, 0] => some (.movi g (.ofNat 11 imm) (.ofNat 5 sd)) | _ => none
  | 0x1A, false, some x => match unpackFields [5, 11] f with | [sd, 0, 0] => some (.moviLiteral g (.ofNat 5 sd) x) | _ => none
  | 0x1B, true, l => match unpackFields [5, 5, 5, 1, 4, 32] f with | [sd, sa, sb, 0, sh, disp, 0] => some (.lea g (.ofNat 5 sb) (.ofNat 5 sa) (.ofNat 5 sd) (.ofNat 32 disp) (.ofNat 4 sh) l) | _ => none
  | 0x1C, false, none => match unpackFields [5, 5] f with | [sd, sa, 0] => some (.clz g (.ofNat 5 sa) (.ofNat 5 sd)) | _ => none
  | 0x1D, false, none => match unpackFields [5, 5] f with | [sd, sa, 0] => some (.ctz g (.ofNat 5 sa) (.ofNat 5 sd)) | _ => none
  | 0x1E, false, none => match unpackFields [5, 5] f with | [sd, sa, 0] => some (.popc g (.ofNat 5 sa) (.ofNat 5 sd)) | _ => none
  | 0x1F, true, none => match unpackFields [5, 5, 6, 6, 7, 1] f with | [sd, sa, 0, pos, wid, sgn, 0] => some (.bfx g (.ofNat 5 sa) (.ofNat 5 sd) (sgn == 1) (.ofNat 7 wid) (.ofNat 6 pos)) | _ => none
  | 0x20, true, none => match unpackFields [5, 5, 6, 6, 7] f with | [sd, sa, 0, pos, wid, 0] => some (.bfi g (.ofNat 5 sa) (.ofNat 5 sd) (.ofNat 7 wid) (.ofNat 6 pos)) | _ => none
  | 0x21, false, none => match unpackFields [5] f with | [sa, 0] => some (.bcst g (.ofNat 5 sa)) | _ => none
  | 0x21, false, some x => match unpackFields [5] f with | [0, 0] => some (.bcstLiteral g x) | _ => none
  | _, _, _ => none

/-- Q words (class 010). -/
def decodeQ (op : Nat) (ext : Bool) (l : Option Dword) (g : Gate) (f : Nat) : Option Instr :=
  match op, ext, l with
  | 0x01, true, none => (QFields.ofBits f).map fun d => .cxs g d
  | 0x02, true, none => (QFields.ofBits f).map fun d => .cxsi g d
  | 0x03, true, none => (QFields.ofBits f).map fun d => .cxv g d
  | 0x04, true, none => (QFields.ofBits f).map fun d => .cxvi g d
  | _, _, _ => none

/-- V words (class 011). -/
def decodeV (op : Nat) (ext : Bool) (l : Option Dword) (g : Gate) (f : Nat) : Option Instr :=
  match op, ext, l with
  | 0x01, true, l => (VFields.ofBits f).map fun d => .vadd g d l
  | 0x02, true, l => (VFields.ofBits f).map fun d => .vsub g d l
  | 0x03, true, l => (VFields.ofBits f).map fun d => .vmul g d l
  | 0x04, true, l => (VFields.ofBits f).map fun d => .vfma g d l
  | 0x05, true, l => (VFields.ofBits f).map fun d => .vmax g d l
  | 0x06, true, l => (VFields.ofBits f).map fun d => .vmin g d l
  | 0x07, true, l => (VFields.ofBits f).map fun d => .vabs g d l
  | 0x08, true, l => (VFields.ofBits f).map fun d => .vneg g d l
  | 0x09, true, l => (VFields.ofBits f).map fun d => .vrcp g d l
  | 0x0A, true, l => (VFields.ofBits f).map fun d => .vrsq g d l
  | 0x0B, true, l => (VFields.ofBits f).map fun d => .vexp g d l
  | 0x0C, true, l => (VFields.ofBits f).map fun d => .vlog g d l
  | 0x0D, true, l => (VFields.ofBits f).map fun d => .vtanh g d l
  | 0x0E, true, l => (VFields.ofBits f).map fun d => .viadd g d l
  | 0x0F, true, l => (VFields.ofBits f).map fun d => .visub g d l
  | 0x10, true, l => (VFields.ofBits f).map fun d => .vimul g d l
  | 0x11, true, l => (VFields.ofBits f).map fun d => .vimad g d l
  | 0x12, true, l => (VFields.ofBits f).map fun d => .vimin g d l
  | 0x13, true, l => (VFields.ofBits f).map fun d => .vimax g d l
  | 0x14, true, l => (VFields.ofBits f).map fun d => .vand g d l
  | 0x15, true, l => (VFields.ofBits f).map fun d => .vor g d l
  | 0x16, true, l => (VFields.ofBits f).map fun d => .vxor g d l
  | 0x17, true, l => (VFields.ofBits f).map fun d => .vshl g d l
  | 0x18, true, l => (VFields.ofBits f).map fun d => .vshr g d l
  | 0x19, true, l => (VFields.ofBits f).map fun d => .vsar g d l
  | 0x1A, true, l => (VFields.ofBits f).map fun d => .vcmp g d l
  | 0x1B, true, l => (VFields.ofBits f).map fun d => .vsel g d l
  | 0x1C, true, l => (VFields.ofBits f).map fun d => .vmov g d l
  | 0x1D, true, l => (VFields.ofBits f).map fun d => .vcvt g d l
  | 0x1E, true, l => (VFields.ofBits f).map fun d => .vpack g d l
  | 0x1F, true, l => (VFields.ofBits f).map fun d => .vunpk g d l
  | 0x20, true, l => (VFields.ofBits f).map fun d => .vreds g d l
  | 0x21, true, l => (VFields.ofBits f).map fun d => .vscan g d l
  | 0x22, true, l => (VFields.ofBits f).map fun d => .vperm g d l
  | 0x23, true, l => (VFields.ofBits f).map fun d => .vlane g d l
  | 0x24, true, l => (VFields.ofBits f).map fun d => .vqcnt g d l
  | 0x25, true, l => (VFields.ofBits f).map fun d => .vcmps g d l
  | 0x26, true, l => (VFields.ofBits f).map fun d => .vqop g d l
  | _, _, _ => none

/-- T words (class 100). -/
def decodeT (op : Nat) (ext : Bool) (l : Option Dword) (g : Gate) (f : Nat) : Option Instr :=
  match op, ext, l with
  | 0x01, true, none => match unpackFields [2, 5, 5, 4, 1] f with | [ad, oa, ob, zs, za, 0] => some (.mma g (.ofNat 2 ad) (.ofNat 5 oa) (.ofNat 5 ob) (.ofNat 4 zs) (za == 1)) | _ => none
  | 0x02, true, none => match unpackFields [2, 5, 5, 4, 1, 1, 5] f with | [ad, oa, ob, zs, za, 0, om, 0] => some (.mmsp g (.ofNat 2 ad) (.ofNat 5 oa) (.ofNat 5 ob) (.ofNat 4 zs) (za == 1) (.ofNat 5 om)) | _ => none
  | 0x03, true, none => match unpackFields [2, 5, 6, 3, 4, 1] f with | [ad, oq, vk, 0, zs, za, 0] => some (.kvmm g (.ofNat 2 ad) (.ofNat 5 oq) (.ofNat 6 vk) (.ofNat 4 zs) (za == 1)) | _ => none
  | 0x04, true, none => match unpackFields [2, 5, 6, 3, 4, 1, 2] f with | [ad, oq, vk, 0, zs, za, dsel, 0] => some (.kvmv g (.ofNat 2 ad) (.ofNat 5 oq) (.ofNat 6 vk) (.ofNat 4 zs) (za == 1) (.ofNat 2 dsel)) | _ => none
  | 0x05, true, none => match unpackFields [2, 5, 6, 3, 4, 1, 5, 5] f with | [ad, oa, vi, 0, zs, za, sT, sC, 0] => some (.gmma g (.ofNat 2 ad) (.ofNat 5 oa) (.ofNat 6 vi) (.ofNat 4 zs) (za == 1) (.ofNat 5 sT) (.ofNat 5 sC)) | _ => none
  | 0x06, false, none => match unpackFields [5, 3] f with | [o, n, 0] => some (.oclm g (.ofNat 3 n) (.ofNat 5 o)) | _ => none
  | 0x07, false, none => match unpackFields [5, 3] f with | [o, n, 0] => some (.orel g (.ofNat 3 n) (.ofNat 5 o)) | _ => none
  | 0x08, true, none => match unpackFields [5, 5, 5, 1, 4, 16] f with | [o, sA, sS, tr, fmt, pitch, 0] => some (.old g (.ofNat 5 o) (.ofNat 5 sA) (.ofNat 5 sS) (tr == 1) (.ofNat 4 fmt) (.ofNat 16 pitch)) | _ => none
  | 0x09, false, none => if f.testBit 10 then (match unpackFields [5, 3, 2, 1, 5] f with | [o, pd, 0, 1, sU, 0] => some (.otagQ g (.ofNat 5 sU) (.ofNat 3 pd) (.ofNat 5 o)) | _ => none) else (match unpackFields [5, 4, 1, 1, 5] f with | [o, fmt, setf, 0, sU, 0] => some (.otag g (.ofNat 5 sU) (setf == 1) (.ofNat 4 fmt) (.ofNat 5 o)) | _ => none)
  | 0x09, false, some x => match unpackFields [5, 4, 1, 1, 5] f with | [o, fmt, setf, q, 0, 0] => some (.otagLiteral g (q == 1) (setf == 1) (.ofNat 4 fmt) (.ofNat 5 o) x) | _ => none
  | 0x0A, false, none => match unpackFields [2] f with | [a, 0] => some (.azro g (.ofNat 2 a)) | _ => none
  | 0x0B, false, none => match unpackFields [2, 2, 4, 1] f with | [ad, as_, zs, int_, 0] => some (.aadd g (int_ == 1) (.ofNat 4 zs) (.ofNat 2 as_) (.ofNat 2 ad)) | _ => none
  | 0x0C, true, none => match unpackFields [2, 1, 5, 4, 4, 3, 1, 1, 1, 2, 16] f with | [F_acc, F_dst, F_addr, F_fmt, F_zs, F_rm, F_ftz, F_clr, F_int, F_part, F_pitch, 0] => some (.adrn g ⟨.ofNat 16 F_pitch, .ofNat 2 F_part, F_int == 1, F_clr == 1, F_ftz == 1, .ofNat 3 F_rm, .ofNat 4 F_zs, .ofNat 4 F_fmt, .ofNat 5 F_addr, F_dst == 1, .ofNat 2 F_acc⟩) | _ => none
  | 0x0D, true, l => match unpackFields [3, 1, 6, 5, 1, 3] f with | [zd, vsrc, va, sS, 0, wm, 0] => some (.shp g (.ofNat 3 zd) (vsrc == 1) (.ofNat 6 va) (.ofNat 5 sS) (.ofNat 3 wm) l) | _ => none
  | 0x0E, false, none => match unpackFields [3, 2, 4, 1] f with | [pd, an, which, ok, 0] => some (.dstq g (ok == 1) (.ofNat 4 which) (.ofNat 2 an) (.ofNat 3 pd)) | _ => none
  | _, _, _ => none

/-- K words (class 101). -/
def decodeK (op : Nat) (ext : Bool) (l : Option Dword) (g : Gate) (f : Nat) : Option Instr :=
  match op, ext, l with
  | 0x01, true, none => match unpackFields [6, 10, 2] f with | [va, 0, side, 0] => some (.scl g (.ofNat 6 va) (.ofNat 2 side)) | _ => none
  | 0x02, true, l => match unpackFields [16, 8, 8, 2] f with | [0, rx, cx, side, 0] => some (.scli g (.ofNat 8 rx) (.ofNat 8 cx) (.ofNat 2 side) l) | _ => none
  | 0x03, false, none => match unpackFields [] f with | [0] => some (.sclz g) | _ => none
  | _, _, _ => none

/-- M words (class 110). -/
def decodeM (op : Nat) (ext : Bool) (l : Option Dword) (g : Gate) (f : Nat) : Option Instr :=
  match op, ext, l with
  | 0x01, false, none => match unpackFields [5, 5, 2, 1] f with | [sD, sA, sz, sgn, 0] => some (.lds g (sgn == 1) (.ofNat 2 sz) (.ofNat 5 sA) (.ofNat 5 sD)) | _ => none
  | 0x01, false, some x => match unpackFields [5, 5, 2, 1] f with | [sD, sA, sz, sgn, 0] => some (.ldsLiteral g (sgn == 1) (.ofNat 2 sz) (.ofNat 5 sA) (.ofNat 5 sD) x) | _ => none
  | 0x02, false, none => match unpackFields [5, 5, 2] f with | [sS, sA, sz, 0] => some (.sts g (.ofNat 2 sz) (.ofNat 5 sA) (.ofNat 5 sS)) | _ => none
  | 0x02, false, some x => match unpackFields [5, 5, 2] f with | [sS, sA, sz, 0] => some (.stsLiteral g (.ofNat 2 sz) (.ofNat 5 sA) (.ofNat 5 sS) x) | _ => none
  | 0x03, true, l => (StrongFields.ofBits f).map fun d => .lda g d l
  | 0x04, true, l => (StrongFields.ofBits f).map fun d => .stl g d l
  | 0x05, true, l => (StrongFields.ofBits f).map fun d => .stx g d l
  | 0x06, true, l => (AtomFields.ofBits f).map fun d => .atom g d l
  | 0x07, true, l => (AtomFields.ofBits f).map fun d => .atcas g d l
  | 0x08, true, l => (MemFields.ofBits f).map fun d => .vld g d l
  | 0x09, true, l => (MemFields.ofBits f).map fun d => .vst g d l
  | 0x0A, true, l => (MemFields.ofBits f).map fun d => .vldp g d l
  | 0x0B, true, l => (MemFields.ofBits f).map fun d => .vstp g d l
  | 0x0C, true, l => (MemFields.ofBits f).map fun d => .vldg g d l
  | 0x0D, true, l => (MemFields.ofBits f).map fun d => .vstg g d l
  | 0x0E, true, l => (MemFields.ofBits f).map fun d => .vatom g d l
  | 0x0F, true, l => match unpackFields [2, 5, 5, 4, 32] f with | [gN, sL, sH, 0, boff, 0] => some (.port g (.ofNat 2 gN) (.ofNat 5 sL) (.ofNat 5 sH) (.ofNat 32 boff) l) | _ => none
  | 0x10, false, none => match unpackFields [5, 5] f with | [sT, sP, 0] => some (.cpy g (.ofNat 5 sP) (.ofNat 5 sT)) | _ => none
  | 0x11, true, none => match unpackFields [5, 5, 6, 2, 1, 3, 1, 1, 32] f with | [F_sT, F_sB, F_vO, F_sz, F_dir, F_lq, F_ln, F_comm, F_lbase, 0] => some (.cpyl g ⟨.ofNat 32 F_lbase, F_comm == 1, F_ln == 1, .ofNat 3 F_lq, F_dir == 1, .ofNat 2 F_sz, .ofNat 6 F_vO, .ofNat 5 F_sB, .ofNat 5 F_sT⟩) | _ => none
  | 0x12, true, none => match unpackFields [5, 5, 5, 1, 6, 6, 16, 16, 8, 8] f with | [F_sT, F_sA, F_sB, F_comm, F_wx, F_wy, F_nch, F_pitch, F_esx, F_esy, 0] => some (.cpyw g ⟨.ofNat 8 F_esy, .ofNat 8 F_esx, .ofNat 16 F_pitch, .ofNat 16 F_nch, .ofNat 6 F_wy, .ofNat 6 F_wx, F_comm == 1, .ofNat 5 F_sB, .ofNat 5 F_sA, .ofNat 5 F_sT⟩) | _ => none
  | 0x13, true, none => match unpackFields [5, 6, 5, 8, 1] f with | [sT, vK, sD, nblk, comm, 0] => some (.cpyk g (.ofNat 5 sT) (.ofNat 6 vK) (.ofNat 5 sD) (.ofNat 8 nblk) (comm == 1)) | _ => none
  | 0x14, false, none => match unpackFields [2, 3] f with | [kind, scope, 0] => some (.fence g (.ofNat 3 scope) (.ofNat 2 kind)) | _ => none
  | 0x15, true, l => match unpackFields [5, 11, 32, 16] f with | [sA, 0, disp, lines, 0] => some (.pfx g (.ofNat 5 sA) (.ofNat 32 disp) (.ofNat 16 lines) l) | _ => none
  | 0x16, true, none => match unpackFields [5, 5, 1, 5, 8] f with | [sR, sE, w, 0, layer, 0] => some (.xpf g (w == 1) (.ofNat 5 sE) (.ofNat 5 sR) (.ofNat 8 layer)) | _ => none
  | 0x17, false, none => match unpackFields [5] f with | [sA, 0] => some (.cwb g (.ofNat 5 sA)) | _ => none
  | 0x18, false, none => match unpackFields [5] f with | [sA, 0] => some (.cinv g (.ofNat 5 sA)) | _ => none
  | 0x19, false, none => match unpackFields [5] f with | [sA, 0] => some (.pbinv g (.ofNat 5 sA)) | _ => none
  | 0x1A, true, none => match unpackFields [5, 5, 6, 1, 1, 3] f with | [sD, sV, 0, sz, zf, perm, 0] => some (.pgmap g (.ofNat 5 sV) (.ofNat 5 sD) (sz == 1) (zf == 1) (.ofNat 3 perm)) | _ => none
  | 0x1B, false, none => match unpackFields [5, 5, 2] f with | [sT, sA, kind, 0] => some (.tinv g (.ofNat 2 kind) (.ofNat 5 sA) (.ofNat 5 sT)) | _ => none
  | 0x1C, true, none => match unpackFields [5, 5, 6, 16, 1] f with | [sT, sK, 0, nblk, all, 0] => some (.btinv g (.ofNat 5 sK) (.ofNat 5 sT) (.ofNat 16 nblk) (all == 1)) | _ => none
  | 0x1D, false, none => match unpackFields [5, 5, 5, 1] f with | [sD, sQ, sV, op, 0] => some (.kvseq g (op == 1) (.ofNat 5 sV) (.ofNat 5 sQ) (.ofNat 5 sD)) | _ => none
  | 0x1D, false, some x => match unpackFields [5, 5, 5, 1] f with | [sD, sQ, 0, op, 0] => some (.kvseqLiteral g (op == 1) (.ofNat 5 sQ) (.ofNat 5 sD) x) | _ => none
  | _, _, _ => none

/-- X words (class 111). -/
def decodeX (op : Nat) (ext : Bool) (l : Option Dword) (g : Gate) (f : Nat) : Option Instr :=
  match op, ext, l with
  | 0x01, true, none => (XFields.ofBits f).map fun d => .xshf g d
  | 0x02, true, none => (XFields.ofBits f).map fun d => .xred g d
  | 0x03, true, none => (XFields.ofBits f).map fun d => .xbc g d
  | 0x04, true, none => match unpackFields [3, 1, 1, 5, 6] f with | [ps, pn, 0, sD, vd, 0] => some (.xvot g (.ofNat 6 vd) (.ofNat 5 sD) (pn == 1) (.ofNat 3 ps)) | _ => none
  | 0x05, true, none => match unpackFields [6, 6, 3, 1, 3, 1, 5, 1] f with | [F_vd, F_va, F_lq, F_ln, F_ps, F_pn, F_sD, F_hi, 0] => some (.xpick g ⟨F_hi == 1, .ofNat 5 F_sD, F_pn == 1, .ofNat 3 F_ps, F_ln == 1, .ofNat 3 F_lq, .ofNat 6 F_va, .ofNat 6 F_vd⟩) | _ => none
  | 0x06, false, none => match unpackFields [10, 6] f with | [ch, opnd, 0] => some (.xsnd g (.ofNat 6 opnd) (.ofNat 10 ch)) | _ => none
  | 0x07, false, none => match unpackFields [10, 6] f with | [ch, opnd, 0] => some (.xrcv g (.ofNat 6 opnd) (.ofNat 10 ch)) | _ => none
  | 0x08, false, none => match unpackFields [10, 6] f with | [ch, opnd, 0] => some (.xrca g (.ofNat 6 opnd) (.ofNat 10 ch)) | _ => none
  | 0x09, false, none => match unpackFields [10, 5] f with | [ch, sD, 0] => some (.xchs g (.ofNat 5 sD) (.ofNat 10 ch)) | _ => none
  | 0x0A, false, none => match unpackFields [10, 5] f with | [ch, sA, 0] => some (.chld g (.ofNat 5 sA) (.ofNat 10 ch)) | _ => none
  | 0x0B, false, none => match unpackFields [5, 5, 2] f with | [sD, sA, psel, 0] => some (.kld g (.ofNat 2 psel) (.ofNat 5 sA) (.ofNat 5 sD)) | _ => none
  | 0x0B, false, some x => match unpackFields [5, 5, 2] f with | [sD, 0, psel, 0] => some (.kldLiteral g (.ofNat 2 psel) (.ofNat 5 sD) x) | _ => none
  | 0x0C, false, none => match unpackFields [5, 5] f with | [sP, sR, 0] => some (.kgo g (.ofNat 5 sR) (.ofNat 5 sP)) | _ => none
  | 0x0D, false, none => match unpackFields [5, 5, 1] f with | [sD, sP, rel, 0] => some (.kwt g (rel == 1) (.ofNat 5 sP) (.ofNat 5 sD)) | _ => none
  | _, _, _ => none

/-- The instruction of a word's parts, by class (R165). -/
def decodeParts (p : Parts) : Option Instr :=
  match p.cls with
  | 0 => decodeC p.op p.ext p.lit p.gate p.f
  | 1 => decodeS p.op p.ext p.lit p.gate p.f
  | 2 => decodeQ p.op p.ext p.lit p.gate p.f
  | 3 => decodeV p.op p.ext p.lit p.gate p.f
  | 4 => decodeT p.op p.ext p.lit p.gate p.f
  | 5 => decodeK p.op p.ext p.lit p.gate p.f
  | 6 => decodeM p.op p.ext p.lit p.gate p.f
  | 7 => decodeX p.op p.ext p.lit p.gate p.f
  | _ => none

/-- The first n bytes as a little-endian number, and the rest; none when there are fewer. -/
def takeLe : Nat → List Byte → Option (Nat × List Byte)
  | 0, bs => some (0, bs)
  | _ + 1, [] => none
  | n + 1, b :: bs =>
    match takeLe n bs with
    | some (v, r) => some (b.toNat + 256 * v, r)
    | none => none

/-- The extension or literal dword, where the word has one (R165). -/
def takeDword (has : Bool) (bs : List Byte) : Option (Option Nat × List Byte) :=
  if has then
    match takeLe 8 bs with
    | some (v, r) => some (some v, r)
    | none => none
  else some (none, bs)

/-- A word read from memory: its parts, its E bit, its length in bytes. -/
structure RawWord where
  parts : Parts
  last  : Bool
  len   : Nat
  deriving DecidableEq, Repr

/-- Bytes of a word by its len field (R165). -/
def wordLength (len : Nat) : Nat := 4 + 8 * (len % 2) + 8 * (len / 2 % 2)

/-- Read one word (R165, R166); none when the bytes end inside it. -/
def readWord (bs : List Byte) : Option (RawWord × List Byte) :=
  match takeLe 4 bs with
  | none => none
  | some (base, r1) =>
    match unpackFields [2, 3, 1, 3, 1, 6, 16] base with
    | [len, cls, e, pred, neg, op, f, _] =>
      match takeDword (len % 2 == 1) r1 with
      | none => none
      | some (ext, r2) =>
        match takeDword (2 ≤ len) r2 with
        | none => none
        | some (lit, r3) =>
          some (⟨⟨cls, op, ext.isSome, lit.map (BitVec.ofNat 64), ⟨.ofNat 3 pred, neg == 1⟩, f + 65536 * ext.getD 0⟩,
            e == 1, wordLength len⟩, r3)
    | _ => none

/-- A word of a bundle as framing finds it (R168, R189). -/
inductive Framed where
  | word (addr : Nat) (raw : RawWord)
  /-- The bundle's framing fails at this address; the class to report. -/
  | bad (addr cls : Nat)
  deriving DecidableEq, Repr

/-- Class of the base word that starts here, 0 when the bytes end before it (R189). -/
def classAt (bs : List Byte) : Nat :=
  match takeLe 4 bs with
  | some (base, _) => base / 4 % 8
  | none => 0

/-- Frame a bundle from its first byte (R168): at most `n` more words, after `prev` (class, and whether one more S may follow). -/
def frameFrom : Nat → Nat → Option (Nat × Bool) → List Byte → List Framed
  | 0, _, _, _ => []
  | n + 1, addr, prev, bs =>
    match readWord bs with
    | none => [.bad addr (classAt bs)]
    | some (raw, rest) =>
      let c := raw.parts.cls
      let inOrder := match prev with
        | none => true
        | some (pc, again) => decide (pc < c) || (pc == c && again)
      let again := decide (c = 1) && (match prev with | some (pc, _) => pc != 1 | none => true)
      if !inOrder then [.bad addr c]
      else if raw.last then [.word addr raw]
      else if n = 0 then [.bad addr c]
      else .word addr raw :: frameFrom n (addr + raw.len) (some (c, again)) rest

/-- Frame the bundle at `addr` (R168). -/
def frameBundle (addr : Nat) (bs : List Byte) : List Framed := frameFrom 9 addr none bs

/-! ## Kubor words (R328 to R336) -/

/-- The fields of a data word from bits 114:0 (R329). -/
def KData.ofBits (f : Nat) : Option KData :=
  match unpackFields [32, 32, 6, 3, 4, 4, 4, 4, 4, 2, 4, 4, 8, 4] f with
  | [n, stride, 0, rm, xb, bb, xa, ba, pf, out, fout, fin, tag, pe, 0] =>
    some ⟨.ofNat 4 pe, .ofNat 8 tag, .ofNat 4 fin, .ofNat 4 fout, .ofNat 2 out, .ofNat 4 pf, .ofNat 4 ba, .ofNat 4 xa,
      .ofNat 4 bb, .ofNat 4 xb, .ofNat 3 rm, .ofNat 32 stride, .ofNat 32 n⟩
  | _ => none

/-- Bits 114:0 from the fields of a data word (R329). -/
def KData.toBits (d : KData) : Nat :=
  packFields [(32, d.n.toNat), (32, d.stride.toNat), (6, 0), (3, d.rm.toNat), (4, d.xb.toNat), (4, d.bb.toNat),
    (4, d.xa.toNat), (4, d.ba.toNat), (4, d.pf.toNat), (2, d.out.toNat), (4, d.fout.toNat), (4, d.fin.toNat),
    (8, d.tag.toNat), (4, d.pe.toNat)]

/-- WAIT by KIND (R334); fields that a kind does not use are zero (log 13). -/
def decodeKWait (k : KHead) (f : Nat) : Option Instr :=
  match unpackFields [32, 70, 4, 4, 3, 2] f with
  | [imm, 0, 0, wv, cw, 0, 0] => some (.waitCnt k (.ofNat 3 cw) (.ofNat 4 wv) (.ofNat 32 imm))
  | [0, 0, wh, wv, 0, 1, 0] => some (.waitGrp k (.ofNat 4 wv) (.ofNat 4 wh))
  | [0, 0, 0, 0, 0, 2, 0] => some (.waitTs k)
  | _ => none

/-- SIG by SOP (R335). -/
def decodeKSig (k : KHead) (f : Nat) : Option Instr :=
  match unpackFields [64, 36, 4, 4, 4, 3] f with
  | [0, 0, 0, wn, 0, 0, 0] => some (.sigArv k (.ofNat 4 wn))
  | [0, 0, 0, wn, wd, 1, 0] => some (.sigJoin k (.ofNat 4 wd) (.ofNat 4 wn))
  | [0, 0, 0, wn, 0, 2, 0] => some (.sigLeave k (.ofNat 4 wn))
  | [0, 0, wa, wn, wd, 3, 0] => some (.sigNew k (.ofNat 4 wd) (.ofNat 4 wn) (.ofNat 4 wa))
  | [imm, 0, wa, wn, 0, 4, 0] => some (.sigStl k (.ofNat 4 wn) (.ofNat 4 wa) (.ofNat 64 imm))
  | _ => none

/-- LOOP (R336). -/
def decodeKLoop (k : KHead) (f : Nat) : Option Instr :=
  match unpackFields [32, 10, 13, 16, 16, 16, 4, 4, 4] f with
  | [imm, len, 0, incj, inci, md, wj, wi, wc, 0] =>
    some (.kuborLoop k ⟨.ofNat 4 wc, .ofNat 4 wi, .ofNat 4 wj, .ofNat 16 md, .ofNat 16 inci, .ofNat 16 incj, .ofNat 10 len, .ofNat 32 imm⟩)
  | _ => none

/-- BRC (R336). -/
def decodeKBrc (k : KHead) (f : Nat) : Option Instr :=
  match unpackFields [32, 72, 3, 4, 4] f with
  | [off, 0, cond, wb, wa, 0] => some (.brc k (.ofNat 4 wa) (.ofNat 4 wb) (.ofNat 3 cond) (.ofNat 32 off))
  | _ => none

/-- A Kubor word of 128 bits (R328). -/
def decodeKubor (w : Nat) : Option Instr :=
  match unpackFields [115, 3, 1, 4, 1, 4] w with
  | [f, cn, ce, tsr, ts, op, 0] =>
    let k : KHead := ⟨ts == 1, .ofNat 4 tsr, ce == 1, .ofNat 3 cn⟩
    match op with
    | 1 => (KData.ofBits f).map (.send k)
    | 2 => (KData.ofBits f).map (.recv k)
    | 3 => (KData.ofBits f).map (.rdc k)
    | 4 => (KData.ofBits f).map (.copy k)
    | 5 => decodeKWait k f
    | 6 => decodeKSig k f
    | 7 => decodeKLoop k f
    | 8 => decodeKBrc k f
    | 9 => if f = 0 then some (.kend k) else none
    | _ => none
  | _ => none

/-- The instruction the decoder reads from an instruction whose bits are w: a Kubor word when the table gives it 128 bits,
otherwise a word of a bundle. The E bit belongs to the bundle and is dropped (log 1). -/
def decodeTableWord (nbits w : Nat) : Option Instr :=
  if nbits = 128 then decodeKubor w
  else
    match readWord (leBytes 20 w) with
    | some (raw, _) => decodeParts raw.parts
    | none => none

/-! ## The encoder -/

/-- The parts of a bundle's word, from the same tables; none for an instruction that is no word of a bundle. -/
def encodeParts (i : Instr) : Option Parts :=
  match i with
  | .nop g => some ⟨0, 0, false, none, g, packFields []⟩
  | .nopw g n => some ⟨0, 1, false, none, g, packFields [(16, n.toNat)]⟩
  | .br g off => some ⟨0, 2, false, none, g, packFields [(16, off.toNat)]⟩
  | .brLong g l => some ⟨0, 2, false, (some l), g, packFields []⟩
  | .brf g p cond off => some ⟨0, 3, false, none, g, packFields [(11, off.toNat), (2, cond.toNat), (3, p.toNat)]⟩
  | .brfLong g p cond l => some ⟨0, 3, false, (some l), g, packFields [(11, 0), (2, cond.toNat), (3, p.toNat)]⟩
  | .jmpi g sh sI sN => some ⟨0, 4, false, none, g, packFields [(5, sN.toNat), (5, sI.toNat), (3, sh.toNat)]⟩
  | .call g off => some ⟨0, 5, false, none, g, packFields [(16, off.toNat)]⟩
  | .callLong g l => some ⟨0, 5, false, (some l), g, packFields []⟩
  | .ret g sN => some ⟨0, 6, false, none, g, packFields [(5, sN.toNat)]⟩
  | .loop g imm sC x l => some ⟨0, 7, true, l, g, packFields [(5, sC.toNat), (11, imm.toNat), (9, x.len.toNat), (3, x.fx.toNat), (26, x.incA.toNat), (26, x.incB.toNat)]⟩
  | .loopx g imm sC x l => some ⟨0, 8, true, l, g, packFields [(5, sC.toNat), (11, imm.toNat), (9, x.len.toNat), (3, x.fx.toNat), (26, x.incA.toNat), (26, x.incB.toNat)]⟩
  | .brp g p pneg off => some ⟨0, 9, false, none, g, packFields [(12, off.toNat), (1, pneg.toNat), (3, p.toNat)]⟩
  | .brpLong g p pneg l => some ⟨0, 9, false, (some l), g, packFields [(12, 0), (1, pneg.toNat), (3, p.toNat)]⟩
  | .join g => some ⟨0, 10, false, none, g, packFields []⟩
  | .jinit g sM j => some ⟨0, 11, false, none, g, packFields [(2, j.toNat), (5, sM.toNat)]⟩
  | .jinitLiteral g j l => some ⟨0, 11, false, (some l), g, packFields [(2, j.toNat), (5, 0)]⟩
  | .jarv g j => some ⟨0, 12, false, none, g, packFields [(2, j.toNat)]⟩
  | .jwait g j => some ⟨0, 13, false, none, g, packFields [(2, j.toNat)]⟩
  | .split g p pneg off => some ⟨0, 14, false, none, g, packFields [(12, off.toNat), (1, pneg.toNat), (3, p.toNat)]⟩
  | .splitLong g p pneg l => some ⟨0, 14, false, (some l), g, packFields [(12, 0), (1, pneg.toNat), (3, p.toNat)]⟩
  | .merge g => some ⟨0, 15, false, none, g, packFields []⟩
  | .regrp g h => some ⟨0, 16, false, none, g, packFields [(3, h.toNat)]⟩
  | .pass g => some ⟨0, 17, false, none, g, packFields []⟩
  | .park g sT => some ⟨0, 18, false, none, g, packFields [(5, sT.toNat)]⟩
  | .spawn g sA => some ⟨0, 19, false, none, g, packFields [(5, sA.toNat)]⟩
  | .exit g => some ⟨0, 20, false, none, g, packFields []⟩
  | .done g => some ⟨0, 21, false, none, g, packFields []⟩
  | .idemb g => some ⟨0, 22, false, none, g, packFields []⟩
  | .ideme g => some ⟨0, 23, false, none, g, packFields []⟩
  | .gnew g sA sN hD => some ⟨0, 24, false, none, g, packFields [(3, hD.toNat), (5, sN.toNat), (5, sA.toNat)]⟩
  | .gjoin g sN hD => some ⟨0, 25, false, none, g, packFields [(3, hD.toNat), (5, sN.toNat)]⟩
  | .gleave g cnt h => some ⟨0, 26, false, none, g, packFields [(3, h.toNat), (1, cnt.toNat)]⟩
  | .garv g cnt h => some ⟨0, 27, false, none, g, packFields [(3, h.toNat), (1, cnt.toNat)]⟩
  | .gwait g h => some ⟨0, 28, false, none, g, packFields [(3, h.toNat)]⟩
  | .gbar g cnt h => some ⟨0, 29, false, none, g, packFields [(3, h.toNat), (1, cnt.toNat)]⟩
  | .gvote g cnt fs h sD => some ⟨0, 30, false, none, g, packFields [(5, sD.toNat), (3, h.toNat), (3, fs.toNat), (1, cnt.toNat)]⟩
  | .grdc g cnt h sC sD op sS => some ⟨0, 31, true, none, g, packFields [(5, sD.toNat), (5, sC.toNat), (3, h.toNat), (1, cnt.toNat), (2, 0), (5, sS.toNat), (4, op.toNat)]⟩
  | .gwin g h => some ⟨0, 32, false, none, g, packFields [(3, h.toNat)]⟩
  | .gqry g which h sD => some ⟨0, 33, false, none, g, packFields [(5, sD.toNat), (3, h.toNat), (3, which.toNat)]⟩
  | .trap g code => some ⟨0, 34, false, none, g, packFields [(16, code.toNat)]⟩
  | .trapLiteral g l => some ⟨0, 34, false, (some l), g, packFields []⟩
  | .sysret g => some ⟨0, 35, false, none, g, packFields []⟩
  | .brk g code => some ⟨0, 36, false, none, g, packFields [(16, code.toNat)]⟩
  | .csrd g cr sD => some ⟨0, 37, false, none, g, packFields [(5, sD.toNat), (11, cr.toNat)]⟩
  | .cswr g cr sS => some ⟨0, 38, false, none, g, packFields [(5, sS.toNat), (11, cr.toNat)]⟩
  | .cswrLiteral g cr l => some ⟨0, 38, false, (some l), g, packFields [(5, 0), (11, cr.toNat)]⟩
  | .brdl g off sM => some ⟨0, 39, false, none, g, packFields [(5, sM.toNat), (11, off.toNat)]⟩
  | .brdlLong g sM l => some ⟨0, 39, false, (some l), g, packFields [(5, sM.toNat), (11, 0)]⟩
  | .add g sb sa sd => some ⟨1, 1, false, none, g, packFields [(5, sd.toNat), (5, sa.toNat), (5, sb.toNat)]⟩
  | .addLiteral g sa sd l => some ⟨1, 1, false, (some l), g, packFields [(5, sd.toNat), (5, sa.toNat), (5, 0)]⟩
  | .sub g sb sa sd => some ⟨1, 2, false, none, g, packFields [(5, sd.toNat), (5, sa.toNat), (5, sb.toNat)]⟩
  | .subLiteral g sa sd l => some ⟨1, 2, false, (some l), g, packFields [(5, sd.toNat), (5, sa.toNat), (5, 0)]⟩
  | .mul g sb sa sd => some ⟨1, 3, false, none, g, packFields [(5, sd.toNat), (5, sa.toNat), (5, sb.toNat)]⟩
  | .mulLiteral g sa sd l => some ⟨1, 3, false, (some l), g, packFields [(5, sd.toNat), (5, sa.toNat), (5, 0)]⟩
  | .mulh g sb sa sd => some ⟨1, 4, false, none, g, packFields [(5, sd.toNat), (5, sa.toNat), (5, sb.toNat)]⟩
  | .mulhLiteral g sa sd l => some ⟨1, 4, false, (some l), g, packFields [(5, sd.toNat), (5, sa.toNat), (5, 0)]⟩
  | .mulhu g sb sa sd => some ⟨1, 5, false, none, g, packFields [(5, sd.toNat), (5, sa.toNat), (5, sb.toNat)]⟩
  | .mulhuLiteral g sa sd l => some ⟨1, 5, false, (some l), g, packFields [(5, sd.toNat), (5, sa.toNat), (5, 0)]⟩
  | .divs g sb sa sd => some ⟨1, 6, false, none, g, packFields [(5, sd.toNat), (5, sa.toNat), (5, sb.toNat)]⟩
  | .divsLiteral g sa sd l => some ⟨1, 6, false, (some l), g, packFields [(5, sd.toNat), (5, sa.toNat), (5, 0)]⟩
  | .divu g sb sa sd => some ⟨1, 7, false, none, g, packFields [(5, sd.toNat), (5, sa.toNat), (5, sb.toNat)]⟩
  | .divuLiteral g sa sd l => some ⟨1, 7, false, (some l), g, packFields [(5, sd.toNat), (5, sa.toNat), (5, 0)]⟩
  | .rems g sb sa sd => some ⟨1, 8, false, none, g, packFields [(5, sd.toNat), (5, sa.toNat), (5, sb.toNat)]⟩
  | .remsLiteral g sa sd l => some ⟨1, 8, false, (some l), g, packFields [(5, sd.toNat), (5, sa.toNat), (5, 0)]⟩
  | .remu g sb sa sd => some ⟨1, 9, false, none, g, packFields [(5, sd.toNat), (5, sa.toNat), (5, sb.toNat)]⟩
  | .remuLiteral g sa sd l => some ⟨1, 9, false, (some l), g, packFields [(5, sd.toNat), (5, sa.toNat), (5, 0)]⟩
  | .and g sb sa sd => some ⟨1, 10, false, none, g, packFields [(5, sd.toNat), (5, sa.toNat), (5, sb.toNat)]⟩
  | .andLiteral g sa sd l => some ⟨1, 10, false, (some l), g, packFields [(5, sd.toNat), (5, sa.toNat), (5, 0)]⟩
  | .or g sb sa sd => some ⟨1, 11, false, none, g, packFields [(5, sd.toNat), (5, sa.toNat), (5, sb.toNat)]⟩
  | .orLiteral g sa sd l => some ⟨1, 11, false, (some l), g, packFields [(5, sd.toNat), (5, sa.toNat), (5, 0)]⟩
  | .xor g sb sa sd => some ⟨1, 12, false, none, g, packFields [(5, sd.toNat), (5, sa.toNat), (5, sb.toNat)]⟩
  | .xorLiteral g sa sd l => some ⟨1, 12, false, (some l), g, packFields [(5, sd.toNat), (5, sa.toNat), (5, 0)]⟩
  | .andn g sb sa sd => some ⟨1, 13, false, none, g, packFields [(5, sd.toNat), (5, sa.toNat), (5, sb.toNat)]⟩
  | .andnLiteral g sa sd l => some ⟨1, 13, false, (some l), g, packFields [(5, sd.toNat), (5, sa.toNat), (5, 0)]⟩
  | .shl g sb sa sd => some ⟨1, 14, false, none, g, packFields [(5, sd.toNat), (5, sa.toNat), (5, sb.toNat)]⟩
  | .shlLiteral g sa sd l => some ⟨1, 14, false, (some l), g, packFields [(5, sd.toNat), (5, sa.toNat), (5, 0)]⟩
  | .shr g sb sa sd => some ⟨1, 15, false, none, g, packFields [(5, sd.toNat), (5, sa.toNat), (5, sb.toNat)]⟩
  | .shrLiteral g sa sd l => some ⟨1, 15, false, (some l), g, packFields [(5, sd.toNat), (5, sa.toNat), (5, 0)]⟩
  | .sar g sb sa sd => some ⟨1, 16, false, none, g, packFields [(5, sd.toNat), (5, sa.toNat), (5, sb.toNat)]⟩
  | .sarLiteral g sa sd l => some ⟨1, 16, false, (some l), g, packFields [(5, sd.toNat), (5, sa.toNat), (5, 0)]⟩
  | .rotl g sb sa sd => some ⟨1, 17, false, none, g, packFields [(5, sd.toNat), (5, sa.toNat), (5, sb.toNat)]⟩
  | .rotlLiteral g sa sd l => some ⟨1, 17, false, (some l), g, packFields [(5, sd.toNat), (5, sa.toNat), (5, 0)]⟩
  | .mins g sb sa sd => some ⟨1, 18, false, none, g, packFields [(5, sd.toNat), (5, sa.toNat), (5, sb.toNat)]⟩
  | .minsLiteral g sa sd l => some ⟨1, 18, false, (some l), g, packFields [(5, sd.toNat), (5, sa.toNat), (5, 0)]⟩
  | .minu g sb sa sd => some ⟨1, 19, false, none, g, packFields [(5, sd.toNat), (5, sa.toNat), (5, sb.toNat)]⟩
  | .minuLiteral g sa sd l => some ⟨1, 19, false, (some l), g, packFields [(5, sd.toNat), (5, sa.toNat), (5, 0)]⟩
  | .maxs g sb sa sd => some ⟨1, 20, false, none, g, packFields [(5, sd.toNat), (5, sa.toNat), (5, sb.toNat)]⟩
  | .maxsLiteral g sa sd l => some ⟨1, 20, false, (some l), g, packFields [(5, sd.toNat), (5, sa.toNat), (5, 0)]⟩
  | .maxu g sb sa sd => some ⟨1, 21, false, none, g, packFields [(5, sd.toNat), (5, sa.toNat), (5, sb.toNat)]⟩
  | .maxuLiteral g sa sd l => some ⟨1, 21, false, (some l), g, packFields [(5, sd.toNat), (5, sa.toNat), (5, 0)]⟩
  | .cmp g fc sb sa fd comb cond l => some ⟨1, 22, true, l, g, packFields [(3, fd.toNat), (5, sa.toNat), (5, sb.toNat), (3, fc.toNat), (4, cond.toNat), (2, comb.toNat)]⟩
  | .flop g tt fb fa fd => some ⟨1, 23, false, none, g, packFields [(3, fd.toNat), (3, fa.toNat), (3, fb.toNat), (4, tt.toNat)]⟩
  | .sel g sb sa sd fc => some ⟨1, 24, true, none, g, packFields [(5, sd.toNat), (5, sa.toNat), (5, sb.toNat), (1, 0), (3, fc.toNat)]⟩
  | .mov g sa sd => some ⟨1, 25, false, none, g, packFields [(5, sd.toNat), (5, sa.toNat)]⟩
  | .movi g imm sd => some ⟨1, 26, false, none, g, packFields [(5, sd.toNat), (11, imm.toNat)]⟩
  | .moviLiteral g sd l => some ⟨1, 26, false, (some l), g, packFields [(5, sd.toNat), (11, 0)]⟩
  | .lea g sb sa sd disp sh l => some ⟨1, 27, true, l, g, packFields [(5, sd.toNat), (5, sa.toNat), (5, sb.toNat), (1, 0), (4, sh.toNat), (32, disp.toNat)]⟩
  | .clz g sa sd => some ⟨1, 28, false, none, g, packFields [(5, sd.toNat), (5, sa.toNat)]⟩
  | .ctz g sa sd => some ⟨1, 29, false, none, g, packFields [(5, sd.toNat), (5, sa.toNat)]⟩
  | .popc g sa sd => some ⟨1, 30, false, none, g, packFields [(5, sd.toNat), (5, sa.toNat)]⟩
  | .bfx g sa sd sgn wid pos => some ⟨1, 31, true, none, g, packFields [(5, sd.toNat), (5, sa.toNat), (6, 0), (6, pos.toNat), (7, wid.toNat), (1, sgn.toNat)]⟩
  | .bfi g sa sd wid pos => some ⟨1, 32, true, none, g, packFields [(5, sd.toNat), (5, sa.toNat), (6, 0), (6, pos.toNat), (7, wid.toNat)]⟩
  | .bcst g sa => some ⟨1, 33, false, none, g, packFields [(5, sa.toNat)]⟩
  | .bcstLiteral g l => some ⟨1, 33, false, (some l), g, packFields [(5, 0)]⟩
  | .cxs g d => some ⟨2, 1, true, none, g, d.toBits⟩
  | .cxsi g d => some ⟨2, 2, true, none, g, d.toBits⟩
  | .cxv g d => some ⟨2, 3, true, none, g, d.toBits⟩
  | .cxvi g d => some ⟨2, 4, true, none, g, d.toBits⟩
  | .vadd g d l => some ⟨3, 1, true, l, g, d.toBits⟩
  | .vsub g d l => some ⟨3, 2, true, l, g, d.toBits⟩
  | .vmul g d l => some ⟨3, 3, true, l, g, d.toBits⟩
  | .vfma g d l => some ⟨3, 4, true, l, g, d.toBits⟩
  | .vmax g d l => some ⟨3, 5, true, l, g, d.toBits⟩
  | .vmin g d l => some ⟨3, 6, true, l, g, d.toBits⟩
  | .vabs g d l => some ⟨3, 7, true, l, g, d.toBits⟩
  | .vneg g d l => some ⟨3, 8, true, l, g, d.toBits⟩
  | .vrcp g d l => some ⟨3, 9, true, l, g, d.toBits⟩
  | .vrsq g d l => some ⟨3, 10, true, l, g, d.toBits⟩
  | .vexp g d l => some ⟨3, 11, true, l, g, d.toBits⟩
  | .vlog g d l => some ⟨3, 12, true, l, g, d.toBits⟩
  | .vtanh g d l => some ⟨3, 13, true, l, g, d.toBits⟩
  | .viadd g d l => some ⟨3, 14, true, l, g, d.toBits⟩
  | .visub g d l => some ⟨3, 15, true, l, g, d.toBits⟩
  | .vimul g d l => some ⟨3, 16, true, l, g, d.toBits⟩
  | .vimad g d l => some ⟨3, 17, true, l, g, d.toBits⟩
  | .vimin g d l => some ⟨3, 18, true, l, g, d.toBits⟩
  | .vimax g d l => some ⟨3, 19, true, l, g, d.toBits⟩
  | .vand g d l => some ⟨3, 20, true, l, g, d.toBits⟩
  | .vor g d l => some ⟨3, 21, true, l, g, d.toBits⟩
  | .vxor g d l => some ⟨3, 22, true, l, g, d.toBits⟩
  | .vshl g d l => some ⟨3, 23, true, l, g, d.toBits⟩
  | .vshr g d l => some ⟨3, 24, true, l, g, d.toBits⟩
  | .vsar g d l => some ⟨3, 25, true, l, g, d.toBits⟩
  | .vcmp g d l => some ⟨3, 26, true, l, g, d.toBits⟩
  | .vsel g d l => some ⟨3, 27, true, l, g, d.toBits⟩
  | .vmov g d l => some ⟨3, 28, true, l, g, d.toBits⟩
  | .vcvt g d l => some ⟨3, 29, true, l, g, d.toBits⟩
  | .vpack g d l => some ⟨3, 30, true, l, g, d.toBits⟩
  | .vunpk g d l => some ⟨3, 31, true, l, g, d.toBits⟩
  | .vreds g d l => some ⟨3, 32, true, l, g, d.toBits⟩
  | .vscan g d l => some ⟨3, 33, true, l, g, d.toBits⟩
  | .vperm g d l => some ⟨3, 34, true, l, g, d.toBits⟩
  | .vlane g d l => some ⟨3, 35, true, l, g, d.toBits⟩
  | .vqcnt g d l => some ⟨3, 36, true, l, g, d.toBits⟩
  | .vcmps g d l => some ⟨3, 37, true, l, g, d.toBits⟩
  | .vqop g d l => some ⟨3, 38, true, l, g, d.toBits⟩
  | .mma g ad oa ob zs za => some ⟨4, 1, true, none, g, packFields [(2, ad.toNat), (5, oa.toNat), (5, ob.toNat), (4, zs.toNat), (1, za.toNat)]⟩
  | .mmsp g ad oa ob zs za om => some ⟨4, 2, true, none, g, packFields [(2, ad.toNat), (5, oa.toNat), (5, ob.toNat), (4, zs.toNat), (1, za.toNat), (1, 0), (5, om.toNat)]⟩
  | .kvmm g ad oq vk zs za => some ⟨4, 3, true, none, g, packFields [(2, ad.toNat), (5, oq.toNat), (6, vk.toNat), (3, 0), (4, zs.toNat), (1, za.toNat)]⟩
  | .kvmv g ad oq vk zs za dsel => some ⟨4, 4, true, none, g, packFields [(2, ad.toNat), (5, oq.toNat), (6, vk.toNat), (3, 0), (4, zs.toNat), (1, za.toNat), (2, dsel.toNat)]⟩
  | .gmma g ad oa vi zs za sT sC => some ⟨4, 5, true, none, g, packFields [(2, ad.toNat), (5, oa.toNat), (6, vi.toNat), (3, 0), (4, zs.toNat), (1, za.toNat), (5, sT.toNat), (5, sC.toNat)]⟩
  | .oclm g n o => some ⟨4, 6, false, none, g, packFields [(5, o.toNat), (3, n.toNat)]⟩
  | .orel g n o => some ⟨4, 7, false, none, g, packFields [(5, o.toNat), (3, n.toNat)]⟩
  | .old g o sA sS tr fmt pitch => some ⟨4, 8, true, none, g, packFields [(5, o.toNat), (5, sA.toNat), (5, sS.toNat), (1, tr.toNat), (4, fmt.toNat), (16, pitch.toNat)]⟩
  | .otag g sU setf fmt o => some ⟨4, 9, false, none, g, packFields [(5, o.toNat), (4, fmt.toNat), (1, setf.toNat), (1, 0), (5, sU.toNat)]⟩
  | .otagQ g sU pd o => some ⟨4, 9, false, none, g, packFields [(5, o.toNat), (3, pd.toNat), (2, 0), (1, 1), (5, sU.toNat)]⟩
  | .otagLiteral g q setf fmt o l => some ⟨4, 9, false, (some l), g, packFields [(5, o.toNat), (4, fmt.toNat), (1, setf.toNat), (1, q.toNat), (5, 0)]⟩
  | .azro g a => some ⟨4, 10, false, none, g, packFields [(2, a.toNat)]⟩
  | .aadd g int_ zs as_ ad => some ⟨4, 11, false, none, g, packFields [(2, ad.toNat), (2, as_.toNat), (4, zs.toNat), (1, int_.toNat)]⟩
  | .adrn g d => some ⟨4, 12, true, none, g, packFields [(2, d.acc.toNat), (1, d.dst.toNat), (5, d.addr.toNat), (4, d.fmt.toNat), (4, d.zs.toNat), (3, d.rm.toNat), (1, d.ftz.toNat), (1, d.clr.toNat), (1, d.int.toNat), (2, d.part.toNat), (16, d.pitch.toNat)]⟩
  | .shp g zd vsrc va sS wm l => some ⟨4, 13, true, l, g, packFields [(3, zd.toNat), (1, vsrc.toNat), (6, va.toNat), (5, sS.toNat), (1, 0), (3, wm.toNat)]⟩
  | .dstq g ok which an pd => some ⟨4, 14, false, none, g, packFields [(3, pd.toNat), (2, an.toNat), (4, which.toNat), (1, ok.toNat)]⟩
  | .scl g va side => some ⟨5, 1, true, none, g, packFields [(6, va.toNat), (10, 0), (2, side.toNat)]⟩
  | .scli g rx cx side l => some ⟨5, 2, true, l, g, packFields [(16, 0), (8, rx.toNat), (8, cx.toNat), (2, side.toNat)]⟩
  | .sclz g => some ⟨5, 3, false, none, g, packFields []⟩
  | .lds g sgn sz sA sD => some ⟨6, 1, false, none, g, packFields [(5, sD.toNat), (5, sA.toNat), (2, sz.toNat), (1, sgn.toNat)]⟩
  | .ldsLiteral g sgn sz sA sD l => some ⟨6, 1, false, (some l), g, packFields [(5, sD.toNat), (5, sA.toNat), (2, sz.toNat), (1, sgn.toNat)]⟩
  | .sts g sz sA sS => some ⟨6, 2, false, none, g, packFields [(5, sS.toNat), (5, sA.toNat), (2, sz.toNat)]⟩
  | .stsLiteral g sz sA sS l => some ⟨6, 2, false, (some l), g, packFields [(5, sS.toNat), (5, sA.toNat), (2, sz.toNat)]⟩
  | .lda g d l => some ⟨6, 3, true, l, g, d.toBits⟩
  | .stl g d l => some ⟨6, 4, true, l, g, d.toBits⟩
  | .stx g d l => some ⟨6, 5, true, l, g, d.toBits⟩
  | .atom g d l => some ⟨6, 6, true, l, g, d.toBits⟩
  | .atcas g d l => some ⟨6, 7, true, l, g, d.toBits⟩
  | .vld g d l => some ⟨6, 8, true, l, g, d.toBits⟩
  | .vst g d l => some ⟨6, 9, true, l, g, d.toBits⟩
  | .vldp g d l => some ⟨6, 10, true, l, g, d.toBits⟩
  | .vstp g d l => some ⟨6, 11, true, l, g, d.toBits⟩
  | .vldg g d l => some ⟨6, 12, true, l, g, d.toBits⟩
  | .vstg g d l => some ⟨6, 13, true, l, g, d.toBits⟩
  | .vatom g d l => some ⟨6, 14, true, l, g, d.toBits⟩
  | .port g gN sL sH boff l => some ⟨6, 15, true, l, g, packFields [(2, gN.toNat), (5, sL.toNat), (5, sH.toNat), (4, 0), (32, boff.toNat)]⟩
  | .cpy g sP sT => some ⟨6, 16, false, none, g, packFields [(5, sT.toNat), (5, sP.toNat)]⟩
  | .cpyl g d => some ⟨6, 17, true, none, g, packFields [(5, d.sT.toNat), (5, d.sB.toNat), (6, d.vO.toNat), (2, d.sz.toNat), (1, d.dir.toNat), (3, d.lq.toNat), (1, d.ln.toNat), (1, d.comm.toNat), (32, d.lbase.toNat)]⟩
  | .cpyw g d => some ⟨6, 18, true, none, g, packFields [(5, d.sT.toNat), (5, d.sA.toNat), (5, d.sB.toNat), (1, d.comm.toNat), (6, d.wx.toNat), (6, d.wy.toNat), (16, d.nch.toNat), (16, d.pitch.toNat), (8, d.esx.toNat), (8, d.esy.toNat)]⟩
  | .cpyk g sT vK sD nblk comm => some ⟨6, 19, true, none, g, packFields [(5, sT.toNat), (6, vK.toNat), (5, sD.toNat), (8, nblk.toNat), (1, comm.toNat)]⟩
  | .fence g scope kind => some ⟨6, 20, false, none, g, packFields [(2, kind.toNat), (3, scope.toNat)]⟩
  | .pfx g sA disp lines l => some ⟨6, 21, true, l, g, packFields [(5, sA.toNat), (11, 0), (32, disp.toNat), (16, lines.toNat)]⟩
  | .xpf g w sE sR layer => some ⟨6, 22, true, none, g, packFields [(5, sR.toNat), (5, sE.toNat), (1, w.toNat), (5, 0), (8, layer.toNat)]⟩
  | .cwb g sA => some ⟨6, 23, false, none, g, packFields [(5, sA.toNat)]⟩
  | .cinv g sA => some ⟨6, 24, false, none, g, packFields [(5, sA.toNat)]⟩
  | .pbinv g sA => some ⟨6, 25, false, none, g, packFields [(5, sA.toNat)]⟩
  | .pgmap g sV sD sz zf perm => some ⟨6, 26, true, none, g, packFields [(5, sD.toNat), (5, sV.toNat), (6, 0), (1, sz.toNat), (1, zf.toNat), (3, perm.toNat)]⟩
  | .tinv g kind sA sT => some ⟨6, 27, false, none, g, packFields [(5, sT.toNat), (5, sA.toNat), (2, kind.toNat)]⟩
  | .btinv g sK sT nblk all => some ⟨6, 28, true, none, g, packFields [(5, sT.toNat), (5, sK.toNat), (6, 0), (16, nblk.toNat), (1, all.toNat)]⟩
  | .kvseq g op sV sQ sD => some ⟨6, 29, false, none, g, packFields [(5, sD.toNat), (5, sQ.toNat), (5, sV.toNat), (1, op.toNat)]⟩
  | .kvseqLiteral g op sQ sD l => some ⟨6, 29, false, (some l), g, packFields [(5, sD.toNat), (5, sQ.toNat), (5, 0), (1, op.toNat)]⟩
  | .xshf g d => some ⟨7, 1, true, none, g, d.toBits⟩
  | .xred g d => some ⟨7, 2, true, none, g, d.toBits⟩
  | .xbc g d => some ⟨7, 3, true, none, g, d.toBits⟩
  | .xvot g vd sD pn ps => some ⟨7, 4, true, none, g, packFields [(3, ps.toNat), (1, pn.toNat), (1, 0), (5, sD.toNat), (6, vd.toNat)]⟩
  | .xpick g d => some ⟨7, 5, true, none, g, packFields [(6, d.vd.toNat), (6, d.va.toNat), (3, d.lq.toNat), (1, d.ln.toNat), (3, d.ps.toNat), (1, d.pn.toNat), (5, d.sD.toNat), (1, d.hi.toNat)]⟩
  | .xsnd g opnd ch => some ⟨7, 6, false, none, g, packFields [(10, ch.toNat), (6, opnd.toNat)]⟩
  | .xrcv g opnd ch => some ⟨7, 7, false, none, g, packFields [(10, ch.toNat), (6, opnd.toNat)]⟩
  | .xrca g opnd ch => some ⟨7, 8, false, none, g, packFields [(10, ch.toNat), (6, opnd.toNat)]⟩
  | .xchs g sD ch => some ⟨7, 9, false, none, g, packFields [(10, ch.toNat), (5, sD.toNat)]⟩
  | .chld g sA ch => some ⟨7, 10, false, none, g, packFields [(10, ch.toNat), (5, sA.toNat)]⟩
  | .kld g psel sA sD => some ⟨7, 11, false, none, g, packFields [(5, sD.toNat), (5, sA.toNat), (2, psel.toNat)]⟩
  | .kldLiteral g psel sD l => some ⟨7, 11, false, (some l), g, packFields [(5, sD.toNat), (5, 0), (2, psel.toNat)]⟩
  | .kgo g sR sP => some ⟨7, 12, false, none, g, packFields [(5, sP.toNat), (5, sR.toNat)]⟩
  | .kwt g rel sP sD => some ⟨7, 13, false, none, g, packFields [(5, sD.toNat), (5, sP.toNat), (1, rel.toNat)]⟩
  | _ => none

/-- A word's bytes (R165) with its E bit. -/
def wordBytes (last : Bool) (p : Parts) : List Byte :=
  let len := p.ext.toNat + 2 * p.lit.isSome.toNat
  let base := packFields [(2, len), (3, p.cls), (1, last.toNat), (3, p.gate.pred.toNat), (1, p.gate.neg.toNat),
    (6, p.op), (16, p.f)]
  leBytes 4 base ++ (if p.ext then leBytes 8 (p.f / 65536) else []) ++
    (match p.lit with | some l => leBytes 8 l.toNat | none => [])

/-- The bytes of a word of a bundle, E as given. -/
def encodeWord (last : Bool) (i : Instr) : Option (List Byte) := (encodeParts i).map (wordBytes last)

/-- Bits 127:0 of a Kubor word from its head, opcode and bits 114:0 (R328). -/
def kuborBits (k : KHead) (op f : Nat) : Nat :=
  packFields [(115, f), (3, k.cn.toNat), (1, k.ce.toNat), (4, k.tsr.toNat), (1, k.ts.toNat), (4, op)]

/-- The 128 bits of a Kubor word; none for another instruction. -/
def encodeKubor (i : Instr) : Option Nat :=
  match i with
  | .send k d => some (kuborBits k 1 d.toBits)
  | .recv k d => some (kuborBits k 2 d.toBits)
  | .rdc k d => some (kuborBits k 3 d.toBits)
  | .copy k d => some (kuborBits k 4 d.toBits)
  | .waitCnt k cw wv imm => some (kuborBits k 5 (packFields [(32, imm.toNat), (70, 0), (4, 0), (4, wv.toNat), (3, cw.toNat), (2, 0)]))
  | .waitGrp k wv wh => some (kuborBits k 5 (packFields [(32, 0), (70, 0), (4, wh.toNat), (4, wv.toNat), (3, 0), (2, 1)]))
  | .waitTs k => some (kuborBits k 5 (packFields [(32, 0), (70, 0), (4, 0), (4, 0), (3, 0), (2, 2)]))
  | .sigArv k wn => some (kuborBits k 6 (packFields [(64, 0), (36, 0), (4, 0), (4, wn.toNat), (4, 0), (3, 0)]))
  | .sigJoin k wd wn => some (kuborBits k 6 (packFields [(64, 0), (36, 0), (4, 0), (4, wn.toNat), (4, wd.toNat), (3, 1)]))
  | .sigLeave k wn => some (kuborBits k 6 (packFields [(64, 0), (36, 0), (4, 0), (4, wn.toNat), (4, 0), (3, 2)]))
  | .sigNew k wd wn wa => some (kuborBits k 6 (packFields [(64, 0), (36, 0), (4, wa.toNat), (4, wn.toNat), (4, wd.toNat), (3, 3)]))
  | .sigStl k wn wa imm => some (kuborBits k 6 (packFields [(64, imm.toNat), (36, 0), (4, wa.toNat), (4, wn.toNat), (4, 0), (3, 4)]))
  | .kuborLoop k f => some (kuborBits k 7 (packFields [(32, f.imm.toNat), (10, f.len.toNat), (13, 0), (16, f.incj.toNat),
      (16, f.inci.toNat), (16, f.md.toNat), (4, f.wj.toNat), (4, f.wi.toNat), (4, f.wc.toNat)]))
  | .brc k wa wb cond off => some (kuborBits k 8 (packFields [(32, off.toNat), (72, 0), (3, cond.toNat), (4, wb.toNat), (4, wa.toNat)]))
  | .kend k => some (kuborBits k 9 0)
  | _ => none

end Sys2Proof
end

