-- ==== Sys2Proof/Machine/Fetch.lean ====
section
/-!
DEFINITION. Code: segments and their expansion, the loop buffer, framing, loop increments (R24 to R26, R97, R168, R200,
R206 to R208, R343 to R346).
-/
namespace Sys2Proof.Machine

/-! ## Segments (R343, R344) -/

/-- Read n code bytes, page by page; the first page that fails gives its reason. -/
def State.codeBytes : Nat → State → Party → Nat → Nat → Except Nat (List Byte)
  | 0, _, _, _, _ => .ok []
  | fuel + 1, s, p, va, n =>
    if n = 0 then .ok []
    else match s.flatPage p .code va with
      | .error r => .error r
      | .ok h =>
        let k := min n (2 ^ h.bits - va % 2 ^ h.bits)
        match State.codeBytes fuel s p (va + k) (n - k) with
        | .error r => .error r
        | .ok t => .ok (s.physRead (s.regionKey p.region) (h.base + va % 2 ^ h.bits) k ++ t)

/-- Expand a dictionary body (R344): exactly the bytes given, n emitted words; none when malformed. -/
def expandItems (dict : List (List Byte)) : Nat → List Byte → Option (List Byte)
  | 0, [] => some []
  | 0, _ :: _ => none
  | _ + 1, [] => none
  | n + 1, c :: bs =>
    if c.toNat < dict.length then (expandItems dict n bs).map (fun t => dict.getD c.toNat [] ++ t)
    else if c = 0xFF then
      match bs with
      | b0 :: b1 :: b2 :: b3 :: rest => (expandItems dict n rest).map (fun t => b0 :: b1 :: b2 :: b3 :: t)
      | _ => none
    else none

/-- Cut a byte list into words of four. -/
def fours : Nat → List Byte → List (List Byte)
  | 0, _ => []
  | n + 1, bs => bs.take 4 :: fours n (bs.drop 4)

/-- Fetch and expand the segment of slot W (R343, R344). Where a KIND 0 segment whose CLEN is wrong has a body that does not translate, the
fetch of the body fails first (DESIGN CHOICE, log 46). -/
def State.expand (s : State) (p : Party) (w : Nat) : Except Nat Segment :=
  match s.codeBytes 3 p w 32 with
  | .error r => .error r
  | .ok hd =>
    let at_ (o n : Nat) : Nat := leValue ((hd.drop o).take n)
    let next := at_ 0 8
    let body := at_ 8 8
    let elen := at_ 16 2
    let clen := at_ 18 2
    let kind := at_ 20 1
    let dn := at_ 21 1
    if next % 2048 ≠ 0 ∨ body % 4 ≠ 0 ∨ elen = 0 ∨ 512 < elen ∨ clen = 0 ∨ 2560 < clen ∨ 1 < kind ∨ 64 < dn ∨
       (kind = 0 ∧ dn ≠ 0) ∨ at_ 22 8 ≠ 0 ∨ at_ 30 2 ≠ 0 then .error rPROT
    else match s.codeBytes 3 p body (4 * dn + clen) with
      | .error r => .error r
      | .ok bs =>
        let text := bs.drop (4 * dn)
        if kind = 0 then
          if clen = elen * 4 then .ok ⟨p.region, w, text, next⟩ else .error rPROT
        else match expandItems (fours dn bs) elen text with
          | some out => .ok ⟨p.region, w, out, next⟩
          | none => .error rPROT

/-- What the fetch of the segment of slot W leaves besides it: the misses of its pages and errors met by what it reads (R399, R435). -/
def State.codeTouch (s : State) (v : EccVictim) (p : Party) (w : Nat) : State :=
  match s.codeBytes 3 p w 32 with
  | .error _ => s.touch v p .code w 32
  | .ok hd =>
    let body := leValue ((hd.drop 8).take 8)
    let n := 4 * leValue ((hd.drop 21).take 1) + leValue ((hd.drop 18).take 2)
    let pages := ([w, body, body + n - 1].map (fun a => a / 65536)).eraseDups
    pages.foldl (fun t q =>
      let from_ := max body (q * 65536)
      let t1 := if w / 65536 = q then t.touch v p .code w 32 else t
      if from_ < min (body + n) (q * 65536 + 65536) then t1.touch v p .code from_ (min (body + n) (q * 65536 + 65536) - from_) else t1) s

/-! ## Arrival (R40, R207) -/

/-- The back edge of a kernel: issue falls through into E, and no loop that ends there is still to be seen to (R40). -/
def Ctx.backEdge (c : Ctx) : Ctx :=
  match c.pipe with
  | some p => if p.inKernel && !c.sup && c.pc == p.e && !(c.loopNow.any (fun l => l.stop == p.e)) then { c with pc := p.k } else c
  | none => c

/-- What happens when issue reaches a loop's end: the state, and whether the stack depth is wrong. -/
def State.loopArrive (s : State) (cid : Nat) : State × Bool :=
  let c := s.ctxAt cid
  match c.loopNow with
  | none => (s, false)
  | some l =>
    if c.pc ≠ l.stop then (s, false)
    else if c.depth ≠ l.depth then (s, true)
    else if l.pass + 1 = l.count || (match l.exitF with | some f => !(s.rF f) | none => false) then (s.setCtx cid { c with loop := none }.backEdge, false)
    else (s.setCtx cid { c with loop := some { l with pass := l.pass + 1 }, pc := l.start }, false)

/-- What happens when issue reaches a kernel: the state, whether the stack depth is wrong, and the engines whose iteration counts
once the bundle issues. -/
def State.kernelArrive (s : State) (cid : Nat) : State × Bool × Option Mask :=
  let c := (s.ctxAt cid).backEdge
  match c.pipe with
  | none => (s, false, none)
  | some p =>
    if c.sup || c.pc ≠ p.k then (s, false, none)
    else
      let q : PipeState := if p.inKernel then p else { p with runMask := c.active, kdepth := c.depth, inKernel := true }
      if c.depth ≠ q.kdepth then (s.setCtx cid { c with pipe := some q }, true, none)
      else
        let run := q.runMask &&& c.live &&& ofEngineBits (fun e => match tableFind c.items e with
          | some it => decide (it.iters < it.trip)
          | none => false)
        if run = 0 then
          (s.setCtx cid { c with pipe := some { q with inKernel := false }, active := q.runMask &&& c.live, pc := q.e }, false, none)
        else (s.setCtx cid { c with pipe := some q, active := run }, false, some run)

/-- A context once issue has reached its address: a loop whose end it is has gone round or is over, and a kernel's end is its start. -/
def State.arrived (s : State) (cid : Nat) : Ctx :=
  ((({ s with focus := cid, issue := {} } : State).loopArrive cid).1.ctxAt cid).backEdge

/-- The address at which a context issues next: past the ends of a loop and of a kernel that it has reached. -/
def State.issuesAt (s : State) (cid : Nat) : Nat := (((s.setCtx cid (s.arrived cid)).kernelArrive cid).1.ctxAt cid).pc

/-! ## The loop buffer (R24, R26) -/

/-- Slot of a code address. -/
def slotOf (pc : Nat) : Nat := pc / 2048 * 2048

/-- The segment of a slot that a sequencer holds, for a region. -/
def Seq.find (q : Seq) (region w : Nat) : Option Segment :=
  let fits (g : Segment) : Bool := g.base == w && g.region == region
  (q.lower.filter fits).or (q.upper.filter fits)

/-- A loop buffer without the segments of some regions. -/
def Seq.forget (q : Seq) (gone : Nat → Bool) : Seq :=
  { q with lower := q.lower.filter (fun g => !(gone g.region)), upper := q.upper.filter (fun g => !(gone g.region)) }

/-- The sequencer of a context. -/
def State.seqOf (s : State) (cid : Nat) : Seq := tableGet s.seqs (s.ctxAt cid).place.seqKey {}

/-- Change the sequencer of a context. -/
def State.setSeq (s : State) (cid : Nat) (q : Seq) : State := { s with seqs := tableInsert s.seqs (s.ctxAt cid).place.seqKey q }

/-- The segment that a context runs: its region and the slot at which it issues next. -/
def State.runsAt (s : State) (cid : Nat) : Nat × Nat := ((s.ctxAt cid).region, slotOf (s.issuesAt cid))

/-- Whether the sequencer's other context runs another segment (R26). -/
def State.runsApart (s : State) (cid : Nat) : Bool := (s.otherOn cid).any (fun o => s.runsAt o != s.runsAt cid)

/-- The half of the loop buffer that is a context's own while the two run different segments (R26). -/
def Seq.half (q : Seq) (ctxNo : Nat) : Seq := if ctxNo = 0 then { q with upper := none } else { q with lower := none }

/-- The expanded segment that holds a code address, in a context's loop buffer, or in its own half of it. R25 and R26 do not say what a
context does whose segment stands in the other's half when the two begin to run apart: it fetches it again into its own half, and sees what
has been stored since (DESIGN CHOICE, log 46). -/
def State.segAt (s : State) (cid pc : Nat) : Option Segment :=
  let q := s.seqOf cid
  (if s.runsApart cid then q.half (s.ctxAt cid).place.ctxNo else q).find (s.ctxAt cid).region (slotOf pc)

/-- Put a segment into the half that R26 gives the context: each context its own half when they run different
segments, else the half that does not hold the segment being executed. Which half takes the target of a transfer when neither holds what is
executed R24 does not say: the lower one (DESIGN CHOICE, log 46). -/
def State.putSegment (s : State) (cid : Nat) (g : Segment) : State :=
  let q := s.seqOf cid
  let toLower : Bool := if s.runsApart cid then (s.ctxAt cid).place.ctxNo == 0
    else !(q.lower.any (fun a => (a.region, a.base) == s.runsAt cid))
  s.setSeq cid (if toLower then { q with lower := some g } else { q with upper := some g })

/-! ## Framing of a loop body (R208) -/

/-- The words from address a up to address `stop`: address, whether the word ends its bundle, its length and parts. -/
def bodyWords : Nat → Nat → Nat → List Byte → List (Nat × RawWord)
  | 0, _, _, _ => []
  | n + 1, a, stop, bs =>
    if stop ≤ a then []
    else match readWord bs with
      | some (raw, rest) => (a, raw) :: bodyWords n (a + raw.len) stop rest
      | none => []

/-- The expanded segment that holds the start of a loop's body: in the buffer, or as its fetch gives it. -/
def State.loopSegment (s : State) (cid start : Nat) : Except Nat Segment :=
  match s.segAt cid start with
  | some g => .ok g
  | none => s.expand (s.partyOf cid) (slotOf start)

/-- The words of a loop body that lies between two addresses of a segment. -/
def Segment.loopWords (g : Segment) (start stop : Nat) : Option (List (Nat × RawWord)) :=
  if g.base + g.bytes.length < stop then none
  else
    let ws := bodyWords 512 start stop (g.bytes.drop (start - g.base))
    match ws.getLast? with
    | some (a, raw) => if raw.last && a + raw.len == stop then some ws else none
    | none => none

/-- Width of a descriptor's field by WID (R206). -/
def incWidth (wid : Nat) : Nat :=
  match wid with
  | 0 => 2 | 1 => 5 | _ => 6

/-- The conditions R208 sets on a descriptor at issue. -/
def incOk (d : BitVec 26) (ws : List (Nat × RawWord)) : Bool :=
  let x := d.toNat
  if !x.testBit 25 || x.testBit 24 then true
  else match ws[bits x 18 6]? with
    | some (_, raw) => decide (bits x 11 7 + incWidth (bits x 8 3) ≤ if raw.parts.ext then 80 else 16)
    | none => false

/-- Step an operand field (R207). -/
def incField (d : BitVec 26) (ord pass f : Nat) : Nat :=
  let x := d.toNat
  if x.testBit 25 && !x.testBit 24 && bits x 18 6 == ord then
    let pos := bits x 11 7
    let wid := bits x 8 3
    let w := incWidth wid
    let old := bits f pos w
    let inc := toSigned 8 (bits x 0 8) * pass
    if wid = 2 then (if old < 32 then putBits f pos 6 (wrapInt 5 ((old : Int) + inc)) else f)
    else putBits f pos w (wrapInt w ((old : Int) + inc))
  else f

/-- The operand field area of the word at an address on this pass of the loop. -/
def State.stepped (s : State) (c : Ctx) (cid addr : Nat) (p : Parts) : Parts :=
  match c.loopNow, s.segAt cid addr with
  | some l, some g =>
    if addr < l.start || l.stop ≤ addr then p
    else match (g.loopWords l.start l.stop).bind (fun ws => ws.findIdx? (fun e => e.1 == addr)) with
      | none => p
      | some ord => { p with f := incField l.descB ord l.pass (incField l.descA ord l.pass p.f) }
  | _, _ => p

end Sys2Proof.Machine
end

