-- ==== Sys2Proof/Machine/Control.lean ====
section
/-!
DEFINITION. The C class but for items, groups and control registers: transfers, loops, divergence, rejoin, landings,
traps and the return from the handler (R43 to R46, R202 to R212, R216, R219, R220).
-/
namespace Sys2Proof.Machine

/-- A C word without further conditions. -/
def ctl (i : Instr) (g : Gate) (uses : List Dest) (check : State → Verdict) (eff : State → State) (s : State) : Answer :=
  runFlag i 0 g uses check eff s

/-! ## NOP and transfers (R202 to R205) -/

/-- NOP (R205). -/
def execNop (g : Gate) (s : State) : Answer := ctl (.nop g) g [] free id s

/-- NOPW: the context holds N cycles, at least one (R205). -/
def execNopw (g : Gate) (n : BitVec 16) (s : State) : Answer :=
  ctl (.nopw g n) g [] free (fun t => t.delay (max 1 n.toNat)) s

/-- BR, short form (R202). -/
def execBr (g : Gate) (off : BitVec 16) (s : State) : Answer :=
  ctl (.br g off) g [] free (fun t => (t.goto (t.target 16 off.toNat)).delay 2) s

/-- BR, long form (R200, R202). -/
def execBrLong (g : Gate) (target : Dword) (s : State) : Answer :=
  ctl (.brLong g target) g [] (fun t => t.targetCheck target false) (fun t => (t.goto target.toNat).delay 2) s

/-- The active engines whose predicate is true at the sequencer, possibly negated (R202, R209). -/
def State.predMask (s : State) (p : BitVec 3) (neg : Bool) : Mask :=
  ofEngineBits (fun e => s.was.active.getLsbD e && (s.rPseq e p != neg))

/-- Take a transfer when BRF's condition holds (R202). -/
def State.brf (s : State) (p : BitVec 3) (cond : BitVec 2) (t : Nat) : State :=
  (if brfCond cond.toNat s.was.active (s.predMask p false) then s.goto t else s).delay 2

/-- BRF, short form. -/
def execBrf (g : Gate) (p : BitVec 3) (cond : BitVec 2) (off : BitVec 11) (s : State) : Answer :=
  ctl (.brf g p cond off) g [] free (fun t => t.brf p cond (t.target 11 off.toNat)) s

/-- BRF, long form. -/
def execBrfLong (g : Gate) (p : BitVec 3) (cond : BitVec 2) (target : Dword) (s : State) : Answer :=
  ctl (.brfLong g p cond target) g [] (fun t => t.targetCheck target false) (fun t => t.brf p cond target.toNat) s

/-- JMPI (R204). -/
def execJmpi (g : Gate) (sh : BitVec 3) (sI sN : BitVec 5) (s : State) : Answer :=
  ctl (.jmpi g sh sI sN) g (useS [sI, sN]) (fun t => t.targetCheck (t.rS sN + t.rS sI <<< sh.toNat) true)
    (fun t => (t.goto (t.rS sN + t.rS sI <<< sh.toNat).toNat).delay 3) s

/-- Write the link and transfer (R204). -/
def State.call (s : State) (t : Nat) : State := ((s.wS 31 (BitVec.ofNat 64 s.issue.next) 2).goto t).delay 2

/-- CALL, short form. -/
def execCall (g : Gate) (off : BitVec 16) (s : State) : Answer :=
  ctl (.call g off) g (useS [31]) free (fun t => t.call (t.target 16 off.toNat)) s

/-- CALL, long form. -/
def execCallLong (g : Gate) (target : Dword) (s : State) : Answer :=
  ctl (.callLong g target) g (useS [31]) (fun t => t.targetCheck target false) (fun t => t.call target.toNat) s

/-- RET (R204). -/
def execRet (g : Gate) (sN : BitVec 5) (s : State) : Answer :=
  ctl (.ret g sN) g (useS [sN]) (fun t => t.targetCheck (t.rS sN) true) (fun t => (t.goto (t.rS sN).toNat).delay 3) s

/-- The nearest deadline of the items of active engines (R203). -/
def State.deadline (s : State) : Option Nat :=
  minList (((s.ctxAt s.owner).items.filter (fun e => s.was.active.getLsbD e.1 && decide (e.2.deadline ≠ 0))).map (fun e => e.2.deadline))

/-- Take a transfer when TIME + sM has reached the deadline (R203). -/
def State.brdl (s : State) (sM : BitVec 5) (t : Nat) : State :=
  (match s.deadline with
   | some dl => if dl ≤ (BitVec.ofNat 64 s.time + s.rS sM).toNat then s.goto t else s
   | none => s).delay 2

/-- BRDL, short form. -/
def execBrdl (g : Gate) (off : BitVec 11) (sM : BitVec 5) (s : State) : Answer :=
  ctl (.brdl g off sM) g (useS [sM]) free (fun t => t.brdl sM (t.target 11 off.toNat)) s

/-- BRDL, long form. -/
def execBrdlLong (g : Gate) (sM : BitVec 5) (target : Dword) (s : State) : Answer :=
  ctl (.brdlLong g sM target) g (useS [sM]) (fun t => t.targetCheck target false) (fun t => t.brdl sM target.toNat) s

/-! ## Loops (R206 to R208) -/

/-- End of a loop body (R207). -/
def State.loopStop (s : State) (x : LoopExt) : Nat := s.issue.next + (x.len.toNat + 1) * 4

/-- The count of a loop (R207). -/
def State.loopCount (s : State) (imm : BitVec 11) (sC : BitVec 5) (lit : Option Dword) : Nat :=
  ((s.rS sC).toNat + (match lit with | some l => l.toNat | none => imm.toNat)) % 2 ^ 32

/-- The conditions at issue (R40, R208, R216). A body whose segment cannot be fetched meets that fault where it starts (R200). -/
def State.loopCheck (s : State) (x : LoopExt) : Verdict :=
  let stop := s.loopStop x
  let inBody (a : Nat) : Bool := s.issue.next ≤ a && a < stop
  s.need 0 (s.was.loop.isNone && s.was.idem.isNone &&
    (match s.was.pipe with | some p => !(inBody p.k) && !(inBody p.e) | none => true) &&
    (match s.loopSegment s.focus s.issue.next with
     | .ok g => (g.loopWords s.issue.next stop).any (fun ws => incOk x.incA ws && incOk x.incB ws)
     | .error _ => true))

/-- Set the loop, or skip its body when the count is 0 (R207). -/
def State.loopSet (s : State) (imm : BitVec 11) (sC : BitVec 5) (x : LoopExt) (lit : Option Dword) (exitF : Option (BitVec 3)) : State :=
  let n := s.loopCount imm sC lit
  if n = 0 then s.mod (fun c => { c with pc := s.loopStop x })
  else s.mod (fun c => { c with
    pc := s.issue.next
    loop := some ⟨s.issue.next, s.loopStop x, n, 0, c.depth, exitF, x.incA, x.incB, c.sup⟩ })

/-- LOOP (R207). -/
def execLoop (g : Gate) (imm : BitVec 11) (sC : BitVec 5) (x : LoopExt) (lit : Option Dword) (s : State) : Answer :=
  ctl (.loop g imm sC x lit) g (useS [sC]) (fun t => t.loopCheck x) (fun t => t.loopSet imm sC x lit none) s

/-- LOOPX (R207). -/
def execLoopx (g : Gate) (imm : BitVec 11) (sC : BitVec 5) (x : LoopExt) (lit : Option Dword) (s : State) : Answer :=
  ctl (.loopx g imm sC x lit) g (useS [sC]) (fun t => t.loopCheck x) (fun t => t.loopSet imm sC x lit (some x.fx)) s

/-! ## Divergence (R43 to R46, R209) -/

/-- A reason trapped with one sequencer-side record when a condition fails. -/
def State.demand (s : State) (reason : Nat) (ok : Bool) : Verdict := if ok then .ok else .trap false [s.seqRec reason 0 0 0]

/-- Engines that take the branch, and those that do not. -/
def State.paths (s : State) (p : BitVec 3) (neg : Bool) : Mask × Mask :=
  let t := s.predMask p neg
  (t, Mask.less s.was.active t)

/-- The checks of BRP (R43, R208). -/
def State.brpCheck (s : State) (p : BitVec 3) (neg : Bool) (t : Nat) : Verdict :=
  (s.demand rSTKOV (s.was.depth < Config.stackDepth)).and
    (s.need 0 (if (s.paths p neg).2 ≠ 0 then s.loopAllows s.issue.next true else s.loopAllows t false))

/-- BRP (R43). -/
def State.brp (s : State) (p : BitVec 3) (neg : Bool) (t : Nat) : State :=
  let (tk, fl) := s.paths p neg
  (s.mod (fun c =>
    if fl ≠ 0 then { c with stack := ⟨t, 0, 0, tk, c.active, 0⟩ :: c.stack, active := fl, pc := s.issue.next }
    else ({ c with stack := ⟨0, 0, 0, 0, c.active, 0⟩ :: c.stack, active := tk, pc := t } : Ctx).leaveKernel t)).delay 2

/-- BRP, short form. -/
def execBrp (g : Gate) (p : BitVec 3) (pneg : Bool) (off : BitVec 12) (s : State) : Answer :=
  ctl (.brp g p pneg off) g [] (fun t => t.brpCheck p pneg (t.target 12 off.toNat)) (fun t => t.brp p pneg (t.target 12 off.toNat)) s

/-- BRP, long form. -/
def execBrpLong (g : Gate) (p : BitVec 3) (pneg : Bool) (target : Dword) (s : State) : Answer :=
  ctl (.brpLong g p pneg target) g [] (fun t => (t.targetCheck target false).and (t.brpCheck p pneg target.toNat))
    (fun t => t.brp p pneg target.toNat) s

/-- JOIN on the top entry (R43). -/
def Ctx.join (c : Ctx) (next : Nat) : Ctx :=
  match c.stack with
  | [] => c
  | e :: t =>
    if e.pend ≠ 0 then ({ c with active := e.pend, pc := e.paddr, stack := { e with pend := 0 } :: t } : Ctx).leaveKernel e.paddr
    else { c with active := e.entry &&& c.live, stack := t, pc := next }

/-- The checks of JOIN (R43, R208). -/
def State.joinCheck (s : State) : Verdict :=
  match s.was.stack with
  | [] => s.demand rSTKUN false
  | e :: _ => (s.need 0 (e.kind == 0)).and
      (s.need 0 (if e.pend ≠ 0 then s.loopAllows e.paddr false else s.loopAllows s.issue.next true))

/-- JOIN. -/
def execJoin (g : Gate) (s : State) : Answer :=
  ctl (.join g) g [] State.joinCheck (fun t => (t.mod (fun c => c.join t.issue.next)).delay 2) s

/-- A free landing context of a die, the lowest (R42, R45, log 9). -/
def State.freeLanding (s : State) (d : Nat) : Option Nat :=
  firstFree (s.ctxs.filterMap (fun e => match e.2.place with
    | .landing x l _ _ => if x = d then some l else none
    | _ => none)) (2 * Config.landingsPerDie)

/-- The landing that the parallel form takes, when its conditions hold (R45, R209, R40). -/
def State.splitLanding (s : State) (p : BitVec 3) (neg : Bool) : Option Nat :=
  let (tk, fl) := s.paths p neg
  if tk ≠ 0 ∧ fl ≠ 0 ∧ !s.was.isLanding ∧ !s.was.sup ∧ !(s.was.pipe.any PipeState.inKernel) then s.freeLanding s.me.place.die
  else none

/-- The engine of a destination in the engines. -/
def Dest.eid : Dest → Option Nat
  | .v e _ | .p e _ | .q e _ | .z e _ | .acc e _ | .slot e _ | .tag e _ | .drain e _ => some e
  | _ => none

/-- Whether a destination lies in some engines. -/
def Dest.inMask (m : Mask) (d : Dest) : Bool := d.eid.any (fun e => m.getLsbD e)

/-- The context that a parallel SPLIT starts (R45). What is under way in the engines it is lent goes with them, words of SPLIT's own bundle
included; registers of the sequencer are copied as the bundle finds them (R174). -/
def State.landingCtx (s : State) (land : Nat) (tk : Mask) (t : Nat) : Ctx :=
  let c := s.was
  { scalars := c.scalars, flags := c.flags, handles := c.handles, ports := c.ports
    active := tk, live := tk, pc := t, hvec := c.hvec, cwthr := c.cwthr, key := c.key, region := c.region
    place := .landing s.me.place.die land s.me.place.gangNo s.me.place.engCtx
    parent := s.focus, kind := c.kind, started := s.now, nextIssue := s.cycle + 4
    pending := c.pending.filter (fun d => !d.inEngine), tokens := c.tokens
    inflight := c.inflight.filter (fun e => !e.dest.inEngine) ++ s.me.inflight.filter (fun e => e.dest.inMask tk)
    recvs := (s.me.recvs.filter (fun r => tk.getLsbD r.eid)).map (fun r => { r with lent := true }) }

/-- The parallel form (R45). -/
def State.splitPar (s : State) (land : Nat) (tk fl : Mask) (t : Nat) : State :=
  let l := s.landingCtx land tk t
  let s1 := { s with ctxs := tableInsert s.ctxs s.nextCid l, nextCid := s.nextCid + 1 }
  let q := tableGet s1.seqs l.place.seqKey {}
  let s2 := if (s1.otherOn s.nextCid).isNone then { s1 with seqs := tableInsert s1.seqs l.place.seqKey { q with token := land % 2 } } else s1
  s2.mod (fun c => { c with
    stack := ⟨0, 1, land, 0, c.active, s.nextCid⟩ :: c.stack, active := fl, lent := c.lent ||| tk, pc := s.issue.next
    inflight := c.inflight.filter (fun e => !(e.dest.inMask tk)), recvs := c.recvs.filter (fun r => !(tk.getLsbD r.eid)) })

/-- The serial form (R45). -/
def State.splitSer (s : State) (tk fl : Mask) (t : Nat) : State :=
  s.mod (fun c =>
    if tk = 0 then { c with stack := ⟨s.issue.next, 0, 0, 0, c.active, 0⟩ :: c.stack, active := fl, pc := s.issue.next }
    else ({ c with stack := ⟨s.issue.next, 0, 0, fl, c.active, 0⟩ :: c.stack, active := tk, pc := t } : Ctx).leaveKernel t)

/-- The checks of SPLIT (R45, R208, R216). -/
def State.splitCheck (s : State) (p : BitVec 3) (neg : Bool) (t : Nat) : Verdict :=
  (s.demand rSTKOV (s.was.depth < Config.stackDepth)).and ((s.need 0 s.was.idem.isNone).and
    (s.need 0 (if (s.splitLanding p neg).isSome || (s.paths p neg).1 = 0 then s.loopAllows s.issue.next true else s.loopAllows t false)))

/-- SPLIT. -/
def State.split (s : State) (p : BitVec 3) (neg : Bool) (t : Nat) : State :=
  let (tk, fl) := s.paths p neg
  (match s.splitLanding p neg with
   | some l => s.splitPar l tk fl t
   | none => s.splitSer tk fl t).delay 4

/-- SPLIT, short form. -/
def execSplit (g : Gate) (p : BitVec 3) (pneg : Bool) (off : BitVec 12) (s : State) : Answer :=
  ctl (.split g p pneg off) g [] (fun t => t.splitCheck p pneg (t.target 12 off.toNat)) (fun t => t.split p pneg (t.target 12 off.toNat)) s

/-- SPLIT, long form. -/
def execSplitLong (g : Gate) (p : BitVec 3) (pneg : Bool) (target : Dword) (s : State) : Answer :=
  ctl (.splitLong g p pneg target) g [] (fun t => (t.targetCheck target false).and (t.splitCheck p pneg target.toNat))
    (fun t => t.split p pneg target.toNat) s

/-- The checks and the hold of MERGE (R46, R209). -/
def State.mergeCheck (s : State) : Verdict :=
  if s.was.isLanding then s.need 0 s.was.stack.isEmpty
  else match s.was.stack with
    | e :: _ =>
      if e.kind = 1 then (if (tableFind s.ctxs e.child).isSome then .hold else s.need 0 (s.loopAllows s.issue.next true))
      else s.joinCheck
    | [] => s.joinCheck

/-- MERGE: ends a landing's run, pops a split entry whose landing has merged, or acts as JOIN (R46). -/
def execMerge (g : Gate) (s : State) : Answer :=
  ctl (.merge g) g [] State.mergeCheck
    (fun t => if t.was.isLanding then t.mergeLanding t.focus else (t.mod (fun c => c.join t.issue.next)).delay 2) s

/-! ## Rejoin masks (R44, R210) -/

/-- Set a rejoin mask (R44, R210). -/
def State.jinit (s : State) (j : BitVec 2) (m : Dword) : State :=
  s.mod (fun c => c.putJ j.toNat ⟨BitVec.ofNat 16 m.toNat &&& c.active, 0, c.depth, (c.rejoin j.toNat).cont, s.nextOp⟩)

/-- JINIT from a scalar. -/
def execJinit (g : Gate) (sM : BitVec 5) (j : BitVec 2) (s : State) : Answer :=
  ctl (.jinit g sM j) g (useS [sM]) (fun t => t.need 0 ((t.was.rejoin j.toNat).waiting == 0)) (fun t => t.jinit j (t.rS sM)) s

/-- JINIT from a literal. -/
def execJinitLiteral (g : Gate) (j : BitVec 2) (lit : Dword) (s : State) : Answer :=
  ctl (.jinitLiteral g j lit) g [] (fun t => t.need 0 ((t.was.rejoin j.toNat).waiting == 0)) (fun t => t.jinit j lit) s

/-- JARV. -/
def execJarv (g : Gate) (j : BitVec 2) (s : State) : Answer :=
  ctl (.jarv g j) g [] free
    (fun t => t.mod (fun c => c.putJ j.toNat { c.rejoin j.toNat with mask := Mask.less (c.rejoin j.toNat).mask c.active })) s

/-- JWAIT: the active engines join the waiting set, then a pending path runs or the waiting engines are released (R44). -/
def Ctx.jwait (c : Ctx) (n next : Nat) : Ctx × Bool :=
  let j := c.rejoin n
  (c.putJ n { j with waiting := j.waiting ||| c.active, cont := BitVec.ofNat 64 next }).jwaitRun n next

/-- The hold of a releasing JWAIT for operations (R113), and R208's check of where it goes. -/
def State.jwaitCheck (s : State) (j : BitVec 2) : Verdict :=
  let (c, released) := s.was.jwait j.toNat s.issue.next
  if released && s.opsSince s.focus j.toNat then .hold
  else s.need 0 (s.loopAllows c.pc released)

/-- JWAIT. -/
def execJwait (g : Gate) (j : BitVec 2) (s : State) : Answer :=
  ctl (.jwait g j) g [.f 1] (fun t => t.jwaitCheck j) (fun t => (t.mod (fun c => (c.jwait j.toNat t.issue.next).1)).delay 2) s

/-! ## Token, regions of code, traps -/

/-- PASS: the holder hands the token to the other context when it is resident (R23, R212). -/
def State.pass (s : State) : State :=
  let q := s.seqOf s.focus
  match s.otherOn s.focus with
  | some o => if q.token = s.me.place.ctxNo then s.setSeq s.focus { q with token := (s.ctxAt o).place.ctxNo } else s
  | none => s

/-- PASS. -/
def execPass (g : Gate) (s : State) : Answer := ctl (.pass g) g [] free State.pass s

/-- The snapshot of IDEMB (R52). -/
def State.snapshot (s : State) (cid : Nat) : Snapshot :=
  let c := s.ctxAt cid
  let snap (e : Nat) : EngSnap :=
    let x := s.eng c.place.gangNo e
    let y := x.part c.place.engCtx
    ⟨y.p, y.q, y.z, (x.slots.filter (fun o => o.2.owner == s.ownerOf cid)).map Prod.fst⟩
  ⟨c.scalars, c.flags, c.handles, c.rejoins, c.stack, c.active, c.loop, c.pc, (eids c.live).map (fun e => (e, snap e))⟩

/-- IDEMB: opens a region, or moves its restart point (R52, R216). -/
def execIdemb (g : Gate) (s : State) : Answer :=
  ctl (.idemb g) g [] free (fun t => (t.mod (fun c => { c with idem := some { t.snapshot t.focus with pc := t.issue.next } })).delay 2) s

/-- IDEME: closes the region; outside one it has no effect (R52). -/
def execIdeme (g : Gate) (s : State) : Answer := ctl (.ideme g) g [] free (fun t => t.mod (fun c => { c with idem := none })) s

/-- TRAP with a short code (R219). -/
def execTrap (g : Gate) (code : BitVec 16) (s : State) : Answer :=
  ctl (.trap g code) g [] (fun t => .trap true [t.seqRec rTRAP 0 0 (BitVec.ofNat 64 code.toNat)]) id s

/-- TRAP with a literal (R219). -/
def execTrapLiteral (g : Gate) (code : Dword) (s : State) : Answer :=
  ctl (.trapLiteral g code) g [] (fun t => .trap true [t.seqRec rTRAP 0 0 code]) id s

/-- The debugger stop of BRK (R219, R397). -/
def State.brkStop (s : State) : State := (s.mod (fun c => { c with dbgStop := true, dbgBrk := true })).cause 1

/-- BRK: stops for the debugger when debug enable is set, else traps (R219). -/
def execBrk (g : Gate) (code : BitVec 16) (s : State) : Answer :=
  ctl (.brk g code) g [] (fun t => if t.was.dbgEn then .ok else .trap true [t.seqRec rBRK 0 0 (BitVec.ofNat 64 code.toNat)])
    State.brkStop s

/-- SYSRET (R169, R178, R220). -/
def execSysret (g : Gate) (s : State) : Answer :=
  ctl (.sysret g) g [] (fun t => (t.need 0 t.was.sup).and (t.targetCheck t.rEpc false)) (fun t => t.sysret t.focus) s

end Sys2Proof.Machine
end

