-- ==== Sys2Proof/Machine/Groups.lean ====
section
/-!
DEFINITION. The group words (R147 to R164, R217, R218). The hall answers them in the step of the word.
-/
namespace Sys2Proof.Machine

/-- The membership that handle hN names for the context in focus (R148). -/
def State.handleMember (s : State) (h : BitVec 3) : Option (Nat × Member) := s.byHandle (s.rH h).toNat (.ctx s.owner)

/-- Whether a split of the context is outstanding (R59). -/
def State.splitOut (s : State) : Bool := !(s.landingsOf s.owner).isEmpty

/-- Group words of a context hold while a counted arrival of it on the same group is not registered (R150); those of a landing also for one
that the gang context issued before it split the landing off. -/
def State.countedOn (s : State) (gid : Nat) : Bool :=
  s.me.counted.any (fun a => a.gid == gid) ||
    (s.me.isLanding && (s.ctxAt s.me.parent).counted.any (fun a => a.gid == gid && !(a.owed.contains s.focus)))

/-- Whether an arrival of the member waits for its other sides, and this side has given it or does not owe it. -/
def State.givenHere (s : State) (m : Member) : Bool := !m.sides.isEmpty && (m.sides.contains s.focus || !(m.owed.contains s.focus))

/-- Check of a word that names a handle, with what it forbids inside regions and splits. -/
def State.groupCheck (s : State) (h : BitVec 3) (noIdem noSplit : Bool) (more : Nat → Member → Verdict) : Verdict :=
  if (noIdem && s.was.idem.isSome) || (noSplit && s.splitOut) then s.need 0 false
  else match s.handleMember h with
    | none => s.need 0 false
    | some (gid, m) => if s.countedOn gid then .hold else more gid m

/-- An arrival holds while it would count two generations ahead, or while this side's last one is not entered (R154). -/
def State.arrivalHold (s : State) (gid : Nat) (m : Member) : Verdict :=
  if (s.groupAt gid).gen + 1 < m.arrGen || s.givenHere m then .hold else .ok

/-- Issue an arrival, at once or counted (R113, R150); a bundle waits for it when `waits`. -/
def State.issueArrival (s : State) (cnt leave waits : Bool) (gid op : Nat) (value : Dword) : State :=
  let a : CountedArrival := ⟨gid, s.focus, leave, op, value, waits, s.nextOp, s.sidesOf s.owner⟩
  if cnt && s.opsBefore s.owner s.nextOp then s.mod (fun c => { c with counted := c.counted ++ [a] })
  else s.registerCounted s.focus a

/-- GNEW's attribute checks (R151). -/
def attrOk (a : Nat) : Bool := bits a 16 48 == 0 && bits a 2 6 == 0 && (bits a 0 2 == 0 || bits a 8 8 ≤ 15)

/-- A destination handle must be null (R148). -/
def State.newHandleCheck (s : State) (hD : BitVec 3) : Verdict :=
  s.need 0 (s.was.idem.isNone && !s.splitOut && s.rH hD == 0)

/-- The lowest FREE entry of the group table (R151, log 9). -/
def State.freeGroup (s : State) : Option Nat :=
  firstFree ((s.groups.filter (fun e => e.2.state ≠ .free)).map Prod.fst) Config.groups

/-- The record of a new member. -/
def newMember (w : Who) (pos since : Nat) : Member := ⟨w, pos, since, since, none, false, none, false, [], none, []⟩

/-- Create a group (R151): its entry, or none. -/
def State.createGroup (s : State) (w : Who) (region : Nat) (name attr : Nat) : Option (State × Word) :=
  if name = 0 ∨ (s.groupNamed name).isSome then none
  else match s.freeGroup with
    | none => none
    | some gid =>
      let inc := (s.groupAt gid).inc
      some (s.setGroup gid { state := .live, name := BitVec.ofNat 32 name, region := region, cap := bits attr 8 8
                             win := attr.testBit 1, cores := attr.testBit 0, inc := inc, members := [newMember w 0 0] },
            handleOf inc 0 gid)

/-- Join a group by name (R149, R152): the state and the handle, or none. A program that KGO starts again is the member
that its earlier run was until that run's leave completes: DESIGN CHOICE, log 39. Another program loaded into the slot is not. -/
def State.joinGroup (s : State) (w : Who) (region : Nat) (name : Nat) : Option (State × Word) :=
  if name = 0 then none
  else match s.groupNamed name with
    | none => none
    | some gid =>
      let g := s.groupAt gid
      match firstFree g.held (g.cap + 1) with
      | none => none
      | some pos =>
        if !(s.isAncestor g.region region) || g.members.any (fun m => m.who == w) || (g.cores && g.state ≠ .live) then none
        else some (s.setGroup gid { g with members := g.members ++ [newMember w pos (g.gen + 1)] }, handleOf g.inc pos gid)

/-- Write the outcome of GNEW or GJOIN. -/
def State.putJoin (s : State) (hD : BitVec 3) (r : Option (State × Word)) : State :=
  match r with
  | some (t, h) => (t.wH hD h).wF 1 true 1
  | none => (s.wH hD 0).wF 1 false 1

/-- GNEW (R151). -/
def execGnew (g : Gate) (sA sN : BitVec 5) (hD : BitVec 3) (s : State) : Answer :=
  ctl (.gnew g sA sN hD) g (.h hD.toNat :: .f 1 :: useS [sA, sN])
    (fun t => (t.newHandleCheck hD).and (t.need 0 (attrOk (t.rS sA).toNat)))
    (fun t => t.putJoin hD (t.createGroup (.ctx t.owner) t.me.region (bits (t.rS sN).toNat 0 32) (t.rS sA).toNat)) s

/-- GJOIN (R152); it holds while a counted leave of the context on the group of that name is not registered (R150). -/
def execGjoin (g : Gate) (sN : BitVec 5) (hD : BitVec 3) (s : State) : Answer :=
  ctl (.gjoin g sN hD) g (.h hD.toNat :: .f 1 :: useS [sN]) (fun t => (t.newHandleCheck hD).and
      (if (t.groupNamed (bits (t.rS sN).toNat 0 32)).any t.countedOn then .hold else .ok))
    (fun t => t.putJoin hD (t.joinGroup (.ctx t.owner) t.me.region (bits (t.rS sN).toNat 0 32))) s

/-- Apply an effect to the group and member a handle names. -/
def State.onMember (s : State) (h : BitVec 3) (f : State → Nat → Member → State) : State :=
  match s.handleMember h with
  | some (gid, m) => f s gid m
  | none => s

/-- GLEAVE (R153): the leave is an arrival, the handle becomes null, an own mapping of the group ends (R160). -/
def execGleave (g : Gate) (cnt : Bool) (h : BitVec 3) (s : State) : Answer :=
  ctl (.gleave g cnt h) g [.h h.toNat] (fun t => t.groupCheck h true true (fun _ _ => .ok))
    (fun t => t.onMember h (fun u gid _ =>
      let u1 := u.modCtx u.owner (fun c => if bits c.window.toNat 0 12 = gid then { c with window := 0 } else c)
      (u1.issueArrival cnt true false gid 32 0).wH h 0)) s

/-- GARV (R156). -/
def execGarv (g : Gate) (cnt : Bool) (h : BitVec 3) (s : State) : Answer :=
  ctl (.garv g cnt h) g [.h h.toNat] (fun t => t.groupCheck h true false t.arrivalHold)
    (fun t => t.onMember h (fun u gid _ => u.issueArrival cnt false false gid 32 0)) s

/-- GWAIT holds while the generation of the member's last arrival has not completed (R156). -/
def State.gwaitCheck (s : State) (gid : Nat) (m : Member) : Verdict :=
  if s.givenHere m then .hold
  else match m.last with
    | none => .ok
    | some n => if n < (s.groupAt gid).gen then .ok else .hold

/-- GWAIT: f1 tells that the generation lost no member. -/
def execGwait (g : Gate) (h : BitVec 3) (s : State) : Answer :=
  ctl (.gwait g h) g [.h h.toNat, .f 1] (fun t => t.groupCheck h false false t.gwaitCheck)
    (fun t => t.onMember h (fun u _ m => u.wF 1 (m.last.isNone || !m.lastLost) 1)) s

/-- The arrival that the bundle being issued has made while it held (R59, R447). -/
def State.metHere (s : State) : Option Met := s.me.met.filter (fun m => m.bundle == s.issue.bundle)

/-- What the generation of that arrival gave, once it has completed. -/
def State.metGot (s : State) : Option Outcome := s.metHere.bind Met.got

/-- A word that arrives and waits: its handle, its counting mark, the operation (16 a vote, 0 to 8 a contribution, 32 neither),
what it gives, and the scalars it writes. -/
structure Meeting where
  h     : BitVec 3
  cnt   : Bool
  op    : Nat
  value : Dword
  sD    : BitVec 5
  sC    : BitVec 5
  deriving DecidableEq, Repr

/-- The arrival of the bundle, made once, when it may be made (R150, R154, R156 to R158). -/
def State.makeMet (s : State) (x : Meeting) : State :=
  match s.metHere with
  | some _ => s
  | none => s.onMember x.h (fun u gid m =>
      if u.countedOn gid || u.arrivalHold gid m ≠ .ok then u
      else (u.mod (fun c => { c with met := some ⟨s.issue.bundle, gid, x.op, x.sD.toNat, x.sC.toNat, none, none⟩ })).issueArrival x.cnt false true gid
        x.op x.value)

/-- The bundle holds until the generation of its arrival has completed; an arrival that completes it does not hold. -/
def State.meetCheck (s : State) (x : Meeting) : Verdict := if (s.makeMet x).metGot.isSome then .ok else .hold

/-- The results of a completed generation: f1, then what GVOTE and GRDC give, the count last (R217). -/
def State.takeMet (s : State) (x : Meeting) : State :=
  let t := s.makeMet x
  match t.metGot with
  | some o => (((t.wF 1 o.kept 1).wS x.sD o.first 1).wS x.sC o.second 1).mod (fun c => { c with met := none })
  | none => s

/-- The held word of a bundle arrives, where nothing but the wait itself holds it. -/
def State.arriveHeld (s : State) (g : Gate) (uses : List Dest) (x : Meeting) : State :=
  if s.scoreboard 0 (.f g.pred.toNat :: uses) = .ok ∧ s.gateF g ∧ s.was.idem.isNone then s.makeMet x else s

/-- The check of a word that arrives and waits. -/
def State.meetGate (s : State) (x : Meeting) : Verdict := s.groupCheck x.h true false (fun _ _ => s.meetCheck x)

/-- Whether a word that arrives and waits, by itself in its bundle, holds at issue. -/
def State.meetHolds (s : State) (i : Instr) (g : Gate) (uses : List Dest) (x : State → Meeting) : Bool :=
  s.issue.pre.isNone && s.encodingOk i &&
    s.verdict 0 (s.gateF g) (.f g.pred.toNat :: uses) Machine.free (fun t => t.meetGate (x t)) == .hold

/-- Issue a word that arrives and waits. -/
def meetWord (i : Instr) (g : Gate) (uses : List Dest) (x : State → Meeting) (s : State) : Answer :=
  match ctl i g uses (fun t => t.meetGate (x t)) (fun t => t.takeMet (x t)) s with
  | .next t => .next (if s.meetHolds i g uses x then t.arriveHeld g uses (x t) else t)
  | a => a

/-- What GBAR, GVOTE and GRDC bring. -/
def barMeeting (cnt : Bool) (h : BitVec 3) : Meeting := ⟨h, cnt, 32, 0, 0, 0⟩
def State.voteMeeting (s : State) (cnt : Bool) (f : BitVec 3) (h : BitVec 3) (sD : BitVec 5) : Meeting :=
  ⟨h, cnt, 16, if s.rF f then 1 else 0, sD, 0⟩
def State.reduceMeeting (s : State) (cnt : Bool) (h : BitVec 3) (sC sD : BitVec 5) (op : BitVec 4) (sS : BitVec 5) : Meeting :=
  ⟨h, cnt, op.toNat, s.rS sS, sD, sC⟩

/-- GBAR (R156). -/
def execGbar (g : Gate) (cnt : Bool) (h : BitVec 3) (s : State) : Answer :=
  meetWord (.gbar g cnt h) g [.h h.toNat, .f 1] (fun _ => barMeeting cnt h) s

/-- GVOTE (R157). -/
def execGvote (g : Gate) (cnt : Bool) (f : BitVec 3) (h : BitVec 3) (sD : BitVec 5) (s : State) : Answer :=
  meetWord (.gvote g cnt f h sD) g (.h h.toNat :: .f 1 :: .f f.toNat :: useS [sD]) (fun t => t.voteMeeting cnt f h sD) s

/-- GRDC (R158). -/
def execGrdc (g : Gate) (cnt : Bool) (h : BitVec 3) (sC sD : BitVec 5) (op : BitVec 4) (sS : BitVec 5) (s : State) : Answer :=
  meetWord (.grdc g cnt h sC sD op sS) g (.h h.toNat :: .f 1 :: useS [sC, sD, sS]) (fun t => t.reduceMeeting cnt h sC sD op sS) s

/-- A bundle of several words holds on a word that arrives and waits, and on nothing else: the word arrives (R447). -/
def State.meetHeld (s : State) (i : Instr) : State :=
  match i with
  | .gbar g cnt h => s.arriveHeld g [.h h.toNat, .f 1] (barMeeting cnt h)
  | .gvote g cnt f h sD => s.arriveHeld g (.h h.toNat :: .f 1 :: .f f.toNat :: useS [sD]) (s.voteMeeting cnt f h sD)
  | .grdc g cnt h sC sD op sS => s.arriveHeld g (.h h.toNat :: .f 1 :: useS [sC, sD, sS]) (s.reduceMeeting cnt h sC sD op sS)
  | _ => s

/-- GWIN (R160): a null handle removes the mapping. -/
def execGwin (g : Gate) (h : BitVec 3) (s : State) : Answer :=
  ctl (.gwin g h) g [.h h.toNat]
    (fun t => if t.rH h = 0 then t.need 0 (t.was.idem.isNone && !t.splitOut)
      else t.groupCheck h true true (fun gid _ => t.need 0 (t.groupAt gid).win))
    (fun t => t.modCtx t.owner (fun c => { c with window := t.rH h })) s

/-- The snapshot that GQRY reads (R159). -/
def Group.query (g : Group) (m : Member) (which : Nat) : Dword :=
  let live := g.members.filter (fun x => !x.removed)
  BitVec.ofNat 64 (match which with
    | 0 => g.gen % 2 ^ 32
    | 1 => (live.filter (fun x => decide (x.since ≤ g.gen))).length
    | 2 => m.pos
    | 3 => (g.cap + 1) * 65536 + (live.filter (fun x => decide (g.gen < x.since))).length * 256 + bit g.win * 4 + bit g.cores * 2 + bit g.lost
    | _ => g.name.toNat)

/-- GQRY. -/
def execGqry (g : Gate) (sel : BitVec 3) (h : BitVec 3) (sD : BitVec 5) (s : State) : Answer :=
  ctl (.gqry g sel h sD) g (.h h.toNat :: useS [sD]) (fun t => t.groupCheck h false false (fun _ _ => .ok))
    (fun t => t.onMember h (fun u gid m => u.wS sD ((u.groupAt gid).query m sel.toNat) 1)) s

end Sys2Proof.Machine
end

