-- ==== Sys2Proof/Machine/Exchange.lean ====
section
/-!
DEFINITION. The exchange words and channels (R257 to R268, R322 to R324).
-/
namespace Sys2Proof.Machine

/-! ## Gang exchange (R257 to R261) -/

/-- The active set of an X word: the active engines when its flag lets it act (R170, R257). -/
def State.exchanging (s : State) (g : Gate) : List Nat := if s.gateF g then s.actives else []

/-- Operand va of engine e; an engine outside the set supplies zero. -/
def State.fromEng (s : State) (g : Gate) (e : Nat) (code : BitVec 6) : Vec :=
  if (s.exchanging g).contains e then s.rVec e code.toNat else 0

/-- An exchange word: the operands it names, the scalar it writes, and its effect. -/
def exchangeWord (i : Instr) (g : Gate) (reads : List Nat) (vd : BitVec 6) (sD : BitVec 5) (eff : State → State) (s : State) : Answer :=
  runPop i 7 (fun t => .f g.pred.toNat :: useS [sD] ++ t.useV (vd.toNat :: reads)) (fun t => t.portCheck 7 reads [vd.toNat])
    (fun t => (eff t).popAll (vd.toNat :: reads)) s

/-- Give every engine of the set its vector. -/
def State.giveAll (s : State) (g : Gate) (vd : BitVec 6) (lq : BitVec 3) (ln : Bool) (L : Nat) (f : Nat → List Nat) : State :=
  s.each (s.exchanging g) (fun u e => u.putVec e vd.toNat (s.portAddr (vd.toNat - 32)) (s.laneMask e lq ln) false (f e) L)

/-- The source engine of XSHF, if any (R258). -/
def State.shuffleFrom (s : State) (f : XFields) (e : Nat) : Option Nat :=
  match f.pat.toNat with
  | 0 => some (e ^^^ f.m.toNat)
  | 1 => some ((e + f.m.toNat) % 16)
  | 2 => some (bits (s.rVec e f.vb.toNat).toNat 0 4)
  | _ => if e < f.m.toNat then none else some (e - f.m.toNat)

/-- XSHF (R258). -/
def execXshf (g : Gate) (f : XFields) (s : State) : Answer :=
  exchangeWord (.xshf g f) g (if f.pat = 2 then [f.va.toNat, f.vb.toNat] else [f.va.toNat]) f.vd 0
    (fun t => t.giveAll g f.vd f.lq f.ln 6 (fun e =>
      match t.shuffleFrom f e with
      | some x => lanes (t.fromEng g x f.va)
      | none => List.replicate 64 0)) s

/-- Lane k reduced over the engines of the set (R141, R259). -/
def State.reduceLane (s : State) (g : Gate) (f : XFields) (k : Nat) : Nat × Flags :=
  treeRed f.pat.toNat 4 ((List.range 16).map (fun e =>
    if (s.exchanging g).contains e then bits (s.rVec e f.va.toNat).toNat (32 * k) 32 else redIdentity f.pat.toNat))

/-- XRED (R259): every receiving engine raises the flags of its active lanes. -/
def execXred (g : Gate) (f : XFields) (s : State) : Answer :=
  exchangeWord (.xred g f) g [f.va.toNat] f.vd 0
    (fun t =>
      let r := (List.range 64).map (t.reduceLane g f)
      (t.giveAll g f.vd f.lq f.ln 12 (fun _ => r.map Prod.fst)).each (t.exchanging g) (fun u e =>
        u.raise e ((r.zipIdx.filter (fun p => (t.laneMask e f.lq f.ln).getLsbD p.2)).foldl (fun a p => a ||| p.1.2) 0))) s

/-- XBC (R260). -/
def execXbc (g : Gate) (f : XFields) (s : State) : Answer :=
  exchangeWord (.xbc g f) g [f.va.toNat] f.vd 0
    (fun t => t.giveAll g f.vd f.lq f.ln 6 (fun _ => lanes (t.fromEng g f.m.toNat f.va))) s

/-- The ballot over the set (R261). -/
def State.ballot (s : State) (g : Gate) (pn : Bool) (ps : BitVec 3) : List Nat := (s.exchanging g).filter (fun e => s.rP e ps != pn)

/-- XVOT (R261): it writes every lane. -/
def execXvot (g : Gate) (vd : BitVec 6) (sD : BitVec 5) (pn : Bool) (ps : BitVec 3) (s : State) : Answer :=
  exchangeWord (.xvot g vd sD pn ps) g [] vd sD
    (fun t =>
      let b := t.ballot g pn ps
      let m := (ofEngineBits (fun e => b.contains e)).toNat
      let u := t.giveAll g vd 0 false 14 (fun _ => [m, b.length, b.head?.getD 0xFFFFFFFF] ++ List.replicate 61 0)
      if t.gateF g then u.wS sD (BitVec.ofNat 64 (m + b.length * 2 ^ 16)) 14 else u) s

/-- XPICK (R261). -/
def execXpick (g : Gate) (f : PickFields) (s : State) : Answer :=
  exchangeWord (.xpick g f) g [f.va.toNat] f.vd f.sD
    (fun t =>
      let b := t.ballot g f.pn f.ps
      let pick := if f.hi then b.getLast? else b.head?
      let v := match pick with
        | some e => lanes (t.rVec e f.va.toNat)
        | none => List.replicate 64 0
      let u := t.giveAll g f.vd f.lq f.ln 14 (fun _ => v)
      if t.gateF g then u.wS f.sD (match pick with | some e => BitVec.ofNat 64 e | none => BitVec.allOnes 64) 14 else u) s

/-! ## Elements (R262) -/

/-- 32-bit units of an element by shape (R322). -/
def shapeUnits (shape : Nat) : Nat :=
  match shape with
  | 0 => 64 | 1 => 4096 | 2 => 2048 | _ => 768

/-- FP32 elements of an accumulator, in order. -/
def accList (a : Acc) : List Nat := (List.range 4096).map (fun k => (accElem a (k / 64) (k % 64)).toNat)

/-- Elements rounded to BF16, with their flags. -/
def toBf16 : List Nat → List Nat × Flags
  | [] => ([], 0)
  | x :: xs =>
    let r := roundF fBF16 0 (decodeF fFP32 x) 0
    let (ys, fl) := toBf16 xs
    (r.val :: ys, r.flags ||| fl)

/-- Blocks of sixteen elements encoded as KB5, n of them, with their flags. -/
def toKb5 : Nat → List Nat → List Nat × Flags
  | 0, _ => ([], 0)
  | n + 1, xs =>
    let (b, t) := encodeKb 4 0 ((xs.take 16).map (decodeF fFP32)) ⟨0, 0⟩
    let (ys, fl) := toKb5 n (xs.drop 16)
    (b :: ys, t.flags ||| fl)

/-- Join patterns of w bits. -/
def joinBits (w : Nat) (l : List Nat) : Nat := l.foldr (fun x a => x % 2 ^ w + a * 2 ^ w) 0

/-- The element that engine e sends, with the flags of its roundings. -/
def State.element (s : State) (shape : Nat) (e : Nat) (o : BitVec 6) (addr : Nat) : Nat × Flags :=
  match opndSlot shape o with
  | some n => ((s.rO e n).data.toNat, 0)
  | none => match shape with
    | 0 => (if o.toNat < 32 ∨ o.toNat = 0x24 then (s.rVec e o.toNat).toNat else leValue (s.localRead e addr 256), 0)
    | 1 => ((s.rAcc e (o.toNat % 4)).toNat, 0)
    | 2 => let (l, fl) := toBf16 (accList (s.rAcc e (o.toNat % 4))); (joinBits 16 l, fl)
    | _ => let (l, fl) := toKb5 256 (accList (s.rAcc e (o.toNat % 4))); (joinBits 96 l, fl)

/-- FP32 pattern k of an element as a receive sees it, with its flags; every conversion is exact (R262), a NaN that a conversion gives is
canonical, and a signalling one raises invalid (R130, R131). -/
def elemPattern (shape x k : Nat) : Nat × Flags :=
  match shape with
  | 2 => let r := roundRneFp32 (decodeF fBF16 (bits x (16 * k) 16)); (r.val, r.flags)
  | 3 => let r := roundRneFp32 (decodeKb 4 (bits x (96 * (k / 16)) 96) (k % 16)); (r.val, r.flags)
  | _ => (bits x (32 * k) 32, 0)

/-- Add an element to patterns of a destination, with the flags. -/
def addPatterns (shape x : Nat) (old : Nat → Nat) : Nat → Nat → List Nat × Flags
  | 0, _ => ([], 0)
  | n + 1, k =>
    let (z, fz) := elemPattern shape x k
    let (y, fl) := fadd32 (old k) z
    let (ys, fs) := addPatterns shape x old n (k + 1)
    (y :: ys, fz ||| fl ||| fs)

/-- What a receive of element x leaves in the destination: the new patterns and flags, `n` units of 32 bits. -/
def received (shape x : Nat) (add : Bool) (old : Nat → Nat) (n : Nat) : List Nat × Flags :=
  if add then addPatterns shape x old n 0
  else
    let l := (List.range n).map (elemPattern shape x)
    (l.map Prod.fst, l.foldl (fun f y => f ||| y.2) 0)

/-! ## Channel entries -/

/-- Stream e of a channel. -/
def Channel.stream (c : Channel) (e : Nat) : List Acc := tableGet c.streams e []

/-- Replace stream e. -/
def Channel.putStream (c : Channel) (e : Nat) (l : List Acc) : Channel := { c with streams := tableSet c.streams e l [] }

/-- Change a loaded entry. -/
def State.modChannel (s : State) (ch : Nat) (f : Channel → Channel) : State :=
  match tableFind s.channels ch with
  | some c => { s with channels := tableInsert s.channels ch (f c) }
  | none => s

/-- Whether engine e has room to send one element (R263, R268). -/
def Channel.room (c : Channel) (e : Nat) : Bool := c.rcv.ended || decide ((c.stream e).length < c.depth)

/-- The slot or accumulator of a channel word in engine e keeps it from issuing (R68, R113, R279). -/
def State.opndBusy (s : State) (e shape : Nat) (o : BitVec 6) (dst : Bool) : Busy :=
  (match opndAcc shape o with | some n => s.accBusy e n | none => .no).or
    (match opndSlot shape o with | some n => (if dst then s.slotHold e n else s.slotReadHold e n) | none => .no)

/-- The holds of a channel word, whether its flag lets it act or not (R170, R177). -/
def State.channelHolds (s : State) (ch : BitVec 10) (send : Bool) (o : BitVec 6) (dst : Bool) : Verdict :=
  match s.channelFor ch send with
  | none => .ok
  | some c => s.unitHolds 7 s.actives (fun e => s.opndBusy e c.shape o dst)

/-- The checks of a channel word: its port is popped whatever its flag (R96, R236); where it acts, the entry is loaded and its own
(R262) and its slots are claimed (R68). -/
def State.channelCheck (s : State) (g : Gate) (ch : BitVec 10) (send : Bool) (o : BitVec 6) (dst : Bool) (more : Channel → Verdict) : Verdict :=
  match s.channelFor ch send with
  | none => if s.gateF g then s.need 7 false else .ok
  | some c => (s.portCheck 7 (if dst then [] else opndVec c.shape o) (if dst then opndVec c.shape o else [])).and
      (if s.gateF g then
        (State.engineRecs s.actives (fun e => match opndSlot c.shape o with
          | some n => s.engState e 7 (s.mine (s.rO e n))
          | none => none)).and (more c)
       else .ok)

/-- A channel word (R170, R262). -/
def channelWord (i : Instr) (g : Gate) (ch : BitVec 10) (send dst : Bool) (o : BitVec 6) (more : State → Channel → Verdict)
    (eff : State → Channel → State) (s : State) : Answer :=
  runWord i ⟨7, fun t => .f g.pred.toNat :: t.useV (opndVec (t.shapeOf ch send) o), fun t => t.channelHolds ch send o dst, fun _ => true,
      fun t => t.channelCheck g ch send o dst (more t)⟩
    (fun t => (match t.gateF g, t.channelFor ch send with
      | true, some c => eff t c
      | _, _ => t).popAll (opndVec (t.shapeOf ch send) o)) s

/-- XSND of engine e: the element is formed as a reader four cycles later reads it (R263); bc lives for its own bundle alone
(R173). -/
def State.sendFrom (s t : State) (ch : BitVec 10) (c : Channel) (o : BitVec 6) (e : Nat) : State :=
  let later := { t with now := t.nowAt t.me.place.die (t.cycle + 4) }
  let addr := t.portAddr (o.toNat - 32)
  let (x, fl) := later.element c.shape e o addr
  let s1 := s.raise e fl
  if c.rcv.ended then s1
  else (s1.modChannel ch.toNat (fun c => c.putStream e (c.stream e ++ [BitVec.ofNat 131072 x]))).mod (fun k =>
    if c.shape = 0 ∧ o = 0x24 then k
    else { k with sends := k.sends ++ [{ ch := ch.toNat, eid := e, opnd := o, addr := addr, upto := t.cycle + 4, op := t.nextOp }] })

/-- XSND (R263, R268). -/
def execXsnd (g : Gate) (opnd : BitVec 6) (ch : BitVec 10) (s : State) : Answer :=
  channelWord (.xsnd g opnd ch) g ch true false opnd
    (fun t c => if t.actives.all c.room then .ok else .hold)
    (fun t c => { t.each t.actives (fun u e => u.sendFrom t ch c opnd e) with nextOp := t.nextOp + 1 }) s

/-- After a bundle: the elements whose source the context's words of the next three cycles may still change. Where a bundle after
the word's own has changed a unit of the source, the element holds what it held or the new value (R263). -/
def State.mixSends (s : State) (cid : Nat) : State :=
  let c := s.ctxAt cid
  let t := { s with focus := cid, issue := { s.issue with pre := none } }.modCtx cid (fun c => { c with inflight := [], recvs := [] })
  let source (x : Sent) : Nat := match tableFind s.channels x.ch with
    | some k => (t.element k.shape x.eid x.opnd x.addr).1
    | none => 0
  let live := (c.sends.filter (fun x => decide (s.cycleOf c.place.die < x.upto))).map (fun x => (x, source x))
  let s1 := live.zipIdx.foldl (fun u p =>
    match tableFind u.channels p.1.1.ch, p.1.1.last with
    | some k, some last =>
      let q := k.stream p.1.1.eid
      let after := (live.drop (p.2 + 1)).filter (fun y => y.1.ch == p.1.1.ch && y.1.eid == p.1.1.eid)
      if q.length ≤ after.length || last = p.1.2 then u
      else
        let i := q.length - 1 - after.length
        let old := (q.getD i 0).toNat
        let n := shapeUnits k.shape
        let mixed := mixUnits s.free (2 ^ 50 + p.2 * 2 ^ 16) 32 n p.1.2 old
        let out := packBits 32 n (fun j => if bits last (32 * j) 32 = bits p.1.2 (32 * j) 32 then bits old (32 * j) 32 else bits mixed (32 * j) 32)
        u.modChannel p.1.1.ch (fun k => k.putStream p.1.1.eid (listSet q i (BitVec.ofNat 131072 out)))
    | _, _ => u) s
  if c.sends.isEmpty then s else s1.modCtx cid (fun c => { c with sends := live.map (fun x => { x.1 with last := some x.2 }) })

/-! ## Receives (R262, R264, R268) -/

/-- The register that a receive writes. -/
def recvDest (shape : Nat) (e : Nat) (o : BitVec 6) : Option Dest :=
  match opndSlot shape o, opndAcc shape o with
  | some n, _ => some (.slot e n)
  | none, some n => some (.acc e n)
  | none, none => if o.toNat < 32 then some (.v e o.toNat) else none

/-- Write a received element in engine e of the context in focus, with a bound, but for the units that later words have written
(R176). An adding receive adds it to `base`, what it has read of its destination. -/
def State.putElement (s : State) (shape e : Nat) (o : BitVec 6) (add : Bool) (addr base x L taken : Nat) : State :=
  match opndSlot shape o, opndAcc shape o with
  | some n, _ =>
    let y := (s.myEng e).slot n
    s.wOpart e n { y with data := BitVec.ofNat 65536 (mergeTaken taken 4 16384 x y.data.toNat), fmt := if taken.testBit 16384 then y.fmt else 1 } L
      (lessBits wholeDest taken)
  | none, some n =>
    let (l, fl) := received shape x add (fun k => bits base (32 * k) 32) 4096
    (s.wAccIn e n (BitVec.ofNat 131072 (joinBits 32 l)) (lessBits wholeDest taken) L).raise e fl
  | none, none =>
    let v := s.oldVec e o.toNat
    let (l, fl) := received shape x add (fun k => bits base (32 * k) 32) 64
    (if o.toNat < 32 then s.wVlanes e o.toNat (BitVec.ofNat 2048 (mergeTaken taken 32 64 (vecOf l).toNat v.toNat)) L (lessBits wholeDest taken)
     else s.storeLanes e addr l (BitVec.allOnes 64) false).raise e fl

/-- The next element of stream e, or what an ended sender gives: none while it is still to come (R264, R268). -/
def Channel.nextElem (c : Channel) (e : Nat) : Option (Option Acc) :=
  match c.stream e with
  | x :: _ => some (some x)
  | [] => if c.snd.ended then some none else none

/-- The die on which an endpoint stands: its context's, or its gang's while it names none (R264, R324). -/
def State.endpointDie (s : State) (p : Endpoint) : Nat :=
  if (tableFind s.ctxs p.bound).isSome then (s.ctxAt p.bound).place.die else p.gang / Config.gangsPerDie

/-- Latency of a receive (R187, R264). -/
def State.recvBound (s : State) (c : Channel) : Nat := if s.endpointDie c.snd = s.me.place.die then 40 else 96

/-- What XRCA adds to: its destination as its bundle reads it (R174, R175). -/
def State.addBase (s : State) (shape e : Nat) (o : BitVec 6) : Nat :=
  match opndAcc shape o with
  | some n => (s.rAcc e n).toNat
  | none => (s.rV e o.toNat).toNat

/-- A receive whose element is still to come. XRCV writes its destination in any case, in place of every word before it (R176); XRCA leaves it
unchanged if its sender ends (R268). -/
def Ctx.awaits (c : Ctx) (r : Receive) : Ctx :=
  let c1 := match r.dest, r.add with
    | some d, false => c.outlive d wholeDest
    | _, _ => c
  { c1 with recvs := c1.recvs ++ [r] }

/-- A receive in engine e (R264). A word that reads the destination before the element has come reads the older value: DESIGN
CHOICE, log 42. -/
def State.receiveIn (s : State) (ch : BitVec 10) (o : BitVec 6) (add : Bool) (e : Nat) : State :=
  match tableFind s.channels ch.toNat with
  | none => s
  | some c =>
    let L := s.recvBound c
    let addr := s.portAddr (o.toNat - 32)
    let queued := s.ctxs.any (fun x => x.2.recvs.any (fun r => r.ch == ch.toNat && r.eid == e))
    let base := if add then s.addBase c.shape e o else 0
    match if queued then none else c.nextElem e with
    | some (some x) => (s.modChannel ch.toNat (fun c => c.putStream e ((c.stream e).drop 1))).putElement c.shape e o add addr base x.toNat L 0
    | some none => if add then s else s.putElement c.shape e o false addr 0 0 L 0
    | none => s.mod (fun k => k.awaits { ch := ch.toNat, shape := c.shape, eid := e, opnd := o, add := add, dest := recvDest c.shape e o,
                                         addr := addr, due := s.cycle + L, taken := 0, window := s.windowTable, base := base })

/-- XRCV (R262, R264). -/
def execXrcv (g : Gate) (opnd : BitVec 6) (ch : BitVec 10) (s : State) : Answer :=
  channelWord (.xrcv g opnd ch) g ch false true opnd (fun _ _ => .ok)
    (fun t _ => t.each t.actives (fun u e => u.receiveIn ch opnd false e)) s

/-- XRCA (R262, R264). -/
def execXrca (g : Gate) (opnd : BitVec 6) (ch : BitVec 10) (s : State) : Answer :=
  channelWord (.xrca g opnd ch) g ch false true opnd (fun _ _ => .ok)
    (fun t _ => t.each t.actives (fun u e => u.receiveIn ch opnd true e)) s

/-! ## XCHS and CHLD (R266, R267) -/

/-- XCHS (R266). -/
def execXchs (g : Gate) (sD : BitVec 5) (ch : BitVec 10) (s : State) : Answer :=
  runFlag (.xchs g sD ch) 7 g (useS [sD]) free
    (fun t => t.wS sD (match tableFind t.channels ch.toNat with
      | none => 0
      | some c =>
        let act (f : Nat → Bool) : Nat := (ofEngineBits (fun e => t.was.active.getLsbD e && f e)).toNat
        BitVec.ofNat 64 (act (fun e => !(c.stream e).isEmpty) + act c.room * 2 ^ 16 + 2 ^ 32 + bit (c.snd.ended || c.rcv.ended) * 2 ^ 33)) 1) s

/-- An endpoint word's place (R322); none when it breaks the rules. -/
def endpointOf (w : Dword) : Option (Nat × Nat) :=
  if w.toNat < 512 ∧ bits w.toNat 0 8 < Config.gangs then some (bits w.toNat 0 8, bits w.toNat 8 1) else none

/-- Bytes of an element (R322). -/
def shapeBytes (shape : Nat) : Nat := 4 * shapeUnits shape

/-- Bytes of the store that an entry reserves (R323). -/
def Channel.reserved (c : Channel) : Nat := 16 * c.depth * shapeBytes c.shape

/-- The entry that a record loads for a region, when it keeps the rules of R267, R322 and R323. -/
def State.channelOf (s : State) (region : Nat) (r : List Dword) : Option Channel :=
  match r with
  | [a, b, w, z] =>
    match endpointOf a, endpointOf b with
    | some (ga, ka), some (gb, kb) =>
      let own := bits w.toNat 52 12
      let c : Channel := ⟨r, own, bits w.toNat 4 4 + 1, bits w.toNat 0 2,
        ⟨ga, ka, (s.ctxOn ga ka).getD 0, false⟩, ⟨gb, kb, (s.ctxOn gb kb).getD 0, false⟩, []⟩
      if z = 0 ∧ bits w.toNat 8 44 = 0 ∧ bits w.toNat 2 2 = 0 ∧ (s.isAncestor own region) ∧
         (s.channels.foldl (fun t e => t + e.2.reserved) 0) + c.reserved ≤ Config.channelStore then some c else none
    | _, _ => none
  | _ => none

/-- Whether an entry still has an element or an outstanding receive. -/
def State.channelUsed (s : State) (ch : Nat) : Bool :=
  (match tableFind s.channels ch with | some c => !c.streams.isEmpty | none => false) ||
    s.ctxs.any (fun x => x.2.recvs.any (fun r => r.ch == ch))

/-- The check of CHLD: the record's address, or the hold of freeing (R267). -/
def State.chldCheck (s : State) (sA : BitVec 5) (ch : BitVec 10) : Verdict :=
  if sA = 0 then
    (match tableFind s.channels ch.toNat with
     | some c => if !c.snd.ended && !c.rcv.ended && s.channelUsed ch.toNat then .hold else .ok
     | none => .ok)
  else
    let a := s.rS sA
    let one (o : Nat) : Verdict :=
      match s.flatFault s.party .read (a.toNat + o) 8 with
      | none => .ok
      | some r => .trap false [s.memRec r 1 7 false (a + BitVec.ofNat 64 o)]
    (one 0).and ((one 8).and ((one 16).and (one 24)))

/-- Load or free an entry (R267): f1 says whether it stands. -/
def State.chld (s : State) (sA : BitVec 5) (ch : BitVec 10) : State :=
  if sA = 0 then { s with channels := tableErase s.channels ch.toNat }.wF 1 true 1
  else
    let t := s.readsFlat (.context s.focus) s.party (s.rS sA).toNat 32
    match s.flatRecord s.party (s.rS sA).toNat 4 with
    | none => t.wF 1 false 1
    | some r => match tableFind s.channels ch.toNat with
      | some c => t.wF 1 (c.record == r && !c.snd.ended && !c.rcv.ended && s.isAncestor c.region s.me.region) 1
      | none => match s.channelOf s.me.region r with
        | some c => { t with channels := tableInsert t.channels ch.toNat c }.wF 1 true 1
        | none => t.wF 1 false 1

/-- CHLD (R267, R268). -/
def execChld (g : Gate) (sA : BitVec 5) (ch : BitVec 10) (s : State) : Answer :=
  runFlag (.chld g sA ch) 7 g (.f 1 :: useS [sA]) (fun t => t.chldCheck sA ch) (fun t => t.chld sA ch) s

end Sys2Proof.Machine
end

