-- ==== Sys2Proof/Machine/Park.lean ====
section
/-!
DEFINITION. Save areas, parking and resuming (R49 to R53, R59, R163, R386 to R394). What the tables of R391 and R392 leave
open of the layout is fixed in log 10.
-/
namespace Sys2Proof.Machine

/-! ## Words in flat memory -/

/-- Store dwords from a flat address up. -/
def State.putWords (s : State) (p : Party) (va : Nat) : List Nat → State
  | [] => s
  | w :: ws => (s.flatStoreRaw p va (leBytes 8 w)).putWords p (va + 8) ws

/-- The dword at a flat address. -/
def State.getWord (s : State) (p : Party) (va : Nat) : Nat := leValue (s.flatLoad p va 8)

/-- Store n dwords of a bit pattern. -/
def State.putBig (s : State) (p : Party) (va n x : Nat) : State := s.putWords p va ((List.range n).map (fun i => bits x (64 * i) 64))

/-- Load n dwords as a bit pattern. -/
def State.getBig (s : State) (p : Party) (va n : Nat) : Nat := packBits 64 n (fun i => s.getWord p (va + 8 * i))

/-! ## The sequencer part (R391) -/

/-- A stack entry as two dwords (R42). -/
def StackEntry.words (e : StackEntry) : List Nat :=
  [e.entry.toNat * 2 ^ 32 + e.pend.toNat * 2 ^ 48, e.land % 16 + e.kind % 16 * 16 + e.paddr % 2 ^ 56 * 256]

/-- Two dwords as a stack entry; `child` is the model's own. -/
def stackEntryOf (a b child : Nat) : StackEntry :=
  ⟨bits b 8 56, bits b 4 4, bits b 0 4, BitVec.ofNat 16 (bits a 48 16), BitVec.ofNat 16 (bits a 32 16), child⟩

/-- A record as four dwords. -/
def FaultRec.words (r : FaultRec) : List Nat := [r.addr.toNat, r.bundle.toNat, r.cause.toNat, r.extra.toNat]

/-- Code of a parking reason in the area (log 10). -/
def ParkReason.code : ParkReason → Nat
  | .running => 0
  | .parkWord => 1
  | .expertMiss => 2
  | .copyWait => 3
  | .preempted => 4
  | .cores => 5

/-- Loop state as seven dwords; bit 8 of the fifth marks a loop, bit 13 one that the handler has set (log 10). -/
def loopWordsOf (l : Option LoopState) : List Nat :=
  match l with
  | none => List.replicate 7 0
  | some l =>
    [l.start, l.stop, l.count, l.pass,
     l.depth + 2 ^ 8 + (match l.exitF with | some f => 2 ^ 9 + f.toNat * 2 ^ 10 | none => 0) + bit l.sup * 2 ^ 13, l.descA.toNat, l.descB.toNat]

/-- Seven dwords as loop state. -/
def loopOfWords (f : Nat → Nat) : Option LoopState :=
  if (f 4).testBit 8 then
    some ⟨f 0, f 1, f 2, f 3, bits (f 4) 0 8, if (f 4).testBit 9 then some (BitVec.ofNat 3 (bits (f 4) 10 3)) else none,
      BitVec.ofNat 26 (f 5), BitVec.ofNat 26 (f 6), (f 4).testBit 13⟩
  else none

/-- CTXST (R223). -/
def State.ctxst (s : State) (cid : Nat) : Nat :=
  let c := s.ctxAt cid
  let tok := c.place.resident && (tableGet s.seqs c.place.seqKey {}).token == c.place.ctxNo
  bit c.lrj * 2 + bit c.sup * 4 + c.place.ctxNo % 2 * 8 + bit c.isLanding * 16 + bit tok * 256 +
    bit (!(s.landingsOf cid).isEmpty) * 512 + bit c.loop.isSome * 1024 + bit c.idem.isSome * 2048 + c.depth % 256 * 65536

/-- The number of the landing context that a place is. -/
def Place.land : Place → Nat
  | .landing _ l _ _ => l
  | _ => 0

/-- Number of outstanding operations of a context. -/
def State.opCount (s : State) (o : Nat) : Nat := (s.ops.filter (fun e => e.2.cid == o)).length

/-- The saved fault queue: the unread records, then those of the rounds that wait (R50, R55, log 10). -/
def Ctx.savedFaults (c : Ctx) : List FaultRec := (c.faults ++ c.rounds.flatMap Round.recs).take Config.faultQueue

/-- The fault queue of an area as (offset, dwords). -/
def Ctx.faultPart (c : Ctx) : List (Nat × List Nat) :=
  [(0x500, ((List.range 32).flatMap (fun i => match c.savedFaults[i]? with
      | some r => r.words
      | none => [0, 0, 0, 0]))),
   (0x900, [c.savedFaults.length])]

/-- The rounds that wait, with the records that their saved queue holds. -/
def loadRounds : List Round → List FaultRec → List Round
  | [], _ => []
  | r :: t, l => { r with recs := l.take r.recs.length ++ r.recs.drop l.length } :: loadRounds t (l.drop r.recs.length)

/-- The sequencer part of a context as (offset, dwords). -/
def State.seqPart (s : State) (cid : Nat) : List (Nat × List Nat) :=
  let c := s.ctxAt cid
  let tok := c.place.resident && (tableGet s.seqs c.place.seqKey {}).token == c.place.ctxNo
  let split := !(s.landingsOf cid).isEmpty
  [(0x000, (List.range 32).map (fun n => (c.sreg n).toNat)),
   (0x100, [c.flags.toNat + bit tok * 2 ^ 8 + bit c.sup * 2 ^ 9 + bit c.idem.isSome * 2 ^ 10 + bit split * 2 ^ 11 + c.place.land * 2 ^ 12,
            c.active.toNat + c.live.toNat * 2 ^ 16]),
   (0x110, (List.range 4).map (fun n => (c.handle (2 * n)).toNat + (c.handle (2 * n + 1)).toNat * 2 ^ 32)),
   (0x130, (List.range 4).flatMap (fun n =>
      let j := c.rejoin n
      [j.mask.toNat + j.waiting.toNat * 2 ^ 16 + j.base % 256 * 2 ^ 32, j.cont.toNat])),
   (0x170, (List.range 4).flatMap (fun n => (List.range 4).map (fun i => bits (c.portSet n).raw.toNat (64 * i) 64))),
   (0x1F0, (List.range 4).map (fun n =>
      let g := c.portSet n
      g.i0 % 2 ^ 16 + g.i1 % 2 ^ 16 * 2 ^ 16 + g.i2 % 2 ^ 16 * 2 ^ 32 + g.i3 % 2 ^ 16 * 2 ^ 48)),
   (0x210, [c.pc, s.ctxst cid, c.epc.toNat, c.emask.toNat, c.ecause.toNat, c.escr.toNat, c.rglive.toNat, c.cwthr.toNat, c.window.toNat,
            c.trapDepth, c.tokens.toNat + s.opCount (s.ownerOf cid) * 2 ^ 32]),
   (0x268, loopWordsOf c.loop),
   (0x2A0, [c.reason.code, c.wakeAt]),
   (0x2B0, match c.pipe with
      | some p => [p.k, p.e, p.runMask.toNat + bit p.inKernel * 2 ^ 16 + p.kdepth % 128 * 2 ^ 17]
      | none => [0, 0, 0]),
   (0x300, ((List.range 32).flatMap (fun i => match c.stack.reverse[i]? with
      | some e => e.words
      | none => [0, 0])))] ++ c.faultPart

/-- Write the sequencer part of a context at a flat address. -/
def State.saveSeq (s : State) (p : Party) (cid va : Nat) : State :=
  (s.seqPart cid).foldl (fun t x => t.putWords p (va + x.1) x.2) s

/-- Read the sequencer part back; the reconvergence entries keep the model's links. -/
def State.loadSeq (s : State) (p : Party) (cid va : Nat) : State :=
  let w (o : Nat) : Nat := s.getWord p (va + o)
  let n := min 32 (bits (w 0x218) 16 8)
  let queue : List FaultRec := (List.range (min Config.faultQueue (w 0x900))).map (fun i =>
      ⟨BitVec.ofNat 64 (w (0x500 + 32 * i)), BitVec.ofNat 64 (w (0x508 + 32 * i)), BitVec.ofNat 64 (w (0x510 + 32 * i)), BitVec.ofNat 64 (w (0x518 + 32 * i))⟩)
  s.modCtx cid (fun c => { c with
    scalars := (List.range 31).foldl (fun t i => tableSet t (i + 1) (BitVec.ofNat 64 (w (8 * (i + 1)))) 0) []
    flags := BitVec.ofNat 8 (w 0x100)
    sup := (w 0x100).testBit 9
    active := BitVec.ofNat 16 (w 0x108)
    live := BitVec.ofNat 16 (bits (w 0x108) 16 16)
    handles := (List.range 8).foldl (fun t i => tableSet t i (BitVec.ofNat 32 (bits (w (0x110 + i / 2 * 8)) (i % 2 * 32) 32)) 0) []
    rejoins := (List.range 4).foldl (fun t i =>
      let j := w (0x130 + 16 * i)
      tableSet t i ⟨BitVec.ofNat 16 j, BitVec.ofNat 16 (bits j 16 16), bits j 32 8, BitVec.ofNat 64 (w (0x138 + 16 * i)), (c.rejoin i).fork⟩ ⟨0, 0, 0, 0, 0⟩) []
    ports := (List.range 4).foldl (fun t i =>
      let x := w (0x1F0 + 8 * i)
      tableSet t i ⟨BitVec.ofNat 256 (s.getBig p (va + 0x170 + 32 * i) 4), bits x 0 16, bits x 16 16, bits x 32 16, bits x 48 16⟩ ⟨0, 0, 0, 0, 0⟩) []
    pc := w 0x210
    lrj := (w 0x218).testBit 1
    epc := BitVec.ofNat 64 (w 0x220)
    emask := BitVec.ofNat 16 (w 0x228)
    ecause := BitVec.ofNat 8 (w 0x230)
    escr := BitVec.ofNat 64 (w 0x238)
    rglive := BitVec.ofNat 64 (w 0x240 % 2 ^ 56)
    window := BitVec.ofNat 32 (w 0x250)
    trapDepth := w 0x258
    tokens := BitVec.ofNat 32 (w 0x260)
    loop := loopOfWords (fun i => w (0x268 + 8 * i))
    pipe := c.pipe.map (fun q => { q with
      k := w 0x2B0, e := w 0x2B8, runMask := BitVec.ofNat 16 (w 0x2C0), inKernel := (w 0x2C0).testBit 16, kdepth := bits (w 0x2C0) 17 7 })
    stack := ((List.range n).map (fun i => stackEntryOf (w (0x300 + 16 * i)) (w (0x308 + 16 * i)) ((c.stack.reverse[i]?.map StackEntry.child).getD 0))).reverse
    faults := queue.take (min c.faults.length queue.length)
    rounds := loadRounds c.rounds (queue.drop c.faults.length) })

/-! ## The engine records (R392) -/

/-- Address of the record of engine e. -/
def engArea (area e : Nat) : Nat := area + 0x10000 + e * 0x58000

/-- Slots of an engine that a context owns, in order. -/
def Engine.ownedSlots (x : Engine) (o : Nat) : List Nat := (List.range 32).filter (fun n => o ≠ 0 && (x.slot n).owner == o)

/-- The block at 0x1_2000 of an engine's record. -/
def engBlock (y : EngCtx) (x : Engine) (owned : List Nat) (item : Dword) : List Nat :=
  [y.p.toNat] ++ (List.range 8).map (fun n => (y.qreg n).toNat) ++ (List.range 8).map (fun n => (y.zreg n).toNat) ++
  [y.kcur.toNat, packBits 8 4 (fun n => (y.drainOf n).toNat), y.fstat.toNat, packBits 1 32 (fun n => bit (owned.contains n))] ++
  (List.range 16).map (fun i => packBits 32 2 (fun h =>
    let o := x.slot (2 * i + h)
    o.fmt.toNat + o.tag.toNat * 2 ^ 16)) ++ [item.toNat]

/-- Write slots of an engine's record. -/
def State.saveSlots (s : State) (p : Party) (va : Nat) (x : Engine) (owned : List Nat) : State :=
  owned.foldl (fun t n =>
    let o := x.slot n
    let u := t.putBig p (va + 0x13000 + n * 8192) 1024 o.data.toNat
    if o.fmt = 10 then u.putBig p (va + 0x53000 + n * 512) 64 o.scale.toNat else u) s

/-- Write the record and the save extent of engine e of a context; inside an idempotent region only what R393 names. -/
def State.saveEngine (s : State) (p : Party) (o area e : Nat) (idem : Option Snapshot) : State :=
  let c := s.ctxAt o
  let g := c.place.gangNo
  let x := s.eng g e
  let y := x.part c.place.engCtx
  let va := engArea area e
  let item := ((tableFind c.items e).map RunItem.addr).getD 0
  let s1 := (List.range 32).foldl (fun t n => t.putBig p (va + 256 * n) 32 (y.vreg n).toNat) s
  match idem with
  | some snap =>
    let es := tableGet snap.engines e ⟨1, [], [], []⟩
    let owned := (x.ownedSlots o).filter (fun n => es.slots.contains n)
    (s1.putWords p (va + 0x12000) (engBlock { y with p := es.p, q := es.q, z := es.z } x owned item)).saveSlots p va x owned
  | none =>
    let owned := x.ownedSlots o
    let s2 := (List.range 4).foldl (fun t n => t.putBig p (va + 0x2000 + n * 16384) 2048 (y.accum n).toNat) s1
    let s3 := (s2.putWords p (va + 0x12000) (engBlock y x owned item)).saveSlots p va x owned
    let r := s3.region c.region
    (List.range (512 * r.esize)).foldl (fun t i =>
      t.flatStoreRaw p (area + 0x590000 + e * r.esize * 4096 + 8 * i)
        ((List.range 8).map (fun j => x.byte (r.estart * 4096 + 8 * i + j)))) s3

/-- Read the record of engine e back into the engines that the context's place names; without accumulators and extent
after a park inside an idempotent region. -/
def State.loadEngine (s : State) (p : Party) (o area e : Nat) (whole : Bool) : State :=
  let c := s.ctxAt o
  let va := engArea area e
  let w (i : Nat) : Nat := s.getWord p (va + 0x12000 + 8 * i)
  let owned := (List.range 32).filter (fun n => (w 20).testBit n)
  let y : EngCtx :=
    { acc := if whole then (List.range 4).foldl (fun t n => tableSet t n (BitVec.ofNat 131072 (s.getBig p (va + 0x2000 + n * 16384) 2048)) 0) [] else []
      v := (List.range 32).foldl (fun t n => tableSet t n (BitVec.ofNat 2048 (s.getBig p (va + 256 * n) 32)) 0) []
      p := BitVec.ofNat 8 (w 0)
      q := (List.range 7).foldl (fun t n => tableSet t (n + 1) (BitVec.ofNat 64 (w (n + 2))) 0) []
      z := (List.range 8).foldl (fun t n => tableSet t n (BitVec.ofNat 64 (w (9 + n))) 0) []
      kcur := kcurBits (w 17)
      drain := (List.range 4).foldl (fun t n => tableSet t n (BitVec.ofNat 8 (bits (w 18) (8 * n) 8)) 0) []
      fstat := BitVec.ofNat 5 (w 19) }
  let slot (n : Nat) : OSlot :=
    let tag := bits (w (21 + n / 2)) (n % 2 * 32) 32
    let fmt : BitVec 4 := BitVec.ofNat 4 tag
    { data := BitVec.ofNat 65536 (s.getBig p (va + 0x13000 + n * 8192) 1024)
      scale := if fmt = 10 then BitVec.ofNat 4096 (s.getBig p (va + 0x53000 + n * 512) 64) else 0
      owner := o, fmt := fmt, tag := BitVec.ofNat 16 (bits tag 16 16) }
  let r := s.region c.region
  let ext := if whole then (List.range (512 * r.esize)).flatMap (fun i => s.flatLoad p (area + 0x590000 + e * r.esize * 4096 + 8 * i) 8) else []
  s.modEng c.place.gangNo e (fun x =>
    ((owned.foldl (fun z n => z.putO n (slot n)) x).putBytes (r.estart * 4096) ext).setPart c.place.engCtx y)

/-! ## Operations that land while parked (R50, R265, R392) -/

/-- The gang number under which a parked context's engines are held while its area is open. -/
def areaGang (cid : Nat) : Nat := Config.gangs + cid

/-- Open the area of a parked context as engines of its own, let `f` act, and write the area back. A resident context
acts where it stands. -/
def State.withArea (s : State) (o : Nat) (f : State → State) : State :=
  let c := s.ctxAt o
  match c.place with
  | .parked d a =>
    let p : Party := ⟨c.region, d⟩
    let l := eids c.live
    let s1 := s.modCtx o (fun x => { x with place := .landing d 0 (areaGang o) 0 })
    let s2 := l.foldl (fun t e => t.loadEngine p o a.toNat e true) s1
    let s3 := f s2
    let s4 := l.foldl (fun t e => t.saveEngine p o a.toNat e none) s3
    { s4.modCtx o (fun x => { x with place := .parked d a }) with engines := s4.engines.filter (fun e => e.1 / 16 ≠ areaGang o) }
  | _ => f s

/-! ## Parking -/

/-- The region whose pool a region uses, and its lowest free area (R390, log 9). -/
def State.freeAreaOf (s : State) (region : Nat) : Option (Nat × Dword) :=
  let own := (s.region region).sowner
  let x := s.region own
  ((List.range x.sareas).map (fun i => x.sbase + BitVec.ofNat 64 (i * x.ssize))).find? (fun a => !x.used.contains a)
    |>.map (fun a => (own, a))

/-- A context as its IDEMB snapshot restarts it (R52). -/
def Ctx.restart (c : Ctx) (n : Snapshot) : Ctx :=
  { c with
    scalars := n.scalars, flags := n.flags, handles := n.handles, rejoins := n.rejoins, stack := n.stack
    active := n.active &&& c.live, loop := n.loop, pc := n.pc, wait := .none }

/-- Items that the park abandons: late ones under the abandon policy of their own region (R33, R53). -/
def State.lateMask (s : State) (o : Nat) : Mask :=
  let c := s.ctxAt o
  ofEngineBits (fun e => match tableFind c.items e with
    | some it => (s.region it.region).pol && it.deadline ≠ 0 && decide (it.deadline < s.time)
    | none => false)

/-- Lateness of an item. -/
def State.lateness (s : State) (it : RunItem) : Nat := s.time - it.deadline

/-- End late items of a context as ABANDONED and drop their engines. -/
def State.abandonLate (s : State) (o : Nat) : State :=
  let m := s.lateMask o
  if m = 0 then s else (s.endItems o m stABANDONED 0 s.lateness).dropEngines o m

/-- Point a context's operations at another place; the array that takes their groups changes only with a gang. -/
def State.moveOps (s : State) (o g k : Nat) : State :=
  { s with ops := s.ops.map (fun e => if e.2.cid = o then
      (e.1, { e.2 with gang := g, ctxNo := k, seat := if g < Config.gangs then g else e.2.seat }) else e) }

/-- Slots and registers of a context leave the gang where it stood. -/
def State.clearSeat (s : State) (o g k : Nat) : State :=
  s.mapGang g (fun x => { (x.freeSlots o).setPart k {} with tasks := x.tasks.filter (fun t => t.ctx ≠ k) })

/-- Record the park in every item of a context (R31, R50). -/
def State.parkItems (s : State) (o : Nat) (area : Dword) (pc : Nat) : State :=
  let c := s.ctxAt o
  c.items.foldl (fun t e =>
    let p := schedParty e.2.region c.place.die
    let a := e.2.addr.toNat
    let t1 := t.itemPut p a 8 pc
    let t2 := t1.itemPut p a 24 (e.2.trip % 2 ^ 32 + e.2.iters % 2 ^ 32 * 2 ^ 32)
    (t2.itemPut p a 56 area.toNat).itemState p a stPARKED) s

/-- The other members of a co-resident group of a context that parks are to park too (R163). -/
def State.coresPreempt (s : State) (o : Nat) : State :=
  let mates (g : Group) : List Nat := g.members.filterMap (fun m => match m.who with
    | .ctx c => if m.removed then none else some c
    | .porch _ _ => none)
  s.groups.foldl (fun t e =>
    if e.2.cores && e.2.state == .live && e.2.hasCtx o then
      (mates e.2).foldl (fun u c => if (tableFind u.ctxs c).isSome && (u.ctxAt c).place.resident then u.modCtx c (fun x => { x with preempt := true }) else u) t
    else t) s

/-- The snapshot that a park restarts the context from: in its handler a context keeps its trap frame and everything else (R52, R59,
R213; DEDUCED: R59 says so of PARK in the handler without an exception). -/
def Ctx.restartsAt (c : Ctx) : Option Snapshot := if c.sup then none else c.idem

/-- Zero the place of a landing's part in an area (R391). -/
def State.clearLanding (s : State) (p : Party) (area : Nat) : State := s.putWords p (area + 0x8000) (List.replicate 0x121 0)

/-- Park a gang context with its landings, at a bundle boundary (R50 to R53, R390 to R394). With no free area, or
while the debugger stops a side of it (R397), the context stays and holds. -/
def State.parkNow (s : State) (o : Nat) (reason : ParkReason) (wake : Nat) : State :=
  match if (s.sidesOf o).any (fun c => (s.ctxAt c).dbgStop) then none else s.freeAreaOf (s.ctxAt o).region with
  | none => s.modCtx o (fun c => { c with holdPark := true, reason := reason, wakeAt := wake })
  | some (own, area) =>
    let sides := s.sidesOf o
    let s1 := ((sides.foldl (fun t k => (t.land k).withdraw k) (s.regrpFail o)).settleGang (s.ctxAt o).place.gangNo).mapGang (s.ctxAt o).place.gangNo
      (fun x => x.landTasks (s.ctxAt o).place.engCtx)
    let s2 := ((s1.coresPreempt o).coresPark o).abandonLate o
    if (s2.ctxAt o).live = 0 then s2.endContext o
    else
      let c := s2.ctxAt o
      let d := c.place.die
      let p : Party := ⟨c.region, d⟩
      let s3 := s2.setRegion own { s2.region own with used := area :: (s2.region own).used }
      let s4 := sides.foldl (fun t k => t.modCtx k (fun x =>
        let y := { x with reason := reason, wakeAt := wake }
        match x.restartsAt with
        | some n => y.restart n
        | none => y)) s3
      let s5 := s4.saveSeq p o area.toNat
      let s6 := ((s4.landingsOf o).foldl (fun (x : State × Nat) k => (x.1.saveSeq p k x.2, x.2 + 0x1000))
        (if (s4.landingsOf o).isEmpty then s5.clearLanding p area.toNat else s5, area.toNat + 0x8000)).1
      let s7 := sides.foldl (fun t k =>
        let x := t.ctxAt k
        (eids (Mask.less x.live x.lent)).foldl (fun u e => u.saveEngine p o area.toNat e x.restartsAt) t) s6
      let s8 := (s7.parkItems o area (s7.ctxAt o).pc).dropPins o
      let s9 := (sides.foldl (fun t k => t.tokenLeaves (t.ctxAt k).place) s8).clearSeat o c.place.gangNo c.place.engCtx
      let s10 := (s9.countGang c.region false).moveOps o (areaGang o) 0
      let base (k : Nat) : Nat := match (s2.landingsOf o).findIdx? (fun x => x == k) with
        | some i => area.toNat + 0x8000 + 0x1000 * i
        | none => area.toNat
      (sides.foldl (fun t k => t.modCtx k (fun x => { x with
        place := .parked d (BitVec.ofNat 64 (base k)), preempt := false, victimOf := none, holdPark := false, readyAt := none, aged := false
        heldRegrp := none })) s10).coresUpdate

/-! ## Where a context may park (R52, R163, R447) -/

/-- Whether a context is held at a word of a co-resident group in PARKING: GWAIT, GBAR, GVOTE or GRDC. -/
def State.coresHeld (s : State) (cid : Nat) : Bool :=
  match (s.ctxAt cid).heldGid with
  | some g => (s.groupAt g).cores && (s.groupAt g).state == .parking
  | none => false

/-- A gang context and its landings once issue has reached their addresses. -/
def State.sidesArrive (s : State) (o : Nat) : State := (s.sidesOf o).foldl (fun t k => t.setCtx k (s.arrived k)) s

/-- Whether a pre-emption of a gang context takes effect now: a plain item at any boundary, a pipelined-loop item only
just before the bundle at K, which is to issue, never a context in its handler. -/
def State.atPreemptPoint (s : State) (o : Nat) : Bool :=
  let t := s.sidesArrive o
  (s.sidesOf o).all (fun k =>
    let c := t.ctxAt k
    !c.sup && (match c.pipe with
      | some p => s.coresHeld k || (c.pc == p.k && c.loop.isNone && (t.kernelArrive k).2.2.isSome)
      | none => true))

/-! ## Resuming -/

/-- The lowest landing contexts free on a die, n of them; none where there are fewer. -/
def State.freeLandings (s : State) (d n : Nat) : Option (List Nat) :=
  let used := s.ctxs.filterMap (fun e => match e.2.place with
    | .landing x l _ _ => if x = d then some l else none
    | _ => none)
  let l := (List.range (2 * Config.landingsPerDie)).filter (fun i => !used.contains i)
  if n ≤ l.length then some (l.take n) else none

/-- Whether every slot number that a parked context owned is FREE in each engine of a gang in which it is to resume (R68). -/
def State.slotsFit (s : State) (o g : Nat) : Bool :=
  let c := s.ctxAt o
  match c.place with
  | .parked d a =>
    let owned (e n : Nat) : Bool := (s.getWord ⟨c.region, d⟩ (engArea a.toNat e + 0x12000 + 8 * 20)).testBit n
    let l := eids c.live
    (List.range 32).all (fun n => !(l.any (fun e => owned e n)) || l.all (fun e => (s.slotAt g e n).owner == 0))
  | _ => false

/-- Whether a parked context can resume at a gang's context: place free, budget, landings, slots (R68, R387, R394). -/
def State.canResume (s : State) (o g k : Nat) : Bool :=
  let c := s.ctxAt o
  (s.ctxOn g k).isNone && s.admits c.region && s.slotsFit o g &&
    (s.freeLandings (g / Config.gangsPerDie) (s.landingsOf o).length).isSome

/-- Endpoint words of a context follow it to its new place (R324). -/
def Channel.follow (c : Channel) (cid g k : Nat) : Channel :=
  let word : Dword := BitVec.ofNat 64 (g + k * 256)
  let here (e : Endpoint) : Bool := e.bound == cid || (e.bound == 0 && e.gang == g && e.ctx == k && !e.ended)
  { c with
    snd := if here c.snd then { c.snd with gang := g, ctx := k, bound := cid } else c.snd
    rcv := if here c.rcv then { c.rcv with gang := g, ctx := k, bound := cid } else c.rcv
    record := match c.record with
      | a :: b :: t => (if here c.snd then word else a) :: (if here c.rcv then word else b) :: t
      | l => l }

/-- A context alone on its sequencer holds the token (R23, R394). -/
def State.takeToken (s : State) (cid : Nat) : State :=
  if (s.otherOn cid).isNone then s.setSeq cid { s.seqOf cid with token := (s.ctxAt cid).place.ctxNo } else s

/-- A context takes a gang's context: endpoints bind, the token goes to it where it is alone, the budget counts it. -/
def State.seat (s : State) (cid g k : Nat) : State :=
  (({ s with channels := s.channels.map (fun (e : Nat × Channel) => (e.1, e.2.follow cid g k)) } : State).takeToken cid).countGang (s.ctxAt cid).region true

/-- Place a parked context at a gang's context (R390, R394): the area is read back and freed, engines whose items have ended
meanwhile stay out. -/
def State.placeAt (s : State) (o g k : Nat) : State :=
  let c := s.ctxAt o
  match c.place, s.freeLandings (g / Config.gangsPerDie) (s.landingsOf o).length with
  | .parked d a, some lands =>
    let p : Party := ⟨c.region, d⟩
    let kids := s.landingsOf o
    let die := g / Config.gangsPerDie
    let r := s.region c.region
    let idemEng (e : Nat) : Bool := (s.sidesOf o).any (fun x => (s.ctxAt x).restartsAt.isSome && (s.ctxAt x).live.getLsbD e && !((s.ctxAt x).lent.getLsbD e))
    let live := eids c.live
    let s1 := (s.readsFlat (.record c.region) p a.toNat (areaSize r.esize)).loadSeq p o a.toNat
    let s2 := (o :: kids).foldl (fun t k => t.modCtx k (fun x => x.dropEngines (Mask.less x.live (s.ctxAt k).live)))
      (kids.foldl (fun (x : State × Nat) k => (x.1.loadSeq p k x.2, x.2 + 0x1000)) (s1, a.toNat + 0x8000)).1
    let now (x : Ctx) (pl : Place) : Ctx := { x with
      place := pl, cwthr := r.cwthr, started := s.now, readyAt := none, reason := .running, aged := false, inflight := [], pending := [], linked := [], missPin := none, heldOn := none, heldGid := none
      nextIssue := 0, lastTrans := 0 }
    let s3 := s2.modCtx o (fun x => now x (.gang g k))
    let s4 := (kids.zip lands).foldl (fun t kl => t.modCtx kl.1 (fun x => now x (.landing die kl.2 g k))) s3
    let s5 := (kids.foldl State.takeToken s4).modCtx o (fun x => { x with stack := x.stack.map (fun e => match (kids.zip lands).find? (fun kl => e.kind = 1 && kl.1 == e.child) with
      | some kl => { e with land := kl.2 }
      | none => e) })
    let s6 := live.foldl (fun t e => t.loadEngine p o a.toNat e (!idemEng e)) s5
    let s7 := ((s6.freeArea c.region a).moveOps o g k).seat o g k
    (s7.ctxAt o).items.foldl (fun t e =>
      let p := schedParty e.2.region die
      let w := leValue (t.flatLoad p (e.2.addr.toNat + 24) 8)
      let dl := leValue (t.flatLoad p (e.2.addr.toNat + 48) 8)
      (t.itemState p e.2.addr.toNat stRUNNING).modCtx o (fun x => { x with
        items := tableInsert x.items e.1 { e.2 with trip := bits w 0 32, iters := bits w 32 32, deadline := dl } })) s7
  | _, _ => s

/-- The deadline check of a context that resumes (R53): late items are abandoned under the abandon policy. -/
def State.resumeCheck (s : State) (o : Nat) : State :=
  let t := s.abandonLate o
  (if (t.ctxAt o).live = 0 then t.endContext o
   else if (t.ctxAt o).active = 0 then t.seek o (t.ctxAt o).pc else t).coresUpdate

/-- Resume a parked context at a gang's context. -/
def State.resumeAt (s : State) (o g k : Nat) : State := (s.placeAt o g k).resumeCheck o

end Sys2Proof.Machine
end

