-- ==== Sys2Proof/Machine/Work.lean ====
section
/-!
DEFINITION. The C words that end, file, park and fuse work: SPAWN, PARK, DONE, EXIT and REGRP (R34 to R36, R41, R48, R49, R50,
R211 to R216).
-/
namespace Sys2Proof.Machine

/-! ## SPAWN (R34 to R36, R214, R447) -/

/-- Whether an item can be put in a bin of its die now. -/
def Die.canFile (d : Die) (r : List Dword) : Bool := (d.joinBin r).isSome || (d.freeBin.isSome && d.waiting.isEmpty)

/-- The record that SPAWN at an address would file, and its die. -/
def State.spawnAt (s : State) (addr : Dword) : Option (List Dword × Nat) :=
  (s.spawnable s.party addr.toNat).map (fun r => (r, s.filingDie s.me.region s.me.place.die r))

/-- What SPAWN's look at its record leaves besides it: the lines it reads, and misses, that of the affinity address too (R35, R399). -/
def State.spawnReads (s : State) (addr : Dword) : State :=
  let t := s.readsFlat (.context s.focus) s.party addr.toNat 64
  match s.spawnable s.party addr.toNat with
  | some r => if r.getD 5 0 = 0 then t else t.findHome .find (r.getD 5 0)
  | none => t

/-- SPAWN holds while its item waits for a bin (R36). -/
def State.spawnCheck (s : State) (addr : Dword) : Verdict :=
  (s.need 0 s.was.idem.isNone).and
    (if s.me.spawnOk = some addr then .ok
     else match s.spawnAt addr with
       | some (r, d) => if (s.die d).canFile r then .ok else .hold
       | none => .ok)

/-- SPAWN files its item, or refuses it: f1 tells. -/
def State.spawn (s : State) (addr : Dword) : State :=
  if s.me.spawnOk = some addr then (s.mod (fun c => { c with spawnOk := none })).wF 1 true 1
  else match s.spawnAt addr with
    | some (r, d) => ((s.spawnReads addr).fileItem d s.focus addr.toNat r).1.wF 1 true 1
    | none => (s.spawnReads addr).wF 1 false 1

/-- The item of a SPAWN that holds takes its place among the waiting items of its die, and a bin is forced (R36). -/
def State.queueSpawn (s : State) (g : Gate) (sA : BitVec 5) : State :=
  let addr := s.rS sA
  if s.scoreboard 0 (.f g.pred.toNat :: .f 1 :: useS [sA]) ≠ .ok || !(s.gateF g) || s.me.spawnOk = some addr || s.dies.any (fun e => e.2.waiting.any (fun w => w.cid == s.focus)) then s
  else match s.spawnAt addr with
    | some (r, d) => if (s.die d).canFile r then s else ((s.spawnReads addr).fileItem d s.focus addr.toNat r).1
    | none => s

/-- Whether a SPAWN by itself holds at issue. -/
def State.spawnHolds (s : State) (g : Gate) (sA : BitVec 5) : Bool :=
  s.issue.pre.isNone &&
    s.verdict 0 (s.gateF g) (.f g.pred.toNat :: .f 1 :: useS [sA]) (fun _ => .ok) (fun t => t.spawnCheck (t.rS sA)) == .hold

/-- SPAWN. -/
def execSpawn (g : Gate) (sA : BitVec 5) (s : State) : Answer :=
  match ctl (.spawn g sA) g (.f 1 :: useS [sA]) (fun t => t.spawnCheck (t.rS sA)) (fun t => t.spawn (t.rS sA)) s with
  | .next t => .next (if s.spawnHolds g sA then t.queueSpawn g sA else t)
  | a => a

/-! ## PARK (R213) -/

/-- Park the context in focus at the boundary after its bundle; in a bundle of several words the step parks it last. -/
def State.parkWord (s : State) (wake : Dword) : State :=
  match s.issue.pre with
  | some _ => { s.mod (fun c => { c with wakeAt := wake.toNat }) with issue := { s.issue with park := true } }
  | none => (s.mod (fun c => { c with pc := s.issue.next }.backEdge)).parkNow s.owner .parkWord wake.toNat

/-- PARK: s0 names no wake time. -/
def execPark (g : Gate) (sT : BitVec 5) (s : State) : Answer :=
  ctl (.park g sT) g (useS [sT]) free (fun t => t.parkWord (t.rS sT)) s

/-! ## DONE and EXIT (R41, R215) -/

/-- A hold for the context's operations; in the handler a stopped one never ends (R55, R215). -/
def State.opsHold (s : State) : Verdict :=
  if s.opsBefore s.owner s.nextOp then
    (if s.me.sup && s.ops.any (fun e => e.2.cid == s.owner && e.2.parts.any (fun p => p.state == .stopped)) then s.need 0 false else .hold)
  else .ok

/-- DONE that ends the last live engine holds for operations. -/
def State.doneCheck (s : State) : Verdict :=
  if Mask.less (s.ctxAt s.owner).live s.was.active = 0 then s.opsHold else .ok

/-- Items of engines end as DONE, at once or when the operations issued before have completed (R215). -/
def State.doneItems (s : State) (o : Nat) (m : Mask) : State :=
  if s.opsBefore o s.nextOp then
    s.modCtx o (fun c => { c with
      finishing := c.finishing ++ (c.items.filter (fun e => m.getLsbD e.1)).map (fun e => ⟨e.1, e.2, s.nextOp⟩)
      items := c.items.filter (fun e => !m.getLsbD e.1) })
  else s.endItems o m stDONE 0 (fun _ => 0)

/-- DONE: the items of the active engines end, and the search of R41 runs where none is left active. -/
def State.done (s : State) : State :=
  let m := s.was.active
  let o := s.owner
  let cid := s.focus
  let s1 := ((s.doneItems o m).dropEngines o m).delay 2
  if (s1.ctxAt cid).active = 0 then s1.seekOn cid s.issue.next else s1

/-- DONE. -/
def execDone (g : Gate) (s : State) : Answer := ctl (.done g) g [] State.doneCheck State.done s

/-- EXIT: every item of the context ends, and the context with its landings. -/
def execExit (g : Gate) (s : State) : Answer := ctl (.exit g) g [] State.opsHold (fun t => t.exitContext t.owner) s

/-! ## REGRP (R48, R49, R211) -/

/-- The partner on a group that holds exactly the two contexts, on another sequencer of the die and resident. -/
def State.regrpPartner (s : State) (gid : Nat) : Option Nat :=
  let g := s.groupAt gid
  match g.members with
  | [a, b] =>
    let ok (m : Member) : Bool := !m.removed && m.leaveGen.isNone && decide (m.since ≤ g.gen)
    let other : Option Nat := match a.who, b.who with
      | .ctx x, .ctx y => if x = s.focus then some y else if y = s.focus then some x else none
      | _, _ => none
    match other with
    | some p =>
      let c := s.ctxAt p
      if ok a && ok b && (tableFind s.ctxs p).isSome && c.place.resident && c.place.seqKey ≠ s.me.place.seqKey &&
         c.place.die == s.me.place.die then some p else none
    | none => none
  | _ => none

/-- What a context must keep for a fusion (R48, R59). -/
def State.regrpFit (s : State) (cid : Nat) : Bool :=
  let c := s.ctxAt cid
  c.stack.isEmpty && (s.landingsOf cid).isEmpty && (List.range 4).all (fun n => (c.rejoin n).waiting == 0) && !c.sup && c.rounds.isEmpty &&
    !(c.pipe.any PipeState.inKernel)

/-- What an engine takes from the donor's under RGLIVE (R49, R224). Its status flags stay (R142). -/
def EngCtx.takes (x y : EngCtx) (live : Dword) : EngCtx :=
  { x with
    acc := []
    v := y.v.filter (fun e => live.getLsbD e.1)
    p := BitVec.ofNat 8 (packBits 1 8 (fun n => if n = 0 then 1 else bit (live.getLsbD (32 + n) && y.p.getLsbD n)))
    q := y.q.filter (fun e => live.getLsbD (40 + e.1))
    z := y.z.filter (fun e => live.getLsbD (48 + e.1)) }

/-- Where the donor's engines go: each, ascending, to the survivor's lowest eid outside its mask. -/
def regrpMap (mask : Mask) : List Nat → List (Nat × Nat)
  | [] => []
  | e :: t => match (List.range 16).find? (fun i => !mask.getLsbD i) with
    | some i => (e, i) :: regrpMap (mask ||| BitVec.ofNat 16 (2 ^ i)) t
    | none => []

/-- REGRP writes f1 of the context in focus, unless a later word of its bundle has (R174). -/
def State.regrpOwes (s : State) : Bool := !(s.issue.f1At.any (fun a => decide (s.issue.word < a)))
def State.regrpF1 (s : State) (b : Bool) : State := if s.regrpOwes then s.wF 1 b 1 else s

/-- Fuse two contexts: the donor's engines and items move, as its RGLIVE says, and the donor ends without ending its items; it leaves
its groups, whatever became of items it had before (R49). `owes` tells whether REGRP still writes the survivor's f1. -/
def State.fuse (s : State) (win lose : Nat) (live : Dword) (owes : Bool) : State :=
  let a := s.ctxAt win
  let b := s.ctxAt lose
  let m := regrpMap a.active (eids b.active)
  let s1 := m.foldl (fun t x =>
    let y := (t.eng b.place.gangNo x.1).part b.place.engCtx
    t.modEng a.place.gangNo x.2 (fun z => z.setPart a.place.engCtx ((z.part a.place.engCtx).takes y live))) s
  let union := a.active ||| ofEngineBits (fun e => m.any (fun x => x.2 == e))
  let s2 := (if owes then s1.deliverF1 win true else s1).modCtx win (fun c => { c with
    active := union, live := c.live ||| union, wait := .none
    items := m.foldl (fun t x => match tableFind b.items x.1 with | some it => tableInsert t x.2 it | none => t) c.items })
  (s2.modCtx lose (fun c => { c with items := [], wait := .none })).endContextAs lose false

/-- Whether a partner has come to its REGRP on a group: it holds at it, or has issued it and waits for the context in focus. -/
def State.regrpCame (s : State) (gid p : Nat) : Bool :=
  (s.ctxAt p).heldRegrp == some (gid, s.focus) ||
    (match (s.ctxAt p).wait with
     | .regrp g q _ _ => g == gid && q == s.focus
     | _ => false)

/-- REGRP holds until its partner has come to its own (R211). -/
def State.regrpCheck (s : State) (gid : Nat) : Verdict :=
  match s.regrpPartner gid with
  | some p => if s.regrpCame gid p then .ok else .hold
  | none => .ok

/-- REGRP, once its partner has come: the context that issues first waits for the other, which fuses the two or fails both. -/
def State.regrp (s : State) (gid : Nat) : State :=
  match s.regrpPartner gid with
  | none => (s.regrpF1 false).regrpLeave s.focus
  | some p =>
    let c := s.ctxAt p
    match c.wait with
    | .regrp _ _ owes live =>
      let n := (eids s.me.active).length
      let k := (eids c.active).length
      if s.regrpFit s.focus && s.regrpFit p && n + k ≤ 16 then
        (if k < n ∨ (n = k ∧ s.me.place.gangNo < c.place.gangNo) then s.fuse s.focus p live s.regrpOwes else s.fuse p s.focus s.rRglive owes)
      else (s.regrpF1 false).regrpLeave s.focus
    | _ => s.mod (fun x => { x with wait := .regrp gid p s.regrpOwes s.rRglive })

/-- The effect of REGRP: one whose partner has gone, or that a pre-emption ends, fails (R48, R211). -/
def State.regrpWord (s : State) (h : BitVec 3) : State :=
  let t := s.mod (fun c => { c with heldRegrp := none, regrpFails := false })
  if s.me.regrpFails then (t.regrpF1 false).regrpLeave s.focus else t.onMember h (fun u gid _ => u.regrp gid)

/-- The check of REGRP. -/
def State.regrpGate (s : State) (h : BitVec 3) : Verdict :=
  if s.me.regrpFails then .ok else s.groupCheck h true true (fun gid _ => s.regrpCheck gid)

/-- A context whose bundle holds at REGRP alone has come to it (R211). -/
def State.regrpMark (s : State) (g : Gate) (h : BitVec 3) : State :=
  if s.scoreboard 0 [.f g.pred.toNat, .h h.toNat, .f 1] ≠ .ok || !(s.gateF g) || s.me.regrpFails then s
  else match s.handleMember h with
    | some (gid, _) => match s.regrpPartner gid with
      | some p => if s.regrpCame gid p || s.countedOn gid then s else s.mod (fun c => { c with heldRegrp := some (gid, p) })
      | none => s
    | none => s

/-- Whether a REGRP by itself holds at issue. -/
def State.regrpHolds (s : State) (g : Gate) (h : BitVec 3) : Bool :=
  s.issue.pre.isNone &&
    s.verdict 0 (s.gateF g) [.f g.pred.toNat, .h h.toNat, .f 1] (fun _ => .ok) (fun t => t.regrpGate h) == .hold

/-- REGRP. -/
def execRegrp (g : Gate) (h : BitVec 3) (s : State) : Answer :=
  match ctl (.regrp g h) g [.h h.toNat, .f 1] (fun t => t.regrpGate h) (fun t => t.regrpWord h) s with
  | .next t => .next (if s.regrpHolds g h then t.regrpMark g h else t)
  | a => a

end Sys2Proof.Machine
end

