-- ==== Sys2Proof/Machine/System.lean ====
section
/-!
DEFINITION. Control registers: CSRD, CSWR and the writes that act (R134, R142, R221 to R225, R290, R291).
-/
namespace Sys2Proof.Machine

/-! ## Control-register numbers (R222) -/

/-- Registers that only the handler may access. -/
def crSuper (n : Nat) : Bool := (0x20 ≤ n && n ≤ 0x22) || n == 0x24 || n == 0x25 || (0x28 ≤ n && n ≤ 0x2D)

/-- Engine-side registers. -/
def crEngine (n : Nat) : Bool := n == 0x10 || n == 0x12 || n == 0x13

/-! ## Reading -/

/-- WHERE (R224). -/
def Ctx.whereAmI (c : Ctx) : Nat :=
  c.place.ctxNo % 2 * 2 ^ 15 + c.place.land % 16 * 2 ^ 11 + bit c.isLanding * 2 ^ 10 + c.place.die % 4 * 2 ^ 8 + c.place.gangNo % 256

/-- Dword i of the oldest unread record; 0 when there is none (R222). -/
def Ctx.fqWord (c : Ctx) (i : Nat) : Dword :=
  match c.faults with
  | [] => 0
  | r :: _ => match i with
    | 0 => r.addr
    | 1 => r.bundle
    | 2 => r.cause
    | _ => r.extra

/-- FSTATA: the status flags of the active engines together, each as a reader sees them (R175, R222). -/
def State.statusAll (s : State) : Nat :=
  s.actives.foldl (fun a e => a ||| s.inBound (crDest 0x10 e) true 32 2 (s.wasPart e).fstat.toNat) 0

/-- An engine-side register of engine e of the context in focus. -/
def State.crEng (s : State) (n e : Nat) : Dword :=
  let x := s.wasPart e
  if n = 0x10 then BitVec.ofNat 64 x.fstat.toNat else if n = 0x13 then x.kcur else 0

/-- A register as it stands, at the sequencer (R222 to R225). -/
def State.crSeq (s : State) (n : Nat) : Dword :=
  let c := s.was
  match n with
  | 0x00 => BitVec.ofNat 64 (s.ctxst s.focus)
  | 0x01 => BitVec.ofNat 64 s.time
  | 0x02 => BitVec.ofNat 64 s.cycle
  | 0x03 => BitVec.ofNat 64 c.active.toNat
  | 0x04 => BitVec.ofNat 64 c.live.toNat
  | 0x05 => BitVec.ofNat 64 c.whereAmI
  | 0x06 => BitVec.ofNat 64 (c.region % 4096)
  | 0x07 => BitVec.ofNat 64 c.cwthr.toNat
  | 0x08 => c.rglive
  | 0x09 => BitVec.ofNat 64 ((c.loop.map LoopState.pass).getD 0 % 2 ^ 32)
  | 0x0A => BitVec.ofNat 64 ((c.loop.map LoopState.count).getD 0 % 2 ^ 32)
  | 0x11 => BitVec.ofNat 64 s.statusAll
  | 0x20 => c.epc
  | 0x21 => BitVec.ofNat 64 c.emask.toNat
  | 0x22 => BitVec.ofNat 64 c.ecause.toNat
  | 0x23 => c.hvec
  | 0x24 => c.escr
  | 0x28 => BitVec.ofNat 64 c.faults.length
  | 0x29 => c.fqWord 0
  | 0x2A => c.fqWord 1
  | 0x2B => c.fqWord 2
  | 0x2C => c.fqWord 3
  | _ => 0

/-- What a reader sees of a register inside the bound of a write (R175, R221). -/
def State.rCr (s : State) (n : Nat) : Dword :=
  if crEngine n then
    match s.actives with
    | e :: _ => BitVec.ofNat 64 (s.inBound (crDest n e) true 32 2 (s.crEng n e).toNat)
    | [] => 0
  else BitVec.ofNat 64 (s.inBound (crDest n 0) true 32 2 (s.crSeq n).toNat)

/-- Access to a register that is the handler's needs the handler (R221). -/
def State.crCheck (s : State) (n : Nat) : Verdict := s.need 0 (!(crSuper n) || s.was.sup)

/-- The bound of CSRD's destination: 3 (R221). In the handler the next bundle already reads the new value, which R175 allows and the
run of R366 needs of w_hnd: DEDUCED, log 45. -/
def State.csrdBound (s : State) : Nat := if s.was.sup then 1 else 3

/-- CSRD (R221). -/
def execCsrd (g : Gate) (cr : BitVec 11) (sD : BitVec 5) (s : State) : Answer :=
  ctl (.csrd g cr sD) g (useS [sD]) (fun t => t.crCheck cr.toNat) (fun t => t.wS sD (t.rCr cr.toNat) t.csrdBound) s

/-! ## Writing -/

/-- Cancel the open parts of an operation in some engines: its pins there drop (R89, R290, R291). -/
def State.cancelParts (s : State) (id : Nat) (m : Mask) (stoppedOnly : Bool) : State :=
  match tableFind s.ops id with
  | none => s
  | some o =>
    let o1 : Op := { o with parts := o.parts.map (fun p =>
      if p.eid < 16 && m.getLsbD p.eid && (if stoppedOnly then p.state == .stopped else p.open_) then { p with state := .cancelled, held := [] } else p) }
    s.repin id o1 ((s.wantPins ⟨o.region, s.me.place.die⟩ o1).filter o.pins.contains)

/-- Operations with engine registers of the context in focus. -/
def State.opsHere (s : State) : List Nat :=
  (s.ops.filter (fun e => e.2.cid == s.owner && e.2.gang == s.me.place.gangNo && e.2.ctxNo == s.me.place.engCtx)).map Prod.fst

/-- A write of KCUR in the active engines: V and POS; V = 0 cancels the stopped operation there (R290). -/
def State.putKcur (s : State) (v : Dword) : State :=
  let s1 := s.actives.foldl (fun t e =>
    let old := ((t.myEng e).part t.me.place.engCtx).kcur
    (t.onPart e (fun x => { x with kcur := BitVec.ofNat 64 (putBits (putBits x.kcur.toNat 32 24 (bits v.toNat 32 24)) 63 1 (bits v.toNat 63 1)) })).mod
      (fun c => c.note (crDest 0x13 e) old.toNat t.cycle 3 false)) s
  if v.getLsbD 63 then s1
  else (s1.opsHere.foldl (fun t id => match tableFind t.ops id with
    | some o => if o.kind.restartable then t.cancelParts id s.was.active true else t
    | none => t) s1).unbar s.owner

/-- A write of FSTAT in the active engines (R142). -/
def State.putFstat (s : State) (v : Dword) : State :=
  s.actives.foldl (fun t e =>
    let old := ((t.myEng e).part t.me.place.engCtx).fstat
    (t.onPart e (fun x => { x with fstat := BitVec.ofNat 5 v.toNat })).mod (fun c => c.note (crDest 0x10 e) old.toNat t.cycle 3 false)) s

/-- The engines that a context drives, active or not (R134). -/
def State.drives (s : State) : List Nat := eids (if s.me.isLanding then s.me.live else ~~~s.me.lent)

/-- A write of SRSEED (R134): it takes effect for every draw from 3 cycles on (R221). -/
def State.putSeed (s : State) (v : Dword) : State :=
  s.drives.foldl (fun t e => t.onEng e (fun x =>
    let y := x.seeded (fun due => decide (due ≤ s.cycle))
    { y with seed := y.seed ++ [(s.cycle + 3, seedGen (bits v.toNat 0 32) e)] })) s

/-- A write of FQNEXT discards the oldest unread record (R222), for the readers of the queue from 3 cycles on (R221). -/
def State.nextFault (s : State) : State :=
  [0x28, 0x29, 0x2A, 0x2B, 0x2C].foldl (fun t n => t.mod (fun c => c.note (crDest n 0) (s.crSeq n).toNat s.cycle 3 false))
    (s.mod (fun c => { c with faults := c.faults.drop 1 }))

/-- Receives of some engines are dropped: their elements will be taken and discarded (R265). -/
def State.dropRecvs (s : State) (o : Nat) (m : Mask) : State :=
  (s.sidesOf o).foldl (fun t k => t.modCtx k (fun c => { c with
    recvs := c.recvs.map (fun r => if m.getLsbD r.eid then { r with gone := true } else r) })) s

/-- A write of ABORT (R225). -/
def State.abort (s : State) (x : Dword) : State :=
  let o := s.owner
  let m : Mask := BitVec.ofNat 16 x.toNat &&& s.was.active
  let reason := if bits x.toNat 16 8 = 0 then s.was.ecause.toNat else bits x.toNat 16 8
  let s1 := s.opsHere.foldl (fun t id => t.cancelParts id m false) s
  let s2 := (eids m).foldl (fun t e => t.onPart e (fun y => { y with kcur := BitVec.ofNat 64 (y.kcur.toNat % 2 ^ 63) })) s1
  let s3 := ((s2.dropRecvs o m).endItems o m stABORTED reason (fun _ => 0)).dropEngines o m
  let s4 := (s3.sidesOf o).foldl (fun t k => t.modCtx k (fun c => { c with emask := Mask.less c.emask m })) s3
  if (s4.ctxAt o).live = 0 then s4.endContext o else s4

/-- Write a sequencer register with its bound of 3 cycles. -/
def State.putCr (s : State) (n : Nat) (f : Ctx → Ctx) : State :=
  let old := s.crSeq n
  s.mod (fun c => (f c).note (crDest n 0) old.toNat s.cycle 3 false)

/-- A write of control register n (R221 to R225); what is read-only ignores it. R222 gives CWTHR no width: 32 bits, DESIGN CHOICE,
log 40. -/
def State.crWrite (s : State) (n : Nat) (v : Dword) : State :=
  match n with
  | 0x00 => if v.getLsbD 1 then s.putCr 0x00 (fun c => { c with lrj := false }) else s
  | 0x07 => s.putCr 0x07 (fun c => { c with cwthr := BitVec.ofNat 32 v.toNat })
  | 0x08 => s.putCr 0x08 (fun c => { c with rglive := BitVec.ofNat 64 (v.toNat % 2 ^ 56) })
  | 0x10 => s.putFstat v
  | 0x12 => s.putSeed v
  | 0x13 => s.putKcur v
  | 0x20 => s.putCr 0x20 (fun c => { c with epc := v })
  | 0x21 => s.putCr 0x21 (fun c => { c with emask := BitVec.ofNat 16 v.toNat })
  | 0x24 => s.putCr 0x24 (fun c => { c with escr := v })
  | 0x25 => s.abort v
  | 0x2D => s.nextFault
  | _ => s

/-- CSWR from a scalar (R221). -/
def execCswr (g : Gate) (cr : BitVec 11) (sS : BitVec 5) (s : State) : Answer :=
  ctl (.cswr g cr sS) g (useS [sS]) (fun t => t.crCheck cr.toNat) (fun t => t.crWrite cr.toNat (t.rS sS)) s

/-- CSWR with a literal (R221). -/
def execCswrLiteral (g : Gate) (cr : BitVec 11) (lit : Dword) (s : State) : Answer :=
  ctl (.cswrLiteral g cr lit) g [] (fun t => t.crCheck cr.toNat) (fun t => t.crWrite cr.toNat lit) s

/-- A write of one control register, without a gate. -/
def crWord (i : Instr) (n : Nat) (v : Dword) (s : State) : Answer :=
  runWord i ⟨0, fun _ => [], free, fun _ => true, fun t => t.crCheck n⟩ (fun t => t.crWrite n v) s

/-- A write of the ABORT register (R225). -/
def execAbort (x : Dword) (s : State) : Answer := crWord (.abort x) 0x25 x s
/-- A write of the SRSEED register (R134). -/
def execSrseed (x : Dword) (s : State) : Answer := crWord (.srseed x) 0x12 x s
/-- A write of the FQNEXT register (R222). -/
def execFqnext (x : Dword) (s : State) : Answer := crWord (.fqnext x) 0x2D x s
/-- A write of the KCUR register (R290). -/
def execKcurWrite (x : Dword) (s : State) : Answer := crWord (.kcurWrite x) 0x13 x s

end Sys2Proof.Machine
end

