-- ==== Sys2Proof/Machine/Async.lean ====
section
/-!
DEFINITION. Steps of contexts and of asynchronous operations: rounds, stops, completions, arrivals of channel elements,
segment fetches (R24 to R26, R55, R83, R84, R88, R89, R264, R265, R290 to R292, R319, R320, R345). A step whose event is
not enabled changes nothing (log 1).
-/
namespace Sys2Proof.Machine

/-! ## Running as a context -/

/-- Let `f` act with a context in focus. -/
def State.asCtx (s : State) (cid : Nat) (f : State → State) : State :=
  let t := f { s with focus := cid, issue := {} }
  { t with focus := s.focus, issue := s.issue }

/-- The party of an operation: its region, on the die where its context stands (R100). -/
def State.opParty (s : State) (o : Op) : Party := ⟨o.region, (s.ctxAt o.cid).place.die⟩

/-- Let an operation act in its context: with the shared window that its issue found, and with the translations it has kept. -/
def State.asOp (s : State) (o : Op) (f : State → State) : State :=
  s.asCtx o.cid (fun t => f { t with issue := { t.issue with window := some o.window, pins := o.pins } })

/-- Whether a part may take the array: every multiply before it has left, and no operation with an earlier turn still works
there (R292). -/
def State.partReady (s : State) (id : Nat) (o : Op) (p : Part) : Bool :=
  decide (s.entryCycle o p ≤ s.cycleOf (o.seat / Config.gangsPerDie)) &&
    (s.arrayOps o.seat p.eid).all (fun x => x.1 == id || x.2.parts.all (fun q =>
      q.eid ≠ p.eid || q.state ≠ .running || decide (p.turn < q.turn ∨ (p.turn = q.turn ∧ id < x.1))))

/-- Whether an operation may go on. -/
def State.opReady (s : State) (id : Nat) (o : Op) : Bool :=
  o.kind.accOf.isNone || o.parts.all (fun p => p.state ≠ .running || s.partReady id o p)

/-- Whether every K group of a part has entered the array, one per cycle (R287, R347). -/
def State.groupsIn (s : State) (o : Op) (p : Part) : Bool :=
  o.kind.accOf.isNone ||
    decide (s.entryCycle o p + max 1 (s.groupsLeft (s.opParty o) o p) ≤ s.cycleOf (o.seat / Config.gangsPerDie))

/-- The K groups that a part has put into the array from one of its states to another: KVMM takes every group of its query tile for the columns
that it has reached (R138, R287 to R289). -/
def State.groupsBetween (s : State) (o : Op) (old new : Part) : Nat :=
  let left (q : Part) : Nat := s.groupsLeft (s.opParty o) o q
  match o.kind with
  | .kvmm _ _ _ _ _ _ _ => if new.start = old.start then 0 else left old
  | _ => left old - left new

/-- Whether every K group that a part has put into the array before it stops has entered, one per cycle (R138, R292). -/
def State.groupsTo (s : State) (o : Op) (old new : Part) : Bool :=
  o.kind.accOf.isNone || decide (s.entryCycle o old + s.groupsBetween o old new ≤ s.cycleOf (o.seat / Config.gangsPerDie))

/-- The array is free again: the last group of a part counts as taken when it finishes or stops (R292); it has been busy for n cycles (R443). -/
def State.leaveArray (s : State) (o : Op) (e n : Nat) : State :=
  if o.kind.accOf.isNone then s
  else (s.count (some (o.seat / Config.gangsPerDie)) 1 n).modEng o.seat e (fun x => { x with busy := max x.busy (s.cycleOf (o.seat / Config.gangsPerDie)) })

/-! ## Running an operation's parts -/

/-- What running the parts of an operation gave. -/
structure Ran where
  state : State
  parts : List Part
  recs  : List FaultRec
  /-- Some part could not go on: it waits for a block, or for KCUR (R83, R290). -/
  held  : Bool
  deriving DecidableEq, Repr

/-- The record of a part that stops (R55, R56, R290). -/
def Op.record (o : Op) (p : Part) (m : Meet) (extra : Dword) : FaultRec :=
  ⟨m.addr, o.bundle, causeWord m.reason (p.eid % 16) m.space o.kind.cls o.token m.write true (p.eid == 16), extra⟩

/-- Take account of one part's run: it finished, it stops with a record, or it waits with no progress. A part finishes when all its
groups have entered the array, and stops when those before its fault have. A restartable part writes KCUR where it stops, and waits while another one is stopped in its
engine (R290). -/
def State.tally (s : State) (o : Op) (old : Part) (run : State × Part × Reach) (r : Ran) : Ran :=
  match run.2.2 with
  | .ok =>
    if s.groupsIn o old then
      ⟨(run.1.leaveArray o old.eid (s.groupsLeft (s.opParty o) o old)).clearCursor o old,
        r.parts ++ [{ run.2.1 with state := .finished, held := [], barred := false, cursor := false }], r.recs, r.held⟩
    else ⟨s, r.parts ++ [old], r.recs, true⟩
  | .hold => ⟨s, r.parts ++ [old], r.recs, true⟩
  | .fail m =>
    let q : Part := { run.2.1 with state := .stopped, barred := false }
    if o.kind.restartable then
      if !(s.groupsTo o old q) then ⟨s, r.parts ++ [old], r.recs, true⟩
      else if ((s.eng o.gang old.eid).part o.ctxNo).kcur.getLsbD 63 && !old.cursor then ⟨s, r.parts ++ [{ old with barred := true }], r.recs, true⟩
      else
        let k := kcurOf o q
        let t := ((run.1.dropCursors o.cid old.eid).modEng o.gang old.eid (fun x => x.setPart o.ctxNo { x.part o.ctxNo with kcur := k })).leaveArray
          o old.eid (s.groupsBetween o old q)
        ⟨t, r.parts ++ [{ q with cursor := true }], r.recs ++ [o.record q m (if o.kind.inKv then k else m.extra)], r.held⟩
    else ⟨run.1, r.parts ++ [q], r.recs ++ [o.record q m m.extra], r.held⟩

/-- KCUR of an operation's engine. -/
def State.kcurIn (s : State) (o : Op) (e : Nat) : Dword := ((s.eng o.gang e).part o.ctxNo).kcur

/-- Run every running part of an operation: the parts of a scatter together, line by line, others in ascending eid (R93). -/
def State.runParts (s : State) (o : Op) : Ran :=
  match o.kind with
  | .cpyl base lbase size true offs ls =>
    let (t, l) := s.scatterRun (.context o.cid) (s.opParty o) base lbase size offs ls (s.kcurIn o) o.parts
    (o.parts.zip l).foldl (fun r x =>
      if x.1.state = .running then t.tally o x.1 (t, x.2) r else { r with state := t, parts := r.parts ++ [x.1] }) ⟨t, [], [], false⟩
  | _ => o.parts.foldl (fun r p =>
    if p.state = .running then r.state.tally o p (r.state.runPart (r.state.opParty o) o p) r
    else { r with parts := r.parts ++ [p] }) ⟨s, [], [], false⟩

/-- The context that takes an operation's rounds: the one that issued it, or the gang context once that has ended. -/
def State.roundOwner (s : State) (o : Op) : Nat := if (tableFind s.ctxs o.who).isSome then o.who else o.cid

/-- Sequencer-side records first, then by ascending eid (R55). -/
def sortRecs (l : List FaultRec) : List FaultRec := l.filter FaultRec.isSeq ++ l.filter (fun r => !r.isSeq)

/-- Keep the saved fault queue of a parked context up to date (R50, R55). -/
def State.saveQueue (s : State) (cid : Nat) : State :=
  let c := s.ctxAt cid
  match c.place with
  | .parked d a => c.faultPart.foldl (fun t x => t.putWords ⟨c.region, d⟩ (a.toNat + x.1) x.2) s
  | _ => s

/-- What an operation's parts reach when they run up to where they stop, in their owner: its records, pins and round. Once a part
has stopped or waits for KCUR, each of the others keeps what it has reached by itself (R50, R88, R290). -/
def State.runToStop (s : State) (id : Nat) (o : Op) : State :=
  (s.withArea o.cid (fun t => t.asOp ((tableFind t.ops id).getD o) (fun u =>
    let o1 := (tableFind u.ops id).getD o
    let r := u.runParts o1
    if r.parts = o1.parts || !(r.parts.any (fun p => p.state == .stopped || p.barred)) then u
    else
      let o2 : Op := { o1 with parts := r.parts }
      let v := r.state.repin id o2 (r.state.wantPins (u.opParty o1) o2)
      if r.recs.isEmpty then v
      else v.modCtx (r.state.roundOwner o1) (fun c => { c with
        rounds := insertRound ⟨sortRecs r.recs, faultEngines r.recs, id⟩ c.rounds })))).saveQueue (s.roundOwner o)

/-- ASYNC_OP_STOP: the parts of an operation run, and those that meet a fault stop, or wait for KCUR (R83, R89, R290). -/
def State.opStop (s : State) (id : Nat) : State :=
  match tableFind s.ops id with
  | none => s
  | some o =>
    if !(s.opReady id o) then s
    else
      let s1 := s.runToStop id o
      if tableFind s1.ops id = some o then s else s1

/-- The event of an operation that stops. -/
def execAsyncOpStop (op : Nat) (s : State) : Answer := .next (s.opStop op)

/-- Keep the saved token mask and count of operations up to date while a context is parked (R391). -/
def State.saveTokens (s : State) (cid : Nat) : State :=
  let c := s.ctxAt cid
  match c.place with
  | .parked d a => s.flatStoreRaw ⟨c.region, d⟩ (a.toNat + 0x260) (leBytes 8 (c.tokens.toNat + s.opCount (s.ownerOf cid) * 2 ^ 32))
  | _ => s

/-- The contexts whose scalar a token is: the one that started the operation, and a landing that took over the pending token at its
SPLIT (R45, R113). -/
def State.tokenSides (s : State) (o : Op) : List Nat :=
  o.who :: (s.landingsOf o.who).filter (fun l => (s.ctxAt l).tokens.getLsbD o.token &&
    !(s.ops.any (fun e => e.2.who == l && e.2.token == o.token)))

/-- A context's token scalar takes the result of its operation. -/
def State.giveToken (s : State) (n : Nat) (v : Dword) (cid : Nat) : State :=
  if (tableFind s.ctxs cid).isNone then s
  else ((s.deliverS cid n v).modCtx cid (fun c => { c with tokens := c.tokens &&& ~~~(BitVec.ofNat 32 (2 ^ n)) })).saveTokens cid

/-- An operation ends: its token is written, with 0 when a part was cancelled (R88, R290), and its pins drop. -/
def State.endOp (s : State) (id : Nat) (o : Op) : State :=
  let s1 := s.unpinAll o.region o.pins
  let s2 : State := { s1 with ops := tableErase s1.ops id }
  let s3 := if o.token = 0 then s2
    else (s1.tokenSides o).foldl (fun t c => t.giveToken o.token (if o.parts.any (fun p => p.state == .cancelled) then 0 else 1) c) s2
  (s3.saveTokens o.who).settleWaits

/-- What an operation's parts reach when they run to their end; a part that waits or stops keeps them all where they are. -/
def State.runToEnd (s : State) (id : Nat) (o : Op) : State :=
  s.withArea o.cid (fun t => t.asOp ((tableFind t.ops id).getD o) (fun u =>
    let o1 := (tableFind u.ops id).getD o
    let r := u.runParts o1
    if r.held || !r.recs.isEmpty then u else { r.state with ops := tableInsert r.state.ops id { o1 with parts := r.parts } }))

/-- The parts of an operation run to their end, and none has stopped. -/
def State.opComplete (s : State) (id : Nat) : State :=
  match tableFind s.ops id with
  | none => s
  | some o =>
    if !(s.opReady id o) || o.parts.any (fun p => p.state == .stopped) then s
    else
      let s1 := s.runToEnd id o
      match tableFind s1.ops id with
      | some o2 => if o2.parts.any Part.open_ then s else s1.endOp id o2
      | none => s

/-- Whether an operation is a copy. -/
def OpKind.isCopy : OpKind → Bool
  | .cpy _ => true
  | .cpyl _ _ _ _ _ _ => true
  | .cpyw _ _ _ => true
  | .cpyk _ _ _ => true
  | _ => false

/-- Complete an operation of one kind. -/
def State.completeIf (s : State) (id : Nat) (f : OpKind → Bool) : State :=
  match tableFind s.ops id with
  | some o => if f o.kind then s.opComplete id else s
  | none => s

/-- COPY_COMPLETE: a copy's writes are performed and its token is written (R88). -/
def execCopyComplete (op : Nat) (s : State) : Answer := .next (s.completeIf op OpKind.isCopy)

/-- MULTIPLY_READS_DONE: the reads of KVMM, KVMV or GMMA are done and its sums are in the accumulators (R84, R113, R279). -/
def execMultiplyReadsDone (op : Nat) (s : State) : Answer := .next (s.completeIf op (fun k => k.accOf.isSome))

/-! ## Rounds (R55) -/

/-- Whether the first waiting round of a context can enter. -/
def State.roundDue (s : State) (cid : Nat) : Bool :=
  let c := s.ctxAt cid
  c.place.resident && !c.sup && (match c.rounds with
    | [] => false
    | r :: _ => decide (c.faults.length + r.recs.length ≤ Config.faultQueue))

/-- The parts of a round's operation that the round tells of (R55, R290). -/
def State.markTold (s : State) (r : Round) : State :=
  match tableFind s.ops r.op with
  | some o => { s with ops := tableInsert s.ops r.op { o with parts := o.parts.map (fun p =>
      if p.state = .stopped && (p.eid == 16 || r.engines.getLsbD p.eid) then { p with told := true } else p) } }
  | none => s

/-- The round enters at the boundary before the next bundle; records of engines that have ended are not delivered. -/
def State.roundEntry (s : State) (cid : Nat) : State :=
  if !(s.roundDue cid) then s
  else match (s.ctxAt cid).rounds with
    | [] => s
    | r :: t =>
      let c := s.ctxAt cid
      let recs := r.recs.filter (fun x => x.isSeq || c.live.getLsbD x.eid)
      let s2 := (s.setCtx cid { c with rounds := t }).markTold r
      if recs.isEmpty then s2 else { s2.enterTrap cid c.pc recs with issue := s.issue }

/-- ASYNC_ROUND_ENTRY. -/
def execAsyncRoundEntry (cid : Nat) (s : State) : Answer :=
  .next (if (tableFind s.ctxs cid).isSome then s.roundEntry cid else s)

/-! ## Channel elements that land late (R264, R265, R268) -/

/-- The context whose receive takes the next element of a stream. -/
def State.recvOwner (s : State) (ch e : Nat) : Option Nat :=
  (s.ctxs.find? (fun x => x.2.recvs.any (fun r => r.ch == ch && r.eid == e))).map Prod.fst

/-- Drop the first receive of a stream. -/
def dropRecv (ch e : Nat) : List Receive → List Receive
  | [] => []
  | r :: t => if r.ch = ch ∧ r.eid = e then t else r :: dropRecv ch e t

/-- An element takes its place in the destination of its receive, with what is left of its bound (R264); the units that later words
have written stay (R176). Receives issued after it still write theirs, and of those before it none overwrites what it has written; `older` are
those. -/
def State.landElement (s : State) (r : Receive) (x : Option Acc) (older : List Receive) : State :=
  let t : State := { s with issue := { s.issue with window := some r.window } }
  let u := match x with
    | some v => t.putElement r.shape r.eid r.opnd r.add r.addr r.base v.toNat (max 1 (r.due - s.cycle)) r.taken
    | none => if r.add then t else t.putElement r.shape r.eid r.opnd false r.addr 0 0 (max 1 (r.due - s.cycle)) r.taken
  let covered (y : Receive) : Receive := if x.isSome && y.dest == r.dest then { y with taken := y.taken ||| lessBits wholeDest r.taken } else y
  u.mod (fun c => { c with recvs := s.me.recvs.zipIdx.map (fun y => if y.2 < older.length then covered y.1 else y.1) })

/-- An element arrives for a receive, or its sender has ended: it lands, at once, in the registers or the save area. -/
def State.elementLands (s : State) (ch e : Nat) : State :=
  match s.recvOwner ch e with
  | none => s
  | some cid =>
    let what : Option (Option Acc) := match tableFind s.channels ch with
      | some c => c.nextElem e
      | none => some none
    match what, (s.ctxAt cid).recvs.find? (fun r => r.ch == ch && r.eid == e) with
    | some x, some r =>
      let s1 := s.modChannel ch (fun c => c.putStream e ((c.stream e).drop 1))
      let s2 := s1.modCtx cid (fun c => { c with recvs := dropRecv ch e c.recvs })
      if r.gone then s2
      else
        let at_ := if (s.ctxAt cid).isLanding && !(s.ctxAt cid).place.resident then s.ownerOf cid else cid
        s2.withArea (s2.ownerOf cid) (fun t => t.asCtx at_ (fun u => u.landElement r x ((s.ctxAt cid).recvs.takeWhile (fun y => !(y.ch == ch && y.eid == e)))))
    | _, _ => s

/-- CHANNEL_ELEMENT_ARRIVAL. -/
def execChannelElementArrival (ch : BitVec 10) (eid : BitVec 4) (s : State) : Answer := .next (s.elementLands ch.toNat eid.toNat)

/-! ## Code fetch (R24 to R26, R200, R345) -/

/-- Whether the prefetcher may fetch a slot for a context: the slot of its next bundle, or the successor of the segment it
runs while the sequencer's other context does not run another one (R24, R26). -/
def State.mayFetch (s : State) (cid w : Nat) : Bool :=
  match s.segAt cid (s.issuesAt cid) with
  | none => w == slotOf (s.issuesAt cid)
  | some g => w ≠ 0 && g.next == w && (s.segAt cid w).isNone && !(s.runsApart cid)

/-- Fetch and expand a segment; a failure is raised at the boundary of the bundle whose fetch required it (R200). -/
def State.fetchSegment (s : State) (cid w : Nat) : State :=
  if !(s.mayFetch cid w) then s
  else
    let t := s.codeTouch (.context cid) (s.partyOf cid) w
    match s.expand (s.partyOf cid) w with
    | .ok g => t.putSegment cid g
    | .error r =>
      let pc := s.issuesAt cid
      if (s.segAt cid pc).isNone then
        { (t.setCtx cid (s.arrived cid)).enterTrap cid pc [⟨BitVec.ofNat 64 pc, BitVec.ofNat 64 pc, causeWord r 0 4 0 0 false false true, 0⟩] with issue := s.issue }
      else t

/-- SEGMENT_FETCH. -/
def execSegmentFetch (cid : Nat) (w : Dword) (s : State) : Answer :=
  .next (if (tableFind s.ctxs cid).isSome && (s.ctxAt cid).place.resident then s.fetchSegment cid w.toNat else s)

end Sys2Proof.Machine
end

