-- ==== Sys2Proof/Machine/Porch.lean ====
section
/-!
DEFINITION. The porches: KLD, KGO and KWT, the Kubor words, rendezvous, completion, errors and stops (R269 to R272, R325 to
R341, R448).
-/
namespace Sys2Proof.Machine

/-! ## Slots and routes (R325, R326) -/

/-- A porch slot: porch × 16 + slot. -/
def State.porch (s : State) (q : Nat) : Porch := tableGet s.porches q {}

/-- Change a porch slot. -/
def State.setPorch (s : State) (q : Nat) (p : Porch) : State := { s with porches := tableInsert s.porches q p }

/-- Apply a change to a porch slot. -/
def State.modPorch (s : State) (q : Nat) (f : Porch → Porch) : State := s.setPorch q (f (s.porch q))

/-- Register n; w0 reads zero. -/
def Porch.reg (p : Porch) (n : BitVec 4) : Dword := if n = 0 then 0 else tableGet p.w n.toNat 0
/-- Write register n; a write of w0 is discarded. -/
def Porch.put (p : Porch) (n : BitVec 4) (v : Dword) : Porch := if n = 0 then p else { p with w := tableSet p.w n.toNat v 0 }
/-- Counter n. -/
def Porch.counter (p : Porch) (n : Nat) : Dword := tableGet p.c n 0
/-- Route n. -/
def Porch.route (p : Porch) (n : Nat) : Dword := p.routes.getD n 0
/-- Whether a route is valid. -/
def routeV (r : Dword) : Bool := r.getLsbD 63
/-- Whether a route names this package. -/
def routeSelf (r : Dword) : Bool := r.getLsbD 16
/-- The link window of a route. -/
def routeWin (r : Dword) : Nat := bits r.toNat 0 10
/-- The rendezvous timeout of a route in ns. -/
def routeTmo (r : Dword) : Nat := bits r.toNat 32 16 * 1000

/-- The value of a link window register (R411). -/
def State.lwinReg (s : State) (n : Nat) : Dword := s.barReg 3 (0x1000 + n * 8)

/-- This package's id (R411). -/
def State.pkgId (s : State) : Nat := bits (s.barReg 3 0).toNat 0 19

/-- The package that a route names. -/
def State.routePeer (s : State) (r : Dword) : Nat := if routeSelf r then s.pkgId else bits (s.lwinReg (routeWin r)).toNat 0 19

/-- Link ports of the package (R411). -/
def linkPorts : Nat := 36

/-- A link port. -/
def State.linkPort (s : State) (p : Nat) : LinkPort := tableGet s.fleet.links p {}

/-- Whether a route of a program may use a port. -/
def State.routeUses (s : State) (r : Dword) (port : Nat) : Bool :=
  routeV r && !(routeSelf r) && (s.lwinReg (routeWin r)).getLsbD (20 + port)

/-- Whether a link port on a route is declared down (R339). -/
def State.routeDown (s : State) (r : Dword) : Bool := (List.range linkPorts).any (fun p => s.routeUses r p && (s.linkPort p).down)

/-- Whether KLD accepts a route entry (R326). -/
def State.routeOk (s : State) (a b : Dword) : Bool :=
  b == 0 && (if routeV a then
      bits a.toNat 48 15 == 0 && bits a.toNat 17 15 == 0 && bits a.toNat 10 6 == 0 && routeTmo a ≠ 0 &&
      (if routeSelf a then routeWin a == 0 else (s.lwinReg (routeWin a)).getLsbD 63)
    else a == 0)

/-- The party of a program (R100): its region, on the hall's side of die 0. -/
def Porch.party (p : Porch) : Party := ⟨p.region, 0⟩

/-! ## KLD (R270, R325) -/

/-- Pair up the dwords of a list. -/
def pairs : List Dword → List (Dword × Dword)
  | a :: b :: t => (a, b) :: pairs t
  | _ => []

/-- The image at a flat address, as the slot holds it once loaded; none where KLD refuses it. The status of a program that was never started is
a free value: no rule gives it (R272, log 24). -/
def State.kuborImage (s : State) (p : Party) (va : Nat) : Option Porch :=
  if va % 16 ≠ 0 then none
  else match s.flatRecord p va 2 with
    | some [d0, d1] =>
      let n := bits d0.toNat 32 16
      if bits d0.toNat 0 32 ≠ 0x3142554B ∨ n = 0 ∨ 4096 < n ∨ bits d0.toNat 48 16 ≠ 0 ∨ bits d1.toNat 0 32 = 0 ∨ bits d1.toNat 32 32 ≠ 0 then none
      else match s.flatRecord p (va + 16) 32, s.flatRecord p (va + 272) (2 * n) with
        | some rs, some ws =>
          if (pairs rs).all (fun r => s.routeOk r.1 r.2) then
            some { loaded := true, home := p.region, coll := BitVec.ofNat 32 d1.toNat, routes := (pairs rs).map Prod.fst
                   image := (pairs ws).map (fun w => w.2 ++ w.1), code := Config.freeBits s.free (2 ^ 41) % 256 }
          else none
        | _, _ => none
    | _ => none

/-- Free slots of a porch. -/
def State.freeSlotsOf (s : State) (porch : Nat) : List Nat :=
  ((List.range 16).map (fun i => porch * 16 + i)).filter (fun q => !(s.porch q).loaded)

/-- The slot that KLD takes: the lowest free one of the porch chosen (log 9). -/
def State.kldSlot (s : State) (psel : Nat) : Option Nat :=
  let a := s.freeSlotsOf 0
  let b := s.freeSlotsOf 1
  match psel with
  | 0 => a.head?
  | 1 => b.head?
  | _ => if a.length < b.length then b.head? else a.head?

/-- A program handle (R269). -/
def progHandle (inc q : Nat) : Dword := BitVec.ofNat 64 (inc * 256 + q)

/-- KLD's effect. -/
def State.kld (s : State) (psel : Nat) (va : Dword) (sD : BitVec 5) : State :=
  match s.kldSlot psel, s.kuborImage s.party va.toNat with
  | some q, some x =>
    let inc := (s.porch q).inc
    (((s.readsFlat (.context s.focus) s.party va.toNat (272 + 16 * x.image.length)).setPorch q { x with inc := inc }).wS sD (progHandle inc q) 1).wF 1 true 1
  | some _, none => ((s.readsFlat (.context s.focus) s.party va.toNat 16).wS sD 0 1).wF 1 false 1
  | none, _ => (s.wS sD 0 1).wF 1 false 1

/-- KLD. -/
def execKld (g : Gate) (psel : BitVec 2) (sA sD : BitVec 5) (s : State) : Answer :=
  runFlag (.kld g psel sA sD) 7 g (.f 1 :: useS [sA, sD]) free (fun t => t.kld psel.toNat (t.rS sA) sD) s

/-- KLD with a literal address. -/
def execKldLiteral (g : Gate) (psel : BitVec 2) (sD : BitVec 5) (lit : Dword) (s : State) : Answer :=
  runFlag (.kldLiteral g psel sD lit) 7 g (.f 1 :: useS [sD]) free (fun t => t.kld psel.toNat lit sD) s

/-! ## Stops (R339 to R341) -/

/-- The status word (R341). -/
def Porch.status (p : Porch) : Nat := p.flags.toNat + bit p.late * 2 ^ 5 + p.code % 256 * 2 ^ 8 + p.wpc % 2 ^ 32 * 2 ^ 32

/-- A running program stops with a code: its data words are cancelled, its peers told, its memberships end, the status
word is written. -/
def State.stopOne (s : State) (q code : Nat) : State :=
  let p := s.porch q
  if !p.running then s
  else
    let s1 := if code = 0 then s else { s with outbox := s.outbox ++
      ((List.range 16).filter (fun i => routeV (p.route i) && !routeSelf (p.route i))).map (fun i => Outgoing.abort p.coll (s.routePeer (p.route i))) }
    let s2 := s1.quitGroups (.porch q p.inc) (code ≠ 0)
    let p1 : Porch := { p with running := false, ops := [], rtrs := [], code := code, wpc := p.pc }
    (s2.setPorch q p1).flatStoreRaw p.party p.block.toNat (leBytes 8 p1.status)

/-- Running programs of a COLL. -/
def State.programsOf (s : State) (coll : Word) : List Nat := (s.porches.filter (fun e => e.2.running && e.2.coll == coll)).map Prod.fst

/-- The running program of a COLL, to which its messages are delivered (R326). -/
def State.programOf (s : State) (coll : Word) : Option Nat := (s.programsOf coll).head?

/-- Stop a program; a route that names this package carries the abort to the programs of its COLL here. -/
def State.stopPorch (s : State) (q code : Nat) : State :=
  let p := s.porch q
  let t := s.stopOne q code
  if code ≠ 0 && p.running && (List.range 16).any (fun i => routeV (p.route i) && routeSelf (p.route i)) then
    (t.programsOf p.coll).foldl (fun u x => u.stopOne x 7) t
  else t

/-! ## KGO and KWT (R271, R272, R327) -/

/-- The slot that a program handle names for a region. -/
def State.progSlot (s : State) (h : Dword) (region : Nat) : Option Nat :=
  let q := bits h.toNat 0 5
  let p := s.porch q
  if h.toNat < 2 ^ 16 ∧ bits h.toNat 5 3 = 0 ∧ p.loaded ∧ p.inc = bits h.toNat 8 8 ∧ s.isAncestor p.home region then some q else none

/-- A null, stale or foreign handle traps. -/
def State.progCheck (s : State) (h : Dword) : Verdict := s.need 7 (s.progSlot h s.me.region).isSome

/-- The argument block, when it is aligned and every byte of it may be read and written. -/
def State.argBlock (s : State) (p : Party) (va : Nat) : Option (List Dword) :=
  if va % 8 ≠ 0 then none
  else if (List.range 16).all (fun i => match s.flat p .atomic (va + 8 * i) with | .ok _ => true | .error _ => false) then s.flatRecord p va 16
  else none

/-- KGO's effect: the program starts at word 0, and stops at once with DUP where its COLL already runs, with LINK where a port on one
of its routes is down (R339). -/
def State.kgo (s : State) (h r : Dword) : State :=
  match s.progSlot h s.me.region with
  | none => s
  | some q =>
    let p := s.porch q
    match s.argBlock s.party r.toNat with
    | none => (s.readsFlat (.context s.focus) s.party r.toNat 128).wF 1 false 1
    | some d =>
      if p.running then s.wF 1 false 1
      else
        let w := (List.range 15).foldl (fun t i => tableSet t (i + 1) (d.getD (i + 1) 0) 0) []
        let dup := !(s.programsOf p.coll).isEmpty
        let t := (s.readsFlat (.context s.focus) s.party r.toNat 128).setPorch q { p with
          running := true, region := s.me.region, w := w, c := [], flags := 0, loops := [], pc := 0, late := false, block := r
          ops := [], issued := 0, rtrs := [], reached := s.time }
        (if dup then t.stopPorch q 0x0C else if p.routes.any s.routeDown then t.stopPorch q 6 else t).wF 1 true 1

/-- KGO. -/
def execKgo (g : Gate) (sR sP : BitVec 5) (s : State) : Answer :=
  runFlag (.kgo g sR sP) 7 g (.f 1 :: useS [sR, sP]) (fun t => t.progCheck (t.rS sP)) (fun t => t.kgo (t.rS sP) (t.rS sR)) s

/-- KWT holds while the program runs. -/
def State.kwtCheck (s : State) (h : Dword) : Verdict :=
  (s.progCheck h).and (match s.progSlot h s.me.region with
    | some q => if (s.porch q).running then .hold else .ok
    | none => .ok)

/-- KWT's effect. -/
def State.kwt (s : State) (rel : Bool) (h : Dword) (sD : BitVec 5) : State :=
  match s.progSlot h s.me.region with
  | none => s
  | some q =>
    let p := s.porch q
    let t := (s.wS sD (BitVec.ofNat 64 p.code) 1).wF 1 (p.code == 0) 1
    if rel then t.setPorch q { inc := nextInc p.inc } else t

/-- KWT. -/
def execKwt (g : Gate) (rel : Bool) (sP sD : BitVec 5) (s : State) : Answer :=
  runFlag (.kwt g rel sP sD) 7 g (.f 1 :: useS [sP, sD]) (fun t => t.kwtCheck (t.rS sP)) (fun t => t.kwt rel (t.rS sP) sD) s

/-! ## Issuing a Kubor word (R328, R336, R337) -/

/-- After a pass, the index registers of a loop step (R336). -/
def Porch.stepIndex (p : Porch) (f : KLoopFields) : Porch :=
  let add (x : Porch) (n : BitVec 4) (k : BitVec 16) : Porch := x.put n (x.reg n + BitVec.ofInt 64 k.toInt)
  let wrap (x : Porch) (n : BitVec 4) : Porch :=
    if f.md = 0 then x else x.put n (BitVec.ofInt 64 ((x.reg n).toInt % (f.md.toNat : Int)))
  let p1 := add (add p f.wi f.inci) f.wj f.incj
  if f.wi = f.wj then wrap p1 f.wi else wrap (wrap p1 f.wi) f.wj

/-- The program goes on to a word in order, past the ends of passes. Only the innermost loop's end is watched: of a loop whose body runs past the
end of an outer one R336 says nothing (DESIGN CHOICE, log 43). -/
def Porch.fall : Nat → Porch → Nat → Porch
  | 0, p, pc => { p with pc := pc }
  | n + 1, p, pc =>
    match p.loops with
    | [] => { p with pc := pc }
    | l :: t =>
      if l.start + l.len = pc then
        let p1 := p.stepIndex l.f
        if l.pass + 1 < l.count then { p1 with pc := l.start, loops := { l with pass := l.pass + 1 } :: t }
        else Porch.fall n { p1 with loops := t } pc
      else { p with pc := pc }

/-- Go on to the next word. -/
def Porch.advance (p : Porch) : Porch := Porch.fall 8 p (p.pc + 1)

/-- Whether the package is in a timed domain (R433). -/
def State.timed (s : State) : Bool := (s.barReg 5 0x40).getLsbD 0

/-- What a word that is to issue does: it holds, stops its program with a code, or takes effect. -/
inductive KStep where
  | hold
  | stop (code : Nat)
  | go (t : State)

/-- The program as a timed word issues: LATE is set where its stamp had passed when the program came to it, or when the word could first
issue (R337, R341). -/
def Porch.stampLate (p : Porch) (k : KHead) : Porch := { p with late := p.late || (k.ts && decide ((p.reg k.tsr).toNat < p.reached)) }

/-- The data fields of a word. -/
def kDataOf : Instr → Option KData
  | .send _ d => some d
  | .recv _ d => some d
  | .rdc _ d => some d
  | .copy _ d => some d
  | _ => none

/-- A word that is held past its stamp issues late: at the end of a step whose time has passed it, as if the program had come to the word only
then (R154, R333, R337, R341). -/
def Porch.holdLate (p : Porch) (k : KHead) : Porch := { p with reached := max p.reached ((p.reg k.tsr).toNat + 1) }

/-- What a word of the program in a slot waits for before it would issue, and what it does then, be it legal or not (R333, R336, R337): a stamp makes
it wait, and no more than 16 data words are outstanding. -/
def State.kuborTurn (s : State) (q : Nat) (k : KHead) (data : Bool) (f : State → KStep) : State :=
  let p := s.porch q
  if k.ts && !s.timed then s.stopPorch q 0x0B
  else if k.ts && decide (s.time < (p.reg k.tsr).toNat) then s
  else
    match if data && 16 ≤ p.ops.length then .hold else f (s.modPorch q (fun x => x.stampLate k)) with
    | .hold => s
    | .stop code => s.stopPorch q code
    | .go t => t.modPorch q (fun x => { x with reached := s.time })

/-- Issue one word of the program in focus; an illegal word stops the program when it would issue (R336). -/
def runKubor (i : Instr) (k : KHead) (body : State → Nat → KStep) (s : State) : Answer :=
  let q := s.porchFocus
  if !(s.porch q).running then .fault .noProgram
  else .next (s.kuborTurn q k (kDataOf i).isSome (fun t => if i.wellFormed then body t q else .stop 1))

/-! ## Data words (R329 to R333) -/

/-- Bytes of the unit of a format: an element or a block. -/
def kUnit (fmt : Nat) : Nat := if blockBytes fmt = 0 then fmtBits fmt / 8 else blockBytes fmt
/-- Units of n elements. -/
def kUnits (fmt n : Nat) : Nat := if blockBytes fmt = 0 then n else n / 16
/-- Bytes of n elements. -/
def kBytes (fmt n : Nat) : Nat := kUnit fmt * kUnits fmt n
/-- Alignment of an address (R329). -/
def kAlign (fmt : Nat) : Nat := if blockBytes fmt = 0 then fmtBits fmt / 8 else 4

/-- An access of one byte of flat memory reaches memory. -/
def State.reaches (s : State) (p : Party) (a : Acc4) (va : Nat) : Bool :=
  match s.flat p a va with
  | .ok _ => true
  | .error _ => false

/-- n elements at an address can be accessed. -/
def State.chunkOk (s : State) (p : Party) (a : Acc4) (va fmt n : Nat) : Bool :=
  (List.range (ceilDiv (kBytes fmt n) (kAlign fmt))).all (fun i => s.reaches p a (va + i * kAlign fmt))

/-- The bytes of n elements at an address. -/
def State.chunkRead (s : State) (p : Party) (va fmt n : Nat) : List Byte :=
  ((List.range (ceilDiv (kBytes fmt n) (kAlign fmt))).flatMap (fun i => s.flatLoad p (va + i * kAlign fmt) (kAlign fmt))).take (kBytes fmt n)

/-- Write bytes in pieces of one alignment unit. -/
def State.chunkWrite (s : State) (p : Party) (al : Nat) : Nat → Nat → List Byte → State
  | 0, _, _ => s
  | n + 1, va, bs => if bs.isEmpty then s else (s.flatStoreRaw p va (bs.take al)).chunkWrite p al n (va + al) (bs.drop al)

/-- Exact values of units. -/
def decodeUnits (fmt : Nat) : Nat → List Byte → List Num
  | 0, _ => []
  | n + 1, bs =>
    let x := leValue (bs.take (kUnit fmt))
    let rest := decodeUnits fmt n (bs.drop (kUnit fmt))
    match kbM fmt with
    | some m => (List.range 16).map (fun i => decodeKb m x i) ++ rest
    | none => decodeElem fmt x :: rest

/-- Values encoded in a format, unit by unit, in element order (R133, R135). -/
def encodeUnits (fmt rm : Nat) : Nat → List Num → RStream → List Byte × RStream
  | 0, _, t => ([], t)
  | n + 1, xs, t =>
    match kbM fmt with
    | some m =>
      let (b, t1) := encodeKb m rm (xs.take 16) t
      let (bs, t2) := encodeUnits fmt rm n (xs.drop 16) t1
      (leBytes (kUnit fmt) b ++ bs, t2)
    | none =>
      match xs, floatFmt fmt with
      | x :: ys, some f =>
        let (b, t1) := t.roundF f rm x
        let (bs, t2) := encodeUnits fmt rm n ys t1
        (leBytes (kUnit fmt) b ++ bs, t2)
      | _, _ => ([], t)

/-- Sums of two lists in FP32 (R331). -/
def sumFp32 : List Num → List Num → List Num × Flags
  | x :: xs, y :: ys =>
    let (z, f) := addN false x y
    let r := roundRneFp32 z
    let (zs, g) := sumFp32 xs ys
    (decodeF fFP32 r.val :: zs, f ||| r.flags ||| g)
  | _, _ => ([], 0)

/-- INT32 sums (R331). -/
def sumInt32 : Nat → List Byte → List Byte → List Byte
  | 0, _, _ => []
  | n + 1, a, b => leBytes 4 (leValue (a.take 4) + leValue (b.take 4)) ++ sumInt32 n (a.drop 4) (b.drop 4)

/-- The generator of a data word (R448). -/
def kuborSeed (coll : Word) (n : Nat) : Word :=
  let x := coll ^^^ BitVec.ofNat 32 ((n + 1) * 0x9E3779B9)
  if x = 0 then 1 else x

/-- What RDC gives for incoming and local bytes (R331). -/
def rdcResult (d : KData) (seed : Word) (inc loc : List Byte) : List Byte × Flags :=
  let n := d.n.toNat
  let fi := d.fin.toNat
  let fo := d.fout.toNat
  if fi = 8 then (sumInt32 n inc loc, 0)
  else
    let (xs, f) := sumFp32 (decodeUnits fi (kUnits fi n) inc) (decodeUnits fo (kUnits fo n) loc)
    let (bs, t) := encodeUnits fo d.rm.toNat (kUnits fo n) xs ⟨seed.toNat, 0⟩
    (bs, f ||| t.flags)

/-- What COPY gives (R330). -/
def copyResult (d : KData) (seed : Word) (bs : List Byte) : List Byte × Flags :=
  if d.fin = d.fout then (bs, 0)
  else
    let fi := d.fin.toNat
    let fo := d.fout.toNat
    let (out, t) := encodeUnits fo d.rm.toNat (kUnits fo d.n.toNat) (decodeUnits fi (kUnits fi d.n.toNat) bs) ⟨seed.toNat, 0⟩
    (out, t.flags)

/-- The shared fields of a Kubor word. -/
def kHeadOf : Instr → Option KHead
  | .send k _ => some k
  | .recv k _ => some k
  | .rdc k _ => some k
  | .copy k _ => some k
  | .waitCnt k _ _ _ => some k
  | .waitGrp k _ _ => some k
  | .waitTs k => some k
  | .sigArv k _ => some k
  | .sigJoin k _ _ => some k
  | .sigLeave k _ => some k
  | .sigNew k _ _ _ => some k
  | .sigStl k _ _ _ => some k
  | .kuborLoop k _ => some k
  | .brc k _ _ _ _ => some k
  | .kend k => some k
  | _ => none

/-- Whether a word receives, and whether it is RDC. -/
def kReceives : Instr → Bool
  | .recv _ _ => true
  | .rdc _ _ => true
  | _ => false

/-- The accesses of a data word: address A read, address A written, address B written, with their formats. -/
def kReads : Instr → Option Nat
  | .send _ d => some d.fin.toNat
  | .rdc _ d => some d.fout.toNat
  | .copy _ d => some d.fin.toNat
  | _ => none

/-- Format of what a word writes at A. -/
def kWritesA : Instr → Option Nat
  | .recv _ d => if d.out = 1 then none else some d.fin.toNat
  | _ => none

/-- Format of what a word writes at B. -/
def kWritesB : Instr → Option Nat
  | .rdc _ d => if d.out = 1 then none else some d.fout.toNat
  | .copy _ d => some d.fout.toNat
  | _ => none

/-- Count and format of what a word sends. -/
def kSends : Instr → Option (Nat × BitVec 4)
  | .send _ d => some (d.n.toNat, d.fin)
  | .recv _ d => if d.out = 0 then none else some (d.n.toNat, d.fin)
  | .rdc _ d => if d.out = 0 then none else some (d.n.toNat, d.fout)
  | _ => none

/-- The route that a word sends on. -/
def kSendRoute : Instr → Option (BitVec 4)
  | .send _ d => some d.pe
  | .recv _ d => if d.out = 0 then none else some d.pf
  | .rdc _ d => if d.out = 0 then none else some d.pf
  | _ => none

/-- Meet sends with ready-to-receive messages, in order (R332): the operations, the messages left, and the sends of pairs that differ
in N or FIN. A later send to the same pair keeps its place. -/
def meetSends : List KOp → List Rtr → List KOp × List Rtr × List KOp
  | [], rs => ([], rs, [])
  | o :: t, rs =>
    match o.met, o.dst, kSends o.word with
    | false, some (peer, tag), some (n, fin) =>
      match rs.find? (fun r => r.peer == peer && r.tag == tag) with
      | some r =>
        let (l, m, b) := meetSends t (rs.erase r)
        let x : KOp := { o with met := true, into := r.own, dest := r.dest }
        (x :: l, m, if r.n == n && r.fin == fin then b else x :: b)
      | none =>
        let (l, m, b) := meetSends t rs
        (o :: l, m, b)
    | _, _, _ =>
      let (l, m, b) := meetSends t rs
      (o :: l, m, b)

/-- The message with which a send writes to another package. -/
def KOp.message (o : KOp) (coll : Word) (bs : List Byte) : List Outgoing :=
  match o.into, o.dst, kSends o.word with
  | none, some (peer, tag), some (n, fin) => [.send coll peer tag o.dest n fin bs]
  | _, _, _ => []

/-- Meet the sends of a program; a pair that differs stops it with LENMM, and its header tells the other program (R332). -/
def State.meet (s : State) (q : Nat) : State :=
  let p := s.porch q
  let (l, m, bad) := meetSends p.ops p.rtrs
  let t := s.setPorch q { p with ops := l, rtrs := m }
  if bad.isEmpty then t
  else ({ t with outbox := t.outbox ++ bad.flatMap (fun o => o.message p.coll []) } : State).stopPorch q 5

/-- Whether an operand of a data word that is read or written, in some format, translates; a word without it has none. -/
def State.operandOk (s : State) (p : Porch) (d : KData) (fmt : Option Nat) (a : Acc4) (va : Nat) : Bool :=
  match fmt with
  | some f => s.chunkOk p.party a va f d.n.toNat
  | none => true

/-- The codes that a data word's operands give at issue: ILLEG for a route, ALIGN, XLATE, LINK; 0 for none. Where several causes are met R339
ranks none: the first in this order is given (DESIGN CHOICE, log 43). -/
def State.kuborFault (s : State) (p : Porch) (i : Instr) (d : KData) (a b : Nat) : Nat :=
  let rt (n : BitVec 4) : Bool := routeV (p.route n.toNat)
  let al (f : Option Nat) (x : Nat) : Bool := match f with | some f => x % kAlign f == 0 | none => true
  if (kReceives i && !(rt d.pe)) || (match kSendRoute i with | some r => !(rt r) | none => false) then 1
  else if !(al (kReads i) a && al (kWritesA i) a && al (kWritesB i) b) then 2
  else if !(s.operandOk p d (kReads i) .read a && s.operandOk p d (kWritesA i) .write a && s.operandOk p d (kWritesB i) .write b) then 3
  else if (kReceives i && s.routeDown (p.route d.pe.toNat)) || (match kSendRoute i with | some r => s.routeDown (p.route r.toNat) | none => false) then 6
  else 0

/-- Unmatched ready-to-receive messages that a program holds at most (R332). -/
def rtrLimit : Nat := 64

/-- The destination that a receiving word's message names: address A for a RECV with OUT 0, else the combining path (R332). -/
def kDest (i : Instr) (a : Nat) : Option Nat :=
  match i with
  | .recv _ d => if d.out = 0 then some a else none
  | _ => none

/-- Issue a data word: it becomes outstanding, posts its ready-to-receive message and takes its place in the send order. -/
def State.issueData (s : State) (i : Instr) (d : KData) (q : Nat) : KStep :=
  let p := s.porch q
  let a := (p.reg d.ba + p.reg d.xa * BitVec.ofNat 64 d.stride.toNat).toNat
  let b := (p.reg d.bb + p.reg d.xb * BitVec.ofNat 64 d.stride.toNat).toNat
  let inPeer := s.routePeer (p.route d.pe.toNat)
  let self := kReceives i && routeSelf (p.route d.pe.toNat)
  if self && rtrLimit ≤ p.rtrs.length then .hold
  else if s.kuborFault p i d a b ≠ 0 then .stop (s.kuborFault p i d a b)
  else
    let o : KOp := { n := p.issued, word := i, addrA := a, addrB := b
                     src := if kReceives i then some (inPeer, d.tag) else none
                     dst := (kSendRoute i).map (fun r => (s.routePeer (p.route r.toNat), d.tag))
                     met := false, into := none, got := none, stage := 0, since := s.time }
    let p1 : Porch := { p with
      ops := p.ops ++ [o], issued := p.issued + 1
      rtrs := if self then p.rtrs ++ [⟨inPeer, d.tag, d.n.toNat, d.fin, some p.issued, kDest i a⟩] else p.rtrs }
    let s1 := if kReceives i && !self then { s with outbox := s.outbox ++ [.rtr p.coll inPeer d.tag d.n.toNat d.fin (kDest i a)] } else s
    .go ((s1.setPorch q p1.advance).meet q)

/-- SEND (R330). -/
def execSend (k : KHead) (d : KData) (s : State) : Answer := runKubor (.send k d) k (fun t q => t.issueData (.send k d) d q) s
/-- RECV (R330). -/
def execRecv (k : KHead) (d : KData) (s : State) : Answer := runKubor (.recv k d) k (fun t q => t.issueData (.recv k d) d q) s
/-- RDC (R330, R331). -/
def execRdc (k : KHead) (d : KData) (s : State) : Answer := runKubor (.rdc k d) k (fun t q => t.issueData (.rdc k d) d q) s
/-- COPY (R330). -/
def execCopy (k : KHead) (d : KData) (s : State) : Answer := runKubor (.copy k d) k (fun t q => t.issueData (.copy k d) d q) s

/-! ## Completion of data words (R333) -/

/-- What a data word has computed: what it writes at A, at B, what it sends, its flags. -/
structure KResult where
  a     : List Byte
  b     : List Byte
  out   : List Byte
  flags : Flags
  deriving DecidableEq, Repr

/-- The result of a data word for its incoming bytes. -/
def State.kuborResult (s : State) (p : Porch) (o : KOp) (inc : List Byte) : KResult :=
  match o.word with
  | .send _ d => ⟨[], [], s.chunkRead p.party o.addrA d.fin.toNat d.n.toNat, 0⟩
  | .recv _ _ => ⟨inc, [], inc, 0⟩
  | .rdc _ d =>
    let (bs, f) := rdcResult d (kuborSeed p.coll o.n) inc (s.chunkRead p.party o.addrA d.fout.toNat d.n.toNat)
    ⟨[], bs, bs, f⟩
  | .copy _ d =>
    let (bs, f) := copyResult d (kuborSeed p.coll o.n) (s.chunkRead p.party o.addrA d.fin.toNat d.n.toNat)
    ⟨[], bs, [], f⟩
  | _ => ⟨[], [], [], 0⟩

/-- Write what a result stores. -/
def State.kuborStore (s : State) (p : Porch) (o : KOp) (r : KResult) : State :=
  let t := match kWritesA o.word with
    | some f => s.chunkWrite p.party (kAlign f) r.a.length o.addrA r.a
    | none => s
  match kWritesB o.word with
  | some f => t.chunkWrite p.party (kAlign f) r.b.length o.addrB r.b
  | none => t

/-- Change an outstanding word of a program. -/
def Porch.modOp (p : Porch) (n : Nat) (f : KOp → KOp) : Porch := { p with ops := p.ops.map (fun o => if o.n = n then f o else o) }

/-- A word completes: it counts, and the word that sent to it has been received. -/
def Porch.finish (p : Porch) (o : KOp) : Porch :=
  let p1 : Porch := { p with ops := p.ops.filter (fun x => x.n ≠ o.n) }
  let p2 := match o.got with
    | some (m, _) => p1.modOp m (fun x => { x with stage := 2 })
    | none => p1
  match kHeadOf o.word with
  | some k => if k.ce then { p2 with c := tableSet p2.c k.cn.toNat (p2.counter k.cn.toNat + 1) 0 } else p2
  | none => p2

/-- Let an outstanding word move its data; incoming bytes of the wrong length stop the program with LENMM, an address that no
longer translates with XLATE. -/
def State.moveData (s : State) (q : Nat) (o : KOp) (inc : List Byte) : State :=
  let p := s.porch q
  match kDataOf o.word with
  | none => s
  | some d =>
    if kReceives o.word && inc.length ≠ kBytes d.fin.toNat d.n.toNat then s.stopPorch q 5
    else if !(s.operandOk p d (kReads o.word) .read o.addrA && s.operandOk p d (kWritesA o.word) .write o.addrA &&
        s.operandOk p d (kWritesB o.word) .write o.addrB) then s.stopPorch q 3
    else
      let r := s.kuborResult p o inc
      let n := kBytes d.fin.toNat d.n.toNat
      let met := match kReads o.word with
        | some f => s.readsFlat (.porch q) p.party o.addrA (kBytes f d.n.toNat)
        | none => s
      let t := ((met.kuborStore p o r).count none 5 n).modPorch q (fun x => { x with flags := x.flags ||| r.flags })
      match o.dst, o.into with
      | some _, some m => t.modPorch q (fun x => (x.modOp m (fun y => { y with got := some (o.n, r.out) })).modOp o.n (fun y => { y with stage := 1 }))
      | some _, none => (({ t with outbox := t.outbox ++ o.message p.coll r.out } : State).count none 2 r.out.length).modPorch q (fun x => x.finish o)
      | none, _ => t.modPorch q (fun x => x.finish o)

/-- A receiving word whose data come from a word of its own program. -/
def State.fromSelf (s : State) (o : KOp) : Bool := match o.src with
  | some (peer, _) => peer == s.pkgId
  | none => false

/-- Whether N and FIN of a send differ from a receiving word's. -/
def KOp.differs (o : KOp) (n : Nat) (fin : BitVec 4) : Bool :=
  match kDataOf o.word with
  | some d => d.n.toNat ≠ n || d.fin ≠ fin
  | none => false

/-- Word o of a program moves its data and completes; `data` is what has arrived from another package. -/
def State.completeData (s : State) (q : Nat) (o : KOp) (data : List Byte) : State :=
  let p := s.porch q
  if (o.dst.isSome && !o.met) || o.stage = 1 then s
  else if o.stage = 2 then s.setPorch q (p.finish o)
  else if o.src.isSome && s.fromSelf o then
    match o.got with
    | some (_, bs) => s.moveData q o bs
    | none => s
  else s.moveData q o data

/-- Data that arrive over a link wake the package, and the dies whose HBM the word writes them to (R430). -/
def State.dataWakes (s : State) (p : Porch) (o : KOp) : State :=
  ((if (kWritesA o.word).isSome then [o.addrA] else []) ++ (if (kWritesB o.word).isSome then [o.addrB] else [])).foldl (fun t a =>
    match t.flat p.party .find a with
    | .ok pa => if paKind pa = .hbm then t.wakeDie (dieOfPa pa) else t
    | .error _ => t) s.rouse

/-- KUBOR_DATA_COMPLETE: what concerns word n of the running program of a COLL. From another package, N and FIN of the send that its
message met arrive first (no data), and stop it with LENMM where they differ (R332); then the data, and the word completes. -/
def State.dataComplete (s : State) (coll : Word) (n : Nat) (x : KArrival) : State :=
  match s.programOf coll with
  | none => s
  | some q => match (s.porch q).ops.find? (fun o => o.n == n) with
    | none => s
    | some o =>
      let far := o.src.isSome && !(s.fromSelf o)
      if far && o.differs x.size.n x.size.fin then s.rouse.stopPorch q 5
      else match x.bytes with
        | none => if far then s.rouse.modPorch q (fun p => p.modOp n (fun x => { x with came := true })) else s
        | some bs => (if far then (s.dataWakes (s.porch q) o).count none 3 bs.length else s).completeData q o bs

/-- The completion of a data word. -/
def execKuborDataComplete (coll : Word) (n : Nat) (x : KArrival) (s : State) : Answer := .next (s.dataComplete coll n x)

/-- READY_TO_RECEIVE: a message arrives from a peer package for the program of its COLL, and waits for its send (R326, R332). -/
def execReadyToReceive (coll : Word) (peer : Nat) (tag : BitVec 8) (size : KSize) (dest : Option Nat) (s : State) : Answer :=
  let s := s.rouse
  .next (match s.programOf coll with
    | some q => if (s.porch q).rtrs.length < rtrLimit then
        (s.modPorch q (fun p => { p with rtrs := p.rtrs ++ [⟨peer, tag, size.n, size.fin, none, dest⟩] })).meet q else s
    | none => s)

/-- Whether an outstanding word has waited longer than its route's timeout and has found no partner. -/
def State.overdue (s : State) (p : Porch) (o : KOp) : Bool :=
  let late (r : BitVec 4) : Bool := decide (o.since + routeTmo (p.route r.toNat) ≤ s.time)
  (match kSendRoute o.word with | some r => !o.met && late r | none => false) ||
  (match kDataOf o.word with
   | some d => kReceives o.word && o.got.isNone && o.stage == 0 && late d.pe &&
       (if s.fromSelf o then !(p.ops.any (fun x => x.into == some o.n)) else !o.came)
   | none => false)

/-- RENDEZVOUS_TIMEOUT (R332, R339). -/
def execRendezvousTimeout (slot : Nat) (s : State) : Answer :=
  let p := s.porch slot
  .next (if p.running && p.ops.any (fun o => s.overdue p o) then s.stopPorch slot 4 else s)

/-- PEER_ABORT: a peer program of the COLL has stopped with an error (R340). -/
def execPeerAbort (coll : Word) (s : State) : Answer := .next ((s.programsOf coll).foldl (fun t q => t.stopPorch q 7) s.rouse)

/-! ## Control words (R334 to R336) -/

/-- WAIT.cnt (R334); a sum past 2^64 wraps (DESIGN CHOICE, log 43). -/
def execWaitCnt (k : KHead) (cw : BitVec 3) (wv : BitVec 4) (imm : BitVec 32) (s : State) : Answer :=
  runKubor (.waitCnt k cw wv imm) k (fun t q =>
    let p := t.porch q
    if (p.reg wv + BitVec.ofNat 64 imm.toNat).toNat ≤ (p.counter cw.toNat).toNat then .go (t.setPorch q p.advance) else .hold) s

/-- The membership that a register names for a program. -/
def State.kuborMember (s : State) (q : Nat) (h : Dword) : Option (Nat × Member) := s.byHandle (bits h.toNat 0 32) (.porch q (s.porch q).inc)

/-- WAIT.grp (R334). -/
def execWaitGrp (k : KHead) (wv wh : BitVec 4) (s : State) : Answer :=
  runKubor (.waitGrp k wv wh) k (fun t q =>
    let p := t.porch q
    match t.kuborMember q (p.reg wh) with
    | none => .stop 9
    | some (gid, m) => match m.last with
      | none => .go (t.setPorch q (p.put wv 0).advance)
      | some n => if n < (t.groupAt gid).gen then .go (t.setPorch q (p.put wv (if m.lastLost then 1 else 0)).advance) else .hold) s

/-- WAIT.ts (R334). -/
def execWaitTs (k : KHead) (s : State) : Answer :=
  runKubor (.waitTs k) k (fun t q => .go (t.modPorch q Porch.advance)) s

/-- An arrival of a program, as a member of the group. -/
def State.kuborArrive (s : State) (q : Nat) (wn : BitVec 4) (leave : Bool) : KStep :=
  let p := s.porch q
  match s.kuborMember q (p.reg wn) with
  | none => .stop 9
  | some (gid, m) =>
    if !p.ops.isEmpty || (!leave && decide ((s.groupAt gid).gen + 1 < m.arrGen)) then .hold
    else
      let t := s.enterArrival gid (.porch q p.inc) { Arrival.plain with leave := leave }
      .go (t.modPorch q (fun x => (if leave then x.put wn 0 else x).advance))

/-- SIG.arv (R335). -/
def execSigArv (k : KHead) (wn : BitVec 4) (s : State) : Answer := runKubor (.sigArv k wn) k (fun t q => t.kuborArrive q wn false) s

/-- SIG.leave (R335). -/
def execSigLeave (k : KHead) (wn : BitVec 4) (s : State) : Answer := runKubor (.sigLeave k wn) k (fun t q => t.kuborArrive q wn true) s

/-- Write the handle of a join or creation, or 0. -/
def State.kuborJoined (s : State) (q : Nat) (wd : BitVec 4) (r : Option (State × Word)) : KStep :=
  match r with
  | some (t, h) => .go (t.modPorch q (fun x => (x.put wd (BitVec.ofNat 64 h.toNat)).advance))
  | none => .go (s.modPorch q (fun x => (x.put wd 0).advance))

/-- SIG.join (R335). -/
def execSigJoin (k : KHead) (wd wn : BitVec 4) (s : State) : Answer :=
  runKubor (.sigJoin k wd wn) k (fun t q =>
    let p := t.porch q
    t.kuborJoined q wd (t.joinGroup (.porch q p.inc) p.region (bits (p.reg wn).toNat 0 32))) s

/-- SIG.new (R335). -/
def execSigNew (k : KHead) (wd wn wa : BitVec 4) (s : State) : Answer :=
  runKubor (.sigNew k wd wn wa) k (fun t q =>
    let p := t.porch q
    if !(attrOk (p.reg wa).toNat) then .stop 9
    else t.kuborJoined q wd (t.createGroup (.porch q p.inc) p.region (bits (p.reg wn).toNat 0 32) (p.reg wa).toNat)) s

/-- SIG.stl (R335): a release store once every data word before it has completed. -/
def execSigStl (k : KHead) (wn wa : BitVec 4) (imm : Dword) (s : State) : Answer :=
  runKubor (.sigStl k wn wa imm) k (fun t q =>
    let p := t.porch q
    let va := (p.reg wn + imm).toNat
    if va % 8 ≠ 0 then .stop 2
    else if !(t.reaches p.party .write va) then .stop 3
    else if !p.ops.isEmpty then .hold
    else .go ((t.flatStoreRaw p.party va (leBytes 8 (p.reg wa).toNat)).modPorch q Porch.advance)) s

/-- LOOP (R336). A LOOP whose count is 0 pushes nothing, and so runs where four loops are open already: DESIGN CHOICE, log 43. -/
def execKuborLoop (k : KHead) (f : KLoopFields) (s : State) : Answer :=
  runKubor (.kuborLoop k f) k (fun t q =>
    let p := t.porch q
    let count := ((p.reg f.wc).toNat + f.imm.toNat) % 2 ^ 32
    let len := f.len.toNat
    if p.image.length ≤ p.pc + len then .stop 1
    else if count = 0 then .go (t.setPorch q (Porch.fall 8 p (p.pc + 1 + len)))
    else if 4 ≤ p.loops.length then .stop 8
    else .go (t.setPorch q { p with pc := p.pc + 1, loops := ⟨p.pc + 1, len, count, 0, f⟩ :: p.loops })) s

/-- Conditions of BRC (R336). -/
def brcHolds (cond : Nat) (a b : Dword) : Bool :=
  match cond with
  | 0 => a == b
  | 1 => a != b
  | 2 => a.slt b
  | 3 => !(a.slt b)
  | 4 => decide (a.toNat < b.toNat)
  | _ => decide (b.toNat ≤ a.toNat)

/-- The loops that a branch to a word leaves standing. -/
def loopsAround (t : Nat) : List KLoop → List KLoop
  | [] => []
  | l :: r => if (loopsAround t r).length = r.length && l.start ≤ t && t < l.start + l.len then l :: r else loopsAround t r

/-- BRC (R336). -/
def execBrc (k : KHead) (wa wb : BitVec 4) (cond : BitVec 3) (off : BitVec 32) (s : State) : Answer :=
  runKubor (.brc k wa wb cond off) k (fun t q =>
    let p := t.porch q
    if brcHolds cond.toNat (p.reg wa) (p.reg wb) then
      let target := (p.pc : Int) + off.toInt
      if target < 0 ∨ (p.image.length : Int) ≤ target then .stop 1
      else .go (t.setPorch q { p with pc := target.toNat, loops := loopsAround target.toNat p.loops })
    else .go (t.setPorch q p.advance)) s

/-- END (R336): it waits for every data word, leaves every group and stops the program. -/
def execKend (k : KHead) (s : State) : Answer :=
  runKubor (.kend k) k (fun t q => if (t.porch q).ops.isEmpty then .go (t.stopPorch q 0) else .hold) s

/-! ## Running a program's next word (R336, R337) -/

/-- The meaning of a Kubor word. -/
def kuborWord (i : Instr) (s : State) : Answer :=
  match i with
  | .send k d => execSend k d s
  | .recv k d => execRecv k d s
  | .rdc k d => execRdc k d s
  | .copy k d => execCopy k d s
  | .waitCnt k cw wv imm => execWaitCnt k cw wv imm s
  | .waitGrp k wv wh => execWaitGrp k wv wh s
  | .waitTs k => execWaitTs k s
  | .sigArv k wn => execSigArv k wn s
  | .sigJoin k wd wn => execSigJoin k wd wn s
  | .sigLeave k wn => execSigLeave k wn s
  | .sigNew k wd wn wa => execSigNew k wd wn wa s
  | .sigStl k wn wa imm => execSigStl k wn wa imm s
  | .kuborLoop k f => execKuborLoop k f s
  | .brc k wa wb cond off => execBrc k wa wb cond off s
  | .kend k => execKend k s
  | _ => .next s

/-- The word at the program counter of a slot; none where there is none or it decodes to nothing. -/
def Porch.nextWord (p : Porch) : Option Instr := (p.image[p.pc]?).bind (fun w => decodeKubor w.toNat)

/-- TIMED_ISSUE: a timed word issues at its stamp (R337). -/
def execTimedIssue (slot : Nat) (s : State) : Answer :=
  let p := s.porch slot
  match p.nextWord with
  | some i => match kHeadOf i with
    | some k => if p.running && k.ts && decide ((p.reg k.tsr).toNat ≤ s.time) then kuborWord i { s with porchFocus := slot } else .next s
    | none => .next s
  | none => .next s

end Sys2Proof.Machine
end

