-- ==== Sys2Proof/Machine/Walk.lean ====
section
/-!
DEFINITION. Translation: the walks of the stair cores, invalidation, expert prefetch, PGMAP and KVSEQ (R316, R318 to R321,
R398 to R410, R413 to R415, R425, R426).
-/
namespace Sys2Proof.Machine

/-! ## Walks (R399 to R407) -/

/-- What a walk reads: table entries, the descriptor of a tensor, the card of a sequence (R399, R435). -/
def State.walkReads (s : State) (v : EccVictim) (p : Party) (x10 x11 : Dword) : State :=
  let key := s.regionKey p.region
  let path (t : State) (va : Nat) : State := (t.walkAddrs key (t.region p.region).ptroot va).foldl (fun u e => u.reads v key e 8) t
  match bits x10.toNat 0 3 with
  | 1 => path s x11.toNat
  | 4 => path s x11.toNat
  | 2 => match s.tensor p (bits x11.toNat 0 16) with
    | some t => (s.readsFlat v p ((s.region p.region).tbase.toNat + bits x11.toNat 0 16 * 64) 64).readsFlat v p (t.tptr + bits x11.toNat 16 48 * 8) 8
    | none => s
  | 3 => match s.cardFor p (kvSeq x11) (kvLayer x11) with
    | some c => (s.leafPath key c.root (kvLayer x11) (kvPlane x11) (kvPos x11 / 16)).foldl (fun u e => u.reads v key e 8)
        (s.reads v noKey (s.cardPa (kvSeq x11)) 128)
    | none => s
  | _ => s

/-- One miss of a die, walked by one of its cores; a KV block in flight keeps its walk waiting. -/
def State.walk (s0 : State) (core : Nat) (x10 x11 x12 x13 : Dword) : State :=
  let v : EccVictim := match s0.ctxOn (bits x12.toNat 0 8) (bits x12.toNat 8 1) with
    | some cid => .context cid
    | none => .record (bits x13.toNat 0 12)
  let s := s0.walkReads v ⟨bits x13.toNat 0 12, core / Config.stairCores⟩ x10 x11
  let p : Party := ⟨bits x13.toNat 0 12, core / Config.stairCores⟩
  let write := x10.getLsbD 3
  match bits x10.toNat 0 3 with
  | 1 =>
    let a : Acc4 := if x10.getLsbD 4 then .atomic else if write then .write else .read
    (s.keepPage p a x11.toNat).putCore core (walkResult x11 x12 x13 ((s.flatPage p a x11.toNat).map (fun h => (h.base, h.perm))))
  | 2 =>
    match s.tensor p (bits x11.toNat 0 16) with
    | none => s.putCore core (walkResult x11 x12 x13 (.error rPROT))
    | some t =>
      (s.keepTile p (bits x11.toNat 0 16) t (bits x11.toNat 16 48) write).putCore core
        (walkResult x11 x12 x13 ((s.tileAt p (bits x11.toNat 0 16) t (bits x11.toNat 16 48) write).map (fun f => (f.1, if f.2 then 3 else 1))))
  | 3 =>
    match s.cardFor p (kvSeq x11) (kvLayer x11) with
    | none => s.putCore core (walkResult x11 x12 x13 (.error rPROT))
    | some c => match s.kvWalk p c (kvLayer x11) (kvPlane x11) (kvPos x11 / 16) with
      | .frame f => (s.keepKv p (kvSeq x11) c (kvLayer x11) (kvPlane x11) (kvPos x11 / 16) f).putCore core (walkResult x11 x12 x13 (.ok (f, 3)))
      | .hold => s
      | .fail r => s.putCore core (walkResult x11 x12 x13 (.error r))
  | 4 =>
    (s.keepPage p .code x11.toNat).putCore core (walkResult x11 x12 x13 ((s.flatPage p .code x11.toNat).map (fun h => (h.base, h.perm))))
  | _ => s

/-- TRANSLATION_WALK: x12 says who missed and changes no translation (R399). -/
def execTranslationWalk (core : Nat) (x10 x11 x12 x13 : Dword) (s : State) : Answer :=
  .next (if core < 4 * Config.dies ∧ x12.toNat < 2 ^ 13 then s.walk core x10 x11 x12 x13 else s)

/-! ## Invalidation (R319, R320, R410) -/

/-- Regions whose flat tables are those of region r. -/
def State.sameTables (s : State) (r x : Nat) : Bool := (s.region x).ptroot == (s.region r).ptroot

/-- Whether TINV covers a cached translation. -/
def State.tinvCovers (s : State) (r kind : Nat) (a : Dword) (e : TlbEntry) : Bool :=
  s.sameTables r e.region &&
  (match kind with
   | 0 => e.kind == 0 && e.va / 2 ^ e.bits == a.toNat / 2 ^ e.bits
   | 1 => e.kind == 1 && (s.region e.region).tbase == (s.region r).tbase && e.va == a.toNat
   | _ => e.kind == 1 && (s.region e.region).tbase == (s.region r).tbase && e.va % 65536 == bits a.toNat 0 16)

/-- Whether BTINV covers a block of a sequence. -/
def btinvCovers (k : Dword) (nblk : Nat) (all : Bool) (seq layer plane block : Nat) : Bool :=
  seq == kvSeq k && (all || (layer == kvLayer k && plane == kvPlane k && decide (kvPos k / 16 ≤ block) && decide (block < kvPos k / 16 + nblk)))

/-- Change every die. -/
def State.mapDies (s : State) (f : Die → Die) : State := { s with dies := s.dies.map (fun e => (e.1, f e.2)) }

/-- Remove what an invalidation covers from every die. -/
def State.invalidate (s : State) (r : Nat) (k : OpKind) : State :=
  match k with
  | .tinv kind a => s.mapDies (fun d => { d with tlb := d.tlb.filter (fun e => !s.tinvCovers r kind a e) })
  | .btinv a nblk all => s.mapDies (fun d => { d with kvtb := d.kvtb.filter (fun e => !btinvCovers a nblk all e.seq e.layer e.plane e.block) })
  | _ => s

/-- Whether an invalidation in region r covers what an operation of a region has translated (R319, R320). -/
def State.transCovered (s : State) (r : Nat) (k : OpKind) (region : Nat) (t : Trans) : Bool :=
  match k, t with
  | .tinv 0 a, .page va n => s.sameTables r region && va / 2 ^ n == a.toNat / 2 ^ n
  | .tinv kind a, .tile id tile _ =>
    kind ≠ 0 && s.sameTables r region && (s.region region).tbase == (s.region r).tbase && id == bits a.toNat 0 16 &&
      (kind ≠ 1 || tile == bits a.toNat 16 48)
  | .btinv a nblk all, .block seq layer plane block _ _ => btinvCovers a nblk all seq layer plane block
  | _, _ => false

/-- Whether an operation has stopped: some part of it has, and none runs. -/
def Op.stopped (o : Op) : Bool := o.parts.any (fun p => p.state == .stopped) && !(o.parts.any Part.works)

/-- Whether an operation, but for the stopped ones of the issuing context, has translated what an invalidation covers, and has not passed it
(R410). -/
def State.invalidationHeld (s : State) (o : Op) : Bool :=
  s.ops.any (fun e => !(e.2.cid == o.cid && e.2.stopped) && e.2.pins.any (s.transCovered o.region o.kind e.2.region))

/-- A translation as an invalidation that covers it leaves it to the stopped operation that made it: the block keeps its pin and is
translated again, a tile or page is forgotten (R410). -/
def Trans.forget : Trans → Option Trans
  | .block q l n b leaf _ => some (.block q l n b leaf none)
  | _ => none

/-- The stopped operations of the issuing context translate again what an invalidation covers (R410). -/
def State.forgetOwn (s : State) (o : Op) : State :=
  { s with ops := s.ops.map (fun e => if e.2.cid = o.cid && e.2.stopped then
      (e.1, { e.2 with pins := e.2.pins.filterMap (fun t => if s.transCovered o.region o.kind e.2.region t then t.forget else some t) }) else e) }

/-- Whether an operation is an invalidation. -/
def OpKind.isInvalidation : OpKind → Bool
  | .tinv _ _ => true
  | .btinv _ _ _ => true
  | _ => false

/-- INVALIDATION_COMPLETE: no cached copy of a covered translation remains, and the token is written. -/
def execInvalidationComplete (op : Nat) (s : State) : Answer :=
  .next (match tableFind s.ops op with
    | some o => if o.kind.isInvalidation && !(s.invalidationHeld o) then ((s.invalidate o.region o.kind).forgetOwn o).opComplete op else s
    | none => s)

/-- Only the handler may issue the word (R178). -/
def State.superCheck (s : State) : Verdict := s.need 6 s.was.sup

/-- TINV (R319). -/
def execTinv (g : Gate) (kind : BitVec 2) (sA sT : BitVec 5) (s : State) : Answer :=
  runSeqM (.tinv g kind sA sT) g (useS [sA, sT]) State.superCheck
    (fun t => t.startOp sT.toNat false (.tinv kind.toNat (t.rS sA)) [(16, 0)]) s

/-- BTINV (R320). -/
def execBtinv (g : Gate) (sK sT : BitVec 5) (nblk : BitVec 16) (all : Bool) (s : State) : Answer :=
  runSeqM (.btinv g sK sT nblk all) g (useS [sK, sT]) State.superCheck
    (fun t => t.startOp sT.toNat false (.btinv (t.rS sK) nblk.toNat all) [(16, 0)]) s

/-! ## Frames of a pool (R413, R415) -/

/-- Zero n bytes of physical memory. -/
def State.zeroFill (s : State) (key : Nat) (pa n : Nat) : State := s.physWrite key pa (List.replicate n 0)

/-- Pages that a frame counts: 1 for 64 KiB, 32 for 2 MiB (R415). -/
def framePages (big : Bool) : Nat := if big then 32 else 1

/-- The read of a region's pool descriptor. -/
def State.poolReads (s : State) (v : EccVictim) (r : Nat) : State :=
  match s.poolAt r with
  | some d => s.reads v (s.regionKey r) d 64
  | none => s

/-- Take a frame from a region's pool and count it against its budgets; none where the pool is empty or a budget spent. -/
def State.takeFrame (s : State) (r : Nat) (big : Bool) : Option (State × Nat) :=
  match s.poolAt r with
  | none => none
  | some d =>
    let o := if big then 16 else 0
    let n := bits (s.poolWord r (o + 8)) 0 32
    if n = 0 || !(s.memAdmits r (framePages big)) then none
    else
      let f := s.physValue (s.regionKey r) (s.poolWord r o + (n - 1) * 8) 8
      some ((s.physWrite (s.regionKey r) (d + o + 8) (leBytes 4 (n - 1))).countPages r (framePages big) true, f)

/-- Return a 64 KiB frame to a region's pool. -/
def State.giveFrame (s : State) (r f : Nat) : State :=
  match s.poolAt r with
  | none => s
  | some d =>
    let n := bits (s.poolWord r 8) 0 32
    ((s.physWrite (s.regionKey r) (s.poolWord r 0 + n * 8) (leBytes 8 f)).physWrite (s.regionKey r) (d + 8) (leBytes 4 (n + 1))).countPages r 1 false

/-! ## PGMAP (R318, R414) -/

/-- What PGMAP's walk finds. -/
inductive MapAt where
  /-- A valid page: its base. -/
  | page (base : Nat)
  /-- The path cannot take the page. -/
  | refused
  /-- The final entry, not valid. -/
  | entry (pa : Nat)
  deriving DecidableEq, Repr

/-- Walk for PGMAP: cases 1, 2 and the rest, in the order of R414. A final entry that is not valid keeps R403 too, as the page or table
that its PS bit says it names (DEDUCED: case 2 speaks of any entry on the path). -/
def State.mapAt (s : State) (key : Nat) (root va : Nat) (big : Bool) : MapAt :=
  match s.walkTables key va [(47, 9, 12), (38, 9, 12), (29, 9, 11)] root with
  | .error _ => .refused
  | .ok dir =>
    let ea := dir + bits va 21 8 * 8
    let e := s.physValue key ea 8
    if !e.testBit 0 then (if big && (if e.testBit 4 then tableEntryOk e true true 21 else tableEntryOk e false false 8) then .entry ea else .refused)
    else if e.testBit 4 then (if tableEntryOk e true true 21 then .page (bits e 8 44 * 256) else .refused)
    else if !tableEntryOk e false false 8 then .refused
    else
      let la := bits e 8 44 * 256 + bits va 16 5 * 8
      let l := s.physValue key la 8
      if l.testBit 0 then (if tableEntryOk l true false 16 then .page (bits l 8 44 * 256) else .refused)
      else if big || !(tableEntryOk l true false 16) then .refused
      else .entry la

/-- PGMAP's effect: the state and what it writes to sD. -/
def State.pgmap (s : State) (va : Dword) (big zf : Bool) (perm : Nat) : State × Dword :=
  let r := s.me.region
  let key := s.regionKey r
  let s := s.poolReads (.context s.focus) r
  if 2 ^ 56 ≤ va.toNat then (s, 1)
  else match s.mapAt key (s.region r).ptroot va.toNat big with
    | .page b => (s, BitVec.ofNat 64 b)
    | .refused => (s, 1)
    | .entry pa => match s.takeFrame r big with
      | none => (s, 0)
      | some (t, f) =>
        let u := if zf then t.zeroFill key f (framePages big * 65536) else t
        (u.physWrite key pa (leBytes 8 (1 + perm % 8 * 2 + bit big * 16 + bits f 8 44 * 256)), BitVec.ofNat 64 f)

/-- PGMAP. -/
def execPgmap (g : Gate) (sV sD : BitVec 5) (sz zf : Bool) (perm : BitVec 3) (s : State) : Answer :=
  runSeqM (.pgmap g sV sD sz zf perm) g (useS [sV, sD]) State.superCheck
    (fun t => let r := t.pgmap (t.rS sV) sz zf perm.toNat
      r.1.wSheld sD r.2) s

/-! ## KVSEQ (R321) -/

/-- The card that KVSEQ names passes R82. Its record is sequencer-side and so names no engine's KCUR: bytes 24 to 31 are 0 (R56, R321; DESIGN
CHOICE, log 40). -/
def State.kvseqCheck (s : State) (q : Dword) : Verdict :=
  if (s.cardFor s.party (bits q.toNat 0 20) 0).isSome then .ok
  else .trap false [s.memRec rPROT 3 6 true (BitVec.ofNat 64 (bits q.toNat 0 20 * 2 ^ 32))]

/-- Change or keep a sequence's length; sD takes the old one, with bit 63 where the new one is out of range. -/
def State.kvseq (s : State) (add : Bool) (q v : Dword) (sD : BitVec 5) : State :=
  let seq := bits q.toNat 0 20
  let pa := s.cardPa seq + 8
  let s := s.reads (.context s.focus) noKey (s.cardPa seq) 128
  let old := s.hbmValue noKey pa 3
  let new : Int := if add then (old : Int) + v.toInt else (v.toNat : Int)
  if 0 ≤ new ∧ new ≤ 0xFFFFFF then (s.hbmWrite noKey pa (leBytes 3 new.toNat)).wSheld sD (BitVec.ofNat 64 old)
  else s.wSheld sD (BitVec.ofNat 64 (old + 2 ^ 63))

/-- KVSEQ. -/
def execKvseq (g : Gate) (op : Bool) (sV sQ sD : BitVec 5) (s : State) : Answer :=
  runSeqM (.kvseq g op sV sQ sD) g (useS [sV, sQ, sD]) (fun t => t.kvseqCheck (t.rS sQ)) (fun t => t.kvseq op (t.rS sQ) (t.rS sV) sD) s

/-- KVSEQ with a literal. -/
def execKvseqLiteral (g : Gate) (op : Bool) (sQ sD : BitVec 5) (lit : Dword) (s : State) : Answer :=
  runSeqM (.kvseqLiteral g op sQ sD lit) g (useS [sQ, sD]) (fun t => t.kvseqCheck (t.rS sQ)) (fun t => t.kvseq op (t.rS sQ) lit sD) s

/-! ## XPF (R316, R425, R426) -/

/-- The weight entry of an expert and layer of an affinity record; none where the record is refused, as is one that breaks the format of R425,
which the cases of refusal that R425 lists leave open (DESIGN CHOICE, log 35). -/
def State.expertEntry (s : State) (p : Party) (rec expert : Dword) (layer : Nat) : Option Nat :=
  if rec.toNat % 64 ≠ 0 then none
  else match s.flatRecord p rec.toNat 8 with
    | some [d0, tab, _, span, d4, d5, d6, d7] =>
      let n := bits d0.toNat 0 16
      if 1 ≤ n ∧ bits d0.toNat 24 40 = 0 ∧ tab.toNat % 32 = 0 ∧ span.toNat % 65536 = 0 ∧ d4 = 0 ∧ d5 = 0 ∧ d6 = 0 ∧ d7 = 0 ∧
         expert.toNat < n ∧ layer ≤ bits d0.toNat 16 8 then some (tab.toNat + (layer * n + expert.toNat) * 32) else none
    | _ => none

/-- The weights that XPF names, where the stair cores accept them, and their entry's flat address. -/
def State.xpfWeights (s : State) (sE sR : BitVec 5) (layer : BitVec 8) : Option (Nat × Weights) :=
  match s.expertEntry s.party (s.rS sR) (s.rS sE) layer.toNat with
  | none => none
  | some va => (s.weightsAt s.party va).map (fun w => (va, w))

/-- The buffer of a die in which weights are resident. -/
def Die.residentIn (d : Die) (src : Nat) : Option Nat :=
  (d.pool.find? (fun e => e.2.state == 2 && e.2.src == src)).map Prod.fst

/-- The check of XPF: XPF.W traps where the record is refused, and holds while the weights are not resident. -/
def State.xpfCheck (s : State) (w : Bool) (sE sR : BitVec 5) (layer : BitVec 8) : Verdict :=
  if !w then .ok
  else match s.xpfWeights sE sR layer with
    | none => s.need 6 false
    | some (_, x) => if ((s.die s.me.place.die).residentIn x.src).isSome then .ok else .hold

/-- XPF: plain, it starts a fill; with .w, it pins the resident weights for the context. -/
def State.xpf (s : State) (w : Bool) (sE sR : BitVec 5) (layer : BitVec 8) : State :=
  let d := s.me.place.die
  match s.xpfWeights sE sR layer with
  | none => s.readsFlat (.context s.focus) s.party (s.rS sR).toNat 64
  | some (va, x) =>
    let s := (s.readsFlat (.context s.focus) s.party (s.rS sR).toNat 64).readsFlat (.context s.focus) s.party va 32
    if w then
      match (s.die d).residentIn x.src with
      | some b => (s.pinBuf d b).modCtx s.owner (fun c => { c with pins := b :: c.pins, missPin := none })
      | none => s
    else (s.startFill s.party x (s.poolSpare d)).1

/-- A miss of XPF.W starts the fill and parks the context at the boundary before the bundle (R50, R426). -/
def State.xpfMiss (s : State) (g : Gate) (w : Bool) (sE sR : BitVec 5) (layer : BitVec 8) : State :=
  if !w || s.scoreboard 6 (useS [sE, sR]) ≠ .ok || !(s.gateM g) then s
  else match s.xpfWeights sE sR layer with
    | some (va, x) =>
      let d := s.me.place.die
      if ((s.die d).residentIn x.src).isSome then s
      else
        let b := s.issue.bundle
        let s := (s.readsFlat (.context s.focus) s.party (s.rS sR).toNat 64).readsFlat (.context s.focus) s.party va 32
        (((s.startFill s.party x (s.poolSpare d)).1.mod (fun c => { c with pc := b })).modCtx s.owner (fun c => { c with
          missPin := some va })).parkNow s.owner .expertMiss 0
    | none => s

/-- Whether an XPF by itself holds at issue. -/
def State.xpfHolds (s : State) (g : Gate) (w : Bool) (sE sR : BitVec 5) (layer : BitVec 8) : Bool :=
  s.issue.pre.isNone && s.verdict 6 (s.gateM g) (useS [sE, sR]) (fun _ => .ok) (fun t => t.xpfCheck w sE sR layer) == .hold

/-- XPF. -/
def execXpf (g : Gate) (w : Bool) (sE sR : BitVec 5) (layer : BitVec 8) (s : State) : Answer :=
  match runSeqM (.xpf g w sE sR layer) g (useS [sE, sR]) (fun t => t.xpfCheck w sE sR layer) (fun t => t.xpf w sE sR layer) s with
  | .next t => .next (if s.xpfHolds g w sE sR layer then t.xpfMiss g w sE sR layer else t)
  | a => a

end Sys2Proof.Machine
end

