-- ==== Sys2Proof/Machine/Sched.lean ====
section
/-!
DEFINITION. The scheduler: bins, launch, steals, candidates, pre-emption, READY, resume, co-resident groups, expert fills and
freed regions (R36 to R40, R50 to R53, R60, R163, R164, R386 to R390, R426 to R428). A step whose event is not enabled
changes nothing (log 1).
-/
namespace Sys2Proof.Machine

/-! ## Places (R12, R37, R430) -/

/-- Gang slots of a die (R12). -/
def gangSlots : Nat := Config.gangsPerDie + Config.sparesPerDie

/-- The gang slot of a logical number: at reset its own (R12), until a spare takes the number over. -/
def Die.slotOf (d : Die) (l : Nat) : Nat := tableGet d.slots l l

/-- Whether a logical number stays vacant: its gang is retired and no spare has taken it over. -/
def Die.isVacant (d : Die) (l : Nat) : Bool := d.retired.contains (d.slotOf l)

/-- The gang slots in service: those of the logical numbers, but for the retired. -/
def Die.enabledSlots (d : Die) : List Nat := ((List.range Config.gangsPerDie).map d.slotOf).filter (fun x => !(d.retired.contains x))

/-- The spare slots left: neither in service nor retired. Which 40 of the 42 slots are enabled at reset R12 leaves open: slots 0 to 39 here, and the
first spare in slot order replaces (DESIGN CHOICE, logs 5 and 9). -/
def Die.spareSlots (d : Die) : List Nat := (List.range gangSlots).filter (fun x => !(d.retired.contains x) && !(d.enabledSlots.contains x))

/-- Whether a context may start at (g, k): the gang is in service and the place is empty. -/
def State.placeFree (s : State) (g k : Nat) : Bool :=
  let d := s.die (g / Config.gangsPerDie)
  decide (g < Config.gangs) && decide (k < 2) && !(d.isVacant (g % Config.gangsPerDie)) && !(d.retiring.contains g) && (s.ctxOn g k).isNone

/-- The places of a die, empty gangs and context 0 first in number order. -/
def dieSeats (d : Nat) : List (Nat × Nat) :=
  (List.range Config.gangsPerDie).flatMap (fun i => [(d * Config.gangsPerDie + i, 0), (d * Config.gangsPerDie + i, 1)])

/-- The free places of a die. -/
def State.freeSeats (s : State) (d : Nat) : List (Nat × Nat) := (dieSeats d).filter (fun x => s.placeFree x.1 x.2)

/-- A gang, its die and the package leave their sleep (R430). -/
def State.wakeGang (s : State) (g : Nat) : State :=
  let d := g / Config.gangsPerDie
  let t := s.wakeDie d
  let x := t.die d
  if x.gangIdle.contains g then t.setDie d { x with gangIdle := x.gangIdle.filter (fun y => y ≠ g) } else t

/-! ## Candidates (R387, R388) -/

/-- A candidate for a free gang context: a due bin or a READY context. -/
structure Cand where
  prio   : Nat
  since  : Nat
  isBin  : Bool
  id     : Nat
  region : Nat
  deriving DecidableEq, Repr

/-- The order of candidates. -/
def Cand.before (a b : Cand) : Bool :=
  decide (b.prio < a.prio) || (a.prio == b.prio && (decide (a.since < b.since) || (a.since == b.since && (!a.isBin || b.isBin))))

/-- The wait in ns after which a candidate takes priority 256 (R388). -/
def agedAfter : Nat := 50000000

/-- Effective priority (R388). -/
def State.effPrio (s : State) (region : Nat) (aged : Bool) : Nat := if aged then 256 else (s.region region).prio

/-- When the oldest item of a bin was filed. -/
def Bin.since (b : Bin) : Nat := (minList (b.items.map BinItem.filed)).getD 0

/-- Whether a context belongs to a co-resident group. -/
def State.inCores (s : State) (cid : Nat) : Bool :=
  s.groups.any (fun e => e.2.cores && e.2.state ≠ .free && e.2.hasCtx cid)

/-- Whether a context is READY and may resume: on the die where it parked, or on another (`abroad`), once it has waited longer than its
region's steal age. -/
def State.mayResume (s : State) (cid d : Nat) (abroad : Bool) : Bool :=
  let c := s.ctxAt cid
  match c.readyAt with
  | some t => if abroad then c.place.die != d && decide (t + (s.region c.region).steal < s.time) else c.place.die == d
  | none => false

/-- A READY context of a co-resident group waits until its groups are in RESUMING (R163). -/
def State.coresWaits (s : State) (cid : Nat) : Bool :=
  s.groups.any (fun e => e.2.cores && e.2.state ≠ .free && e.2.state ≠ .resuming && e.2.hasCtx cid)

/-- READY contexts as candidates for a die: those that parked there, or those of the other dies. A held region has none (R386). -/
def State.readyFor (s : State) (d : Nat) (abroad : Bool) : List Cand :=
  (s.ctxs.filter (fun e => !e.2.isLanding && s.mayResume e.1 d abroad && !(s.coresWaits e.1) && !(s.marked Region.held e.2.region))).map
    (fun e => (⟨s.effPrio e.2.region e.2.aged, e.2.readyAt.getD 0, false, e.1, e.2.region⟩ : Cand))

/-- The queue of a die, in order: its due bins and the READY contexts that parked there. A held region has no candidates, a retired one no
bins (R386). -/
def State.candidates (s : State) (d : Nat) : List Cand :=
  let bins := ((s.die d).bins.filter (fun e => e.2.due && !(s.marked Region.held e.2.region) && !(s.marked Region.retired e.2.region))).map
    (fun e => (⟨s.effPrio e.2.region e.2.aged, e.2.since, true, e.1, e.2.region⟩ : Cand))
  sortWith Cand.before (bins ++ s.readyFor d false)

/-- Whether a candidate is admitted and can take (g, k). -/
def State.takes (s : State) (g k : Nat) (c : Cand) : Bool := s.admits c.region && (c.isBin || s.canResume c.id g k)

/-- The first admitted candidate of a die's queue that can take (g, k). -/
def State.firstOwn (s : State) (d g k : Nat) : Option Cand := (s.candidates d).find? (s.takes g k)

/-- The candidate that takes (g, k): the first of the die's own queue; with none there, the first READY context of another die that may
resume on any (R388: that the die's own come first is DESIGN CHOICE, log 23). -/
def State.firstFor (s : State) (d g k : Nat) : Option Cand :=
  (s.firstOwn d g k).or ((sortWith Cand.before (s.readyFor d true)).find? (s.takes g k))

/-- The members of co-resident groups in RESUMING that have yet to be placed. -/
def State.toPlace (s : State) : List Nat :=
  (s.ctxs.filter (fun e => !e.2.place.resident && s.groups.any (fun x => x.2.cores && x.2.state == .resuming && x.2.hasCtx e.1))).map Prod.fst

/-- The free contexts that are reserved for such members, and for which: each has the lowest free one that takes it (R163). -/
def State.reservations (s : State) : List ((Nat × Nat) × Nat) :=
  let free := (List.range Config.dies).flatMap s.freeSeats
  s.toPlace.foldl (fun l c => match free.find? (fun x => !(l.any (fun r => r.1 == x)) && s.canResume c x.1 x.2) with
    | some x => l ++ [(x, c)]
    | none => l) []

/-- Whether (g, k) is reserved for a member of a co-resident group before a bin or another context of some priority (R163). -/
def State.reserved (s : State) (prio g k : Nat) : Bool :=
  !s.toPlace.isEmpty && s.reservations.any (fun r => r.1 == (g, k) && decide (prio ≤ s.effPrio (s.ctxAt r.2).region (s.ctxAt r.2).aged))

/-! ## Bins (R36 to R38) -/

/-- A bin of a die. -/
def State.binAt (s : State) (d b : Nat) : Option Bin := tableFind (s.die d).bins b

/-- Change or remove a bin. -/
def State.putBin (s : State) (d b : Nat) (x : Option Bin) : State :=
  let y := s.die d
  s.setDie d { y with bins := match x with | some v => tableInsert y.bins b v | none => tableErase y.bins b }

/-- BIN_TIMER: the oldest item has waited the region's bin timer (R37). -/
def execBinTimer (die bin : Nat) (s : State) : Answer :=
  .next (match s.binAt die bin with
    | some b => if !b.due && decide (b.since + (s.region b.region).timer ≤ s.time) then s.putBin die bin (some { b with due := true }) else s
    | none => s)

/-- Whether an item has outwaited the steal age. -/
def State.outwaited (s : State) (b : Bin) (it : BinItem) : Bool := decide (it.filed + (s.region b.region).steal < s.time)

/-- STEAL_AGE: items that have waited longer than the steal age become stealable (R38). -/
def execStealAge (die bin : Nat) (s : State) : Answer :=
  .next (match s.binAt die bin with
    | some b =>
      if b.items.any (fun i => !i.old && s.outwaited b i) then
        s.putBin die bin (some { b with items := b.items.map (fun i => { i with old := i.old || s.outwaited b i }) })
      else s
    | none => s)

/-- Whether an item may be stolen. -/
def Bin.stealable (b : Bin) (it : BinItem) : Bool := !it.fixed && (it.old || b.forced)

/-- The bin of a die with the oldest stealable item. -/
def Die.stealFrom (d : Die) : Option Nat :=
  (d.bins.foldl (fun (a : Option (Nat × Nat)) e =>
    match minList ((e.2.items.filter e.2.stealable).map BinItem.filed), a with
    | none, _ => a
    | some t, none => some (e.1, t)
    | some t, some (b, u) => if t < u then some (e.1, t) else some (b, u)) none).map Prod.fst

/-- The dies in the order in which a die tries them. -/
def stealOrder (die : Nat) (last : Option Nat) : List Nat :=
  ((List.range 4).map (fun i => (last.getD die + 1 + i) % 4)).filter (fun x => x ≠ die)

/-! ## Launch (R37, R39, R40, R52, R53, R427) -/

/-- The context that a launch starts; `late` says that an item of it has been discarded (R53, R161). -/
def State.launchCtx (s : State) (b : Bin) (g k : Nat) (items : Table RunItem) (late : Bool) : Ctx :=
  let r := s.region b.region
  let m := ofEngineBits (fun e => (tableFind items e).isSome)
  let pc := if b.kind = 1 then wrapInt 64 ((b.kernel.toNat : Int) + toSigned 32 (bits b.offs.toNat 0 32)) else b.kernel.toNat
  let c : Ctx := {
    active := m, live := m, pc := pc, items := items, key := b.key, region := b.region, kind := b.kind
    place := .gang g k, started := s.now, cwthr := r.cwthr, hvec := r.hvec, pins := b.pin.toList, expired := late
    pipe := if b.kind = 1 then
      some ⟨b.kernel.toNat, wrapInt 64 ((b.kernel.toNat : Int) + toSigned 32 (bits b.offs.toNat 32 32)), 0, 0, false⟩ else none }
  (((c.putS 1 ((items.head?.map (fun e => e.2.addr)).getD 0)).putS 2 (BitVec.ofNat 64 m.toNat)).putS 3 (BitVec.ofNat 64 b.key.toNat)).putS 4
    (BitVec.ofNat 64 b.region)

/-- The record of an item as 32-bit lanes (R39). -/
def recordLanes (r : List Dword) : Vec := BitVec.ofNat 2048 (leValue (r.flatMap (fun (d : Dword) => leBytes 8 d.toNat)))

/-- Launch a bin's items at (g, k): late items are DISCARDED, and with none left no context starts. STATE is RUNNING before v0 takes
its copy of the record, which shows it: DESIGN CHOICE, log 37. -/
def State.launchBin (s : State) (d bn : Nat) (b : Bin) (g k : Nat) : State :=
  let p := schedParty b.region d
  let its := (b.items.zipIdx).map (fun x =>
    (x.2, runItemOf x.1.addr.toNat ((s.flatRecord p x.1.addr.toNat 8).getD [])))
  let late (it : RunItem) : Bool := it.deadline ≠ 0 && decide (it.deadline < s.time)
  let s1 := s.putBin d bn none
  let s2 := (its.filter (fun x => late x.2)).foldl (fun t x => t.endItem d x.2 g x.1 stDISCARDED 0 (s.time - x.2.deadline)) s1
  let run := its.filter (fun x => !late x.2)
  if run.isEmpty then
    (match b.pin with
     | some i => (s2.unpinBuf d i).binsTake d
     | none => s2)
  else
    let cid := s2.nextCid
    let c := s2.launchCtx b g k run (its.any (fun x => late x.2))
    let s3 := ({ s2 with nextCid := cid + 1 } : State).setCtx cid c
    let s4 := run.foldl (fun t x => (t.readsFlat (.record b.region) p x.2.addr.toNat 64).itemState p x.2.addr.toNat stRUNNING) s3
    let s5 := (List.range 16).foldl (fun t e =>
      let v : Vec := match tableFind run e with
        | some it => recordLanes ((t.flatRecord p it.addr.toNat 8).getD [])
        | none => 0
      t.modEng g e (fun x => x.setPart k (({} : EngCtx).putV 0 v))) s4
    let s6 := (s5.wakeGang g).seat cid g k
    if b.kind = 2 then s6.modCtx cid (fun x => { x with idem := some { s6.snapshot cid with pc := b.kernel.toNat } }) else s6

/-- BIN_LAUNCH: a due bin launches in a free context of its die when it is the first admitted candidate. -/
def execBinLaunch (die bin gang ctx : Nat) (s : State) : Answer :=
  .next (match s.binAt die bin with
    | some b =>
      match s.firstFor die gang ctx with
      | some c =>
        if c.isBin && c.id == bin && gang / Config.gangsPerDie == die && s.placeFree gang ctx && !(s.reserved c.prio gang ctx) then
          s.launchBin die bin b gang ctx
        else s
      | none => s
    | none => s)

/-- A bin with some of its items: it keeps priority 256 only if one of them has waited 50 ms (R388). -/
def State.withItems (s : State) (b : Bin) (l : List BinItem) : Bin :=
  let x := { b with items := l }
  { x with aged := b.aged && decide (x.since + agedAfter ≤ s.time) }

/-- Take the stealable items of a die's bin into a free bin of another die, and launch them at (g, k). -/
def State.stealInto (s : State) (die v vb nb g k : Nat) (b : Bin) : State :=
  let take := b.items.filter b.stealable
  let rest := b.items.filter (fun i => !b.stealable i)
  let s1 : State := if rest.isEmpty then
      (match b.pin with
       | some i => ((s.putBin v vb none).unpinBuf v i).binsTake v
       | none => s.putBin v vb none)
    else s.putBin v vb (some (s.withItems b rest))
  let x := s1.die die
  let s2 := s1.setDie die { x with
    bins := tableInsert x.bins nb { s.withItems b take with opened := x.nextOrder, last := x.nextFiling, due := true, forced := false, pin := none }
    lastSteal := some v }
  let s3 := s2.binTakes die nb
  match s3.binAt die nb with
  | some c => s3.launchBin die nb c g k
  | none => s3

/-- The bin from which a die steals next: of the first die in turn that holds a stealable item, the one that R38 names. -/
def State.stealChoice (s : State) (die : Nat) : Option (Nat × Nat × Bin) :=
  match (stealOrder die (s.die die).lastSteal).find? (fun v => ((s.die v).stealFrom).isSome) with
  | some v => ((s.die v).stealFrom).bind (fun vb => (s.binAt v vb).map (fun b => (v, vb, b)))
  | none => none

/-- The free context of a die in which stolen items of some priority launch: one that no candidate of the die takes (R388) and that is
not reserved. -/
def State.stealSeat (s : State) (die prio : Nat) : Option (Nat × Nat) :=
  (s.freeSeats die).find? (fun x => (s.firstOwn die x.1 x.2).isNone && !(s.reserved prio x.1 x.2))

/-- STEAL: a die with a free context, a free bin and no due bin steals once (R38). -/
def execSteal (die : Nat) (s : State) : Answer :=
  let x := s.die die
  .next (if Config.dies ≤ die || x.bins.any (fun e => e.2.due) then s
    else match x.freeBin, s.stealChoice die with
    | some nb, some (v, vb, b) =>
      match s.stealSeat die (s.effPrio b.region (s.withItems b (b.items.filter b.stealable)).aged) with
      | some (g, k) =>
        if s.admits b.region && !(s.marked Region.held b.region) && !(s.marked Region.retired b.region) then s.stealInto die v vb nb g k b else s
      | none => s
    | _, _ => s)

/-- WAITING_ITEM_FILE: the item that has waited longest for a bin of the die opens one; the launch or the SPAWN that filed it
goes on (R36). -/
def execWaitingItemFile (die : Nat) (s : State) : Answer :=
  let x := s.die die
  .next (match x.waiting with
    | [] => s
    | w :: t =>
      let p : Party := if w.cid = 0 then ⟨w.region, die⟩ else s.partyOf w.cid
      match s.flatRecord p w.addr.toNat 8 with
      | none => s
      | some r =>
        match (x.joinBin r).or x.freeBin with
        | none => s
        | some bn =>
          let s1 := (s.setDie die { x with waiting := t }).putInBin die bn w.addr.toNat r
          if w.cid = 0 then s1.fileOn else s1.modCtx w.cid (fun c => { c with spawnOk := some w.addr }))

/-- CANDIDATE_AGE: a candidate that has waited 50 ms takes priority 256 (R388). Numbers below 256 are bins, then contexts. -/
def execCandidateAge (die n : Nat) (s : State) : Answer :=
  let old (t : Nat) : Bool := decide (t + agedAfter ≤ s.time)
  .next (if n < Config.binsPerDie then
      match s.binAt die n with
      | some b => if b.due && !b.aged && old b.since then s.putBin die n (some { b with aged := true }) else s
      | none => s
    else
      let cid := n - Config.binsPerDie
      match tableFind s.ctxs cid with
      | some c => match c.readyAt with
        | some t => if c.place.die == die && !c.aged && old t then s.setCtx cid { c with aged := true } else s
        | none => s
      | none => s)

/-! ## Parked contexts (R50, R53, R213, R390) -/

/-- The operation whose token a context's scalar n is: its own, else that of the gang context whose pending token its landing took
over (R45). -/
def State.tokenOp (s : State) (cid n : Nat) : Option Op :=
  let of (who : Nat) : Option Op := (s.ops.find? (fun e => e.2.who == who && e.2.token == n)).map Prod.snd
  (of cid).or (if (s.ctxAt cid).isLanding then of (s.ctxAt cid).parent else none)

/-- Whether the reason for which a context parks has cleared: an awaited copy has completed, or has stopped (R50). -/
def State.reasonClear (s : State) (cid : Nat) : Bool :=
  let c := s.ctxAt cid
  match c.reason with
  | .parkWord => c.wakeAt == 0
  | .expertMiss => match c.missPin with
    | some va => match s.weightsAt ⟨c.region, c.place.die⟩ va with
      | some w => ((s.die c.place.die).residentIn w.src).isSome
      | none => true
    | none => true
  | .copyWait => match c.heldOn with
    | some n => !(c.tokens.getLsbD n) || (s.tokenOp cid n).all (fun o => !(o.parts.any Part.works))
    | none => true
  | _ => true

/-- PARK_WAKE: the wake time of a PARK is reached (R213). -/
def execParkWake (cid : Nat) (s : State) : Answer :=
  let c := s.ctxAt cid
  .next (if (tableFind s.ctxs cid).isSome && c.reason == .parkWord && decide (c.wakeAt ≠ 0) && decide (c.wakeAt ≤ s.time) then
    s.setCtx cid { c with wakeAt := 0 } else s)

/-- Whether an operation of a context still runs: one that has stopped makes no progress and counts no more (R50). -/
def State.opsRun (s : State) (o : Nat) : Bool := s.ops.any (fun e => e.2.cid == o && e.2.parts.any Part.works)

/-- Whether a receive of a context has not landed (R265). -/
def State.recvOpen (s : State) (o : Nat) : Bool := (s.sidesOf o).any (fun c => (s.ctxAt c).recvs.any (fun r => !r.gone))

/-- ITEM_READY: every in-flight operation has completed and the reason has cleared (R31, R50). -/
def execItemReady (cid : Nat) (s : State) : Answer :=
  let c := s.ctxAt cid
  .next (if (tableFind s.ctxs cid).isSome && !c.place.resident && !c.isLanding && c.readyAt.isNone && !(s.opsRun cid) && !(s.recvOpen cid) &&
      (s.sidesOf cid).all (fun x => s.reasonClear x) then
    ((c.items.foldl (fun t e => t.itemState (schedParty e.2.region c.place.die) e.2.addr.toNat stREADY) s).modCtx cid (fun x => { x with
      readyAt := some s.time })).coresUpdate
  else s)

/-- Whether a side of a gang context is stopped by the debugger: then it stays resident (R397). -/
def State.stoppedSide (s : State) (o : Nat) : Bool := (s.sidesOf o).any (fun c => (s.ctxAt c).dbgStop)

/-- CWTHR_EXPIRY: a context held on a token whose copy has been outstanding longer than CWTHR parks (R50). -/
def execCwthrExpiry (cid : Nat) (s : State) : Answer :=
  let c := s.ctxAt cid
  .next (match tableFind s.ctxs cid, c.heldOn with
    | some _, some n =>
      if c.place.resident && !(s.stoppedSide (s.ownerOf cid)) && !c.holdPark && c.tokens.getLsbD n &&
         (s.tokenOp cid n).any (fun o => decide (o.issued + c.cwthr.toNat < s.cycleOf c.place.die)) then
        s.parkNow (s.ownerOf cid) .copyWait 0
      else s
    | _, _ => s)

/-- DEFERRED_PARK: an area frees before the reason of a park that found none has cleared (R390). -/
def execDeferredPark (cid : Nat) (s : State) : Answer :=
  let c := s.ctxAt cid
  .next (if (tableFind s.ctxs cid).isSome && c.holdPark && c.place.resident && !(s.stoppedSide cid) && !(s.reasonClear cid) && (s.freeAreaOf c.region).isSome then
    s.parkNow cid c.reason c.wakeAt else s)

/-! ## Pre-emption (R52, R386, R389) -/

/-- The contexts running on the gangs of a die. -/
def State.runningOn (s : State) (d : Nat) : List Nat :=
  (s.ctxs.filter (fun e => (match e.2.place with | .gang _ _ => true | _ => false) && e.2.place.die == d)).map Prod.fst

/-- The victim that R389 chooses on a die for a candidate of some effective priority. -/
def State.victim (s : State) (d prio : Nat) : Option Nat :=
  ((s.runningOn d).filter (fun c => decide ((s.region (s.ctxAt c).region).prio < prio) && !(s.stoppedSide c))).foldl (fun (a : Option Nat) c =>
    match a with
    | none => some c
    | some b =>
      let x := s.ctxAt c
      let y := s.ctxAt b
      let px := (s.region x.region).prio
      let py := (s.region y.region).prio
      if px < py ∨ (px = py ∧ y.started < x.started) then some c else some b) none

/-- Whether a candidate of a die's queue finds a free context: on its die, or on another that it may resume on (R163, R388). -/
def State.finds (s : State) (d : Nat) (c : Cand) : Bool :=
  (s.freeSeats d).any (fun x => !(s.reserved c.prio x.1 x.2)) ||
    (!c.isBin && ((List.range Config.dies).filter (fun x => s.mayResume c.id x true)).any (fun x =>
      (s.freeSeats x).any (fun y => s.firstFor x y.1 y.2 == some c && !(s.reserved c.prio y.1 y.2))))

/-- What a victim notes of the candidate for which it is pre-empted: whether it is a bin, and its number, which for a bin counts on from
die to die. -/
def Cand.mark (c : Cand) (d : Nat) : Bool × Nat := (c.isBin, if c.isBin then d * Config.binsPerDie + c.id else c.id)

/-- The candidate for which the scheduler chooses a victim on a die now: the first admitted one of its queue, when it finds no free context
and nothing is being pre-empted for it, on any die (R389). -/
def State.wants (s : State) (d : Nat) : Option Cand :=
  ((s.candidates d).find? (fun c => s.admits c.region)).filter (fun c =>
    s.ctxs.all (fun e => e.2.victimOf ≠ some (c.mark d)) && !(s.finds d c))

/-- The candidate for which a context is chosen as the victim now. -/
def State.victimFor (s : State) (cid : Nat) : Option Cand :=
  (s.wants (s.ctxAt cid).place.die).filter (fun c => s.victim (s.ctxAt cid).place.die c.prio == some cid)

/-- A context leaves by pre-emption: at a REGRP that holds it, it parks after the REGRP, which fails (R211). -/
def State.preemptNow (s : State) (cid : Nat) : State :=
  if (s.ctxAt cid).heldRegrp.isSome then s.modCtx cid (fun c => { c with regrpFails := true, preempt := true })
  else (s.sidesArrive cid).parkNow cid (if s.coresHeld cid then .cores else .preempted) 0

/-- Whether a side of a gang context issues no further: the context has been chosen for a pre-emption that takes effect here (R52, R386,
R389). A REGRP that fails for it still issues (R211). -/
def State.preemptStops (s : State) (cid : Nat) : Bool :=
  let o := s.ownerOf cid
  let c := s.ctxAt o
  c.preempt && !c.regrpFails && !(s.stoppedSide o) && (s.freeAreaOf c.region).isSome && s.atPreemptPoint o

/-- PREEMPT: a context chosen now or before parks, at once or at its next pre-emption point; without a free area it is not
started, and a stopped context is never pre-empted (R52, R389, R390, R397). -/
def execPreempt (cid : Nat) (s : State) : Answer :=
  let c := s.ctxAt cid
  .next (if (tableFind s.ctxs cid).isSome && (s.runningOn c.place.die).contains cid && !(s.stoppedSide cid) &&
      (c.preempt || (s.victimFor cid).isSome) && (s.freeAreaOf c.region).isSome then
    (if s.atPreemptPoint cid then s.preemptNow cid
     else s.setCtx cid { c with preempt := true, victimOf := ((s.victimFor cid).map (fun x => x.mark c.place.die)).or c.victimOf })
  else s)

/-- RESUME: a READY context resumes at a free context when it is the first admitted candidate there and no co-resident group has the
place reserved; a member of such a group resumes with all of it (R163, R388, R394). -/
def execResume (cid gang ctx : Nat) (s : State) : Answer :=
  .next (match s.firstFor (gang / Config.gangsPerDie) gang ctx with
    | some c => if !c.isBin && c.id == cid && !(s.inCores cid) && !(s.reserved c.prio gang ctx) && s.placeFree gang ctx then (s.wakeGang gang).resumeAt cid gang ctx else s
    | none => s)

/-! ## Co-resident groups (R163) -/

/-- The contexts that a group has. -/
def Group.contexts (g : Group) : List Nat := g.members.filterMap (fun m => match m.who with
  | .ctx c => if m.removed then none else some c
  | .porch _ _ => none)

/-- Groups linked to one by shared contexts: all of them resume together. -/
def State.coresLinked (s : State) : Nat → List Nat → List Nat
  | 0, l => l
  | n + 1, l =>
    let cs := l.flatMap (fun g => (s.groupAt g).contexts)
    s.coresLinked n ((s.groups.filter (fun e => e.2.cores && e.2.state ≠ .free && (l.contains e.1 || e.2.contexts.any (fun c => cs.contains c)))).map Prod.fst)

/-- Place contexts one by one, each at the lowest free place that takes it; none where one finds no place. -/
def State.placeAll : List Nat → State → Option State
  | [], s => some s
  | c :: t, s =>
    if s.marked Region.held (s.ctxAt c).region then none
    else match ((List.range Config.dies).flatMap s.freeSeats).find? (fun x => s.canResume c x.1 x.2) with
    | none => none
    | some (g, k) => State.placeAll t ((s.wakeGang g).placeAt c g k)

/-- CORES_GROUP_RESUME: all members of a co-resident group are placed in one step, then each one's deadline check runs, and the group is
LIVE. -/
def execCoresGroupResume (gid : Nat) (s : State) : Answer :=
  let gs := s.coresLinked s.groups.length [gid]
  .next (if (s.groupAt gid).cores && gs.all (fun g => (s.groupAt g).state == .resuming) then
    let cs := (s.ctxs.map Prod.fst).filter (fun c => gs.any (fun g => (s.groupAt g).contexts.contains c))
    match (State.placeAll cs s).map (fun t => cs.foldl State.resumeCheck t) with
    | some t => { t with groups := t.groups.map (fun e => if gs.contains e.1 && e.2.state == .resuming then (e.1, { e.2 with state := .live }) else e) }
    | none => s
  else s)

/-! ## Regions and expert fills (R386, R426) -/

/-- Whether work of a region's subtree is left: items outside a terminal state, or live groups. -/
def State.regionBusy (s : State) (r : Nat) : Bool :=
  s.ctxs.any (fun e => s.isAncestor r e.2.region) || s.dies.any (fun e => e.2.bins.any (fun b => s.isAncestor r b.2.region)) ||
    s.dies.any (fun e => e.2.waiting.any (fun w => s.isAncestor r w.region)) || s.unfiled.any (fun x => s.isAncestor r x.2.1) ||
    s.groups.any (fun e => e.2.state ≠ .free && s.isAncestor r e.2.region)

/-- REGION_FREE: a retired subtree without work is freed, each block's USAGE becoming all ones (R386); its code leaves the loop buffers,
for its ids may name other regions from now on (R382). -/
def execRegionFree (region : Nat) (s : State) : Answer :=
  .next (if (tableFind s.regions region).isSome && (s.region region).retired && !(s.regionBusy region) then
    let sub := s.subtree region
    { sub.foldl (fun t a => t.cbPut a 160 (2 ^ 64 - 1)) s with
      regions := s.regions.filter (fun e => !sub.contains e.1), seqs := s.seqs.map (fun e => (e.1, e.2.forget sub.contains)) }
  else s)

/-- XP_FILL_COMPLETE: a fill has copied its weights; RESd names the buffer, which is resident (R426). -/
def execXpFillComplete (die buf : Nat) (s : State) : Answer :=
  let b := (s.die die).buf buf
  .next (if b.state ≠ 1 then s
    else match s.poolOf die with
    | none => s
    | some (base, size, _) =>
      let key := s.regionKey b.region
      let s1 := (List.range (b.size * 512)).foldl (fun t i => t.physWrite key (base + buf * size + i * 128) (s.physRead key (b.src + i * 128) 128))
        (s.reads (.record b.region) key b.src (b.size * 65536))
      let s2 := s1.putRes b.region b.entry die (buf + 1)
      let x := s2.die die
      (s2.setDie die { x with pool := tableInsert x.pool buf { b with state := 2 } }).binsTake die)

end Sys2Proof.Machine
end

