-- ==== Sys2Proof/Machine/Boot.lean ====
section
/-!
DEFINITION. Launch and region control by the host (R379 to R386).
-/
namespace Sys2Proof.Machine

/-! ## Region control blocks of a launch (R379, R380) -/

/-- A block of a launch: its address and its 32 dwords, read under no key. -/
structure Block where
  pa    : Nat
  words : List Nat
  deriving DecidableEq, Repr

/-- Dword k of a block. -/
def Block.w (b : Block) (k : Nat) : Nat := b.words.getD k 0
/-- Region id. -/
def Block.id (b : Block) : Nat := bits (b.w 0) 0 12
/-- Parent id. -/
def Block.parent (b : Block) : Nat := bits (b.w 0) 12 12
/-- Whether the block starts a tree. -/
def Block.root (b : Block) : Bool := (b.w 0).testBit 24
/-- Whether the block supplies field k itself (R381). -/
def Block.own (b : Block) (k : Nat) : Bool := (b.w 1).testBit k
/-- Number of root items that the block names. -/
def Block.items (b : Block) : Nat := bits (b.w 19) 0 16

/-- Read a block. -/
def State.blockAt (s : State) (pa : Nat) : Block := ⟨pa, (List.range 32).map (fun k => s.hbmValue noKey (pa + 8 * k) 8)⟩

/-- A power of two from 16 to 2^24. -/
def ringSizeOk (n : Nat) : Bool := (List.range 21).any (fun k => n == 2 ^ (k + 4))

/-- Whether a block keeps its reserved bits clear and its own values in range (R379 to R381). -/
def Block.fieldsOk (b : Block) : Bool :=
  let h := b.w 0
  let ks := bits h 48 8
  bits h 57 7 == 0 && bits h 25 7 == 0 && (!b.root || b.parent == 0) && bits (b.w 1) 15 49 == 0 && (!b.root || bits (b.w 1) 0 15 == 2 ^ 15 - 1) &&
  (!b.own 2 || ks < 128 || ks == 255) && bits (b.w 2) 16 16 == 0 && bits (b.w 2) 48 16 == 0 &&
  (!b.own 4 || (1 ≤ bits (b.w 2) 0 16 && bits (b.w 2) 0 16 ≤ 320)) && bits (b.w 5) 48 16 == 0 &&
  (!b.own 9 || bits (b.w 5) 32 8 + bits (b.w 5) 40 8 ≤ 128) && (!b.own 11 || (b.w 7 % 4096 == 0 && b.w 7 < 2 ^ 52)) &&
  (!b.own 12 || (b.w 8 % 64 == 0 && bits (b.w 9) 0 17 ≤ 65536)) && bits (b.w 9) 17 47 == 0 && (!b.own 13 || b.w 10 % 64 == 0) &&
  (!b.own 14 || (b.w 11 % 4096 == 0 && 1 ≤ bits (b.w 12) 0 13 && bits (b.w 12) 0 13 ≤ 4096)) && bits (b.w 12) 13 51 == 0 &&
  b.w 13 % 32 == 0 && (b.w 13 == 0 || ringSizeOk (bits (b.w 14) 0 32)) && bits (b.w 14) 32 8 ≤ 63 &&
  bits (b.w 19) 16 48 == 0 && (List.range 10).all (fun k => b.w (22 + k) == 0)

/-- The record of a block whose parent's effective values are `p` (R381); a ROOT block takes nothing from it. -/
def Block.region (b : Block) (p : Region) : Region :=
  let pick {α : Type} (k : Nat) (own up : α) : α := if b.root || b.own k then own else up
  let es := pick 9 (bits (b.w 5) 40 8) p.esize
  { parent := b.parent, root := b.root, depth := if b.root then 1 else p.depth + 1, cb := b.pa
    prio := pick 0 (bits (b.w 0) 32 8) p.prio, domain := pick 1 (bits (b.w 0) 40 8) p.domain
    keyslot := pick 2 (bits (b.w 0) 48 8) p.keyslot, pol := pick 3 ((b.w 0).testBit 56) p.pol
    gangs := pick 4 (bits (b.w 2) 0 16) p.gangs, amps := pick 5 (bits (b.w 2) 32 16) p.amps, mem := pick 6 (b.w 3) p.mem
    timer := pick 7 (bits (b.w 4) 0 32) p.timer, steal := pick 7 (bits (b.w 4) 32 32) p.steal
    cwthr := pick 8 (BitVec.ofNat 32 (b.w 5)) p.cwthr, estart := pick 9 (bits (b.w 5) 32 8) p.estart, esize := es
    hvec := pick 10 (BitVec.ofNat 64 (b.w 6)) p.hvec, ptroot := pick 11 (b.w 7) p.ptroot
    tbase := pick 12 (BitVec.ofNat 64 (b.w 8)) p.tbase, tcount := pick 12 (bits (b.w 9) 0 17) p.tcount
    pool := pick 13 (BitVec.ofNat 64 (b.w 10)) p.pool
    sbase := pick 14 (BitVec.ofNat 64 (b.w 11)) p.sbase, sareas := pick 14 (bits (b.w 12) 0 13) p.sareas
    sowner := pick 14 b.id p.sowner, ssize := pick 14 (areaSize es) p.ssize
    used := [], gangsHeld := 0, pages := 0, retired := false, held := false, ovr := if b.root then 0x7FFF else bits (b.w 1) 0 15 }

/-- LSTAT codes (R385). -/
def lsALIGN : Nat := 1
def lsFIELD : Nat := 2
def lsIDLIVE : Nat := 3
def lsFULL : Nat := 4
def lsDEPTH : Nat := 5
def lsPARENT : Nat := 6
def lsITEM : Nat := 7
def lsXLATE : Nat := 8

/-- The effective record of a block of a chain (R381, R382), n levels at most. -/
def State.resolveBlock (s : State) (chain : List Block) : Nat → Block → Except Nat Region
  | 0, _ => .error lsDEPTH
  | n + 1, b =>
    if b.root then .ok (b.region (s.region 4096))
    else match chain.find? (fun x => x.id == b.parent) with
      | some p => match s.resolveBlock chain n p with
        | .error e => .error e
        | .ok r => if 8 ≤ r.depth then .error lsDEPTH else .ok (b.region r)
      | none => match tableFind s.regions b.parent with
        | some r => if 8 ≤ r.depth then .error lsDEPTH else .ok (b.region r)
        | none => .error lsPARENT

/-- The chain from a block address: the blocks, and the code of a chain that cannot be followed to its end (R384, R385). -/
def State.chainFrom (s : State) : Nat → Nat → List Block × Nat
  | 0, _ => ([], lsPARENT)
  | n + 1, pa =>
    if pa % 256 ≠ 0 then ([], lsALIGN)
    else if paKind pa ≠ .hbm then ([], lsFIELD)
    else
      let b := s.blockAt pa
      if b.w 17 = 0 then ([b], 0)
      else if n = 0 then ([b], lsPARENT)
      else
        let (l, c) := s.chainFrom n (b.w 17)
        (b :: l, c)

/-! ## The checks of a launch (R384, R385) -/

/-- A flat pointer of a block translates under its region, whatever its page permits (R385). -/
def State.pointerOk (s : State) (r va : Nat) : Bool := match s.flat ⟨r, 0⟩ .find va with | .ok _ => true | .error _ => false

/-- Pointers that 0 leaves out: the completion ring (R379), and a PGMAP pool (DEDUCED, log 43: R420 knows regions without one). -/
def State.optionalOk (s : State) (r va : Nat) : Bool := va == 0 || s.pointerOk r va

/-- Addresses of the items that a block names. -/
def Block.itemList (b : Block) : List Nat := (List.range b.items).map (fun i => (b.w 18 + 64 * i) % 2 ^ 64)

/-- Physical address of the record that an item address names in a region; none where it does not translate (R384). -/
def State.recordPa (s : State) (r a : Nat) : Option Nat :=
  match s.flat ⟨r, 0⟩ .read a with | .ok pa => some pa | .error _ => none

/-- The code of the items of a block: every one is a record that SPAWN would file and that nothing before it names. `seen` are
the physical addresses of the records named before. An address that does not translate is one SPAWN refuses (R34). -/
def State.itemsCode (s : State) (chain : List Block) (r : Nat) : List Nat → List Nat → Nat
  | [], _ => 0
  | a :: t, seen =>
    match s.recordPa r a, s.fileable ⟨r, 0⟩ a with
    | some pa, some rec =>
      if !(seen.contains pa) && chain.any (fun b => b.id == itemRegion rec) then s.itemsCode chain r t (pa :: seen) else lsITEM
    | _, _ => lsITEM

/-- Physical addresses of the records that a block names. -/
def State.blockRecords (s : State) (b : Block) : List Nat := b.itemList.filterMap (s.recordPa b.id)

/-- The code of block number n of a chain, in the order of the codes; `t` has the chain registered, `seen` are the records that
earlier blocks name. A tensor table without entries has no base (R198's default). -/
def State.blockCode (s t : State) (chain : List Block) (n : Nat) (b : Block) (seen : List Nat) : Nat :=
  if b.items ≠ 0 ∧ b.w 18 % 64 ≠ 0 then lsALIGN
  else if !b.fieldsOk then lsFIELD
  else if (tableFind s.regions b.id).isSome || (chain.take n).any (fun x => x.id == b.id) then lsIDLIVE
  else if Config.maxRegions < s.regions.length + n + 1 then lsFULL
  else match s.resolveBlock chain 9 b with
    | .error e => e
    | .ok r =>
      if r.ssize < areaSize r.esize then lsFIELD
      else
        let c := t.itemsCode chain b.id b.itemList seen
        if c ≠ 0 then c
        else if t.pointerOk b.id r.hvec.toNat && (r.tcount == 0 || t.pointerOk b.id r.tbase.toNat) && t.optionalOk b.id r.pool.toNat &&
          t.pointerOk b.id r.sbase.toNat && t.optionalOk b.id (b.w 13) then 0
        else lsXLATE

/-- The first failing block of a chain. -/
def State.chainCode (s t : State) (chain : List Block) : List Block → Nat → List Nat → Nat
  | [], _, _ => 0
  | b :: rest, n, seen =>
    let c := s.blockCode t chain n b seen
    if c ≠ 0 then c else s.chainCode t chain rest (n + 1) (seen ++ t.blockRecords b)

/-- Register the regions of a chain. An id that is live, or that an earlier block names, keeps the record it has: that block is the first to fail
(R384). -/
def State.registerAll (s : State) (chain : List Block) : State :=
  chain.foldl (fun t b => match tableFind t.regions b.id, s.resolveBlock chain 9 b with
    | none, .ok r => t.setRegion b.id r
    | _, _ => t) s

/-- The blocks of a chain as a launch reads them (R384, R435). -/
def State.readsBlocks (s : State) (chain : List Block) : State := chain.foldl (fun t b => t.reads .scrub noKey b.pa 256) s

/-- What the checks of an accepted launch read of its items, and the misses of its pointers (R385, R399). -/
def State.readsLaunch (s : State) (chain : List Block) : State :=
  chain.foldl (fun t b =>
    let v : EccVictim := .record b.id
    let r := t.region b.id
    let u := b.itemList.foldl (fun u a => u.readsFlat v ⟨b.id, 0⟩ a 64) t
    ([r.hvec.toNat, r.tbase.toNat, r.pool.toNat, r.sbase.toNat, b.w 13].filter (fun a => a ≠ 0)).foldl (fun u a => u.touch v ⟨b.id, 0⟩ .find a 0) u) s

/-- End a launch: LSTAT takes the count and the code. -/
def State.endLaunch (s : State) (count code : Nat) : State :=
  { s.setBar 0 0x60 (BitVec.ofNat 64 (count * 2 ^ 32 + code * 2 ^ 8)) with launching := none }

/-- An item of a launch waits in a queue, under context 0. -/
def State.launchQueued (s : State) : Bool := s.dies.any (fun e => e.2.waiting.any (fun w => w.cid == 0))

/-- Items of the launch are still to be filed: one waits for a bin, or some are not offered yet. -/
def State.launchWaits (s : State) : Bool := s.launchQueued || s.launching.any (fun w => !w.items.isEmpty)

/-- File the items of a registered chain: from the first that finds no bin on they wait, and the launch stays busy (R384). -/
def State.fileBlocks (t : State) (chain : List Block) : State :=
  let t1 : State := chain.foldl (fun (u : State) b => u.cbPut b.id 160 0) { t with cellar := { t.cellar with launched := true } }
  let work : List (Nat × Dword) := chain.flatMap (fun b => b.itemList.map (fun a => (b.id, BitVec.ofNat 64 a)))
  ({ t1 with launching := some ⟨work, work.length⟩ } : State).fileOn.setBar 0 0x60 1

/-- LAUNCH (R384): the checks, registration and filing; items that find no bin keep it busy. -/
def State.launchAt (s : State) (pa : Nat) : State :=
  let (chain, bad) := s.chainFrom 4096 pa
  let t := s.registerAll chain
  let c := s.chainCode t chain chain 0 []
  let code := if c ≠ 0 then c else bad
  let s0 : State := { s with cellar := { s.cellar with launched := true } }
  if code ≠ 0 then (s0.readsBlocks chain).endLaunch 0 code else ((t.readsBlocks chain).readsLaunch chain).fileBlocks chain

/-- LAUNCH: a write while BUSY is ignored. The write wakes the package (R430). -/
def execLaunch (pa : Dword) (s0 : State) : Answer :=
  let s := s0.touchBar
  .next (if s.launching.isSome then s else s.launchAt pa.toNat)

/-- LAUNCH_COMPLETE: every item is filed; LSTAT takes the count, BUSY clears, INTCAUSE bit 0 is set (R384). -/
def execLaunchComplete (s : State) : Answer :=
  .next (match s.launching with
    | some w =>
      if s.launchQueued then s
      else
        let u := s.fileOn
        if u.launchWaits then u else (u.endLaunch w.count 0).cause 0
    | none => s)

/-! ## Region control (R386) -/

/-- Apply a change to a live region; another id is ignored. -/
def State.onRegion (s : State) (r : Nat) (f : State → State) : State := if (tableFind s.regions r).isSome then f s else s

/-- Contexts of a region's subtree that run on gangs. -/
def State.runningOf (s : State) (r : Nat) : List Nat :=
  (s.ctxs.filter (fun e => (match e.2.place with | .gang _ _ => true | _ => false) && s.isAncestor r e.2.region)).map Prod.fst

/-- Choose contexts for pre-emption. -/
def State.preemptAll (s : State) (l : List Nat) : State := l.foldl (fun t c => t.modCtx c (fun x => { x with preempt := true })) s

/-- RETIRE. -/
def execRetire (region : BitVec 12) (s0 : State) : Answer :=
  let s := s0.touchBar
  .next (s.onRegion region.toNat (fun t => t.setRegion region.toNat { t.region region.toNat with retired := true }))

/-- HOLD. -/
def execHold (region : BitVec 12) (s0 : State) : Answer :=
  let s := s0.touchBar
  .next (s.onRegion region.toNat (fun t =>
    (t.setRegion region.toNat { t.region region.toNat with held := true }).preemptAll (t.runningOf region.toNat)))

/-- RELEASE. -/
def execRelease (region : BitVec 12) (s0 : State) : Answer :=
  let s := s0.touchBar
  .next (s.onRegion region.toNat (fun t => (t.subtree region.toNat).foldl (fun u r => u.setRegion r { u.region r with held := false }) t))

/-- REFRESH re-reads a block's own PRIO, GANGS, AMPS, MEM, TIMER and STEAL; what the region inherits follows its parent as it is now.
Descendants keep what they resolved when they were registered (R381). -/
def State.refreshRegion (s0 : State) (r : Nat) : State :=
  let x := s0.region r
  let s := s0.reads (.record r) noKey x.cb 256
  let b := s.blockAt x.cb
  let up := s.region x.parent
  let pick (k own inherited : Nat) : Nat := if x.ovr.testBit k then own else inherited
  s.setRegion r { x with
    prio := pick 0 (bits (b.w 0) 32 8) up.prio, gangs := pick 4 (bits (b.w 2) 0 16) up.gangs, amps := pick 5 (bits (b.w 2) 32 16) up.amps
    mem := pick 6 (b.w 3) up.mem, timer := pick 7 (bits (b.w 4) 0 32) up.timer, steal := pick 7 (bits (b.w 4) 32 32) up.steal }

/-- Contexts beyond a region's GANGS, latest started first. -/
def State.excess (s : State) (r : Nat) : List Nat :=
  let l := sortWith (fun a b => decide ((s.ctxAt b).started ≤ (s.ctxAt a).started)) (s.runningOf r)
  l.take ((s.region r).gangsHeld - (s.region r).gangs)

/-- REFRESH. -/
def execRefresh (region : BitVec 12) (s0 : State) : Answer :=
  let s := s0.touchBar
  .next (s.onRegion region.toNat (fun t =>
    let u := t.refreshRegion region.toNat
    (u.subtree region.toNat).foldl (fun v r => v.preemptAll (u.excess r)) u))

end Sys2Proof.Machine
end

