-- ==== Sys2Proof/Machine/Cellar.lean ====
section
/-!
DEFINITION. The cellar: slots, tier requests, demotion victims, storage commands and the full-memory checkpoint
(R407 to R409, R413, R415, R417 to R424, R444, R445).
-/
namespace Sys2Proof.Machine

/-- Change the cellar. -/
def State.onCellar (s : State) (f : Cellar → Cellar) : State := { s with cellar := f s.cellar }

/-! ## Slots (R417 to R419) -/

/-- CSLOTS (R419). -/
def Cellar.slots (c : Cellar) : Nat := c.ctrls.length * (c.lbas / 16)

/-- The controller of a slot (R419). -/
def Cellar.controllerOf (c : Cellar) (slot : Nat) : Nat := c.ctrls.getD (slot % max c.ctrls.length 1) 0

/-- Whether a slot lies on a controller that is out of service, or nowhere. -/
def Cellar.unserved (c : Cellar) (slot : Nat) : Bool := decide (c.slots ≤ slot) || c.out.contains (c.controllerOf slot)

/-- Address of the byte of the bitmap that holds a slot's bit (R417). -/
def State.bitmapPa (s : State) (slot : Nat) : Nat := bits (s.barReg 4 0x20).toNat 12 40 * 4096 + slot / 8

/-- Whether a slot is in use. -/
def State.slotUsed (s : State) (slot : Nat) : Bool := (s.physValue noKey (s.bitmapPa slot) 1).testBit (slot % 8)

/-- Mark a slot in use or free. -/
def State.markSlot (s : State) (slot : Nat) (used : Bool) : State :=
  s.physWrite noKey (s.bitmapPa slot) (leBytes 1 (putBits (s.physValue noKey (s.bitmapPa slot) 1) (slot % 8) 1 (bit used)))

/-- The first free slot from a slot up, among n. -/
def State.freeSlotFrom (s : State) (ok : Nat → Bool) : Nat → Nat → Option Nat
  | 0, _ => none
  | n + 1, k => if ok k && !(s.slotUsed k) then some k else s.freeSlotFrom ok n (k + 1)

/-- CKRES (R417). -/
def State.ckres (s : State) : Nat := bits (s.barReg 4 0x18).toNat 0 36

/-- The lowest free slot from CKRES up (R421). -/
def State.lowestSlot (s : State) (ok : Nat → Bool) : Option Nat := s.freeSlotFrom ok (s.cellar.slots - s.ckres) s.ckres

/-- The mirror slot for a slot: the lowest free one on another controller (R421). -/
def State.mirrorSlot (s : State) (slot : Nat) : Option Nat :=
  s.lowestSlot (fun k => k ≠ slot && s.cellar.controllerOf k ≠ s.cellar.controllerOf slot)

/-- Where a slot lies, in units of 16 LBAs: LBA 16 * (s div NC) of the namespace of the (s mod NC)-th controller (R419). -/
def Cellar.placeOf (c : Cellar) (slot : Nat) : Nat :=
  (slot / max c.ctrls.length 1 * 2 ^ 32 + c.spaces.getD (slot % max c.ctrls.length 1) 0) * 8 + c.controllerOf slot

/-- Store a frame in a slot, byte for byte as HBM holds it (R419): the storage's access is under no key (R442). -/
def State.putSlot (s0 : State) (region slot frame size : Nat) : State :=
  let s := s0.readsHbm (.record region) noKey frame size
  s.onCellar (fun c =>
    let at_ := c.placeOf slot
    { c with
      data := (List.range size).foldl (fun t i => tableSet t (at_ * 65536 + i) (tableGet s.mem (frame + i) 0) 0) c.data
      keys := (List.range (ceilDiv size 16)).foldl (fun t i => tableInsert t (at_ * 4096 + i) (tableGet s.blockKeys (frame / 16 + i) 0)) c.keys
      image := if Config.checkpointHbm ≤ slot ∧ slot < Config.checkpointSlots then none else c.image })

/-- The slot at a place, where the controllers have one. -/
def Cellar.slotAt (c : Cellar) (place : Nat) : Option Nat :=
  ((c.ctrls.zip c.spaces).findIdx? (fun x => x.1 == place % 8 && x.2 == place / 8 % 2 ^ 32)).map (fun i => place / 8 / 2 ^ 32 * c.ctrls.length + i)

/-- Bring a slot's bytes into a frame. A block that nothing has stored, and what the hall's part of a checkpoint looks like, is a free value
(log 3). -/
def State.takeSlot (s0 : State) (slot frame size : Nat) : State :=
  let s := (s0.useLines noKey frame size true).mendWords frame size
  let at_ := s.cellar.placeOf slot
  { s with
    mem := writeMem s.mem frame ((List.range size).map (fun i =>
      if slot < min s.cellar.ckStored Config.checkpointHbm || (tableFind s.cellar.keys (at_ * 4096 + i / 16)).isSome then tableGet s.cellar.data (at_ * 65536 + i) 0
      else BitVec.ofNat 8 (Config.freeBits s.free (at_ * 65536 + i))))
    blockKeys := (List.range (ceilDiv size 16)).foldl (fun t i =>
      tableSet t (frame / 16 + i) (tableGet s.cellar.keys (at_ * 4096 + i) 0) 0) s.blockKeys }

/-- The integrity tag of a block in a frame (R419). -/
def State.tagOf (s : State) (region frame size : Nat) : Nat := crc16 (s.physRead (s.regionKey region) frame size)

/-! ## Leaf entries and tier words (R407, R409) -/

/-- A leaf entry. -/
def State.leafWord (s : State) (region leaf : Nat) : Nat := s.physValue (s.regionKey region) leaf 8

/-- Write a leaf entry. -/
def State.putLeaf (s : State) (region leaf v : Nat) : State := s.physWrite (s.regionKey region) leaf (leBytes 8 v)

/-- TIER of a leaf. -/
def leafTier (l : Nat) : Nat := bits l 0 2
/-- OUT of a leaf. -/
def leafOut (l : Nat) : Bool := l.testBit 2
/-- PIN of a leaf. -/
def leafPins (l : Nat) : Nat := bits l 4 8
/-- FRAME of a leaf: bits 51:16 of a frame's address, or a slot. -/
def leafFrame (l : Nat) : Nat := bits l 12 36
/-- TAG of a leaf. -/
def leafTag (l : Nat) : Nat := bits l 48 16

/-- A leaf with another tier, direction and frame field; PIN, BAD and TAG stay. -/
def leafSet (l tier : Nat) (out : Bool) (frame : Nat) : Nat := putBits (putBits l 0 3 (tier + 4 * bit out)) 12 36 frame

/-- What a tier counts as in the tier word: 1 resident or inward, 2 cellar or outward, 0 absent (R409). -/
def leafSide (l : Nat) : Nat :=
  match leafTier l with
  | 0 => 0
  | 1 => 1
  | 2 => if leafOut l then 2 else 1
  | _ => 2

/-- Move a block's count in its card's tier word, and set BADSEEN (R409). -/
def State.tierWord (s : State) (seq old new : Nat) (bad : Bool) : State :=
  let pa := s.cardPa seq + 24
  let w := s.hbmValue noKey pa 8
  let shift (side x : Nat) : Nat := x + bit (new == side) - bit (old == side)
  s.hbmWrite noKey pa (leBytes 8 (bit (w.testBit 0 || bad) + shift 1 (bits w 1 31) % 2 ^ 31 * 2 + shift 2 (bits w 32 32) % 2 ^ 32 * 2 ^ 32))

/-- Write a leaf and keep the tier word. -/
def State.moveLeaf (s : State) (seq region leaf v : Nat) (bad : Bool) : State :=
  (s.putLeaf region leaf v).tierWord seq (leafSide (s.leafWord region leaf)) (leafSide v) bad

/-- Remove a leaf from every die's KVTB (R84). -/
def State.dropKvtb (s : State) (leaf : Nat) : State := s.mapDies (fun d => { d with kvtb := d.kvtb.filter (fun e => e.leaf ≠ leaf) })

/-! ## The KV frame table (R413) -/

/-- Set the count of entries in use. -/
def State.putFrameEntries (s : State) (r n : Nat) : State :=
  match s.poolAt r with
  | some d => s.physWrite (s.regionKey r) (d + 40) (leBytes 4 n)
  | none => s

/-- Add a resident block; a full table takes no entry. -/
def State.addFrameEntry (s : State) (r leaf frame : Nat) : State :=
  let n := s.frameEntries r
  if bits (s.poolWord r 40) 32 32 ≤ n then s
  else (s.physWrite (s.regionKey r) (s.frameEntryPa r n) (leBytes 8 leaf ++ leBytes 8 (frame + r))).putFrameEntries r (n + 1)

/-- Remove a block's entry; the last entry takes its place. -/
def State.dropFrameEntry (s : State) (r leaf : Nat) : State :=
  match s.frameEntryOf r leaf with
  | none => s
  | some i =>
    let n := s.frameEntries r
    let t := (s.reads (.record r) (s.regionKey r) (s.frameEntryPa r i) 16).reads (.record r) (s.regionKey r) (s.frameEntryPa r (n - 1)) 16
    (t.physWrite (s.regionKey r) (s.frameEntryPa r i) (s.physRead (s.regionKey r) (s.frameEntryPa r (n - 1)) 16)).putFrameEntries r (n - 1)

/-! ## The ring (R420) -/

/-- Address of the ring; 0 for none. -/
def State.ringPa (s : State) : Nat := bits (s.barReg 4 0x28).toNat 12 40 * 4096

/-- Address of entry k. -/
def State.ringEntryPa (s : State) (k : Nat) : Nat := s.ringPa + 0x100 + k % 4096 * 32

/-- Dword at byte o of entry k. -/
def State.ringWord (s : State) (k o : Nat) : Nat := s.physValue noKey (s.ringEntryPa k + o) 8

/-- Write the status of an entry. -/
def State.putStatus (s : State) (entry : Option Nat) (code mirror : Nat) : State :=
  match entry with
  | some pa => s.physWrite noKey (pa + 24) (leBytes 8 (code + mirror * 256))
  | none => s

/-- A request whose status is still 0. -/
def TierReq.pending (r : TierReq) : Bool := r.entry.isSome && !(r.op == 1 && r.phase ≠ 1)

/-- Write HEAD: the least entry still pending, or the next to take. -/
def State.putHead (s : State) : State :=
  s.physWrite noKey (s.ringPa + 0x80) (leBytes 8 ((minList ((s.cellar.reqs.filter (fun e => e.2.pending)).map Prod.fst)).getD s.cellar.next))

/-- Keep a request in service. -/
def State.putReq (s : State) (k : Nat) (r : TierReq) : State := s.onCellar (fun c => { c with reqs := tableInsert c.reqs k r })

/-- A request leaves service. -/
def State.endReq (s : State) (k : Nat) : State := s.onCellar (fun c => { c with reqs := tableErase c.reqs k })

/-- A request ends with a status. -/
def State.finishReq (s : State) (k : Nat) (r : TierReq) (code mirror : Nat) : State := (s.putStatus r.entry code mirror).endReq k

/-! ## Victims (R422) -/

/-- The block number that a leaf entry of a card's tables stands for: the sequence whose tables hold it, lowest first. -/
def State.tablesHold (s : State) (c : Card) (leaf : Nat) : Bool :=
  let key := s.regionKey c.region
  (List.range 512).any (fun i =>
    let e := s.physValue key (c.root + i * 8) 8
    decide (i < 2 * c.layers) && e.testBit 0 && (List.range 2048).any (fun j =>
      let m := s.physValue key (bits e 12 40 * 4096 + j * 8) 8
      m.testBit 0 && bits m 12 40 == leaf / 4096))

/-- The lowest sequence of a region whose tables hold a leaf. -/
def State.seqOfLeaf (s : State) (r leaf : Nat) : Option (Nat × Card) :=
  (List.range (bits (s.barReg 0 0x50).toNat 0 21)).findSome? (fun q => match s.card q with
    | some c => if c.region = r ∧ s.tablesHold c leaf then some (q, c) else none
    | none => none)

/-- Move HAND past an entry. -/
def State.putHand (s : State) (r h : Nat) : State :=
  match s.poolAt r with
  | some d => s.physWrite (s.regionKey r) (d + 48) (leBytes 4 h)
  | none => s

/-- The clock: at most n entries are examined, from HAND. It answers the leaf and the region of a victim. -/
def State.sweep (s : State) (r : Nat) (only : Option Nat) : Nat → State × Option (Nat × Nat)
  | 0 => (s, none)
  | n + 1 =>
    let m := s.frameEntries r
    if m = 0 then (s, none)
    else
      let h := bits (s.poolWord r 48) 0 32 % m
      let pa := s.frameEntryPa r h
      let w := s.physValue (s.regionKey r) pa 8
      let leaf := bits w 3 49 * 8
      let owner := bits (s.physValue (s.regionKey r) (pa + 8) 8) 0 12
      let l := s.leafWord owner leaf
      let t := ((s.reads (.record r) (s.regionKey r) pa 16).reads (.record owner) (s.regionKey owner) leaf 8).putHand r ((h + 1) % m)
      if (match only with | some a => !(s.isAncestor a owner) | none => false) || leafPins l ≠ 0 || leafTier l ≠ 1 then t.sweep r only n
      else if w.testBit 0 then (t.physWrite (t.regionKey r) pa (leBytes 8 (putBits w 0 1 0))).sweep r only n
      else (t, some (owner, leaf))

/-- The key under which the demotion of a victim is in service. -/
def victimKey (leaf : Nat) : Nat := 2 ^ 64 + leaf

/-- Set a resident block on its way out (R421). -/
def State.startDemotion (s : State) (k : Nat) (r : TierReq) (slot : Nat) (mirror : Option Nat) : State :=
  let l := s.leafWord r.region r.leaf
  let t := (s.dropKvtb r.leaf).moveLeaf r.seq r.region r.leaf (leafSet l 2 true (leafFrame l)) false
  let u := (t.markSlot slot true)
  let v := match mirror with | some m => u.markSlot m true | none => u
  v.putReq k { r with slot := slot, mirror := mirror, frame := leafFrame l * 65536, phase := 2, tries := 0 }

/-- The nearest region of a lineage whose budget takes no further page. -/
def State.spent (s : State) (r : Nat) : Option Nat := (s.lineage r).find? (fun a => decide ((s.region a).mem < (s.region a).pages + 1))

/-- Whether the demotion of a victim of a region's pool is under way. -/
def State.victimGoes (s : State) (r : Nat) : Bool := s.cellar.reqs.any (fun e => e.2.entry.isNone && decide (s.poolAt e.2.region = s.poolAt r))

/-- Demote one victim for a region's pool, unless one is already on its way; without a free slot nothing moves. -/
def State.demoteVictim (s : State) (r : Nat) : State :=
  if s.victimGoes r then s
  else match s.lowestSlot (fun _ => true) with
    | none => s
    | some slot => match s.sweep r (s.spent r) (2 * s.frameEntries r) with
      | (t, some (owner, leaf)) => match t.seqOfLeaf owner leaf with
        | some (q, c) => t.startDemotion (victimKey leaf) ⟨none, 2, q, leaf, owner, c.blockSize, false, 0, none, 0, 1, 0, false⟩ slot none
        | none => t
      | (t, none) => t

/-! ## Tier requests (R421, R424) -/

/-- A request that cannot take a frame: CODE 6 while no victim may be demoted, else it waits for one. Where a sweep has found none, it sweeps
again once a pin has dropped (R422). -/
def State.noFrame (s : State) (k : Nat) (r : TierReq) : State :=
  if !s.cellar.ready then s.finishReq k r 6 0
  else if r.barren then s.putReq k { r with phase := 1 }
  else
    let t := s.demoteVictim r.region
    t.putReq k { r with phase := 1, barren := (s.lowestSlot (fun _ => true)).isSome && !(t.victimGoes r.region) }

/-- A block becomes resident in a frame, BAD as given. -/
def State.becomeResident (s : State) (r : TierReq) (frame : Nat) (bad : Bool) : State :=
  let l := s.leafWord r.region r.leaf
  (s.moveLeaf r.seq r.region r.leaf (putBits (leafSet l 1 false (frame / 65536)) 3 1 (bit bad)) false).addFrameEntry r.region r.leaf frame

/-- PROMOTE. -/
def State.promoteAct (s : State) (k : Nat) (r : TierReq) (l : Nat) : State :=
  match leafTier l, leafOut l with
  | 2, true => s.putReq k { r with phase := 1 }
  | 0, _ => match s.takeFrame r.region false with
    | some (t, f) => ((t.zeroFill (t.regionKey r.region) f 65536).becomeResident r f false).finishReq k r 1 0
    | none => s.noFrame k r
  | 3, _ =>
    if !s.cellar.ready then s.finishReq k r 5 0
    else match s.takeFrame r.region false with
      | some (t, f) => ((t.moveLeaf r.seq r.region r.leaf (leafSet l 2 false (f / 65536)) false).putStatus r.entry 1 0).putReq k
          { r with slot := leafFrame l, frame := f, phase := 2, tries := 0 }
      | none => s.noFrame k r
  | _, _ => s.finishReq k r 1 0

/-- DEMOTE. -/
def State.demoteAct (s : State) (k : Nat) (r : TierReq) (l : Nat) : State :=
  if leafTier l ≠ 1 then s.finishReq k r 1 0
  else if !s.cellar.ready then s.finishReq k r 5 0
  else if leafPins l ≠ 0 then s.putReq k { r with phase := 1 }
  else match s.lowestSlot (fun _ => true) with
    | none => s.finishReq k r 4 0
    | some slot =>
      if r.mir then match s.mirrorSlot slot with
        | some m => s.startDemotion k r slot (some m)
        | none => s.finishReq k r 4 0
      else s.startDemotion k r slot none

/-- REPLACE: the block's data and its slot go, and a zero-filled frame takes their place. -/
def State.replaceAct (s : State) (k : Nat) (r : TierReq) (l : Nat) : State :=
  let fill (t : State) (f : Nat) : State :=
    let u := if leafTier l = 3 then t.markSlot (leafFrame l) false else t
    (((u.zeroFill (u.regionKey r.region) f 65536).dropKvtb r.leaf).becomeResident r f false).finishReq k r 1 0
  match leafTier l with
  | 2 => s.putReq k { r with phase := 1 }
  | 1 => match ((s.dropFrameEntry r.region r.leaf).giveFrame r.region (leafFrame l * 65536)).takeFrame r.region false with
    | some (t, f) => fill t f
    | none => s.noFrame k r
  | _ => match s.takeFrame r.region false with
    | some (t, f) => fill t f
    | none => s.noFrame k r

/-- REFETCH. -/
def State.refetchAct (s : State) (k : Nat) (r : TierReq) (l : Nat) : State :=
  if !s.cellar.ready then s.finishReq k r 5 0
  else if leafTier l = 2 then s.putReq k { r with phase := 1 }
  else match s.takeFrame r.region false with
    | some (t, f) => t.putReq k { r with frame := f, phase := 2, tries := 0 }
    | none => s.noFrame k r

/-- Start, or try again, a request: CODE 6, then CODE 3, then the operation. -/
def State.tierAct (s : State) (k : Nat) (r : TierReq) : State :=
  let l := s.leafWord r.region r.leaf
  if (tableFind s.regions r.region).isNone || (s.poolAt r.region).isNone then s.finishReq k r 6 0
  else if l.testBit 3 && (r.op == 1 || r.op == 2) then s.finishReq k r 3 0
  else match r.op with
    | 1 => s.promoteAct k r l
    | 2 => s.demoteAct k r l
    | 3 => s.replaceAct k r l
    | _ => s.refetchAct k r l

/-- Entry k as a request; none where CODE 2 refuses it. -/
def State.tierReq (s : State) (k : Nat) : Option TierReq :=
  let kv : Dword := BitVec.ofNat 64 (s.ringWord k 0)
  let w := s.ringWord k 8
  let op := bits w 0 4
  match s.card (kvSeq kv) with
  | none => none
  | some c =>
    if op = 0 ∨ 5 ≤ op ∨ c.layers ≤ kvLayer kv then none
    else match s.leafAt (s.regionKey c.region) c.root (kvLayer kv) (kvPlane kv) (kvPos kv / 16) with
      | .leaf pa => some ⟨some (s.ringEntryPa k), op, kvSeq kv, pa, c.region, c.blockSize, w.testBit 4, bits (s.ringWord k 16) 0 36, none, 0, 1, 0, false⟩
      | _ => none

/-- Whether entry k is the next to take and its LAP matches. -/
def State.entryReady (s : State) (k : Nat) : Bool := k == s.cellar.next && bits (s.ringWord k 8) 32 32 == (k / 4096 + 1) % 2 ^ 32

/-- What the stair cores read of the memory for entry k: the entry, its card, and the tables of its block (R435). -/
def State.entryReads (s : State) (k : Nat) : State :=
  let kv : Dword := BitVec.ofNat 64 (s.ringWord k 0)
  let t := s.reads .scrub noKey (s.ringEntryPa k) 32
  match s.card (kvSeq kv) with
  | none => t
  | some c => (s.leafPath (s.regionKey c.region) c.root (kvLayer kv) (kvPlane kv) (kvPos kv / 16)).foldl
      (fun u e => u.reads (.record c.region) (s.regionKey c.region) e 8) (t.reads (.record c.region) noKey (s.cardPa (kvSeq kv)) 128)

/-- What they read for a request: its leaf entry and the pool descriptor of its region. -/
def State.requestReads (s : State) (r : TierReq) : State :=
  (s.reads (.record r.region) (s.regionKey r.region) r.leaf 8).poolReads (.record r.region) r.region

/-- The stair cores take entry k, or try a request again that waits; an entry with an unknown OP is taken by any of the events. -/
def State.serve (s : State) (k op : Nat) : State :=
  if s.ringPa = 0 ∨ s.cellar.ckPhase = 2 then s
  else match tableFind s.cellar.reqs k with
    | some r => if r.phase = 1 ∧ r.op = op ∧ s.tierAct k r ≠ s then ((s.requestReads r).tierAct k r).putHead else s
    | none =>
      let o := bits (s.ringWord k 8) 0 4
      if !(s.entryReady k) || (o ≠ op && (1 ≤ o && o ≤ 4)) then s
      else
        let t := (s.entryReads k).onCellar (fun c => { c with next := c.next + 1 })
        match t.tierReq k with
        | some r => ((t.requestReads r).tierAct k r).putHead
        | none => (t.putStatus (some (t.ringEntryPa k)) 2 0).putHead

/-- PROMOTE. -/
def execPromote (k : Nat) (s : State) : Answer := .next (s.serve k 1)
/-- DEMOTE. -/
def execDemote (k : Nat) (s : State) : Answer := .next (s.serve k 2)
/-- REPLACE. -/
def execReplace (k : Nat) (s : State) : Answer := .next (s.serve k 3)
/-- REFETCH. -/
def execRefetch (k : Nat) (s : State) : Answer := .next (s.serve k 4)

/-! ## Storage commands (R421) -/

/-- The slot that a request's command reads or writes. -/
def TierReq.target (r : TierReq) : Nat := if r.phase = 3 then r.mirror.getD 0 else r.slot

/-- A slot has been read: the tag decides. -/
def State.readDone (s : State) (k : Nat) (r : TierReq) (ok : Bool) : State :=
  let l := s.leafWord r.region r.leaf
  let t := if ok then (s.takeSlot r.slot r.frame r.size).reads (.record r.region) (s.regionKey r.region) r.frame r.size else s
  let good := ok && t.tagOf r.region r.frame r.size == leafTag l
  if r.op = 1 then
    if good then ((t.becomeResident r r.frame false).markSlot r.slot false).endReq k
    else ((t.giveFrame r.region r.frame).moveLeaf r.seq r.region r.leaf (putBits (leafSet l 3 false r.slot) 3 1 1) true).endReq k
  else if good then
    let u := t.dropKvtb r.leaf
    let v := if leafTier l = 1 then (u.dropFrameEntry r.region r.leaf).giveFrame r.region (leafFrame l * 65536)
      else if leafTier l = 3 then u.markSlot (leafFrame l) false else u
    (v.becomeResident r r.frame false).finishReq k r 1 0
  else (t.giveFrame r.region r.frame).finishReq k r 5 0

/-- A block is written: TAG, TIER and FRAME are set and the frame goes back. -/
def State.demoted (s : State) (k : Nat) (r : TierReq) : State :=
  let l := s.leafWord r.region r.leaf
  let l1 := putBits (leafSet l 3 false r.slot) 48 16 (s.tagOf r.region r.frame r.size)
  let t := s.reads (.record r.region) (s.regionKey r.region) r.frame r.size
  (((t.moveLeaf r.seq r.region r.leaf l1 false).dropFrameEntry r.region r.leaf).giveFrame r.region r.frame).finishReq k r 1 (r.mirror.getD 0)

/-- The write of a slot has failed for good: the slot stays in use, and the next free one is tried; with none left the block
stays resident and the request fails. -/
def State.writeFailed (s : State) (k : Nat) (r : TierReq) : State :=
  let next := if r.phase = 3 then s.mirrorSlot r.slot else s.lowestSlot (fun x =>
    match r.mirror with | some m => s.cellar.controllerOf x ≠ s.cellar.controllerOf m | none => true)
  match next with
  | some x => (s.markSlot x true).putReq k (if r.phase = 3 then { r with mirror := some x, tries := 0 } else { r with slot := x, tries := 0 })
  | none =>
    let l := s.leafWord r.region r.leaf
    let t := if r.phase = 3 then s.markSlot r.slot false else match r.mirror with | some m => s.markSlot m false | none => s
    (t.moveLeaf r.seq r.region r.leaf (leafSet l 1 false (r.frame / 65536)) false).finishReq k r 5 0

/-- Count a command of a controller: eight failures in a row put it out of service. -/
def Cellar.command (c : Cellar) (slot : Nat) (ok : Bool) : Cellar :=
  let x := c.controllerOf slot
  let n := if ok then 0 else tableGet c.fails x 0 + 1
  { c with fails := tableSet c.fails x n 0, out := if 8 ≤ n && !c.out.contains x then x :: c.out else c.out }

/-- NVME_COMPLETION: a command ends; a failed one is tried three times in all. A block that has gone in flight meanwhile keeps a
REFETCH waiting (R424). -/
def State.nvme (s0 : State) (k : Nat) (ok : Bool) : State :=
  match tableFind s0.cellar.reqs k with
  | none => s0
  | some r =>
    let s := s0.requestReads r
    if s.cellar.ckPhase = 2 then s0
    else if r.phase < 2 || (r.op == 4 && leafTier (s.leafWord r.region r.leaf) == 2) then s0
    else
      let down := s.cellar.unserved r.target
      let good := ok && !down
      let t := s.onCellar (fun c => c.command r.target good)
      if !good && !down && r.tries < 2 then t.putReq k { r with tries := r.tries + 1 }
      else if r.op ≠ 2 then (t.readDone k r good).putHead
      else if !good then (t.writeFailed k r).putHead
      else
        let u := t.putSlot r.region r.target r.frame r.size
        match r.mirror with
        | some _ => if r.phase = 2 then u.putReq k { r with phase := 3, tries := 0 } else (u.demoted k r).putHead
        | none => (u.demoted k r).putHead

/-- NVME_COMPLETION. -/
def execNvmeCompletion (req : Nat) (ok : Bool) (s : State) : Answer := .next (s.nvme req ok)

/-! ## The full-memory checkpoint (R444, R445) -/

/-- CKSTAT: phase, code and slots written. -/
def State.ckStat (s : State) (phase code slots : Nat) : State :=
  s.onCellar (fun c => { c with ckPhase := phase, ckCode := code, ckSlots := slots })

/-- Hold a region, and choose its running contexts for pre-emption (R386). -/
def State.holdRegion (s : State) (r : Nat) : State :=
  (s.setRegion r { s.region r with held := true }).preemptAll (s.runningOf r)

/-- START; while a checkpoint runs, another START is ignored. -/
def execStart (s0 : State) : Answer :=
  let s := s0.touchBar
  .next (if s.cellar.ckPhase = 1 ∨ s.cellar.ckPhase = 2 then s
    else if s.porches.any (fun e => e.2.running) then s.ckStat 0 1 0
    else if s.ckres < Config.checkpointSlots then s.ckStat 0 2 0
    else if !s.cellar.ready then s.ckStat 0 3 0
    else (s.regions.map Prod.fst).foldl (fun t r => t.holdRegion r) (s.ckStat 1 0 0))

/-- Every context is parked, its copies are complete, and the cellar's queues have drained: no tier request waits or is in service, and the ring
holds no entry that the stair cores are to take (log 28). -/
def State.quiet (s : State) : Bool :=
  s.ctxs.all (fun e => !e.2.place.resident) && s.ops.all (fun e => e.2.parts.all (fun p => !p.works)) &&
  s.cellar.reqs.isEmpty && (s.ringPa == 0 || !(s.entryReady s.cellar.next))

/-- What the checkpoint saves of the hall. -/
def State.image (s : State) : Image := ⟨s.groups, s.channels, s.regions, s.ctxs, s.ops, s.nextCid, s.nextOp⟩

/-- Entries of a table in blocks of 2^16 bytes of HBM, n to a block, as they stand in the slots from a to b − 1 (R419, R445). -/
def Cellar.outOf {α : Type} (c : Cellar) (n a b : Nat) (t : Table α) : Table α :=
  (t.filter (fun e => a ≤ e.1 / n && decide (e.1 / n < b))).map (fun e => (c.placeOf (e.1 / n) * n + e.1 % n, e.2))

/-- Entries of the cellar outside the slots from a to b − 1. -/
def Cellar.beside {α : Type} (c : Cellar) (n a b : Nat) (t : Table α) : Table α :=
  t.filter (fun e => match c.slotAt (e.1 / n) with
    | some k => !(a ≤ k && decide (k < b))
    | none => true)

/-- The reads of the bad words among n bytes of HBM from `pa` on. -/
def State.readsBad (s : State) (v : EccVictim) (pa n : Nat) : State :=
  s.onFleet (fun f => { f with met := f.met ++ (f.badWords.filter (fun w => decide (pa ≤ w) && decide (w < pa + n))).map (fun w => (v, w)) })

/-- Write HBM, byte for byte as stored, to the slots from a to b − 1 (R445); their lines are written back before. -/
def State.storeSlots (s0 : State) (a b : Nat) : State :=
  let s := (((s0.pantry.map Prod.fst).filter (fun l => a ≤ l / 512 && decide (l / 512 < b))).foldl State.writeBack s0).readsBad .scrub (a * 65536) ((b - a) * 65536)
  s.onCellar (fun c => { c with
    data := (c.outOf 65536 a b s.mem).foldl (fun t e => tableInsert t e.1 e.2) (c.beside 65536 a b c.data)
    keys := (c.outOf 4096 a b s.blockKeys).foldl (fun t e => tableInsert t e.1 e.2) (c.beside 4096 a b c.keys)
    ckStored := max c.ckStored b })

/-- CHECKPOINT_TRANSFER: once all is quiet, every pantry writes back its dirty lines and the transfer begins; then HBM goes to the reserved
slots, so many in a step (log 28), and in the last step the hall. -/
def execCheckpointTransfer (s : State) : Answer :=
  let n := s.cellar.ckSlots
  .next (if s.cellar.ckPhase = 1 then
      if s.quiet then ((s.pantry.map Prod.fst).foldl State.writeBack s).ckStat 2 0 0 else s
    else if s.cellar.ckPhase ≠ 2 then s
    else if s.cellar.slots < Config.checkpointSlots || s.cellar.ctrls.any s.cellar.out.contains then s.ckStat 0 4 n
    else if n < Config.checkpointHbm then
      let m := min Config.checkpointHbm (n + Config.checkpointStep)
      (s.storeSlots n m).ckStat 2 0 m
    else (s.onCellar (fun c => { c with image := some s.image })).ckStat 3 0 Config.checkpointSlots)

/-- Entries that HBM takes back from the slots: the inverse of `outOf`. -/
def Cellar.backTo {α : Type} (c : Cellar) (n : Nat) (t : Table α) : List (Nat × α) :=
  t.filterMap (fun e => match c.slotAt (e.1 / n) with
    | some k => if k < Config.checkpointHbm then some (k * n + e.1 % n, e.2) else none
    | none => none)

/-- Put an image back, HBM from its slots as they now stand: every region is held. -/
def State.restore (s : State) (i : Image) : State :=
  { s with mem := (s.cellar.backTo 65536 s.cellar.data).foldl (fun t e => tableSet t e.1 e.2 0) []
           blockKeys := (s.cellar.backTo 4096 s.cellar.keys).foldl (fun t e => tableSet t e.1 e.2 0) []
           pantry := [], fleet := { s.fleet with badWords := [] }, groups := i.groups, channels := i.channels
           regions := i.regions.map (fun e => (e.1, { e.2 with held := true })), ctxs := i.ctxs, ops := i.ops
           nextCid := i.nextCid, nextOp := i.nextOp }

/-- RESTORE: only after a reset and before any LAUNCH. -/
def execRestore (s0 : State) : Answer :=
  let s := s0.touchBar
  .next (if s.cellar.launched || !s.ctxs.isEmpty || !s.regions.isEmpty then s.ckStat s.cellar.ckPhase 5 0
    else if !s.cellar.ready then s.ckStat 0 3 0
    else match s.cellar.image with
      | some i => (s.restore i).ckStat 3 0 Config.checkpointSlots
      | none => s.ckStat 0 4 0)

end Sys2Proof.Machine
end

