-- ==== Sys2Proof/Machine/Host.lean ====
section
/-!
DEFINITION. The host's other steps: the memory BAR, format windows, the debug block, link windows, expert pools and the
cellar's control (R61, R86, R356, R374, R396, R397, R411, R412, R418).
-/
namespace Sys2Proof.Machine

/-! ## The memory BAR (R374) -/

/-- The key that memory BAR accesses use (R439, R442). -/
def State.hostKey (s : State) : Nat := bits (s.barReg 7 0x90).toNat 0 8

/-- The host reaches HBM through the memory BAR: the die of the address wakes too. -/
def State.touchHbm (s : State) (off : Nat) : State := if off < Config.hbmBytes then s.touchBar.wakeDie (dieOfPa off) else s.touchBar

/-- What a read of the memory BAR answers: all ones beyond HBM. -/
def State.memBarData (s : State) (off n : Nat) : List Byte :=
  (List.range n).map (fun i => if off + i < Config.hbmBytes then s.hbmByte s.hostKey (off + i) else 0xFF)

/-- MEMORY_BAR_READ: the data go to the host; a word that stays uncorrectable makes it a Completer Abort (R435). -/
def execMemoryBarRead (off : BitVec 40) (width : Nat) (s : State) : Answer :=
  let t := (s.touchHbm off.toNat).reads .barRead s.hostKey off.toNat (min width (Config.hbmBytes - off.toNat))
  .next (if t.fleet.met = s.fleet.met then { t with outbox := t.outbox ++ [.barData (s.memBarData off.toNat width)] } else t)

/-- MEMORY_BAR_WRITE: bytes beyond HBM are dropped. -/
def execMemoryBarWrite (off : BitVec 40) (data : List Byte) (s : State) : Answer :=
  .next ((s.touchHbm off.toNat).hbmWrite s.hostKey off.toNat (data.take (Config.hbmBytes - off.toNat)))

/-! ## Format windows (R86) -/

/-- Whether the settings of window n, with a control value, are valid. -/
def State.windowOk (s : State) (n ctl : Nat) : Bool :=
  let vbase := (s.barReg 1 (n * 0x20)).toNat
  let vsize := (s.barReg 1 (n * 0x20 + 8)).toNat * 65536
  let sbase := (s.barReg 1 (n * 0x20 + 0x10)).toNat
  let sfmt := bits ctl 12 4
  let xfmt := bits ctl 8 4
  let sc := bits ctl 16 48 * 16
  let elems := if sfmt = 0xA then 32 else 16
  let blocks := vsize / (elems * (fmtBits xfmt / 8))
  0xA ≤ sfmt && sfmt ≤ 0xD && (xfmt == 1 || xfmt == 3) && 0 < vsize && decide (vbase / 2 ^ 50 = 3) && vbase + vsize ≤ 2 ^ 52 &&
  sbase + blocks * blockBytes sfmt ≤ Config.hbmBytes &&
  (if sfmt = 0xA then decide (sc + blocks ≤ Config.hbmBytes) else sc == 0) &&
  (List.range 16).all (fun m => m == n || (match s.window m with
    | some w => decide (vbase + vsize ≤ w.vbase) || decide (w.vbase + w.vsize ≤ vbase)
    | none => true))

/-- Whether a line holds blocks of a window's stored region, or their MX scales. -/
def Window.holds (w : Window) (line : Nat) : Bool :=
  let blocks := w.vsize / (w.elems * w.esize)
  let meets (base n : Nat) : Bool := decide (base < line * 128 + 128) && decide (line * 128 < base + n)
  meets w.sbase (blocks * blockBytes w.sfmt) || (w.sfmt == 0xA && meets w.scbase blocks)

/-- Every line of a view is written back and leaves its pantry; the lines of a view are those of its stored blocks (R86, log 8). -/
def State.dropView (s : State) (w : Window) : State :=
  ((s.pantry.map Prod.fst).filter w.holds).foldl State.dropLine s

/-- Write a window's control register; EN is set only where the settings allow it. -/
def State.putWindow (s : State) (n : Nat) (v : Dword) (en : Bool) : State :=
  let c := v.toNat / 256 * 256
  s.setBar 1 (n * 0x20 + 0x18) (BitVec.ofNat 64 (c + bit (en && s.windowOk n c)))

/-- FW_ENABLE. -/
def execFwEnable (n : BitVec 4) (v : Dword) (s0 : State) : Answer :=
  let s := s0.touchBar
  .next (s.putWindow n.toNat v true)
/-- FW_DISABLE: first every line of the view is written back and invalidated; every write into the view has already been encoded (R86, R87). -/
def execFwDisable (n : BitVec 4) (v : Dword) (s0 : State) : Answer :=
  let s := s0.touchBar
  .next ((match s.window n.toNat with
    | some w => s.dropView w
    | none => s).putWindow n.toNat v false)

/-! ## The debug block (R61, R396, R397) -/

/-- The context that DBGSEL names. -/
def State.selected (s : State) : Option Nat :=
  let v := (s.barReg 2 0).toNat
  (s.ctxs.find? (fun e => match e.2.place with
    | .gang g k => !(v.testBit 9) && g == bits v 0 8 && k == bits v 8 1
    | .landing d l _ _ => v.testBit 9 && l == bits v 10 4 && d == bits v 14 2
    | .parked _ _ => false)).map Prod.fst

/-- Act on the selected context. -/
def State.onSelected (s : State) (f : State → Nat → State) : State :=
  match s.selected with
  | some cid => f s cid
  | none => s

/-- A debug command: one to a context that is not resident is ignored, and DBGSTAT shows bit 3 while no
context is selected, until a command is taken (R397; DESIGN CHOICE, log 43: how long). -/
def State.debugCommand (s : State) (f : State → Nat → State) : State :=
  match s.selected with
  | some cid => f (s.setBar 2 0x10 0) cid
  | none => s.setBar 2 0x10 8

/-- Stop the selected context at its next boundary. -/
def State.debugHalt (s : State) : State :=
  s.debugCommand (fun t cid => if (t.ctxAt cid).dbgStop then t else (t.modCtx cid (fun c => { c with dbgStop := true, dbgBrk := false })).cause 1)

/-- Resume issue of the selected context. -/
def State.debugRun (s : State) : State :=
  s.debugCommand (fun t cid => t.modCtx cid (fun c => { c with dbgStop := false, dbgStep := false, dbgBrk := false }))

/-- Let some contexts issue one bundle each, in order. -/
def State.stepThese (s : State) (l : List Nat) (all : Bool) : State :=
  let t := l.foldl (fun u c => u.modCtx c (fun x => { x with dbgStep := true, dbgTurn := all })) s
  { t with plan := l.map Turn.issue ++ t.plan }

/-- The landings split from a context, in ascending LAND order. -/
def State.landOrder (s : State) (cid : Nat) : List Nat :=
  sortWith (fun a b => decide ((s.ctxAt a).place.land ≤ (s.ctxAt b).place.land)) (s.landingsOf cid)

/-- Step the selected context, and with `all` the landings split from it. -/
def State.debugStep (s : State) (all : Bool) : State :=
  s.debugCommand (fun t cid => if (t.ctxAt cid).dbgStop then t.stepThese (cid :: (if all then t.landOrder cid else [])) all else t)

/-- Set or clear the selected context's debug enable. -/
def State.debugEnable (s : State) (on : Bool) : State := s.debugCommand (fun t cid => t.modCtx cid (fun c => { c with dbgEn := on }))

/-- HALT. -/
def execHalt (s0 : State) : Answer :=
  let s := s0.touchBar
  .next s.debugHalt
/-- RUN. -/
def execRun (s0 : State) : Answer :=
  let s := s0.touchBar
  .next s.debugRun
/-- STEP. -/
def execStep (s0 : State) : Answer :=
  let s := s0.touchBar
  .next (s.debugStep false)
/-- STEPALL. -/
def execStepall (s0 : State) : Answer :=
  let s := s0.touchBar
  .next (s.debugStep true)
/-- DEBUG_ENABLE_SET. -/
def execDebugEnableSet (s0 : State) : Answer :=
  let s := s0.touchBar
  .next (s.debugEnable true)
/-- DEBUG_ENABLE_CLEAR. -/
def execDebugEnableClear (s0 : State) : Answer :=
  let s := s0.touchBar
  .next (s.debugEnable false)

/-! ## Register units (R356, R396) -/

/-- The registers that DBGREG numbers. -/
inductive DebugReg where
  | s (n : Nat) | f (n : Nat) | v (n : Nat) | p (n : Nat) | q (n : Nat) | z (n : Nat) | a (n : Nat) | h (n : Nat) | j (n : Nat) | g (n : Nat)
  | kcur | none
  deriving DecidableEq, Repr

/-- The register numbers of R356, which DBGREG takes (R396). -/
def debugReg (n : Nat) : DebugReg :=
  if n < 32 then .s n else if n < 40 then .f (n - 32) else if n < 64 then .none else if n < 96 then .v (n - 64) else if n < 104 then .p (n - 96)
  else if n < 112 then .q (n - 104) else if n < 120 then .z (n - 112) else if n < 124 then .a (n - 120) else if n < 132 then .h (n - 124)
  else if n < 136 then .j (n - 132) else if n < 140 then .g (n - 136) else if n = 140 then .kcur else .none

/-- Unit k of a register of a sequencer. -/
def Ctx.debugUnit (c : Ctx) (r : DebugReg) (k : Nat) : Nat :=
  match r with
  | .s n => if k = 0 then (c.sreg n).toNat else 0
  | .f n => if k = 0 then bit (c.flag n) else 0
  | .h n => if k = 0 then (c.handle n).toNat else 0
  | .j n =>
    let x := c.rejoin n
    if k = 0 then x.mask.toNat + x.waiting.toNat * 2 ^ 16 + x.base % 256 * 2 ^ 32 else if k = 1 then x.cont.toNat else 0
  | .g n =>
    let x := c.portSet n
    if k < 4 then bits x.raw.toNat (64 * k) 64
    else if k = 4 then x.i0 % 2 ^ 16 + x.i1 % 2 ^ 16 * 2 ^ 16 + x.i2 % 2 ^ 16 * 2 ^ 32 + x.i3 % 2 ^ 16 * 2 ^ 48 else 0
  | _ => 0

/-- Unit k of a register of an engine. -/
def EngCtx.debugUnit (x : EngCtx) (r : DebugReg) (k : Nat) : Nat :=
  match r with
  | .v n => bits (x.vreg n).toNat (64 * k) 64
  | .a n => bits (x.accum n).toNat (64 * k) 64
  | .p n => if k = 0 then bit (x.pred n) else 0
  | .q n => if k = 0 then (x.qreg n).toNat else 0
  | .z n => if k = 0 then (x.zreg n).toNat else 0
  | .kcur => if k = 0 then x.kcur.toNat else 0
  | _ => 0

/-- Write unit k of a register of a sequencer. -/
def Ctx.putUnit (c : Ctx) (r : DebugReg) (k : Nat) (v : Dword) : Ctx :=
  match r with
  | .s n => if k = 0 then c.putS n v else c
  | .f n => if k = 0 then c.putF n (v.getLsbD 0) else c
  | .h n => if k = 0 then c.putH n (BitVec.ofNat 32 v.toNat) else c
  | .j n =>
    let x := c.rejoin n
    if k = 0 then c.putJ n { x with mask := BitVec.ofNat 16 v.toNat, waiting := BitVec.ofNat 16 (bits v.toNat 16 16), base := bits v.toNat 32 8 }
    else if k = 1 then c.putJ n { x with cont := v } else c
  | .g n =>
    let x := c.portSet n
    if k < 4 then c.putG n { x with raw := BitVec.ofNat 256 (putBits x.raw.toNat (64 * k) 64 v.toNat) }
    else if k = 4 then c.putG n { x with i0 := bits v.toNat 0 16, i1 := bits v.toNat 16 16, i2 := bits v.toNat 32 16, i3 := bits v.toNat 48 16 }
    else c
  | _ => c

/-- Write unit k of a register of an engine. -/
def EngCtx.putUnit (x : EngCtx) (r : DebugReg) (k : Nat) (v : Dword) : EngCtx :=
  match r with
  | .v n => if k < 32 then x.putV n (BitVec.ofNat 2048 (putBits (x.vreg n).toNat (64 * k) 64 v.toNat)) else x
  | .a n => if k < 2048 then x.putA n (BitVec.ofNat 131072 (putBits (x.accum n).toNat (64 * k) 64 v.toNat)) else x
  | .p n => if k = 0 then x.putP n (v.getLsbD 0) else x
  | .q n => if k = 0 then x.putQ n v else x
  | .z n => if k = 0 then x.putZ n v else x
  | .kcur => if k = 0 then { x with kcur := kcurBits v.toNat } else x
  | _ => x

/-- DBGREG: register, eid and unit. -/
def State.debugAt (s : State) : DebugReg × Nat × Nat :=
  let v := (s.barReg 2 0x20).toNat
  (debugReg (bits v 0 16), bits v 16 4, bits v 20 12)

/-- What a read of DBGDATA answers. -/
def State.debugRead (s : State) : Dword :=
  match s.selected with
  | none => 0
  | some cid =>
    let (r, e, k) := s.debugAt
    let c := s.ctxAt cid
    BitVec.ofNat 64 (c.debugUnit r k + ((s.eng c.place.gangNo e).part c.place.engCtx).debugUnit r k)

/-- DBGDATA: a write takes effect only while the selected context is stopped. -/
def execDbgdata (v : Dword) (s0 : State) : Answer :=
  let s := s0.touchBar
  .next (s.onSelected (fun t cid =>
    let (r, e, k) := t.debugAt
    let c := t.ctxAt cid
    if c.dbgStop then (t.modCtx cid (fun x => x.putUnit r k v)).modEng c.place.gangNo e (fun x => x.setPart c.place.engCtx ((x.part c.place.engCtx).putUnit r k v))
    else t))

/-! ## Link windows (R411, R412) -/

/-- Whether an access is in flight through a window: data of a running porch program, or a held access of a context (R412). -/
def State.windowBusy (s : State) (n : Nat) : Bool :=
  s.ctxs.any (fun e => e.2.linked.any (fun x => x.2 == n && e.2.pending.contains x.1)) ||
  s.porches.any (fun e => e.2.running && e.2.ops.any KOp.met && e.2.routes.any (fun r => routeV r && !(routeSelf r) && routeWin r == n))

/-- Clear a window's EN. -/
def State.closeWindow (s : State) (n : Nat) : State :=
  let off := 0x1000 + n * 8
  s.setBar 3 off (BitVec.ofNat 64 ((s.barReg 3 off).toNat % 2 ^ 63))

/-- LWIN: while EN is set, a write only clears EN, and completes once no access is in flight through the window. -/
def execLwin (n : BitVec 10) (v : Dword) (s0 : State) : Answer :=
  let s := s0.touchBar
  let off := 0x1000 + n.toNat * 8
  .next (if (s.barReg 3 off).getLsbD 63 then
      if v.getLsbD 63 then s
      else if s.windowBusy n.toNat then s.onFleet (fun f => { f with closingWindows := n.toNat :: f.closingWindows.filter (· ≠ n.toNat) })
      else s.closeWindow n.toNat
    else
      let pkg := bits v.toNat 0 19
      let ports := bits v.toNat 20 36
      let en := v.getLsbD 63 && pkg ≠ s.pkgId && ports ≠ 0
      s.setBar 3 off (BitVec.ofNat 64 (pkg + ports * 2 ^ 20 + bit en * 2 ^ 63)))

/-! ## Expert pools (R411, R412) -/

/-- A pool is switched off: no entry names a copy in it any more. -/
def State.dropPool (s : State) (d : Nat) : State :=
  let t := (s.die d).pool.foldl (fun u e => if e.2.state = 2 then u.putRes e.2.region e.2.entry d 0 else u) s
  t.setDie d { t.die d with pool := [] }

/-- Clear a pool's EN. -/
def State.closePool (s : State) (d : Nat) : State :=
  let off := 0x48 + d * 0x10
  (s.dropPool d).setBar 3 off (BitVec.ofNat 64 ((s.barReg 3 off).toNat % 2 ^ 32))

/-- Whether a buffer of a pool is pinned. -/
def State.poolBusy (s : State) (d : Nat) : Bool := (s.die d).pool.any (fun e => decide (0 < e.2.pins))

/-- XPCTL: while EN is set, a write can only clear EN, which waits until no buffer is pinned. -/
def execXpctl (die : BitVec 2) (v : Dword) (s0 : State) : Answer :=
  let s := s0.touchBar
  let off := 0x48 + die.toNat * 0x10
  .next (if (s.barReg 3 off).getLsbD 32 then
      if v.getLsbD 32 then s
      else if s.poolBusy die.toNat then s.onFleet (fun f => { f with closingPools := die.toNat :: f.closingPools.filter (· ≠ die.toNat) })
      else s.closePool die.toNat
    else s.setBar 3 off (BitVec.ofNat 64 (v.toNat % 2 ^ 33)))

/-- Windows and pools that were being switched off and are in use no more (R412). -/
def State.closeIdle (s : State) : State :=
  let f := s.fleet
  if f.closingWindows.isEmpty && f.closingPools.isEmpty then s
  else
    let wins := f.closingWindows.filter (fun n => !(s.windowBusy n))
    let pools := f.closingPools.filter (fun d => !(s.poolBusy d))
    pools.foldl State.closePool (wins.foldl State.closeWindow
      (s.onFleet (fun g => { g with closingWindows := g.closingWindows.filter (fun n => !(wins.contains n)), closingPools := g.closingPools.filter (fun d => !(pools.contains d)) })))

/-! ## The cellar's control (R417, R418) -/

/-- CNSk: the namespace id on a controller. -/
def State.namespaceOf (s : State) (k : Nat) : Nat := bits (s.barReg 4 (0x40 + k * 8)).toNat 0 32

/-- Size of the namespace named on a controller; 0 where none is named or its format is unusable. -/
def State.namespaceLbas (s : State) (k : Nat) : Nat := if s.namespaceOf k = 0 then 0 else Config.controllerLbas k (s.namespaceOf k)

/-- The controllers that the boot block takes: named by CNSk, with a namespace of a format it can use. -/
def State.findControllers (s : State) : List Nat := (List.range 8).filter (fun k => s.namespaceLbas k ≠ 0)

/-- The smallest namespace of those controllers, in LBAs. -/
def State.leastLbas (s : State) : Nat := (minList (s.findControllers.map s.namespaceLbas)).getD 0

/-- The 17 queue pairs of a controller: four for each compute die, and one for the checkpoint. -/
def queuePairs (k : Nat) : List QueuePair :=
  ((List.range Config.dies).flatMap (fun d => List.replicate 4 ⟨k, some d⟩)) ++ [⟨k, none⟩]

/-- STCTL: setting EN sets the queues up, and then READY. -/
def execStctl (v : Dword) (s0 : State) : Answer :=
  let s := s0.touchBar
  let was := (s.barReg 4 0).getLsbD 0
  let t := s.setBar 4 0 (BitVec.ofNat 64 (v.toNat % 2))
  .next (if v.getLsbD 0 = was then t
    else if v.getLsbD 0 then t.onCellar (fun c => { c with
      ctrls := s.findControllers, spaces := s.findControllers.map s.namespaceOf, queues := s.findControllers.flatMap queuePairs
      lbas := s.leastLbas, out := [], fails := [], ready := true })
    else t.onCellar (fun c => { c with ready := false }))

end Sys2Proof.Machine
end

