-- ==== Sys2Proof/Machine/Fleet.lean ====
section
/-!
DEFINITION. Power, current, clocks, sparing, errors, boot, keys, telemetry, and memory operations from other packages
(R57, R99, R102, R429 to R443).
-/
namespace Sys2Proof.Machine

/-! ## Power states (R429, R430) -/

/-- LTOL in ns. -/
def State.ltol (s : State) : Nat := bits (s.barReg 5 0).toNat 0 32

/-- The enabled gangs of a die. -/
def State.gangsOn (s : State) (d : Nat) : List Nat :=
  ((List.range Config.gangsPerDie).map (fun i => d * Config.gangsPerDie + i)).filter (fun g => !((s.die d).isVacant (g % Config.gangsPerDie)))

/-- Whether a gang has a resident context or lent engines. -/
def State.gangBusy (s : State) (g : Nat) : Bool := s.ctxs.any (fun e => e.2.place.resident && e.2.place.gangNo == g)

/-- The wake times that fall to a die: bin timers, PARK wake times and deadlines of items filed or parked there. -/
def State.wakeTimes (s : State) (d : Nat) : List Nat :=
  let dead (region addr : Nat) : List Nat := match s.flatRecord ⟨region, d⟩ addr 8 with
    | some r => if (r.getD 6 0) = 0 then [] else [(r.getD 6 0).toNat]
    | none => []
  (s.die d).bins.flatMap (fun e => if e.2.items.isEmpty then [] else
    (if e.2.due then [] else [e.2.since + (s.region e.2.region).timer]) ++ e.2.items.flatMap (fun i => dead e.2.region i.addr.toNat)) ++
  s.ctxs.flatMap (fun e => match e.2.place with
    | .parked p _ => if p = d then (if e.2.wakeAt = 0 then [] else [e.2.wakeAt]) ++
        (e.2.items.map (fun i => i.2.deadline)).filter (fun t => t ≠ 0) else []
    | _ => [])

/-- Whether no wake time of a die is nearer than an exit latency. -/
def State.farWake (s : State) (d exit : Nat) : Bool := (s.wakeTimes d).all (fun t => decide (s.time + exit ≤ t))

/-- What gang-idle loses: scratchpad and operand store of each engine (log 3). -/
def State.loseGang (s : State) (g : Nat) : State :=
  (List.range 16).foldl (fun t e => t.modEng g e (fun x => { x with spad := [], slots := [], lost := s.free + 1 })) s

/-- ENTER_GANG_IDLE. -/
def execEnterGangIdle (gang : Nat) (s : State) : Answer :=
  let d := gang / Config.gangsPerDie
  .next (if 2000 ≤ s.ltol && (s.gangsOn d).contains gang && decide (d < Config.dies) && !(s.gangBusy gang) && !((s.die d).gangIdle.contains gang) && s.farWake d 2000 then
    let t := s.loseGang gang
    t.setDie d { t.die d with gangIdle := gang :: (t.die d).gangIdle }
  else s)

/-- Whether a copy, a walk or a storage command of a die is in flight. -/
def State.dieBusy (s : State) (d : Nat) : Bool :=
  s.ops.any (fun e => (s.ctxAt e.2.cid).place.die == d && e.2.parts.any Part.works) ||
  s.cellar.reqs.any (fun e => e.2.phase ≠ 1 && dieOfPa e.2.frame == d)

/-- ENTER_DIE_RETENTION: the die writes back its dirty lines, and its pantry is empty. -/
def execEnterDieRetention (die : Nat) (s : State) : Answer :=
  let x := s.die die
  .next (if 200000 ≤ s.ltol && decide (die < Config.dies) && x.power ≠ 2 && (s.gangsOn die).all x.gangIdle.contains &&
      x.bins.all (fun e => e.2.items.isEmpty) && !(s.dieBusy die) && s.farWake die 200000 then
    ((s.pantryOf die).foldl State.dropLine s).setDie die { x with power := 2 }
  else s)

/-- ENTER_PACKAGE_STANDBY. -/
def execEnterPackageStandby (s : State) : Answer :=
  .next (if 5000000 ≤ s.ltol && !s.fleet.standby && (List.range Config.dies).all (fun d => (s.die d).power == 2 && s.farWake d 5000000) &&
      s.porches.all (fun e => !e.2.running) && s.channels.all (fun e => e.2.streams.all (fun x => x.2.isEmpty)) &&
      decide (s.fleet.lastBar + 1000000 ≤ s.time) && s.launching.isNone then
    s.onFleet (fun f => { f with standby := true })
  else s)

/-- WAKE: a unit leaves its sleep, and what holds it with it. -/
def execWake (u : PowerUnit) (s : State) : Answer :=
  .next (match u with
    | .gang g => if g < Config.gangs then s.wakeGang g else s
    | .die d => if d < Config.dies then s.wakeDie d else s
    | .package => s.rouse)

/-- Dies that sleep wake when a wake time that falls to them is reached (R430). -/
def State.wakeDue (s : State) : State :=
  (List.range Config.dies).foldl (fun t d =>
    if ((t.die d).power ≠ 0 || t.fleet.standby) && (t.wakeTimes d).any (fun w => decide (w ≤ t.time)) then t.wakeDie d else t) s

/-- A write of LTOL: a unit leaves a state whose exit latency is longer than it now tolerates (R430). -/
def State.setLtol (s : State) (v : Dword) : State :=
  let t := s.setBar 5 0 (BitVec.ofNat 64 (bits v.toNat 0 32))
  let u := (if t.ltol < 5000000 then t.rouse else t)
  u.mapDies (fun d => { d with
    power := if u.ltol < 200000 then 0 else d.power, gangIdle := if u.ltol < 2000 then [] else d.gangIdle })

/-- State of a die as PSTAT shows it. -/
def State.diePower (s : State) (d : Nat) : Nat :=
  if (s.die d).power = 2 then 2 else if (s.gangsOn d).all (s.die d).gangIdle.contains then 1 else 0

/-- PSTAT. -/
def State.pstat (s : State) : Nat :=
  let l := (List.range Config.dies).map s.diePower
  (if s.fleet.standby then 3 else (minList l).getD 0) + (packBits 2 4 (fun d => l.getD d 0)) * 4

/-! ## Current and clock (R431 to R433) -/

/-- T of R431, in A. -/
def State.intervalTotal (s : State) : Nat :=
  min 4000 ((bits (s.barReg 5 0x10).toNat 0 12 - Config.otherPower s.free) * 1000 / max 1 (Config.railMillivolts s.free))

/-- The regions that a gang's contexts count against, each with half a grant where two contexts stand on the gang. -/
def State.grantRegions (s : State) (g : Nat) : List (Nat × Nat) :=
  let l := (s.ctxs.filter (fun e => match e.2.place with | .gang x _ => x == g | _ => false)).map (fun e => e.2.region)
  l.flatMap (fun r => (s.lineage r).map (fun a => (a, if l.length = 2 then 1 else 2)))

/-- What a gang receives, in A, of what regions have left (in half amperes): the grants are given in gang order. -/
def grantOne (want : Nat) (regs : List (Nat × Nat)) (left : Table Nat) : Nat × Table Nat :=
  let g := regs.foldl (fun a x =>
    let share := (regs.filter (fun y => y.1 == x.1)).foldl (fun n y => n + y.2) 0
    min a (tableGet left x.1 0 / max 1 share)) want
  (g, regs.foldl (fun t x => tableInsert t x.1 (tableGet t x.1 0 - g * x.2)) left)

/-- The grants of an interval: first 6 A to every gang with a resident context, then the rest in proportion to demand, never more than any
AMPS (R431). -/
def State.grants (s : State) : Table Nat :=
  let gs := (List.range Config.gangs).filter (fun g => !((s.grantRegions g).isEmpty))
  let rest := s.intervalTotal - 6 * gs.length
  let all := gs.foldl (fun a g => a + Config.gangDemand s.free g) 0
  let give (want : Nat → Nat) (a : Table Nat × Table Nat) : Table Nat × Table Nat :=
    gs.foldl (fun (b : Table Nat × Table Nat) g =>
      let (x, l) := grantOne (want g) (s.grantRegions g) b.2
      (tableInsert b.1 g (tableGet b.1 g 0 + x), l)) a
  (give (fun g => rest * Config.gangDemand s.free g / max 1 all) (give (fun _ => 6) ([], s.regions.map (fun e => (e.1, e.2.amps * 2))))).1

/-- CURRENT_GRANT: the grants of the next interval; they change only timing. -/
def execCurrentGrant (s : State) : Answer :=
  let g := s.grants
  let t := (List.range Config.dies).foldl (fun u d => u.setDie d { u.die d with grants := g.filter (fun e => decide (e.1 / Config.gangsPerDie = d)) }) s
  .next (t.onFleet (fun f => { f with grant := g.foldl (fun a e => a + e.2) 0 }))

/-- Run a die at a clock from now on. -/
def State.setClock (s : State) (d mhz : Nat) : State :=
  s.setDie d { s.die d with clkBase := s.cycleOf d, clkSince := s.now, clkMhz := mhz }

/-- TTCTL: the die changes its clock; the clock field is clamped. -/
def execTtctl (die : BitVec 2) (v : Dword) (s0 : State) : Answer :=
  let s := s0.touchBar
  let mhz := min 1550 (max 1300 (bits v.toNat 16 11))
  .next ((s.setBar 5 (0x20 + die.toNat * 8) (BitVec.ofNat 64 (bit (v.getLsbD 0) + mhz * 2 ^ 16))).setClock die.toNat (if v.getLsbD 0 then mhz else 1300))

/-- TDOM: the package joins or leaves a timed domain. -/
def execTdom (v : Dword) (s0 : State) : Answer :=
  let s := s0.touchBar
  .next (s.setBar 5 0x40 (BitVec.ofNat 64 (v.toNat % 2 ^ 17)))

/-! ## Counters and errors (R437, R443) -/

/-- A counter as it reads: package counter 0 is package time. -/
def State.counter (s : State) (die : Option Nat) (i : Nat) : Dword :=
  if die.isNone && i == 0 then BitVec.ofNat 64 s.time else s.barReg 6 (counterOff die i)

/-- TSNAP: every counter goes to its snapshot. -/
def execTsnap (_ : Dword) (s0 : State) : Answer :=
  let s := s0.touchBar
  .next (([none, some 0, some 1, some 2, some 3] : List (Option Nat)).foldl (fun t d =>
    (List.range 8).foldl (fun u i => u.setBar 6 (0x800 + counterOff d i) (s.counter d i)) t) s)

/-- Write an error record (R437). -/
def State.errorRecord (s : State) (unit src kind die domain n : Nat) : State :=
  let cfg := (s.barReg 6 0x10).toNat
  let lg := bits cfg 0 5
  let base := bits (s.barReg 6 0x08).toNat 12 40 * 4096
  let head := (s.barReg 6 0x18).toNat
  let fill := wrapInt 64 ((head : Int) - (s.barReg 6 0x20).toNat)
  if lg < 4 ∨ 16 < lg then s
  else if fill = 2 ^ lg then s.setBar 6 0x28 (s.barReg 6 0x28 + 1)
  else
    let t := s.physWrite noKey (base + head % 2 ^ lg * 32)
      (leBytes 8 s.time ++ leBytes 8 unit ++ leBytes 8 (src + kind * 2 ^ 8 + die * 2 ^ 16 + domain * 2 ^ 24 + n * 2 ^ 32) ++ leBytes 8 0)
    let u := t.setBar 6 0x18 (BitVec.ofNat 64 (head + 1))
    if fill = 0 ∧ bits cfg 8 8 ≠ 0 then { u with outbox := u.outbox ++ [.interrupt (bits cfg 8 8)] } else u

/-! ## Retiring a gang (R436) -/

/-- A gang that is being retired and holds no context any more is replaced by a spare, which takes over its logical number, or that number stays
vacant (R10, R12). -/
def State.swapGang (s : State) (g : Nat) : State :=
  let d := g / Config.gangsPerDie
  let x := s.die d
  if !(x.retiring.contains g) || s.gangBusy g then s
  else
    let l := g % Config.gangsPerDie
    let y : Die := { x with
      retiring := x.retiring.filter (fun z => z ≠ g), retired := x.slotOf l :: x.retired, gangIdle := x.gangIdle.filter (fun z => z ≠ g)
      slots := match x.spareSlots.head? with
        | some n => tableSet x.slots l n l
        | none => x.slots }
    (List.range 16).foldl (fun t e => t.setEng g e { engReset e with lost := s.free + 1 }) { s.setDie d y with seqs := tableErase s.seqs g }

/-- Every gang whose retirement can end. -/
def State.swapGangs (s : State) : State := s.dies.foldl (fun t e => e.2.retiring.foldl (fun u g => u.swapGang g) t) s

/-- Retire a gang: its contexts are chosen for pre-emption, and none starts on it any more. -/
def State.retireGang (s : State) (g : Nat) : State :=
  let d := g / Config.gangsPerDie
  let x := s.die d
  if Config.gangs ≤ g || x.isVacant (g % Config.gangsPerDie) || x.retiring.contains g then s
  else
    let here := (s.ctxs.filter (fun e => match e.2.place with | .gang y _ => y == g | _ => false)).map Prod.fst
    (((s.setDie d { x with retiring := g :: x.retiring }).preemptAll here).errorRecord g 1 4 d 0xFF 1).swapGang g

/-- GRET: a write without the key is ignored. -/
def execGret (v : Dword) (s0 : State) : Answer :=
  let s := s0.touchBar
  .next (if bits v.toNat 8 8 = 0xA5 then s.retireGang (bits v.toNat 0 8) else s)

/-- GANG_ERROR_RETIRE: 64 corrected errors within one second. -/
def execGangErrorRetire (gang : Nat) (s : State) : Answer := .next ((s.count none 7 64).retireGang gang)

/-! ## Sparing (R436) -/

/-- HBM stacks of the package (R8). -/
def hbmStacks : Nat := 12

/-- HBM_CHANNEL_SPARE: a channel is copied to one of the two spares of its stack. -/
def execHbmChannelSpare (stack channel : Nat) (s : State) : Answer :=
  let used := tableGet s.fleet.hbmSpare stack 0
  .next (if hbmStacks ≤ stack || 32 ≤ channel || 2 ≤ used || (tableFind s.fleet.copying (stack * 32 + channel)).isSome then s
    else ((s.count none 7 256).onFleet (fun f => { f with
      hbmSpare := tableInsert f.hbmSpare stack (used + 1), copying := tableInsert f.copying (stack * 32 + channel) 1 })).errorRecord
      (stack * 32 + channel) 4 3 (stack / 3) 0xFF 256)

/-- HBM_SPARE_COPY_DONE: the copy ends; no byte of HBM has changed. -/
def execHbmSpareCopyDone (stack channel : Nat) (s : State) : Answer :=
  .next (s.onFleet (fun f => { f with copying := tableErase f.copying (stack * 32 + channel) }))

/-- LANE_FAILURE: the spare lane takes over; a second failure takes the port down, and the programs routed over it stop (R339). -/
def execLaneFailure (port : Nat) (s : State) : Answer :=
  let x := s.linkPort port
  .next (if linkPorts ≤ port || x.down then s
    else if x.spared then
      let t := (s.onFleet (fun f => { f with links := tableInsert f.links port { x with down := true } })).errorRecord port 6 5 0xFF 0xFF 1
      (((s.porches.filter (fun e => e.2.running && e.2.routes.any (fun r => s.routeUses r port))).map Prod.fst).foldl (fun u q => u.stopPorch q 6) t)
    else (s.onFleet (fun f => { f with links := tableInsert f.links port { x with spared := true } })).errorRecord port 6 3 0xFF 0xFF 1)

/-- FLIT_REPLAY: a flit is replayed and counted (R443). -/
def execFlitReplay (port : Nat) (s : State) : Answer := .next (if port < linkPorts then s.count none 4 1 else s)

/-- SCRUB: every corrected error is written back corrected, so no value changes (R434). How many it corrects lies below the model (log 3); where
there are any, they are counted and one record tells of them. -/
def execScrub (s : State) : Answer :=
  let n := Config.freeBits s.free (2 ^ 55 + 3) % 2 ^ 32
  .next (if n = 0 then s
    else (s.count none 7 n).errorRecord (Config.freeBits s.free (2 ^ 55)) (1 + Config.freeBits s.free (2 ^ 55 + 1) % 7) 1
      (Config.freeBits s.free (2 ^ 55 + 2) % 4) 0xFF n)

/-! ## Uncorrectable errors (R57, R435) -/

/-- The items of a domain that no context runs: those in bins, those that wait for one and those of a launch under way. -/
def State.filedItems (s : State) (dom : Nat) : List (Nat × Nat × Dword) :=
  s.dies.flatMap (fun e =>
    (e.2.bins.filter (fun b => decide ((s.region b.2.region).domain = dom))).flatMap (fun b => b.2.items.map (fun i => (e.1, b.2.region, i.addr))) ++
    (e.2.waiting.filter (fun w => w.cid == 0 && decide ((s.region w.region).domain = dom))).map (fun w => (e.1, w.region, w.addr))) ++
    s.unfiled.filter (fun x => decide ((s.region x.2.1).domain = dom))

/-- Take a domain's filed items out of the bins, the queues and the launch under way. -/
def State.dropFiled (s : State) (dom : Nat) : State :=
  let out (r : Nat) : Bool := decide ((s.region r).domain = dom)
  let t := s.dies.foldl (fun u e => e.2.bins.foldl (fun v b => match b.2.pin with
    | some i => if out b.2.region then v.unpinBuf e.1 i else v
    | none => v) u) s
  let stays (x : Nat × Dword) : Bool := match s.flatRecord ⟨x.1, 0⟩ x.2.toNat 8 with
    | some r => !(out (itemRegion r))
    | none => true
  let u := t.mapDies (fun d => { d with
    bins := d.bins.filter (fun b => !(out b.2.region)), waiting := d.waiting.filter (fun w => !(w.cid == 0 && out w.region)) })
  let pinned := (s.dies.filter (fun e => e.2.bins.any (fun b => b.2.pin.isSome && out b.2.region))).map Prod.fst
  pinned.foldl State.binsTake { u with launching := u.launching.map (fun w => { w with items := w.items.filter stays }) }

/-- Abort the items of a gang context that belong to a fault domain, each by its own region (R33, R57); with none left the context ends, as when
all of it is aborted. -/
def State.abortWithin (s : State) (o dom : Nat) : State :=
  let c := s.ctxAt o
  let hit (r : Nat) : Bool := decide ((s.region r).domain = dom)
  let m : Mask := ofEngineBits (fun e => (tableFind c.items e).any (fun it => hit it.region))
  let s0 := s.abortFinishing o rECC (fun i => hit i.region)
  if c.items.all (fun e => hit e.2.region) && (!c.items.isEmpty || hit c.region) then s0.abortContext o rECC
  else if m = 0 then s0
  else
    let s1 := (((s0.ops.filter (fun e => e.2.cid == o)).map Prod.fst).foldl (fun t id => t.cancelParts id m false) { s0 with focus := o })
    let s2 := (({ s1 with focus := s0.focus } : State).dropRecvs o m |>.endItems o m stABORTED rECC (fun _ => 0)).dropEngines o m
    (s.sidesOf o).foldl (fun t k =>
      let x := t.ctxAt k
      if (s.ctxAt k).active ≠ 0 && x.active = 0 && x.place.resident && !x.sup && x.wait == .none then t.seekOn k x.pc else t) s2

/-- Abort a fault domain: its programs stop with KILL and every item of it becomes ABORTED with ECC. -/
def State.abortDomain (s : State) (dom : Nat) : State :=
  let porches := (s.porches.filter (fun e => e.2.running && decide ((s.region e.2.region).domain = dom))).map Prod.fst
  let s1 := porches.foldl (fun t q => t.stopPorch q 0x0A) s
  let ctxs := (s1.ctxs.filter (fun e => !e.2.isLanding)).map Prod.fst
  let s2 := ctxs.foldl (fun t c => if (tableFind t.ctxs c).isSome then t.abortWithin c dom else t) s1
  let items := s2.filedItems dom
  items.foldl (fun t x => match t.flatRecord ⟨x.2.1, x.1⟩ x.2.2.toNat 8 with
    | some r => t.endItem x.1 (runItemOf x.2.2.toNat r) 0 0 stABORTED rECC 0
    | none => t) (s2.dropFiled dom)

/-- Where an uncorrectable error lies: the unit or the address, the source, the die (R437). -/
structure ErrorAt where
  unit : Nat
  src  : Nat
  die  : Nat
  deriving DecidableEq, Repr

/-- An error in an HBM word. -/
def ErrorAt.hbm (pa : Nat) : ErrorAt := ⟨pa, 4, dieOfPa pa⟩

/-- An error in the hall's tables. -/
def ErrorAt.hall (unit : Nat) : ErrorAt := ⟨unit, 5, 0xFF⟩

/-- Where an error lies that a reader of HBM meets on its way, when the event does not say: in HBM, or in the pantry of the address (log 3). -/
def State.errorOnRead (s : State) : ErrorAt :=
  let pa := Config.freeBits s.free (2 ^ 55) % Config.hbmBytes
  ⟨pa, 3 + Config.freeBits s.free (2 ^ 55 + 1) % 2, dieOfPa pa⟩

/-- The record of an uncorrectable error. -/
def State.eccRecord (s : State) (x : ErrorAt) (domain : Nat) : State := s.errorRecord x.unit x.src 2 x.die domain 1

/-- An error that ends the work of a region's domain. -/
def State.eccRegion (s : State) (x : ErrorAt) (region : Nat) : State :=
  (s.abortDomain (s.region region).domain).eccRecord x (s.region region).domain

/-- The HBM word of an address stays uncorrectable until a write replaces it. -/
def State.spoil (s : State) (pa : Nat) : State :=
  s.onFleet (fun f => { f with badWords := pa / 32 * 32 :: f.badWords.filter (fun w => w ≠ pa / 32 * 32) })

/-- What an uncorrectable error ends, by who has met it and where it lies (R435). One in a memory of a gang retires the gang too (R436). -/
def State.uncorrectable (s : State) (v : EccVictim) (x : ErrorAt) : State :=
  match v with
  | .context cid => if (tableFind s.ctxs cid).isSome then s.eccRegion x (s.ctxAt cid).region else s
  | .engine cid => if (tableFind s.ctxs cid).isSome then (s.eccRegion x (s.ctxAt cid).region).retireGang (s.ctxAt cid).place.gangNo else s
  | .porch q => if (s.porch q).running then (s.stopPorch q 0x0A).eccRegion x (s.porch q).region else s
  | .record r => if (tableFind s.regions r).isSome then s.eccRegion x r else s.eccRecord x 0xFF
  | .barRead => ({ s with outbox := s.outbox ++ [.completerAbort] } : State).eccRecord x 0xFF
  | .group gid =>
    let g := s.groupAt gid
    if g.state = .free then s
    else
      let t := s.eccRegion x g.region
      if (t.groupAt gid).state = .free then t else t.setGroup gid { inc := nextInc (t.groupAt gid).inc }
  | .channel ch => match tableFind s.channels ch with
    | some c => let t := s.eccRegion x c.region
      { t with channels := tableErase t.channels ch }
    | none => s
  | .porchSlot q =>
    let p := s.porch q
    if p.loaded then
      let t := s.eccRegion x p.home
      (t.stopPorch q 0x0A).setPorch q { inc := nextInc p.inc }
    else s
  | .hallState => ((s.setBar 0 0x08 (s.barReg 0 0x08 ||| 2)).cause 2).eccRecord x 0xFF
  | .scrub => s.eccRecord x 0xFF
  | .word pa => if pa < Config.hbmBytes then (s.spoil pa).eccRecord x 0xFF else s

/-- Where the error of an event lies, as far as R437 and the one who met it say; the rest is a free value (log 3). -/
def State.errorAt (s : State) (v : EccVictim) : ErrorAt :=
  let n := Config.freeBits s.free (2 ^ 55)
  match v with
  | .context cid => { s.errorOnRead with die := if s.errorOnRead.src = 4 then s.errorOnRead.die else (s.ctxAt cid).place.die }
  | .engine cid => ⟨(s.ctxAt cid).place.gangNo * 16 + n % 16, 1 + Config.freeBits s.free (2 ^ 55 + 1) % 2, (s.ctxAt cid).place.die⟩
  | .porch _ => s.errorOnRead
  | .record _ => s.errorOnRead
  | .barRead => s.errorOnRead
  | .group gid => .hall gid
  | .channel ch => .hall ch
  | .porchSlot q => .hall q
  | .hallState => .hall n
  | .scrub => ⟨n, 1 + Config.freeBits s.free (2 ^ 55 + 1) % 7, Config.freeBits s.free (2 ^ 55 + 2) % 4⟩
  | .word pa => .hbm (pa / 32 * 32)

/-- ECC_UNCORRECTABLE. -/
def execEccUncorrectable (v : EccVictim) (s : State) : Answer := .next (s.uncorrectable v (s.errorAt v))

/-- The reads of the step that have met a word that stays uncorrectable raise its error again (R435). -/
def State.raiseMet (s : State) : State :=
  if s.fleet.met.isEmpty then s
  else s.fleet.met.foldl (fun t e => t.uncorrectable e.1 (.hbm e.2)) (s.onFleet (fun f => { f with met := [] }))

/-! ## Boot, attestation and keys (R438 to R441) -/

/-- HBM as the boot block reads it, under no key (R438, log 8). -/
def State.hbmImage (s : State) : List Host.Cell := s.mem.map (fun e => (e.1, s.hbmByte noKey e.1))

/-- Run the checks of R438 on an image, the boot flash's or what HBM holds: SECSTAT takes the outcome, and what is accepted fills the walk
stores (R398) and is measured (R440). -/
def State.bootCheck (s : State) (image : Option (List Host.Cell)) : State :=
  let (n, ver, sum) := Config.imageCheck image
  let code := n % 5
  let t := s.setBar 7 0 (BitVec.ofNat 64 (bit (code == 0) + code * 2 ^ 8 + ver.toNat * 2 ^ 16))
  if code ≠ 0 then t
  else
    let u := t.onFleet (fun f => { f with verified := true, measured := sum })
    let w : WalkStore := match image with
      | none => .flash
      | some m => .image m
    (List.range Config.dies).foldl (fun v d => v.setDie d { v.die d with walk := w }) u

/-- BOOT: at reset, once. -/
def execBoot (s : State) : Answer := .next (if s.barReg 7 0 = 0 && !s.fleet.verified then s.bootCheck none else s)

/-- BOOTIMG: a write of 1 repeats the checks on the image at HBM address 0; ignored once verified. -/
def execBootimg (v : Dword) (s0 : State) : Answer :=
  let s := s0.touchBar
  .next (if v = 1 && !s.fleet.verified then s.bootCheck (some s.hbmImage) else s)

/-- The loaded keys as a report names them: the slot, and the id of each live region that uses it, or none (log 8). -/
def State.keyWords (s : State) : List Dword :=
  s.fleet.keys.flatMap (fun e =>
    let rs := s.regions.filter (fun r => r.2.keyslot == e.1)
    if rs.isEmpty then [BitVec.ofNat 64 (e.1 + 0xFFFF * 2 ^ 8)] else rs.map (fun r => BitVec.ofNat 64 (e.1 + r.1 * 2 ^ 8)))

/-- What an attestation report holds (R440). -/
def State.reportWords (s : State) : List Dword :=
  (List.range 6).map (fun i => s.barReg 7 (0x10 + i * 8)) ++ (List.range 6).map (fun i => BitVec.ofNat 64 (bits s.fleet.measured.toNat (64 * i) 64)) ++
  [BitVec.ofNat 64 (bits (s.barReg 7 0).toNat 16 16)] ++
  ((List.range Config.dies).flatMap (fun d => [BitVec.ofNat 64 (packBits 1 gangSlots (fun i => bit ((s.die d).enabledSlots.contains i))),
    BitVec.ofNat 64 (packBits 1 gangSlots (fun i => bit ((s.die d).retired.contains i)))])) ++ s.keyWords

/-- ATTREQ: the report goes to its buffer, padded with zeros to 4 KiB. -/
def execAttreq (v : Dword) (s0 : State) : Answer :=
  let s := s0.touchBar
  let r := (Config.attestation s.reportWords ++ List.replicate 4096 0).take 4096
  .next ((s.physWrite noKey (bits v.toNat 12 40 * 4096) r).setBar 7 0x48 1)

/-- KEYLD: a slot takes the keys of a blob, or is erased by one whose wrapped part is zero; a slot of a live region stays. -/
def execKeyld (v : Dword) (s0 : State) : Answer :=
  let at_ := bits v.toNat 8 44 * 256
  let s := s0.touchBar.reads .scrub noKey at_ 256
  let slot := bits v.toNat 0 7
  let blob := s0.physRead noKey at_ 256
  let done (t : State) (code : Nat) : State := t.setBar 7 0x88 (BitVec.ofNat 64 (code * 2 ^ 8))
  .next (if s.regions.any (fun e => e.2.keyslot == slot) then done s 2
    else if ((blob.drop 96).take 72).all (fun b => b == 0) then done (s.onFleet (fun f => { f with keys := tableErase f.keys slot })) 0
    else match Config.unwrapKey blob slot with
      | some k => done (s.onFleet (fun f => { f with keys := tableInsert f.keys slot k })) 0
      | none => done s 1)

/-! ## Memory operations from other packages (R99, R102, R103) -/

/-- Whether an address has its home in this package. -/
def isHome (pa : Nat) : Bool := paKind pa == .hbm || paKind pa == .view

/-- Answer another package. -/
def State.linkAnswer (s : State) (data : List Byte) : State :=
  ({ s with outbox := s.outbox ++ [.linkReply data] } : State).count none 2 data.length

/-- An atomic update for another package: the old value goes back. -/
def State.linkUpdate (s : State) (pa n : Nat) (f : Nat → Nat) : State :=
  let old := s.physValue noKey pa n
  ((s.reads .scrub noKey pa n).physWrite noKey pa (leBytes n (f old))).linkAnswer (leBytes n old)

/-- An arrival over a link wakes the package, and the die of the address it names in HBM (R430); the bytes it brings count (R443). -/
def State.linkWakes (s : State) (op : LinkOp) : State :=
  let at_ (pa n : Nat) : State := (if pa < Config.hbmBytes then s.wakeDie (dieOfPa pa) else s.rouse).count none 3 n
  match op with
  | .read pa _ => at_ pa 0
  | .write pa bs => at_ pa bs.length
  | .atomic pa dw _ _ => at_ pa (if dw then 8 else 4)
  | .cas pa dw _ _ => at_ pa (if dw then 16 else 8)

/-- LINK_MEMORY_ARRIVAL: the operation is performed at its home, under no key (log 8); atomics only in HBM (R87). -/
def execLinkMemoryArrival (op : LinkOp) (s0 : State) : Answer :=
  let s := s0.linkWakes op
  .next (match op with
    | .read pa n => if isHome pa then (s.reads .scrub noKey pa n).linkAnswer (s.physRead noKey pa n) else s
    | .write pa bs => if isHome pa then s.physWrite noKey pa bs else s
    | .atomic pa dw o v =>
      let n := if dw then 8 else 4
      if paKind pa = .hbm then s.linkUpdate pa n (fun x => atomOp o (8 * n) x (bits v.toNat 0 (8 * n))) else s
    | .cas pa dw c v =>
      let n := if dw then 8 else 4
      if paKind pa = .hbm then s.linkUpdate pa n (fun x => if x = bits c.toNat 0 (8 * n) then bits v.toNat 0 (8 * n) else x) else s)

end Sys2Proof.Machine
end

