-- ==== Sys2Proof/Machine/Regs.lean ====
section
/-!
DEFINITION. The control registers of BAR0: what a read shows, what a write does, and the reset of the package
(R5, R6, R375 to R378, R386, R396, R411, R417, R429, R437, R439, R444).
-/
namespace Sys2Proof.Machine

/-! ## Reads -/

/-- BAR0 offset of the block of a capability (R375), and its size in 4 KiB units (R411; one where no rule says). -/
def capBase (cap : Nat) : Nat := if cap = 1 then 0x2000 else if cap = 2 then 0x10000 else Config.capBlock cap
def capUnits (cap : Nat) : Nat := if cap = 3 then 3 else 1

/-- Bytes of a block that hold registers: R375 bounds those of capabilities 1 and 2. -/
def capBytes (cap : Nat) : Nat := if cap = 1 then 0x200 else if cap = 2 then 0x100 else capUnits cap * 4096

/-- The block that a BAR0 offset reaches, and the offset within it; block 0 holds the global registers and the capability list (R375). -/
def barBlock (o : Nat) : Option (Nat × Nat) :=
  if o < 0x1000 then some (0, o)
  else ([1, 2, 3, 4, 5, 6, 7].find? (fun c => capBase c ≤ o && o < capBase c + capBytes c)).map (fun c => (c, o - capBase c))

/-- A dword of the capability list (R377, R378): dword 0 or 1 of header i. -/
def capHeader (i half : Nat) : Dword :=
  if 7 ≤ i then 0
  else if half = 0 then
    BitVec.ofNat 64 (i + 1 + (Config.capVersion (i + 1)).toNat * 2 ^ 16 + 2 ^ 24 + (if i = 6 then 0 else 0x800 + 16 * (i + 1)) * 2 ^ 32)
  else BitVec.ofNat 64 (capBase (i + 1) % 2 ^ 32 + capUnits (i + 1) * 2 ^ 32)

/-- Registers that read as zero because they are only written (R6). -/
def writeOnly (cap off : Nat) : Bool :=
  match cap with
  | 0 => off == 0x18 || off == 0x58 || off == 0x68
  | 2 => off == 0x08
  | 4 => off == 0x80
  | 6 => off == 0x00 || off == 0x30
  | 7 => off == 0x08 || off == 0x40 || off == 0x80
  | _ => false

/-- DBGSTAT (R396, R397). -/
def State.dbgStat (s : State) : Nat :=
  match s.selected with
  | some cid =>
    let c := s.ctxAt cid
    bit c.dbgStop + bit c.dbgEn * 2 + bit c.dbgBrk * 4
  | none => (s.barReg 2 0x10).toNat

/-- What a host read of a register answers; block 0 holds the global registers and the capability list. -/
def State.barRead (s : State) (cap off : Nat) : Dword :=
  if writeOnly cap off then 0
  else match cap, off with
    | 0, 0x00 => BitVec.ofNat 64 ((Config.stepping).toNat * 2 ^ 8 + 0x4280 * 2 ^ 16 + (Config.vendorId).toNat * 2 ^ 32)
    | 0, 0x08 => BitVec.ofNat 64 (bit s.fleet.verified) ||| s.barReg 0 0x08 ||| BitVec.ofNat 64 (bit s.launching.isSome * 4)
    | 0, 0x10 => BitVec.ofNat 64 s.time
    | 2, 0x10 => BitVec.ofNat 64 s.dbgStat
    | 2, 0x18 => match s.selected with
      | some cid => BitVec.ofNat 64 (s.ctxAt cid).pc
      | none => 0
    | 2, 0x28 => s.debugRead
    | 4, 0x08 => BitVec.ofNat 64 (s.cellar.ctrls.length + bit s.cellar.ready * 2 ^ 4 + packBits 1 8 (fun k => bit (s.cellar.out.contains k)) * 2 ^ 8)
    | 4, 0x10 => BitVec.ofNat 64 s.cellar.slots
    | 4, 0x88 => BitVec.ofNat 64 (s.cellar.ckPhase + s.cellar.ckCode * 2 ^ 8 + s.cellar.ckSlots * 2 ^ 16)
    | 5, 0x08 => BitVec.ofNat 64 s.pstat
    | 5, 0x18 => BitVec.ofNat 64 (s.fleet.grant % 2 ^ 12)
    | _, _ =>
      if cap = 0 ∧ 0x800 ≤ off ∧ off < 0x1000 then capHeader ((off - 0x800) / 16) (off / 8 % 2)
      else if cap = 6 ∧ 0x100 ≤ off ∧ off < 0x140 then s.counter none ((off - 0x100) / 8)
      else if cap = 6 ∧ 0x400 ≤ off ∧ off < 0x800 ∧ (off - 0x400) % 0x100 < 0x40 then s.counter (some ((off - 0x400) / 0x100)) ((off - 0x400) % 0x100 / 8)
      else s.barReg cap off

/-! ## Writes -/

/-- Reset of the package (R376). What stands outside it stays: the plan of the environment, the slots of the cellar and the image
of a checkpoint; the free values go on. -/
def State.packageReset (s : State) : State :=
  { State.reset with plan := s.plan, free := s.free, outbox := s.outbox,
                     cellar := { data := s.cellar.data, keys := s.cellar.keys, image := s.cellar.image, ckStored := s.cellar.ckStored } }

/-- RSTCTL: a write without the key is ignored. -/
def execRstctl (v : Dword) (s : State) : Answer :=
  .next (if bits v.toNat 16 16 = 0x5A5A ∧ v.getLsbD 0 then s.packageReset else s.touchBar)

/-- A write of RGCTL (R386). -/
def State.regionControl (s : State) (v : Dword) : Answer :=
  let r : BitVec 12 := BitVec.ofNat 12 v.toNat
  match bits v.toNat 12 4 with
  | 1 => execRetire r s
  | 2 => execRefresh r s
  | 3 => execHold r s
  | 4 => execRelease r s
  | _ => .next s

/-- A write of DBGCTL (R396): the commands whose bits are set, in bit order. -/
def State.debugControl (s : State) (v : Dword) : State :=
  let on (k : Nat) (f : State → State) (t : State) : State := if v.getLsbD k then f t else t
  on 5 (fun t => t.debugEnable false) (on 4 (fun t => t.debugEnable true)
    (on 3 (fun t => t.debugStep true) (on 2 (fun t => t.debugStep false) (on 1 State.debugRun (on 0 State.debugHalt s)))))

/-- Store the bits lo up to lo + w of a value in a register whose other bits are reserved (R5). -/
def State.storeBits (s : State) (cap off lo w : Nat) (v : Dword) : State :=
  s.setBar cap off (BitVec.ofNat 64 (bits v.toNat lo w * 2 ^ lo))

/-- A write of a register of a format window (R86). -/
def State.writeWindow (s : State) (off : Nat) (v : Dword) : Answer :=
  let n := off / 0x20
  if 16 ≤ n then .next s
  else if off % 0x20 = 0x18 then
    if v.getLsbD 0 then execFwEnable (BitVec.ofNat 4 n) v s else execFwDisable (BitVec.ofNat 4 n) v s
  else if (s.window n).isSome then .next s
  else match off % 0x20 with
    | 0x00 => .next (s.storeBits 1 off 16 36 v)
    | 0x08 => .next (s.setBar 1 off v)
    | 0x10 => .next (s.storeBits 1 off 6 46 v)
    | _ => .next s

/-- A write of a register of the translation capability (R411, R412). -/
def State.writeTranslation (s : State) (off : Nat) (v : Dword) : Answer :=
  if off = 0 then .next (s.storeBits 3 0 0 19 v)
  else if 0x40 ≤ off ∧ off < 0x80 then
    let d := (off - 0x40) / 0x10
    if off % 0x10 = 8 then execXpctl (BitVec.ofNat 2 d) v s
    else if off % 0x10 = 0 ∧ !(s.barReg 3 (off + 8)).getLsbD 32 then .next (s.storeBits 3 off 16 36 v)
    else .next s
  else if 0x1000 ≤ off ∧ off < 0x3000 then execLwin (BitVec.ofNat 10 ((off - 0x1000) / 8)) v s
  else .next s

/-- A write of a register of the cellar (R417, R444). -/
def State.writeCellar (s : State) (off : Nat) (v : Dword) : Answer :=
  if off = 0 then execStctl v s
  else if off = 0x80 then
    match bits v.toNat 0 2 with
    | 1 => execStart s
    | 2 => execRestore s
    | _ => .next s
  else if (s.barReg 4 0).getLsbD 0 then .next s
  else match off with
    | 0x18 => .next (s.storeBits 4 off 0 36 v)
    | 0x20 => .next (s.storeBits 4 off 12 40 v)
    | 0x28 => .next ((s.storeBits 4 off 12 40 v).onCellar (fun c => { c with next := 0 }))
    | _ => if 0x40 ≤ off ∧ off < 0x80 then .next (s.storeBits 4 off 0 32 v) else .next s

/-- A write of a register; `off` is a multiple of 8. -/
def State.writeReg (s : State) (cap off : Nat) (v : Dword) : Answer :=
  match cap, off with
  | 0, 0x18 => execRstctl v s
  | 0, 0x48 => .next (s.storeBits 0 off 12 40 v)
  | 0, 0x50 => .next (s.storeBits 0 off 0 21 v)
  | 0, 0x58 => execLaunch v s
  | 0, 0x68 => s.regionControl v
  | 0, 0x70 => .next (s.setBar 0 off (s.barReg 0 off &&& ~~~v))
  | 0, 0x78 => .next (s.storeBits 0 off 0 3 v)
  | 1, _ => s.writeWindow off v
  | 2, 0x00 => .next (s.storeBits 2 off 0 16 v)
  | 2, 0x08 => .next (s.debugControl v)
  | 2, 0x20 => .next (s.storeBits 2 off 0 32 v)
  | 2, 0x28 => execDbgdata v s
  | 3, _ => s.writeTranslation off v
  | 4, _ => s.writeCellar off v
  | 5, 0x00 => .next (s.setLtol v)
  | 5, 0x10 => .next (s.setBar 5 off (BitVec.ofNat 64 (min 2200 (max 300 (bits v.toNat 0 12)))))
  | 5, 0x20 => execTtctl 0 v s
  | 5, 0x28 => execTtctl 1 v s
  | 5, 0x30 => execTtctl 2 v s
  | 5, 0x38 => execTtctl 3 v s
  | 5, 0x40 => execTdom v s
  | 6, 0x00 => execTsnap v s
  | 6, 0x08 => .next (s.storeBits 6 off 12 40 v)
  | 6, 0x10 => .next (s.setBar 6 off (BitVec.ofNat 64 (bits v.toNat 0 5 + bits v.toNat 8 8 * 2 ^ 8)))
  | 6, 0x20 => .next (s.setBar 6 off v)
  | 6, 0x30 => execGret v s
  | 7, 0x08 => execBootimg v s
  | 7, 0x40 => execAttreq v s
  | 7, 0x80 => execKeyld v s
  | 7, 0x90 => .next (s.storeBits 7 off 0 8 v)
  | 7, _ => if 0x10 ≤ off ∧ off < 0x40 then .next (s.setBar 7 off v) else .next s
  | _, _ => .next s

/-- The value of a 64-bit write that stands for a 32-bit one: the other half as a read shows it, and 0 where writing a bit back acts on it (R375). -/
def State.halfValue (s : State) (cap off : Nat) (high : Bool) (v : Word) : Dword :=
  let rest := if cap = 0 ∧ off = 0x70 then 0 else (s.barRead cap off).toNat
  BitVec.ofNat 64 (putBits rest (if high then 32 else 0) 32 v.toNat)

/-- A host access of a register's block: a 64-bit one at a multiple of 8, or a 32-bit one to a half; any other access writes nothing. -/
def State.hostWrite (s : State) (cap off : Nat) : BarValue → Answer
  | .whole v => if off % 8 = 0 then s.touchBar.writeReg cap off v else .next s.touchBar
  | .half v =>
    if off % 4 = 0 then s.touchBar.writeReg cap (off / 8 * 8) (s.halfValue cap (off / 8 * 8) (off % 8 == 4) v) else .next s.touchBar

/-- REGISTER_WRITE: a host write of a control register; what is read-only or reserved ignores it. The register is named by its
capability's block, or with block 0 by its offset in BAR0 (R375). -/
def execRegisterWrite (cap : BitVec 16) (off : BitVec 26) (v : BarValue) (s : State) : Answer :=
  if cap = 0 then match barBlock off.toNat with
    | some (c, o) => s.hostWrite c o v
    | none => .next s.touchBar
  else s.hostWrite cap.toNat off.toNat v

end Sys2Proof.Machine
end

