-- ==== Sys2Proof/Machine/Scalar.lean ====
section
/-!
DEFINITION. The S class: scalar words of the sequencer (R226 to R233). None of them traps or saturates (R227).
-/
namespace Sys2Proof.Machine

/-- High half of the signed product. -/
def mulHigh (a b : Dword) : Dword := BitVec.ofInt 64 (a.toInt * b.toInt / 2 ^ 64)

/-- Signed quotient toward zero, with the corner cases of R228. -/
def divSigned (a b : Dword) : Dword := if b = 0 then BitVec.allOnes 64 else BitVec.ofInt 64 (a.toInt.tdiv b.toInt)

/-- Signed remainder with the sign of a, with the corner cases of R228. -/
def remSigned (a b : Dword) : Dword := if b = 0 then a else BitVec.ofInt 64 (a.toInt.tmod b.toInt)

/-- A word that writes sd from scalars, with a bound. -/
def scalarWord (i : Instr) (g : Gate) (uses : List (BitVec 5)) (sd : BitVec 5) (L : Nat) (f : State → Dword) (s : State) : Answer :=
  runFlag i 1 g (useS (sd :: uses)) free (fun t => t.wS sd (f t) L) s

/-- The three-register form: sd := f(sa, sb) or f(sa, L) (R226, R227). -/
def threeReg (i : Instr) (g : Gate) (sa sb sd : BitVec 5) (lit : Option Dword) (L : Nat) (f : Dword → Dword → Dword) (s : State) : Answer :=
  scalarWord i g (if lit.isNone then [sa, sb] else [sa]) sd L (fun t => f (t.rS sa) (t.rSLit sb lit)) s

/-- ADD on values (R227). -/
def addFn (a b : Dword) : Dword := a + b
/-- ADD sd, sa, sb (R227). -/
def execAdd (g : Gate) (sb sa sd : BitVec 5) (s : State) : Answer := threeReg (.add g sb sa sd) g sa sb sd none 1 addFn s
/-- ADD sd, sa, literal (R227). -/
def execAddLiteral (g : Gate) (sa sd : BitVec 5) (lit : Dword) (s : State) : Answer :=
  threeReg (.addLiteral g sa sd lit) g sa 0 sd (some lit) 1 addFn s

/-- SUB on values (R227). -/
def subFn (a b : Dword) : Dword := a - b
/-- SUB sd, sa, sb (R227). -/
def execSub (g : Gate) (sb sa sd : BitVec 5) (s : State) : Answer := threeReg (.sub g sb sa sd) g sa sb sd none 1 subFn s
/-- SUB sd, sa, literal (R227). -/
def execSubLiteral (g : Gate) (sa sd : BitVec 5) (lit : Dword) (s : State) : Answer :=
  threeReg (.subLiteral g sa sd lit) g sa 0 sd (some lit) 1 subFn s

/-- MUL on values (R227). -/
def mulFn (a b : Dword) : Dword := a * b
/-- MUL sd, sa, sb (R227). -/
def execMul (g : Gate) (sb sa sd : BitVec 5) (s : State) : Answer := threeReg (.mul g sb sa sd) g sa sb sd none 3 mulFn s
/-- MUL sd, sa, literal (R227). -/
def execMulLiteral (g : Gate) (sa sd : BitVec 5) (lit : Dword) (s : State) : Answer :=
  threeReg (.mulLiteral g sa sd lit) g sa 0 sd (some lit) 3 mulFn s

/-- MULH on values (R227). -/
def mulhFn (a b : Dword) : Dword := mulHigh a b
/-- MULH sd, sa, sb (R227). -/
def execMulh (g : Gate) (sb sa sd : BitVec 5) (s : State) : Answer := threeReg (.mulh g sb sa sd) g sa sb sd none 3 mulhFn s
/-- MULH sd, sa, literal (R227). -/
def execMulhLiteral (g : Gate) (sa sd : BitVec 5) (lit : Dword) (s : State) : Answer :=
  threeReg (.mulhLiteral g sa sd lit) g sa 0 sd (some lit) 3 mulhFn s

/-- MULHU on values (R227). -/
def mulhuFn (a b : Dword) : Dword := BitVec.ofNat 64 (a.toNat * b.toNat / 2 ^ 64)
/-- MULHU sd, sa, sb (R227). -/
def execMulhu (g : Gate) (sb sa sd : BitVec 5) (s : State) : Answer := threeReg (.mulhu g sb sa sd) g sa sb sd none 3 mulhuFn s
/-- MULHU sd, sa, literal (R227). -/
def execMulhuLiteral (g : Gate) (sa sd : BitVec 5) (lit : Dword) (s : State) : Answer :=
  threeReg (.mulhuLiteral g sa sd lit) g sa 0 sd (some lit) 3 mulhuFn s

/-- DIVS on values (R228). -/
def divsFn (a b : Dword) : Dword := divSigned a b
/-- DIVS sd, sa, sb (R228). -/
def execDivs (g : Gate) (sb sa sd : BitVec 5) (s : State) : Answer := threeReg (.divs g sb sa sd) g sa sb sd none 20 divsFn s
/-- DIVS sd, sa, literal (R228). -/
def execDivsLiteral (g : Gate) (sa sd : BitVec 5) (lit : Dword) (s : State) : Answer :=
  threeReg (.divsLiteral g sa sd lit) g sa 0 sd (some lit) 20 divsFn s

/-- DIVU on values (R228). -/
def divuFn (a b : Dword) : Dword := if b = 0 then BitVec.allOnes 64 else a / b
/-- DIVU sd, sa, sb (R228). -/
def execDivu (g : Gate) (sb sa sd : BitVec 5) (s : State) : Answer := threeReg (.divu g sb sa sd) g sa sb sd none 20 divuFn s
/-- DIVU sd, sa, literal (R228). -/
def execDivuLiteral (g : Gate) (sa sd : BitVec 5) (lit : Dword) (s : State) : Answer :=
  threeReg (.divuLiteral g sa sd lit) g sa 0 sd (some lit) 20 divuFn s

/-- REMS on values (R228). -/
def remsFn (a b : Dword) : Dword := remSigned a b
/-- REMS sd, sa, sb (R228). -/
def execRems (g : Gate) (sb sa sd : BitVec 5) (s : State) : Answer := threeReg (.rems g sb sa sd) g sa sb sd none 20 remsFn s
/-- REMS sd, sa, literal (R228). -/
def execRemsLiteral (g : Gate) (sa sd : BitVec 5) (lit : Dword) (s : State) : Answer :=
  threeReg (.remsLiteral g sa sd lit) g sa 0 sd (some lit) 20 remsFn s

/-- REMU on values (R228). -/
def remuFn (a b : Dword) : Dword := if b = 0 then a else a % b
/-- REMU sd, sa, sb (R228). -/
def execRemu (g : Gate) (sb sa sd : BitVec 5) (s : State) : Answer := threeReg (.remu g sb sa sd) g sa sb sd none 20 remuFn s
/-- REMU sd, sa, literal (R228). -/
def execRemuLiteral (g : Gate) (sa sd : BitVec 5) (lit : Dword) (s : State) : Answer :=
  threeReg (.remuLiteral g sa sd lit) g sa 0 sd (some lit) 20 remuFn s

/-- AND on values (R227). -/
def andFn (a b : Dword) : Dword := a &&& b
/-- AND sd, sa, sb (R227). -/
def execAnd (g : Gate) (sb sa sd : BitVec 5) (s : State) : Answer := threeReg (.and g sb sa sd) g sa sb sd none 1 andFn s
/-- AND sd, sa, literal (R227). -/
def execAndLiteral (g : Gate) (sa sd : BitVec 5) (lit : Dword) (s : State) : Answer :=
  threeReg (.andLiteral g sa sd lit) g sa 0 sd (some lit) 1 andFn s

/-- OR on values (R227). -/
def orFn (a b : Dword) : Dword := a ||| b
/-- OR sd, sa, sb (R227). -/
def execOr (g : Gate) (sb sa sd : BitVec 5) (s : State) : Answer := threeReg (.or g sb sa sd) g sa sb sd none 1 orFn s
/-- OR sd, sa, literal (R227). -/
def execOrLiteral (g : Gate) (sa sd : BitVec 5) (lit : Dword) (s : State) : Answer :=
  threeReg (.orLiteral g sa sd lit) g sa 0 sd (some lit) 1 orFn s

/-- XOR on values (R227). -/
def xorFn (a b : Dword) : Dword := a ^^^ b
/-- XOR sd, sa, sb (R227). -/
def execXor (g : Gate) (sb sa sd : BitVec 5) (s : State) : Answer := threeReg (.xor g sb sa sd) g sa sb sd none 1 xorFn s
/-- XOR sd, sa, literal (R227). -/
def execXorLiteral (g : Gate) (sa sd : BitVec 5) (lit : Dword) (s : State) : Answer :=
  threeReg (.xorLiteral g sa sd lit) g sa 0 sd (some lit) 1 xorFn s

/-- ANDN on values (R227). -/
def andnFn (a b : Dword) : Dword := a &&& ~~~b
/-- ANDN sd, sa, sb (R227). -/
def execAndn (g : Gate) (sb sa sd : BitVec 5) (s : State) : Answer := threeReg (.andn g sb sa sd) g sa sb sd none 1 andnFn s
/-- ANDN sd, sa, literal (R227). -/
def execAndnLiteral (g : Gate) (sa sd : BitVec 5) (lit : Dword) (s : State) : Answer :=
  threeReg (.andnLiteral g sa sd lit) g sa 0 sd (some lit) 1 andnFn s

/-- SHL on values (R227). -/
def shlFn (a b : Dword) : Dword := a <<< (b.toNat % 64)
/-- SHL sd, sa, sb (R227). -/
def execShl (g : Gate) (sb sa sd : BitVec 5) (s : State) : Answer := threeReg (.shl g sb sa sd) g sa sb sd none 1 shlFn s
/-- SHL sd, sa, literal (R227). -/
def execShlLiteral (g : Gate) (sa sd : BitVec 5) (lit : Dword) (s : State) : Answer :=
  threeReg (.shlLiteral g sa sd lit) g sa 0 sd (some lit) 1 shlFn s

/-- SHR on values (R227). -/
def shrFn (a b : Dword) : Dword := a >>> (b.toNat % 64)
/-- SHR sd, sa, sb (R227). -/
def execShr (g : Gate) (sb sa sd : BitVec 5) (s : State) : Answer := threeReg (.shr g sb sa sd) g sa sb sd none 1 shrFn s
/-- SHR sd, sa, literal (R227). -/
def execShrLiteral (g : Gate) (sa sd : BitVec 5) (lit : Dword) (s : State) : Answer :=
  threeReg (.shrLiteral g sa sd lit) g sa 0 sd (some lit) 1 shrFn s

/-- SAR on values (R227). -/
def sarFn (a b : Dword) : Dword := a.sshiftRight (b.toNat % 64)
/-- SAR sd, sa, sb (R227). -/
def execSar (g : Gate) (sb sa sd : BitVec 5) (s : State) : Answer := threeReg (.sar g sb sa sd) g sa sb sd none 1 sarFn s
/-- SAR sd, sa, literal (R227). -/
def execSarLiteral (g : Gate) (sa sd : BitVec 5) (lit : Dword) (s : State) : Answer :=
  threeReg (.sarLiteral g sa sd lit) g sa 0 sd (some lit) 1 sarFn s

/-- ROTL on values (R227). -/
def rotlFn (a b : Dword) : Dword := a.rotateLeft (b.toNat % 64)
/-- ROTL sd, sa, sb (R227). -/
def execRotl (g : Gate) (sb sa sd : BitVec 5) (s : State) : Answer := threeReg (.rotl g sb sa sd) g sa sb sd none 1 rotlFn s
/-- ROTL sd, sa, literal (R227). -/
def execRotlLiteral (g : Gate) (sa sd : BitVec 5) (lit : Dword) (s : State) : Answer :=
  threeReg (.rotlLiteral g sa sd lit) g sa 0 sd (some lit) 1 rotlFn s

/-- MINS on values (R227). -/
def minsFn (a b : Dword) : Dword := if a.slt b then a else b
/-- MINS sd, sa, sb (R227). -/
def execMins (g : Gate) (sb sa sd : BitVec 5) (s : State) : Answer := threeReg (.mins g sb sa sd) g sa sb sd none 1 minsFn s
/-- MINS sd, sa, literal (R227). -/
def execMinsLiteral (g : Gate) (sa sd : BitVec 5) (lit : Dword) (s : State) : Answer :=
  threeReg (.minsLiteral g sa sd lit) g sa 0 sd (some lit) 1 minsFn s

/-- MINU on values (R227). -/
def minuFn (a b : Dword) : Dword := if a.ult b then a else b
/-- MINU sd, sa, sb (R227). -/
def execMinu (g : Gate) (sb sa sd : BitVec 5) (s : State) : Answer := threeReg (.minu g sb sa sd) g sa sb sd none 1 minuFn s
/-- MINU sd, sa, literal (R227). -/
def execMinuLiteral (g : Gate) (sa sd : BitVec 5) (lit : Dword) (s : State) : Answer :=
  threeReg (.minuLiteral g sa sd lit) g sa 0 sd (some lit) 1 minuFn s

/-- MAXS on values (R227). -/
def maxsFn (a b : Dword) : Dword := if a.slt b then b else a
/-- MAXS sd, sa, sb (R227). -/
def execMaxs (g : Gate) (sb sa sd : BitVec 5) (s : State) : Answer := threeReg (.maxs g sb sa sd) g sa sb sd none 1 maxsFn s
/-- MAXS sd, sa, literal (R227). -/
def execMaxsLiteral (g : Gate) (sa sd : BitVec 5) (lit : Dword) (s : State) : Answer :=
  threeReg (.maxsLiteral g sa sd lit) g sa 0 sd (some lit) 1 maxsFn s

/-- MAXU on values (R227). -/
def maxuFn (a b : Dword) : Dword := if a.ult b then b else a
/-- MAXU sd, sa, sb (R227). -/
def execMaxu (g : Gate) (sb sa sd : BitVec 5) (s : State) : Answer := threeReg (.maxu g sb sa sd) g sa sb sd none 1 maxuFn s
/-- MAXU sd, sa, literal (R227). -/
def execMaxuLiteral (g : Gate) (sa sd : BitVec 5) (lit : Dword) (s : State) : Answer :=
  threeReg (.maxuLiteral g sa sd lit) g sa 0 sd (some lit) 1 maxuFn s

/-- CMP: fd := comb(cond(sa, sb), fc) (R229). -/
def execCmp (g : Gate) (fc : BitVec 3) (sb sa : BitVec 5) (fd : BitVec 3) (comb : BitVec 2) (cond : BitVec 4) (lit : Option Dword) (s : State) : Answer :=
  runFlag (.cmp g fc sb sa fd comb cond lit) 1 g (.f fc.toNat :: .f fd.toNat :: useS [sa, sb]) free
    (fun t => t.wF fd (cmpComb comb.toNat (cmpCond cond.toNat (t.rS sa) (t.rSLit sb lit)) (t.rF fc)) 1) s

/-- FLOP: fd := TT[fa × 2 + fb] (R230). -/
def execFlop (g : Gate) (tt : BitVec 4) (fb fa fd : BitVec 3) (s : State) : Answer :=
  runFlag (.flop g tt fb fa fd) 1 g [.f fb.toNat, .f fa.toNat, .f fd.toNat] free
    (fun t => t.wF fd (truth tt.toNat (t.rF fa) (t.rF fb)) 1) s

/-- SEL (R231). -/
def execSel (g : Gate) (sb sa sd : BitVec 5) (fc : BitVec 3) (s : State) : Answer :=
  runFlag (.sel g sb sa sd fc) 1 g (.f fc.toNat :: useS [sb, sa, sd]) free
    (fun t => t.wS sd (if t.rF fc then t.rS sa else t.rS sb) 1) s

/-- MOV (R231). -/
def execMov (g : Gate) (sa sd : BitVec 5) (s : State) : Answer := scalarWord (.mov g sa sd) g [sa] sd 1 (fun t => t.rS sa) s

/-- MOVI with its signed field (R231). -/
def execMovi (g : Gate) (imm : BitVec 11) (sd : BitVec 5) (s : State) : Answer :=
  scalarWord (.movi g imm sd) g [] sd 1 (fun _ => sext64 11 imm.toNat) s
/-- MOVI with a literal (R231). -/
def execMoviLiteral (g : Gate) (sd : BitVec 5) (lit : Dword) (s : State) : Answer :=
  scalarWord (.moviLiteral g sd lit) g [] sd 1 (fun _ => lit) s

/-- LEA: sd := sa + (sb << SH) + DISP (R231). -/
def execLea (g : Gate) (sb sa sd : BitVec 5) (disp : BitVec 32) (sh : BitVec 4) (lit : Option Dword) (s : State) : Answer :=
  scalarWord (.lea g sb sa sd disp sh lit) g [sb, sa] sd 1
    (fun t => t.rS sa + t.rS sb <<< sh.toNat + (match lit with | some l => l | none => sext64 32 disp.toNat)) s

/-- Leading zero bits of the low n bits (R231). -/
def clzFuel (x : Nat) : Nat → Nat
  | 0 => 0
  | n + 1 => if x.testBit n then 0 else clzFuel x n + 1

/-- Trailing zero bits from bit k on, among n bits (R231). -/
def ctzFuel (x k : Nat) : Nat → Nat
  | 0 => 0
  | n + 1 => if x.testBit k then 0 else ctzFuel x (k + 1) n + 1

/-- CLZ (R231). -/
def execClz (g : Gate) (sa sd : BitVec 5) (s : State) : Answer :=
  scalarWord (.clz g sa sd) g [sa] sd 1 (fun t => BitVec.ofNat 64 (clzFuel (t.rS sa).toNat 64)) s
/-- CTZ (R231). -/
def execCtz (g : Gate) (sa sd : BitVec 5) (s : State) : Answer :=
  scalarWord (.ctz g sa sd) g [sa] sd 1 (fun t => BitVec.ofNat 64 (ctzFuel (t.rS sa).toNat 0 64)) s
/-- POPC (R231). -/
def execPopc (g : Gate) (sa sd : BitVec 5) (s : State) : Answer :=
  scalarWord (.popc g sa sd) g [sa] sd 1 (fun t => BitVec.ofNat 64 (countBits (t.rS sa).toNat 64)) s

/-- The field of BFX (R232). -/
def bfxFn (a : Dword) (sgn : Bool) (wid pos : Nat) : Dword :=
  let v := bits a.toNat pos wid
  BitVec.ofNat 64 (if sgn && v.testBit (wid - 1) then v + (2 ^ 64 - 2 ^ wid) else v)

/-- The result of BFI (R232). -/
def bfiFn (d a : Dword) (wid pos : Nat) : Dword :=
  let m : Dword := BitVec.ofNat 64 ((2 ^ wid - 1) * 2 ^ pos)
  (d &&& ~~~m) ||| ((a <<< pos) &&& m)

/-- BFX (R232). -/
def execBfx (g : Gate) (sa sd : BitVec 5) (sgn : Bool) (wid : BitVec 7) (pos : BitVec 6) (s : State) : Answer :=
  scalarWord (.bfx g sa sd sgn wid pos) g [sa] sd 1 (fun t => bfxFn (t.rS sa) sgn wid.toNat pos.toNat) s
/-- BFI, which reads sd (R232). -/
def execBfi (g : Gate) (sa sd : BitVec 5) (wid : BitVec 7) (pos : BitVec 6) (s : State) : Answer :=
  scalarWord (.bfi g sa sd wid pos) g [sa] sd 1 (fun t => bfiFn (t.rS sd) (t.rS sa) wid.toNat pos.toNat) s

/-- Set the bundle's broadcast value (R173). -/
def State.putBc (s : State) (v : Dword) : State := { s with issue := { s.issue with bc := v } }

/-- BCST (R233). -/
def execBcst (g : Gate) (sa : BitVec 5) (s : State) : Answer :=
  runFlag (.bcst g sa) 1 g (useS [sa]) free (fun t => t.putBc (t.rS sa)) s
/-- BCST with a literal (R233). -/
def execBcstLiteral (g : Gate) (lit : Dword) (s : State) : Answer :=
  runFlag (.bcstLiteral g lit) 1 g [] free (fun t => t.putBc lit) s

end Sys2Proof.Machine
end

