-- ==== Sys2Proof/Machine/Sort.lean ====
section
/-!
DEFINITION. The Q class: compare and exchange of keys and payloads (R253 to R256).
-/
namespace Sys2Proof.Machine

/-- The rank of a key pattern (R254). -/
def keyRank (f : QFields) (x : Nat) : Nat :=
  if f.fmt = 0 then (if x.testBit 31 then x ^^^ 0xFFFFFFFF else x ^^^ 0x80000000)
  else if f.uns then x else x ^^^ 0x80000000

/-- Whether key a ranks below key b. -/
def ranksBelow (f : QFields) (a b : Nat) : Bool := decide (keyRank f a < keyRank f b)

/-- Lane k of register n of engine e. -/
def State.keyAt (s : State) (e : Nat) (n : BitVec 6) (k : Nat) : Nat := bits (s.rV e n.toNat).toNat (32 * k) 32

/-- Write the lanes of a mask of a register, bound 2. -/
def State.putKeys (s : State) (e : Nat) (n : BitVec 6) (m : LaneMask) (f : Nat → Nat) : State :=
  s.putVec e n.toNat 0 m false ((List.range 64).map f) 2

/-- The lanes of engine e in which CXS exchanges (R255). -/
def State.cxsMask (s : State) (e : Nat) (f : QFields) : LaneMask :=
  let m := s.laneMask e f.lq f.ln
  ofLaneBits (fun k => m.getLsbD k &&
    (if f.desc then ranksBelow f (s.keyAt e f.ka k) (s.keyAt e f.kb k) else ranksBelow f (s.keyAt e f.kb k) (s.keyAt e f.ka k)))

/-- Exchange two registers in the lanes of a mask. -/
def State.exchange (s t : State) (e : Nat) (a b : BitVec 6) (m : LaneMask) : State :=
  (s.putKeys e a m (t.keyAt e b)).putKeys e b m (t.keyAt e a)

/-- A Q word: its registers and its effect in each acting engine. -/
def sortWord (i : Instr) (g : Gate) (regs : List (BitVec 6)) (eff : State → State → Nat → State) (s : State) : Answer :=
  runEng i 2 g (fun t => t.useV (regs.map BitVec.toNat)) free (fun t => t.each (t.acting g) (eff t)) s

/-- CXS (R255). -/
def execCxs (g : Gate) (f : QFields) (s : State) : Answer :=
  sortWord (.cxs g f) g [f.ka, f.kb] (fun t u e => u.exchange t e f.ka f.kb (t.cxsMask e f)) s

/-- CXSI (R255). Where it names one register twice, the exchange of pa and pb is written last: DESIGN CHOICE, log 46. -/
def execCxsi (g : Gate) (f : QFields) (s : State) : Answer :=
  sortWord (.cxsi g f) g [f.ka, f.kb, f.pa, f.pb] (fun t u e =>
    let m := t.cxsMask e f
    (u.exchange t e f.ka f.kb m).exchange t e f.pa f.pb m) s

/-- The partner of a lane (R256). -/
def partner (f : QFields) (k : Nat) : Nat := k ^^^ 2 ^ f.j.toNat

/-- The lanes of engine e in which CXV exchanges (R256). -/
def State.cxvMask (s : State) (e : Nat) (f : QFields) : LaneMask :=
  let m := s.laneMask e f.lq f.ln
  ofLaneBits (fun k =>
    let lo := min k (partner f k)
    let hi := max k (partner f k)
    let up := (f.k == 6 || !(lo.testBit f.k.toNat)) != f.desc
    m.getLsbD lo && m.getLsbD hi &&
      (if up then ranksBelow f (s.keyAt e f.ka hi) (s.keyAt e f.ka lo) else ranksBelow f (s.keyAt e f.ka lo) (s.keyAt e f.ka hi)))

/-- CXV (R256). -/
def execCxv (g : Gate) (f : QFields) (s : State) : Answer :=
  sortWord (.cxv g f) g [f.ka] (fun t u e => u.putKeys e f.ka (t.cxvMask e f) (fun k => t.keyAt e f.ka (partner f k))) s

/-- CXVI (R256). -/
def execCxvi (g : Gate) (f : QFields) (s : State) : Answer :=
  sortWord (.cxvi g f) g [f.ka, f.pa] (fun t u e =>
    let m := t.cxvMask e f
    (u.putKeys e f.ka m (fun k => t.keyAt e f.ka (partner f k))).putKeys e f.pa m (fun k => t.keyAt e f.pa (partner f k))) s

end Sys2Proof.Machine
end

