-- ==== Sys2Proof/Machine/Vector.lean ====
section
/-!
DEFINITION. The V class (R234 to R252).
-/
namespace Sys2Proof.Machine

/-! ## Lanes in a rounding stream -/

/-- Run an operation over lanes i to i + n − 1; lanes outside the mask give 0 and leave the stream (R143, R235). -/
def laneRun (m : LaneMask) (op : Nat → RStream → Nat × RStream) : Nat → Nat → RStream → List Nat × RStream
  | 0, _, t => ([], t)
  | n + 1, i, t =>
    let (x, t1) := if m.getLsbD i then op i t else (0, t)
    let (xs, t2) := laneRun m op n (i + 1) t1
    (x :: xs, t2)

/-- All 64 lanes. -/
def eachLane (m : LaneMask) (op : Nat → RStream → Nat × RStream) (t : RStream) : List Nat × RStream := laneRun m op 64 0 t

/-- Lanes without flags. -/
def plainLanes (f : Nat → Nat) (t : RStream) : List Nat × RStream := ((List.range 64).map f, t)

/-- Round an exact value with its flags to FP32 in a stream (R238). -/
def RStream.fp32 (t : RStream) (rm : Nat) (x : NumF) : Nat × RStream :=
  let (y, u) := RStream.roundF t fFP32 rm x.1
  (y, ⟨u.gen, u.flags ||| x.2⟩)

/-- Lane i of a vector as a number. -/
def laneN (v : Vec) (i : Nat) : Nat := bits v.toNat (32 * i) 32

/-- Lane i of a vector as an exact FP32 value. -/
def laneF (v : Vec) (i : Nat) : Num := decodeF fFP32 (laneN v i)

/-- Lane i as a signed integer. -/
def laneI (v : Vec) (i : Nat) : Int := toSigned 32 (laneN v i)

/-! ## The shape of every V word -/

/-- Commit flags and draws of engine e. -/
def State.putStream (s : State) (e : Nat) (t : RStream) : State :=
  (s.drawn e t.gen).raise e t.flags

/-- The stream of engine e. -/
def State.stream (s : State) (e : Nat) : RStream := ⟨(s.drawing e).gen.toNat, 0⟩

/-- Operand codes of va, vb and vc that a word reads; the literal stands for one of them (R234). -/
def vreads (f : VFields) (n : Nat) (lit : Option Dword) : List Nat :=
  let all := [f.va.toNat, f.vb.toNat, f.vc.toNat].take n
  match lit with
  | none => all
  | some _ => if n = 1 then [] else [f.va.toNat] ++ all.drop 2

/-- Operand va. -/
def State.opA (s : State) (f : VFields) (lit : Option Dword) (e : Nat) : Vec := s.rVecLit e f.va lit
/-- Operand vb. -/
def State.opB (s : State) (f : VFields) (lit : Option Dword) (e : Nat) : Vec := s.rVecLit e f.vb lit

/-- The effect of a V word that writes a vector (R235 to R237): result lanes by engine, then the pops. -/
def State.vecEff (t : State) (g : Gate) (f : VFields) (reads : List Nat) (L : Nat)
    (fn : State → Nat → LaneMask → RStream → List Nat × RStream) : State :=
  (t.each (t.acting g) (fun u e =>
    let m := t.laneMask e f.lq f.ln
    let r := fn t e m (u.stream e)
    (u.putVec e f.vd.toNat (t.portAddr (f.vd.toNat - 32)) m f.z r.1 L).putStream e r.2)).popAll (f.vd.toNat :: reads)

/-- A V word that writes a vector (R235 to R237): `reads` operand codes, result lanes by engine. -/
def vecWord (i : Instr) (g : Gate) (f : VFields) (reads : List Nat) (L : Nat) (check : State → Verdict)
    (fn : State → Nat → LaneMask → RStream → List Nat × RStream) (s : State) : Answer :=
  runPop i 3 (fun t => t.useV (f.vd.toNat :: reads)) (fun t => (check t).and (t.portCheck 3 reads [f.vd.toNat]))
    (fun t => t.vecEff g f reads L fn) s

/-- A rounding operation on the FP32 lanes of three vectors (R238). -/
def floatLanes (m : LaneMask) (rm : Nat) (fn : Num → Num → Num → NumF) (a b c : Vec) (t : RStream) : List Nat × RStream :=
  eachLane m (fun k r => r.fp32 rm (fn (laneF a k) (laneF b k) (laneF c k))) t

/-- One of the five unary words on FP32 lanes that round and issue once every 2 cycles (R177, R239). -/
def transWord (i : Instr) (g : Gate) (f : VFields) (lit : Option Dword) (fn : Num → NumF) (s : State) : Answer :=
  runPop i 3 (fun t => t.useV (f.vd.toNat :: vreads f 1 lit))
    (fun t => if t.cycle < t.was.lastTrans then .hold else t.portCheck 3 (vreads f 1 lit) [f.vd.toNat])
    (fun t => (t.vecEff g f (vreads f 1 lit) 12 (fun t e m st => floatLanes m f.rm.toNat (fun a _ _ => fn a) (t.opA f lit e) 0 0 st)).mod
      (fun c => { c with lastTrans := t.cycle + 2 })) s

/-- A binary word on FP32 lanes that rounds. -/
def floatBinary (i : Instr) (g : Gate) (f : VFields) (lit : Option Dword) (fn : Num → Num → NumF) (s : State) : Answer :=
  vecWord i g f (vreads f 2 lit) 4 free
    (fun t e m st => floatLanes m f.rm.toNat (fun a b _ => fn a b) (t.opA f none e) (t.opB f lit e) 0 st) s

/-- A word on lane patterns without flags that reads n operands. -/
def plainWord (i : Instr) (g : Gate) (f : VFields) (n : Nat) (lit : Option Dword) (L : Nat)
    (fn : State → Nat → Vec → Vec → Nat → Nat) (s : State) : Answer :=
  vecWord i g f (vreads f n lit) L free
    (fun t e _ st => plainLanes (fn t e (t.opA f (if n = 1 then lit else none) e) (t.opB f lit e)) st) s

/-! ## Floating point (R238, R239) -/

/-- VADD. -/
def execVadd (g : Gate) (f : VFields) (lit : Option Dword) (s : State) : Answer :=
  floatBinary (.vadd g f lit) g f lit (fun a b => addN (f.rm == 3) a b) s

/-- VSUB. -/
def execVsub (g : Gate) (f : VFields) (lit : Option Dword) (s : State) : Answer :=
  floatBinary (.vsub g f lit) g f lit (fun a b => addN (f.rm == 3) a b.negate) s

/-- VMUL. -/
def execVmul (g : Gate) (f : VFields) (lit : Option Dword) (s : State) : Answer :=
  floatBinary (.vmul g f lit) g f lit mulN s

/-- a × b + c, exact (R238). -/
def fmaN (rdn : Bool) (a b c : Num) : NumF :=
  let p := mulN a b
  let r := addN rdn p.1 c
  (r.1, p.2 ||| r.2)

/-- VFMA. -/
def execVfma (g : Gate) (f : VFields) (lit : Option Dword) (s : State) : Answer :=
  vecWord (.vfma g f lit) g f (vreads f 3 lit) 4 free
    (fun t e m st => floatLanes m f.rm.toNat (fmaN (f.rm == 3)) (t.opA f none e) (t.opB f lit e) (t.rVec e f.vc.toNat) st) s

/-- VMAX and VMIN (R131, R238). -/
def maxMinWord (i : Instr) (g : Gate) (f : VFields) (lit : Option Dword) (isMax : Bool) (s : State) : Answer :=
  vecWord i g f (vreads f 2 lit) 2 free
    (fun t e m st =>
      let a := t.opA f none e
      let b := t.opB f lit e
      eachLane m (fun k r =>
        let (x, fl) := fmaxmin isMax (laneN a k) (laneN b k)
        (x, ⟨r.gen, r.flags ||| fl⟩)) st) s

/-- VMAX. -/
def execVmax (g : Gate) (f : VFields) (lit : Option Dword) (s : State) : Answer := maxMinWord (.vmax g f lit) g f lit true s
/-- VMIN. -/
def execVmin (g : Gate) (f : VFields) (lit : Option Dword) (s : State) : Answer := maxMinWord (.vmin g f lit) g f lit false s

/-- VABS: bit 31 cleared. -/
def execVabs (g : Gate) (f : VFields) (lit : Option Dword) (s : State) : Answer :=
  plainWord (.vabs g f lit) g f 1 lit 2 (fun _ _ a _ k => laneN a k % 2 ^ 31) s

/-- VNEG: bit 31 inverted. -/
def execVneg (g : Gate) (f : VFields) (lit : Option Dword) (s : State) : Answer :=
  plainWord (.vneg g f lit) g f 1 lit 2 (fun _ _ a _ k => laneN a k ^^^ 2 ^ 31) s

/-- VRCP. -/
def execVrcp (g : Gate) (f : VFields) (lit : Option Dword) (s : State) : Answer := transWord (.vrcp g f lit) g f lit rcpN s
/-- VRSQ. -/
def execVrsq (g : Gate) (f : VFields) (lit : Option Dword) (s : State) : Answer := transWord (.vrsq g f lit) g f lit rsqN s
/-- VEXP, to base e or 2 by SUB. -/
def execVexp (g : Gate) (f : VFields) (lit : Option Dword) (s : State) : Answer :=
  transWord (.vexp g f lit) g f lit (expN (f.sub == 1)) s
/-- VLOG, to base e or 2 by SUB. -/
def execVlog (g : Gate) (f : VFields) (lit : Option Dword) (s : State) : Answer :=
  transWord (.vlog g f lit) g f lit (logN (f.sub == 1)) s
/-- VTANH. -/
def execVtanh (g : Gate) (f : VFields) (lit : Option Dword) (s : State) : Answer := transWord (.vtanh g f lit) g f lit tanhN s

/-! ## Integers and bits (R240) -/

/-- Clamp to 32 bits, signed or unsigned, as a pattern. -/
def sat32 (uns : Bool) (x : Int) : Nat :=
  if uns then (min (max x 0) (2 ^ 32 - 1)).toNat else wrapInt 32 (min (max x (-(2 ^ 31))) (2 ^ 31 - 1))

/-- Wrap or saturate an exact integer result. -/
def intResult (f : VFields) (uns : Bool) (x : Int) : Nat := if f.sat then sat32 uns x else wrapInt 32 x

/-- A lane by signedness. -/
def laneS (uns : Bool) (v : Vec) (k : Nat) : Int := if uns then (laneN v k : Int) else laneI v k

/-- VIADD. -/
def execViadd (g : Gate) (f : VFields) (lit : Option Dword) (s : State) : Answer :=
  plainWord (.viadd g f lit) g f 2 lit 2 (fun _ _ a b k =>
    let u := f.sub == 1
    intResult f u (laneS u a k + laneS u b k)) s

/-- VISUB. -/
def execVisub (g : Gate) (f : VFields) (lit : Option Dword) (s : State) : Answer :=
  plainWord (.visub g f lit) g f 2 lit 2 (fun _ _ a b k =>
    let u := f.sub == 1
    intResult f u (laneS u a k - laneS u b k)) s

/-- VIMUL: low, high signed, high unsigned, by SUB. -/
def execVimul (g : Gate) (f : VFields) (lit : Option Dword) (s : State) : Answer :=
  plainWord (.vimul g f lit) g f 2 lit 4 (fun _ _ a b k =>
    let u := f.sub == 2
    let p := laneS u a k * laneS u b k
    if f.sub = 0 then intResult f false p else wrapInt 32 (p / 2 ^ 32)) s

/-- VIMAD: a × b + c. -/
def execVimad (g : Gate) (f : VFields) (lit : Option Dword) (s : State) : Answer :=
  plainWord (.vimad g f lit) g f 3 lit 4 (fun t e a b k =>
    let u := f.sub == 1
    intResult f u (laneS u a k * laneS u b k + laneS u (t.rVec e f.vc.toNat) k)) s

/-- VIMIN. -/
def execVimin (g : Gate) (f : VFields) (lit : Option Dword) (s : State) : Answer :=
  plainWord (.vimin g f lit) g f 2 lit 2 (fun _ _ a b k =>
    let u := f.sub == 1
    wrapInt 32 (min (laneS u a k) (laneS u b k))) s

/-- VIMAX. -/
def execVimax (g : Gate) (f : VFields) (lit : Option Dword) (s : State) : Answer :=
  plainWord (.vimax g f lit) g f 2 lit 2 (fun _ _ a b k =>
    let u := f.sub == 1
    wrapInt 32 (max (laneS u a k) (laneS u b k))) s

/-- VAND. -/
def execVand (g : Gate) (f : VFields) (lit : Option Dword) (s : State) : Answer :=
  plainWord (.vand g f lit) g f 2 lit 2 (fun _ _ a b k => laneN a k &&& laneN b k) s
/-- VOR. -/
def execVor (g : Gate) (f : VFields) (lit : Option Dword) (s : State) : Answer :=
  plainWord (.vor g f lit) g f 2 lit 2 (fun _ _ a b k => laneN a k ||| laneN b k) s
/-- VXOR. -/
def execVxor (g : Gate) (f : VFields) (lit : Option Dword) (s : State) : Answer :=
  plainWord (.vxor g f lit) g f 2 lit 2 (fun _ _ a b k => laneN a k ^^^ laneN b k) s

/-- VSHL by b[4:0]. -/
def execVshl (g : Gate) (f : VFields) (lit : Option Dword) (s : State) : Answer :=
  plainWord (.vshl g f lit) g f 2 lit 2 (fun _ _ a b k => laneN a k <<< (laneN b k % 32) % 2 ^ 32) s
/-- VSHR by b[4:0]. -/
def execVshr (g : Gate) (f : VFields) (lit : Option Dword) (s : State) : Answer :=
  plainWord (.vshr g f lit) g f 2 lit 2 (fun _ _ a b k => laneN a k >>> (laneN b k % 32)) s
/-- VSAR by b[4:0]. -/
def execVsar (g : Gate) (f : VFields) (lit : Option Dword) (s : State) : Answer :=
  plainWord (.vsar g f lit) g f 2 lit 2 (fun _ _ a b k => wrapInt 32 (laneI a k / 2 ^ (laneN b k % 32))) s

/-! ## Compares and predicates (R241 to R245) -/

/-- Condition of lane i and the flags it raises (R241). -/
def compareLane (f : VFields) (a b : Nat) : Bool × Flags :=
  if f.fmt = 8 then (icmpCond f.sub.toNat a b, 0)
  else (fcmpCond f.sub.toNat (cmpN (decodeF fFP32 a) (decodeF fFP32 b)), sigFlags (decodeF fFP32 a) (decodeF fFP32 b))

/-- Conditions and flags of the active lanes of engine e. -/
def State.compareLanes (s : State) (f : VFields) (lit : Option Dword) (e : Nat) (m : LaneMask) : List (Bool × Flags) :=
  (List.range 64).map (fun k => if m.getLsbD k then compareLane f (laneN (s.opA f none e) k) (laneN (s.opB f lit e) k) else (false, 0))

/-- The flags of a list of lanes. -/
def laneFlags (l : List (Bool × Flags)) : Flags := l.foldl (fun a x => a ||| x.2) 0

/-- Write a lane predicate of engine e, merged (R235). -/
def State.putMask (s : State) (e : Nat) (f : VFields) (m new : LaneMask) (L : Nat) : State :=
  s.wQ e (BitVec.ofNat 3 f.vd.toNat) (mergeBits m f.z (((s.myEng e).part s.me.place.engCtx).qreg (bits f.vd.toNat 0 3)) new) L

/-- A V word without a vector destination. -/
def predWord (i : Instr) (g : Gate) (reads : List Nat) (eff : State → State → Nat → State) (s : State) : Answer :=
  runPop i 3 (fun t => t.useV reads) (fun t => t.portCheck 3 reads []) (fun t => (t.each (t.acting g) (eff t)).popAll reads) s

/-- VCMP (R241). -/
def execVcmp (g : Gate) (f : VFields) (lit : Option Dword) (s : State) : Answer :=
  predWord (.vcmp g f lit) g (vreads f 2 lit) (fun t u e =>
    let m := t.laneMask e f.lq f.ln
    let c := t.compareLanes f lit e m
    (u.putMask e f m (ofLaneBits (fun k => (c.getD k (false, 0)).1)) 2).raise e (laneFlags c)) s

/-- VCMPS (R242). -/
def execVcmps (g : Gate) (f : VFields) (lit : Option Dword) (s : State) : Answer :=
  predWord (.vcmps g f lit) g (vreads f 2 lit) (fun t u e =>
    let m := t.laneMask e f.lq f.ln
    let c := t.compareLanes f lit e m
    let act := ((List.range 64).filter (fun k => m.getLsbD k)).map (fun k => (c.getD k (false, 0)).1)
    (u.wP e (BitVec.ofNat 3 f.vd.toNat) (vcmpsRed (bits f.imm.toNat 0 2) act) 3).raise e (laneFlags c)) s

/-- VSEL (R243). -/
def execVsel (g : Gate) (f : VFields) (lit : Option Dword) (s : State) : Answer :=
  plainWord (.vsel g f lit) g f 2 lit 2 (fun t e a b k =>
    if (t.rQ e f.qc).getLsbD k then laneN a k else laneN b k) s

/-- VMOV (R243). -/
def execVmov (g : Gate) (f : VFields) (lit : Option Dword) (s : State) : Answer :=
  plainWord (.vmov g f lit) g f 1 lit 2 (fun _ _ a _ k => laneN a k) s

/-- VQOP: the lane form, or with IMM[0] the engine form (R244). -/
def execVqop (g : Gate) (f : VFields) (lit : Option Dword) (s : State) : Answer :=
  let pa : BitVec 3 := BitVec.ofNat 3 f.va.toNat
  let pb : BitVec 3 := BitVec.ofNat 3 f.vb.toNat
  predWord (.vqop g f lit) g [] (fun t u e =>
    if f.imm.getLsbD 0 then u.wP e (BitVec.ofNat 3 f.vd.toNat) (truth f.sub.toNat (t.rP e pa) (t.rP e pb)) 2
    else u.putMask e f (t.laneMask e f.lq f.ln)
      (ofLaneBits (fun k => truth f.sub.toNat ((t.rQ e pa).getLsbD k) ((t.rQ e pb).getLsbD k))) 2) s

/-- VQCNT of a lane predicate for lane k (R245). -/
def qcount (mode : Nat) (q : LaneMask) (k : Nat) : Nat :=
  match mode with
  | 0 => countBits q.toNat 64
  | 1 => countBits q.toNat k
  | _ => ((List.range 64).find? (fun i => q.getLsbD i)).getD 64

/-- VQCNT. -/
def execVqcnt (g : Gate) (f : VFields) (lit : Option Dword) (s : State) : Answer :=
  plainWord (.vqcnt g f lit) g f 0 none 3 (fun t e _ _ k => qcount f.sub.toNat (t.rQ e (BitVec.ofNat 3 f.va.toNat)) k) s

/-! ## Conversions (R246 to R248) -/

/-- A narrow result in its lane: integers sign-extended, others zero-extended (R246). -/
def extendLane (fmt v : Nat) : Nat :=
  match intFmt fmt with
  | some (w, true) => wrapInt 32 (toSigned w v)
  | _ => v

/-- One converted lane (R246, R247). `x` is the E8M0 scale where .scl is given. -/
def convLane (f : VFields) (a : Nat) (x : Option Nat) (t : RStream) : Nat × RStream :=
  let src := decodeElem f.fmt2.toNat a
  let nan := x == some 255
  let v : Num := match x with
    | none => src
    | some k => src.scale (if f.fmt = 0 then (k : Int) - 127 else 127 - (k : Int))
  match floatFmt f.fmt.toNat with
  | some m => if nan then (m.nan, t) else RStream.roundF t m f.rm.toNat v
  | none =>
    let (w, sg) := (intFmt f.fmt.toNat).getD (32, true)
    if nan then (0, ⟨t.gen, t.flags ||| flNV⟩)
    else
      let (y, u) := RStream.roundI t w sg f.rm.toNat v
      (extendLane f.fmt.toNat y, if (intFmt f.fmt2.toNat).isSome then ⟨u.gen, t.flags⟩ else u)

/-- Lanes of a decoded block vector (R248). -/
def unblock (fmt : Nat) (v : Vec) (k : Nat) : Num :=
  if fmt = 0xA then decodeMx (bits v.toNat (8 * (32 + k / 32)) 8) (bits v.toNat (4 * k) 4)
  else
    let w := 8 * blockBytes fmt
    decodeKb ((kbM fmt).getD 2) (bits v.toNat (w * (k / 16)) w) (k % 16)

/-- Bytes of an encoded block b: the byte offsets and values it writes, and the stream after it. -/
def encodeBlock (fmt mode : Nat) (b : Nat) (xs : List Num) (t : RStream) : List (Nat × Byte) × RStream :=
  if fmt = 0xA then
    let (el, x, u) := encodeMx mode xs t
    ((leBytes 16 el).zipIdx.map (fun p => (16 * b + p.2, p.1)) ++ [(32 + b, BitVec.ofNat 8 x)], u)
  else
    let (blk, u) := encodeKb ((kbM fmt).getD 2) mode xs t
    ((leBytes (blockBytes fmt) blk).zipIdx.map (fun p => (blockBytes fmt * b + p.2, p.1)), u)

/-- Encode the blocks of a list, in order; a block without an active lane is not written (R248). -/
def encodeBlocks (fmt mode : Nat) (m : LaneMask) (v : Vec) : List Nat → RStream → List (Nat × Byte) × RStream
  | [], t => ([], t)
  | b :: bs, t =>
    let n := if fmt = 0xA then 32 else 16
    let ks := (List.range n).map (fun i => n * b + i)
    let (out, t1) := if ks.any (fun k => m.getLsbD k) then
        encodeBlock fmt mode b (ks.map (fun k => if m.getLsbD k then laneF v k else .fin false 0 0 false)) t
      else ([], t)
    let (rest, t2) := encodeBlocks fmt mode m v bs t1
    (out ++ rest, t2)

/-- First byte of the zero tail of an encoded vector. -/
def blockTail (fmt : Nat) : Nat := if fmt = 0xA then 34 else 4 * blockBytes fmt

/-- The bytes an encoding word writes: blocks, tail, and with Z every byte (R248). -/
def encodedBytes (f : VFields) (out : List (Nat × Byte)) : List (Nat × Byte) :=
  (List.range 256).filterMap (fun k =>
    match out.find? (fun p => p.1 == k) with
    | some p => some p
    | none => if blockTail f.fmt.toNat ≤ k ∨ f.z then some (k, (0 : Byte)) else none)

/-- Write single bytes of a vector destination: the units with a byte that is written (R175). -/
def State.putVecBytes (s : State) (e code addr : Nat) (out : List (Nat × Byte)) (L : Nat) : State :=
  if code < 32 then
    s.wVlanes e code (BitVec.ofNat 2048 (out.foldl (fun v p => putBits v (8 * p.1) 8 p.2.toNat) (s.oldVec e code).toNat)) L
      (out.foldl (fun u p => u ||| 2 ^ (p.1 / 4)) 0)
  else out.foldl (fun t p => t.localWrite e (addr + p.1) [p.2]) s

/-- VCVT. -/
def execVcvt (g : Gate) (f : VFields) (lit : Option Dword) (s : State) : Answer :=
  let scl := f.imm.getLsbD 0
  let reads := vreads f (if scl then 2 else 1) lit
  let srcA (t : State) (e : Nat) : Vec := if scl then t.opA f none e else t.opA f lit e
  if 10 ≤ f.fmt.toNat then
    runPop (.vcvt g f lit) 3 (fun t => t.useV (f.vd.toNat :: reads)) (fun t => t.portCheck 3 reads [f.vd.toNat])
      (fun t => (t.each (t.acting g) (fun u e =>
        let m := t.laneMask e f.lq f.ln
        let (out, st) := encodeBlocks f.fmt.toNat f.rm.toNat m (srcA t e) (List.range (if f.fmt = 10 then 2 else 4)) (u.stream e)
        (u.putVecBytes e f.vd.toNat (t.portAddr (f.vd.toNat - 32)) (encodedBytes f out) 4).putStream e st)).popAll (f.vd.toNat :: reads)) s
  else if 10 ≤ f.fmt2.toNat then
    vecWord (.vcvt g f lit) g f reads 4 free
      (fun t e m st =>
        let a := srcA t e
        eachLane m (fun k r => RStream.roundF r fFP32 f.rm.toNat (unblock f.fmt2.toNat a k)) st) s
  else
    vecWord (.vcvt g f lit) g f reads 4 free
      (fun t e m st =>
        let a := srcA t e
        let b := t.opB f lit e
        eachLane m (fun k r => convLane f (laneN a k) (if scl then some (bits (laneN b k) 0 8) else none) r) st) s

/-! ## Packing (R249) -/

/-- The dense vector after VPACK. -/
def packed (f : VFields) (w : Nat) (m : LaneMask) (old v : Vec) : Nat :=
  (List.range 64).foldl (fun d k =>
    if m.getLsbD k then putBits d (f.imm.toNat * 64 * w + k * w) w (laneN v k)
    else if f.z then putBits d (f.imm.toNat * 64 * w + k * w) w 0 else d) old.toNat

/-- VPACK: vd is a source too, read as the bundle finds it (R174, R249); a write port's memory is the vector it updates. -/
def execVpack (g : Gate) (f : VFields) (lit : Option Dword) (s : State) : Answer :=
  let w := (packWidth f.fmt.toNat).getD 16
  let reads := vreads f 1 lit
  runPop (.vpack g f lit) 3 (fun t => t.useV (f.vd.toNat :: reads)) (fun t => t.portCheck 3 reads [f.vd.toNat])
    (fun t => (t.each (t.acting g) (fun u e =>
      let m := t.laneMask e f.lq f.ln
      let addr := t.portAddr (f.vd.toNat - 32)
      let v := t.opA f lit e
      if f.vd.toNat < 32 then u.wV e f.vd.toNat (BitVec.ofNat 2048 (packed f w m (t.rV e f.vd.toNat) v)) 4
      else
        let out := packed f w m (vecOfBytes (u.localRead e addr 256)) v
        u.localWrite e (addr + f.imm.toNat * 8 * w) (bytesAt out (f.imm.toNat * 8 * w) (8 * w)))).popAll (f.vd.toNat :: reads)) s

/-- VUNPK. -/
def execVunpk (g : Gate) (f : VFields) (lit : Option Dword) (s : State) : Answer :=
  let w := (packWidth f.fmt.toNat).getD 16
  plainWord (.vunpk g f lit) g f 1 lit 4 (fun _ _ a _ k =>
    let x := bits a.toNat (f.imm.toNat * 64 * w + k * w) w
    if f.sub = 1 then wrapInt 32 (toSigned w x) else x) s

/-! ## Reductions, scans, permutes (R250 to R252) -/

/-- The lanes of a vector with the identity in inactive lanes. -/
def reduceLanes (f : VFields) (m : LaneMask) (v : Vec) : List Nat :=
  (List.range 64).map (fun k => if m.getLsbD k then laneN v k else redIdentity f.sub.toNat)

/-- VREDS. -/
def execVreds (g : Gate) (f : VFields) (lit : Option Dword) (s : State) : Answer :=
  vecWord (.vreds g f lit) g f (vreads f 1 lit) 10 free (fun t e m st =>
    let (x, fl) := treeRed f.sub.toNat 6 (reduceLanes f m (t.opA f lit e))
    (List.replicate 64 x, ⟨st.gen, st.flags ||| fl⟩)) s

/-- VSCAN. -/
def execVscan (g : Gate) (f : VFields) (lit : Option Dword) (s : State) : Answer :=
  vecWord (.vscan g f lit) g f (vreads f 1 lit) 10 free (fun t e m st =>
    let xs := scanRed f.sub.toNat (reduceLanes f m (t.opA f lit e))
    (xs.map Prod.fst, ⟨st.gen, (xs.zipIdx.filter (fun p => m.getLsbD p.2)).foldl (fun a p => a ||| p.1.2) st.flags⟩)) s

/-- VPERM, and with SUB 1 a table of 128 lanes. -/
def execVperm (g : Gate) (f : VFields) (lit : Option Dword) (s : State) : Answer :=
  plainWord (.vperm g f lit) g f (if f.sub = 1 then 3 else 2) lit 4 (fun t e a b k =>
    let i := laneN b k
    if f.sub = 1 ∧ i.testBit 6 then laneN (t.rVec e f.vc.toNat) (i % 64) else laneN a (i % 64)) s

/-- VLANE.iota, .rot and .dup for lane k. -/
def vlaneAt (f : VFields) (v : Vec) (k : Nat) : Nat :=
  match f.sub.toNat with
  | 0 => k + f.imm.toNat
  | 3 => laneN v ((k + f.imm.toNat) % 64)
  | _ => laneN v (f.imm.toNat % 64)

/-- VLANE.cmp: selected lanes compacted, zeros after them. -/
def compacted (v : Vec) (q : LaneMask) : List Nat :=
  let xs := ((List.range 64).filter (fun k => q.getLsbD k)).map (fun k => laneN v k)
  xs ++ List.replicate (64 - xs.length) 0

/-- VLANE. -/
def execVlane (g : Gate) (f : VFields) (lit : Option Dword) (s : State) : Answer :=
  let reads := if f.sub = 0 then [] else vreads f 1 lit
  if f.sub = 1 then
    vecWord (.vlane g f lit) g f reads 4 free (fun t e _ st => (compacted (t.opA f lit e) (t.rQ e f.qc), st)) s
  else if f.sub = 2 then
    runPop (.vlane g f lit) 3 (fun t => t.useV (f.vd.toNat :: reads)) (fun t => t.portCheck 3 reads [f.vd.toNat])
      (fun t => (t.each (t.acting g) (fun u e =>
        let q := t.rQ e f.qc
        let new := (List.range 64).map (fun k => laneN (t.opA f lit e) (countBits q.toNat k))
        u.putVec e f.vd.toNat (t.portAddr (f.vd.toNat - 32)) (t.laneMask e f.lq f.ln &&& q) f.z new 4)).popAll (f.vd.toNat :: reads)) s
  else
    vecWord (.vlane g f lit) g f reads 4 free (fun t e _ st => plainLanes (vlaneAt f (if f.sub = 0 then 0 else t.opA f lit e)) st) s

end Sys2Proof.Machine
end

