-- ==== Sys2Proof/Machine/Dispatch.lean ====
section
/-! DEFINITION. The dispatch: one arm per constructor of Instr, each one direct call of its meaning. -/
namespace Sys2Proof.Machine

/-- The meaning of an instruction. -/
def exec (i : Instr) (s : State) : Host.Outcome State Fault Refusal :=
  match i with
  | .nop g => Sys2Proof.Machine.execNop g s
  | .nopw g n => Sys2Proof.Machine.execNopw g n s
  | .br g off => Sys2Proof.Machine.execBr g off s
  | .brLong g target => Sys2Proof.Machine.execBrLong g target s
  | .brf g p cond off => Sys2Proof.Machine.execBrf g p cond off s
  | .brfLong g p cond target => Sys2Proof.Machine.execBrfLong g p cond target s
  | .jmpi g sh sI sN => Sys2Proof.Machine.execJmpi g sh sI sN s
  | .call g off => Sys2Proof.Machine.execCall g off s
  | .callLong g target => Sys2Proof.Machine.execCallLong g target s
  | .ret g sN => Sys2Proof.Machine.execRet g sN s
  | .loop g imm sC x lit => Sys2Proof.Machine.execLoop g imm sC x lit s
  | .loopx g imm sC x lit => Sys2Proof.Machine.execLoopx g imm sC x lit s
  | .brp g p pneg off => Sys2Proof.Machine.execBrp g p pneg off s
  | .brpLong g p pneg target => Sys2Proof.Machine.execBrpLong g p pneg target s
  | .join g => Sys2Proof.Machine.execJoin g s
  | .jinit g sM j => Sys2Proof.Machine.execJinit g sM j s
  | .jinitLiteral g j lit => Sys2Proof.Machine.execJinitLiteral g j lit s
  | .jarv g j => Sys2Proof.Machine.execJarv g j s
  | .jwait g j => Sys2Proof.Machine.execJwait g j s
  | .split g p pneg off => Sys2Proof.Machine.execSplit g p pneg off s
  | .splitLong g p pneg target => Sys2Proof.Machine.execSplitLong g p pneg target s
  | .merge g => Sys2Proof.Machine.execMerge g s
  | .regrp g h => Sys2Proof.Machine.execRegrp g h s
  | .pass g => Sys2Proof.Machine.execPass g s
  | .park g sT => Sys2Proof.Machine.execPark g sT s
  | .spawn g sA => Sys2Proof.Machine.execSpawn g sA s
  | .exit g => Sys2Proof.Machine.execExit g s
  | .done g => Sys2Proof.Machine.execDone g s
  | .idemb g => Sys2Proof.Machine.execIdemb g s
  | .ideme g => Sys2Proof.Machine.execIdeme g s
  | .gnew g sA sN hD => Sys2Proof.Machine.execGnew g sA sN hD s
  | .gjoin g sN hD => Sys2Proof.Machine.execGjoin g sN hD s
  | .gleave g cnt h => Sys2Proof.Machine.execGleave g cnt h s
  | .garv g cnt h => Sys2Proof.Machine.execGarv g cnt h s
  | .gwait g h => Sys2Proof.Machine.execGwait g h s
  | .gbar g cnt h => Sys2Proof.Machine.execGbar g cnt h s
  | .gvote g cnt f h sD => Sys2Proof.Machine.execGvote g cnt f h sD s
  | .grdc g cnt h sC sD op sS => Sys2Proof.Machine.execGrdc g cnt h sC sD op sS s
  | .gwin g h => Sys2Proof.Machine.execGwin g h s
  | .gqry g sel h sD => Sys2Proof.Machine.execGqry g sel h sD s
  | .trap g code => Sys2Proof.Machine.execTrap g code s
  | .trapLiteral g code => Sys2Proof.Machine.execTrapLiteral g code s
  | .sysret g => Sys2Proof.Machine.execSysret g s
  | .brk g code => Sys2Proof.Machine.execBrk g code s
  | .csrd g cr sD => Sys2Proof.Machine.execCsrd g cr sD s
  | .cswr g cr sS => Sys2Proof.Machine.execCswr g cr sS s
  | .cswrLiteral g cr lit => Sys2Proof.Machine.execCswrLiteral g cr lit s
  | .brdl g off sM => Sys2Proof.Machine.execBrdl g off sM s
  | .brdlLong g sM target => Sys2Proof.Machine.execBrdlLong g sM target s
  | .add g sb sa sd => Sys2Proof.Machine.execAdd g sb sa sd s
  | .addLiteral g sa sd lit => Sys2Proof.Machine.execAddLiteral g sa sd lit s
  | .sub g sb sa sd => Sys2Proof.Machine.execSub g sb sa sd s
  | .subLiteral g sa sd lit => Sys2Proof.Machine.execSubLiteral g sa sd lit s
  | .mul g sb sa sd => Sys2Proof.Machine.execMul g sb sa sd s
  | .mulLiteral g sa sd lit => Sys2Proof.Machine.execMulLiteral g sa sd lit s
  | .mulh g sb sa sd => Sys2Proof.Machine.execMulh g sb sa sd s
  | .mulhLiteral g sa sd lit => Sys2Proof.Machine.execMulhLiteral g sa sd lit s
  | .mulhu g sb sa sd => Sys2Proof.Machine.execMulhu g sb sa sd s
  | .mulhuLiteral g sa sd lit => Sys2Proof.Machine.execMulhuLiteral g sa sd lit s
  | .divs g sb sa sd => Sys2Proof.Machine.execDivs g sb sa sd s
  | .divsLiteral g sa sd lit => Sys2Proof.Machine.execDivsLiteral g sa sd lit s
  | .divu g sb sa sd => Sys2Proof.Machine.execDivu g sb sa sd s
  | .divuLiteral g sa sd lit => Sys2Proof.Machine.execDivuLiteral g sa sd lit s
  | .rems g sb sa sd => Sys2Proof.Machine.execRems g sb sa sd s
  | .remsLiteral g sa sd lit => Sys2Proof.Machine.execRemsLiteral g sa sd lit s
  | .remu g sb sa sd => Sys2Proof.Machine.execRemu g sb sa sd s
  | .remuLiteral g sa sd lit => Sys2Proof.Machine.execRemuLiteral g sa sd lit s
  | .and g sb sa sd => Sys2Proof.Machine.execAnd g sb sa sd s
  | .andLiteral g sa sd lit => Sys2Proof.Machine.execAndLiteral g sa sd lit s
  | .or g sb sa sd => Sys2Proof.Machine.execOr g sb sa sd s
  | .orLiteral g sa sd lit => Sys2Proof.Machine.execOrLiteral g sa sd lit s
  | .xor g sb sa sd => Sys2Proof.Machine.execXor g sb sa sd s
  | .xorLiteral g sa sd lit => Sys2Proof.Machine.execXorLiteral g sa sd lit s
  | .andn g sb sa sd => Sys2Proof.Machine.execAndn g sb sa sd s
  | .andnLiteral g sa sd lit => Sys2Proof.Machine.execAndnLiteral g sa sd lit s
  | .shl g sb sa sd => Sys2Proof.Machine.execShl g sb sa sd s
  | .shlLiteral g sa sd lit => Sys2Proof.Machine.execShlLiteral g sa sd lit s
  | .shr g sb sa sd => Sys2Proof.Machine.execShr g sb sa sd s
  | .shrLiteral g sa sd lit => Sys2Proof.Machine.execShrLiteral g sa sd lit s
  | .sar g sb sa sd => Sys2Proof.Machine.execSar g sb sa sd s
  | .sarLiteral g sa sd lit => Sys2Proof.Machine.execSarLiteral g sa sd lit s
  | .rotl g sb sa sd => Sys2Proof.Machine.execRotl g sb sa sd s
  | .rotlLiteral g sa sd lit => Sys2Proof.Machine.execRotlLiteral g sa sd lit s
  | .mins g sb sa sd => Sys2Proof.Machine.execMins g sb sa sd s
  | .minsLiteral g sa sd lit => Sys2Proof.Machine.execMinsLiteral g sa sd lit s
  | .minu g sb sa sd => Sys2Proof.Machine.execMinu g sb sa sd s
  | .minuLiteral g sa sd lit => Sys2Proof.Machine.execMinuLiteral g sa sd lit s
  | .maxs g sb sa sd => Sys2Proof.Machine.execMaxs g sb sa sd s
  | .maxsLiteral g sa sd lit => Sys2Proof.Machine.execMaxsLiteral g sa sd lit s
  | .maxu g sb sa sd => Sys2Proof.Machine.execMaxu g sb sa sd s
  | .maxuLiteral g sa sd lit => Sys2Proof.Machine.execMaxuLiteral g sa sd lit s
  | .cmp g fc sb sa fd comb cond lit => Sys2Proof.Machine.execCmp g fc sb sa fd comb cond lit s
  | .flop g tt fb fa fd => Sys2Proof.Machine.execFlop g tt fb fa fd s
  | .sel g sb sa sd fc => Sys2Proof.Machine.execSel g sb sa sd fc s
  | .mov g sa sd => Sys2Proof.Machine.execMov g sa sd s
  | .movi g imm sd => Sys2Proof.Machine.execMovi g imm sd s
  | .moviLiteral g sd lit => Sys2Proof.Machine.execMoviLiteral g sd lit s
  | .lea g sb sa sd disp sh lit => Sys2Proof.Machine.execLea g sb sa sd disp sh lit s
  | .clz g sa sd => Sys2Proof.Machine.execClz g sa sd s
  | .ctz g sa sd => Sys2Proof.Machine.execCtz g sa sd s
  | .popc g sa sd => Sys2Proof.Machine.execPopc g sa sd s
  | .bfx g sa sd sgn wid pos => Sys2Proof.Machine.execBfx g sa sd sgn wid pos s
  | .bfi g sa sd wid pos => Sys2Proof.Machine.execBfi g sa sd wid pos s
  | .bcst g sa => Sys2Proof.Machine.execBcst g sa s
  | .bcstLiteral g lit => Sys2Proof.Machine.execBcstLiteral g lit s
  | .cxs g f => Sys2Proof.Machine.execCxs g f s
  | .cxsi g f => Sys2Proof.Machine.execCxsi g f s
  | .cxv g f => Sys2Proof.Machine.execCxv g f s
  | .cxvi g f => Sys2Proof.Machine.execCxvi g f s
  | .vadd g f lit => Sys2Proof.Machine.execVadd g f lit s
  | .vsub g f lit => Sys2Proof.Machine.execVsub g f lit s
  | .vmul g f lit => Sys2Proof.Machine.execVmul g f lit s
  | .vfma g f lit => Sys2Proof.Machine.execVfma g f lit s
  | .vmax g f lit => Sys2Proof.Machine.execVmax g f lit s
  | .vmin g f lit => Sys2Proof.Machine.execVmin g f lit s
  | .vabs g f lit => Sys2Proof.Machine.execVabs g f lit s
  | .vneg g f lit => Sys2Proof.Machine.execVneg g f lit s
  | .vrcp g f lit => Sys2Proof.Machine.execVrcp g f lit s
  | .vrsq g f lit => Sys2Proof.Machine.execVrsq g f lit s
  | .vexp g f lit => Sys2Proof.Machine.execVexp g f lit s
  | .vlog g f lit => Sys2Proof.Machine.execVlog g f lit s
  | .vtanh g f lit => Sys2Proof.Machine.execVtanh g f lit s
  | .viadd g f lit => Sys2Proof.Machine.execViadd g f lit s
  | .visub g f lit => Sys2Proof.Machine.execVisub g f lit s
  | .vimul g f lit => Sys2Proof.Machine.execVimul g f lit s
  | .vimad g f lit => Sys2Proof.Machine.execVimad g f lit s
  | .vimin g f lit => Sys2Proof.Machine.execVimin g f lit s
  | .vimax g f lit => Sys2Proof.Machine.execVimax g f lit s
  | .vand g f lit => Sys2Proof.Machine.execVand g f lit s
  | .vor g f lit => Sys2Proof.Machine.execVor g f lit s
  | .vxor g f lit => Sys2Proof.Machine.execVxor g f lit s
  | .vshl g f lit => Sys2Proof.Machine.execVshl g f lit s
  | .vshr g f lit => Sys2Proof.Machine.execVshr g f lit s
  | .vsar g f lit => Sys2Proof.Machine.execVsar g f lit s
  | .vcmp g f lit => Sys2Proof.Machine.execVcmp g f lit s
  | .vsel g f lit => Sys2Proof.Machine.execVsel g f lit s
  | .vmov g f lit => Sys2Proof.Machine.execVmov g f lit s
  | .vcvt g f lit => Sys2Proof.Machine.execVcvt g f lit s
  | .vpack g f lit => Sys2Proof.Machine.execVpack g f lit s
  | .vunpk g f lit => Sys2Proof.Machine.execVunpk g f lit s
  | .vreds g f lit => Sys2Proof.Machine.execVreds g f lit s
  | .vscan g f lit => Sys2Proof.Machine.execVscan g f lit s
  | .vperm g f lit => Sys2Proof.Machine.execVperm g f lit s
  | .vlane g f lit => Sys2Proof.Machine.execVlane g f lit s
  | .vqcnt g f lit => Sys2Proof.Machine.execVqcnt g f lit s
  | .vcmps g f lit => Sys2Proof.Machine.execVcmps g f lit s
  | .vqop g f lit => Sys2Proof.Machine.execVqop g f lit s
  | .mma g ad oa ob zs za => Sys2Proof.Machine.execMma g ad oa ob zs za s
  | .mmsp g ad oa ob zs za om => Sys2Proof.Machine.execMmsp g ad oa ob zs za om s
  | .kvmm g ad oq vk zs za => Sys2Proof.Machine.execKvmm g ad oq vk zs za s
  | .kvmv g ad oq vk zs za dsel => Sys2Proof.Machine.execKvmv g ad oq vk zs za dsel s
  | .gmma g ad oa vi zs za sT sC => Sys2Proof.Machine.execGmma g ad oa vi zs za sT sC s
  | .oclm g n o => Sys2Proof.Machine.execOclm g n o s
  | .orel g n o => Sys2Proof.Machine.execOrel g n o s
  | .old g o sA sS tr fmt pitch => Sys2Proof.Machine.execOld g o sA sS tr fmt pitch s
  | .otag g sU setf fmt o => Sys2Proof.Machine.execOtag g sU setf fmt o s
  | .otagQ g sU pd o => Sys2Proof.Machine.execOtagQ g sU pd o s
  | .otagLiteral g q setf fmt o lit => Sys2Proof.Machine.execOtagLiteral g q setf fmt o lit s
  | .azro g a => Sys2Proof.Machine.execAzro g a s
  | .aadd g int zs as_ ad => Sys2Proof.Machine.execAadd g int zs as_ ad s
  | .adrn g f => Sys2Proof.Machine.execAdrn g f s
  | .shp g zd vsrc va sS wm lit => Sys2Proof.Machine.execShp g zd vsrc va sS wm lit s
  | .dstq g ok sel an pd => Sys2Proof.Machine.execDstq g ok sel an pd s
  | .scl g va side => Sys2Proof.Machine.execScl g va side s
  | .scli g rx cx side lit => Sys2Proof.Machine.execScli g rx cx side lit s
  | .sclz g => Sys2Proof.Machine.execSclz g s
  | .lds g sgn sz sA sD => Sys2Proof.Machine.execLds g sgn sz sA sD s
  | .ldsLiteral g sgn sz sA sD lit => Sys2Proof.Machine.execLdsLiteral g sgn sz sA sD lit s
  | .sts g sz sA sS => Sys2Proof.Machine.execSts g sz sA sS s
  | .stsLiteral g sz sA sS lit => Sys2Proof.Machine.execStsLiteral g sz sA sS lit s
  | .lda g f lit => Sys2Proof.Machine.execLda g f lit s
  | .stl g f lit => Sys2Proof.Machine.execStl g f lit s
  | .stx g f lit => Sys2Proof.Machine.execStx g f lit s
  | .atom g f lit => Sys2Proof.Machine.execAtom g f lit s
  | .atcas g f lit => Sys2Proof.Machine.execAtcas g f lit s
  | .vld g f lit => Sys2Proof.Machine.execVld g f lit s
  | .vst g f lit => Sys2Proof.Machine.execVst g f lit s
  | .vldp g f lit => Sys2Proof.Machine.execVldp g f lit s
  | .vstp g f lit => Sys2Proof.Machine.execVstp g f lit s
  | .vldg g f lit => Sys2Proof.Machine.execVldg g f lit s
  | .vstg g f lit => Sys2Proof.Machine.execVstg g f lit s
  | .vatom g f lit => Sys2Proof.Machine.execVatom g f lit s
  | .port g gN sL sH boff lit => Sys2Proof.Machine.execPort g gN sL sH boff lit s
  | .cpy g sP sT => Sys2Proof.Machine.execCpy g sP sT s
  | .cpyl g f => Sys2Proof.Machine.execCpyl g f s
  | .cpyw g f => Sys2Proof.Machine.execCpyw g f s
  | .cpyk g sT vK sD nblk comm => Sys2Proof.Machine.execCpyk g sT vK sD nblk comm s
  | .fence g scope kind => Sys2Proof.Machine.execFence g scope kind s
  | .pfx g sA disp lines lit => Sys2Proof.Machine.execPfx g sA disp lines lit s
  | .xpf g w sE sR layer => Sys2Proof.Machine.execXpf g w sE sR layer s
  | .cwb g sA => Sys2Proof.Machine.execCwb g sA s
  | .cinv g sA => Sys2Proof.Machine.execCinv g sA s
  | .pbinv g sA => Sys2Proof.Machine.execPbinv g sA s
  | .pgmap g sV sD sz zf perm => Sys2Proof.Machine.execPgmap g sV sD sz zf perm s
  | .tinv g kind sA sT => Sys2Proof.Machine.execTinv g kind sA sT s
  | .btinv g sK sT nblk all => Sys2Proof.Machine.execBtinv g sK sT nblk all s
  | .kvseq g op sV sQ sD => Sys2Proof.Machine.execKvseq g op sV sQ sD s
  | .kvseqLiteral g op sQ sD lit => Sys2Proof.Machine.execKvseqLiteral g op sQ sD lit s
  | .xshf g f => Sys2Proof.Machine.execXshf g f s
  | .xred g f => Sys2Proof.Machine.execXred g f s
  | .xbc g f => Sys2Proof.Machine.execXbc g f s
  | .xvot g vd sD pn ps => Sys2Proof.Machine.execXvot g vd sD pn ps s
  | .xpick g f => Sys2Proof.Machine.execXpick g f s
  | .xsnd g opnd ch => Sys2Proof.Machine.execXsnd g opnd ch s
  | .xrcv g opnd ch => Sys2Proof.Machine.execXrcv g opnd ch s
  | .xrca g opnd ch => Sys2Proof.Machine.execXrca g opnd ch s
  | .xchs g sD ch => Sys2Proof.Machine.execXchs g sD ch s
  | .chld g sA ch => Sys2Proof.Machine.execChld g sA ch s
  | .kld g psel sA sD => Sys2Proof.Machine.execKld g psel sA sD s
  | .kldLiteral g psel sD lit => Sys2Proof.Machine.execKldLiteral g psel sD lit s
  | .kgo g sR sP => Sys2Proof.Machine.execKgo g sR sP s
  | .kwt g rel sP sD => Sys2Proof.Machine.execKwt g rel sP sD s
  | .send k d => Sys2Proof.Machine.execSend k d s
  | .recv k d => Sys2Proof.Machine.execRecv k d s
  | .rdc k d => Sys2Proof.Machine.execRdc k d s
  | .copy k d => Sys2Proof.Machine.execCopy k d s
  | .waitCnt k cw wv imm => Sys2Proof.Machine.execWaitCnt k cw wv imm s
  | .waitGrp k wv wh => Sys2Proof.Machine.execWaitGrp k wv wh s
  | .waitTs k => Sys2Proof.Machine.execWaitTs k s
  | .sigArv k wn => Sys2Proof.Machine.execSigArv k wn s
  | .sigJoin k wd wn => Sys2Proof.Machine.execSigJoin k wd wn s
  | .sigLeave k wn => Sys2Proof.Machine.execSigLeave k wn s
  | .sigNew k wd wn wa => Sys2Proof.Machine.execSigNew k wd wn wa s
  | .sigStl k wn wa imm => Sys2Proof.Machine.execSigStl k wn wa imm s
  | .kuborLoop k f => Sys2Proof.Machine.execKuborLoop k f s
  | .brc k wa wb cond off => Sys2Proof.Machine.execBrc k wa wb cond off s
  | .kend k => Sys2Proof.Machine.execKend k s
  | .abort x => Sys2Proof.Machine.execAbort x s
  | .srseed x => Sys2Proof.Machine.execSrseed x s
  | .fqnext x => Sys2Proof.Machine.execFqnext x s
  | .kcurWrite x => Sys2Proof.Machine.execKcurWrite x s
  | .asyncRoundEntry cid => Sys2Proof.Machine.execAsyncRoundEntry cid s
  | .asyncOpStop op => Sys2Proof.Machine.execAsyncOpStop op s
  | .copyComplete op => Sys2Proof.Machine.execCopyComplete op s
  | .oldLoadComplete eng slot => Sys2Proof.Machine.execOldLoadComplete eng slot s
  | .loadDataReturn cid n => Sys2Proof.Machine.execLoadDataReturn cid n s
  | .channelElementArrival ch eid => Sys2Proof.Machine.execChannelElementArrival ch eid s
  | .invalidationComplete op => Sys2Proof.Machine.execInvalidationComplete op s
  | .translationWalk core x10 x11 x12 x13 => Sys2Proof.Machine.execTranslationWalk core x10 x11 x12 x13 s
  | .segmentFetch cid w => Sys2Proof.Machine.execSegmentFetch cid w s
  | .binTimer die bin => Sys2Proof.Machine.execBinTimer die bin s
  | .stealAge die bin => Sys2Proof.Machine.execStealAge die bin s
  | .steal die => Sys2Proof.Machine.execSteal die s
  | .binLaunch die bin gang ctx => Sys2Proof.Machine.execBinLaunch die bin gang ctx s
  | .waitingItemFile die => Sys2Proof.Machine.execWaitingItemFile die s
  | .itemReady cid => Sys2Proof.Machine.execItemReady cid s
  | .parkWake cid => Sys2Proof.Machine.execParkWake cid s
  | .cwthrExpiry cid => Sys2Proof.Machine.execCwthrExpiry cid s
  | .preempt cid => Sys2Proof.Machine.execPreempt cid s
  | .resume cid gang ctx => Sys2Proof.Machine.execResume cid gang ctx s
  | .deferredPark cid => Sys2Proof.Machine.execDeferredPark cid s
  | .candidateAge die n => Sys2Proof.Machine.execCandidateAge die n s
  | .coresGroupResume gid => Sys2Proof.Machine.execCoresGroupResume gid s
  | .regionFree region => Sys2Proof.Machine.execRegionFree region s
  | .xpFillComplete die buf => Sys2Proof.Machine.execXpFillComplete die buf s
  | .readyToReceive coll peer tag size dest => Sys2Proof.Machine.execReadyToReceive coll peer tag size dest s
  | .rendezvousTimeout slot => Sys2Proof.Machine.execRendezvousTimeout slot s
  | .peerAbort coll => Sys2Proof.Machine.execPeerAbort coll s
  | .kuborDataComplete coll n x => Sys2Proof.Machine.execKuborDataComplete coll n x s
  | .timedIssue slot => Sys2Proof.Machine.execTimedIssue slot s
  | .launch pa => Sys2Proof.Machine.execLaunch pa s
  | .launchComplete => Sys2Proof.Machine.execLaunchComplete s
  | .retire region => Sys2Proof.Machine.execRetire region s
  | .refresh region => Sys2Proof.Machine.execRefresh region s
  | .hold region => Sys2Proof.Machine.execHold region s
  | .release region => Sys2Proof.Machine.execRelease region s
  | .rstctl v => Sys2Proof.Machine.execRstctl v s
  | .registerWrite cap off v => Sys2Proof.Machine.execRegisterWrite cap off v s
  | .memoryBarRead off width => Sys2Proof.Machine.execMemoryBarRead off width s
  | .memoryBarWrite off data => Sys2Proof.Machine.execMemoryBarWrite off data s
  | .fwEnable n v => Sys2Proof.Machine.execFwEnable n v s
  | .fwDisable n v => Sys2Proof.Machine.execFwDisable n v s
  | .halt => Sys2Proof.Machine.execHalt s
  | .run => Sys2Proof.Machine.execRun s
  | .step => Sys2Proof.Machine.execStep s
  | .stepall => Sys2Proof.Machine.execStepall s
  | .debugEnableSet => Sys2Proof.Machine.execDebugEnableSet s
  | .debugEnableClear => Sys2Proof.Machine.execDebugEnableClear s
  | .dbgdata v => Sys2Proof.Machine.execDbgdata v s
  | .lwin n v => Sys2Proof.Machine.execLwin n v s
  | .xpctl die v => Sys2Proof.Machine.execXpctl die v s
  | .stctl v => Sys2Proof.Machine.execStctl v s
  | .promote k => Sys2Proof.Machine.execPromote k s
  | .demote k => Sys2Proof.Machine.execDemote k s
  | .replace k => Sys2Proof.Machine.execReplace k s
  | .refetch k => Sys2Proof.Machine.execRefetch k s
  | .nvmeCompletion req ok => Sys2Proof.Machine.execNvmeCompletion req ok s
  | .start => Sys2Proof.Machine.execStart s
  | .checkpointTransfer => Sys2Proof.Machine.execCheckpointTransfer s
  | .restore => Sys2Proof.Machine.execRestore s
  | .enterGangIdle gang => Sys2Proof.Machine.execEnterGangIdle gang s
  | .enterDieRetention die => Sys2Proof.Machine.execEnterDieRetention die s
  | .enterPackageStandby => Sys2Proof.Machine.execEnterPackageStandby s
  | .wake u => Sys2Proof.Machine.execWake u s
  | .currentGrant => Sys2Proof.Machine.execCurrentGrant s
  | .ttctl die v => Sys2Proof.Machine.execTtctl die v s
  | .tdom v => Sys2Proof.Machine.execTdom v s
  | .tsnap v => Sys2Proof.Machine.execTsnap v s
  | .gret v => Sys2Proof.Machine.execGret v s
  | .gangErrorRetire gang => Sys2Proof.Machine.execGangErrorRetire gang s
  | .hbmChannelSpare stack channel => Sys2Proof.Machine.execHbmChannelSpare stack channel s
  | .laneFailure port => Sys2Proof.Machine.execLaneFailure port s
  | .scrub => Sys2Proof.Machine.execScrub s
  | .eccUncorrectable v => Sys2Proof.Machine.execEccUncorrectable v s
  | .boot => Sys2Proof.Machine.execBoot s
  | .bootimg v => Sys2Proof.Machine.execBootimg v s
  | .attreq v => Sys2Proof.Machine.execAttreq v s
  | .keyld v => Sys2Proof.Machine.execKeyld v s
  | .linkMemoryArrival op => Sys2Proof.Machine.execLinkMemoryArrival op s
  | .multiplyReadsDone op => Sys2Proof.Machine.execMultiplyReadsDone op s
  | .flitReplay port => Sys2Proof.Machine.execFlitReplay port s
  | .hbmSpareCopyDone stack channel => Sys2Proof.Machine.execHbmSpareCopyDone stack channel s

end Sys2Proof.Machine
end

