-- ==== Sys2Proof/Machine/Banks.lean ====
section
/-!
DEFINITION. The scratchpad banks that a bundle's words reach directly, and the cycles for which it holds its context (R63, R64, R348).
What the two contexts and the traffic of copies do to each other at a bank is left out (log 44).
-/
namespace Sys2Proof.Machine

/-- Words of one engine's scratchpad that one access reaches: a row of 64 words from a word up, or single words. -/
structure BankUse where
  eng   : Nat
  row   : Option Nat
  words : List Nat
  deriving DecidableEq, Repr

/-- The words that an access reaches in a bank (R63). -/
def BankUse.inBank (u : BankUse) (b : Nat) : List Nat :=
  match u.row with
  | some w => [w + (b + 64 - w % 64) % 64]
  | none => u.words.filter (fun w => w % 64 == b)

/-- How many distinct words some accesses to one engine reach in one bank, at most. -/
def bankPeak (l : List BankUse) : Nat :=
  match l with
  | [] => 0
  | [⟨_, some _, _⟩] => 1
  | _ => (List.range 64).foldl (fun m b => max m ((l.flatMap (fun u => u.inBank b)).eraseDups.length)) 0

/-- The largest number of distinct words that a list of accesses reaches in one bank (R348). -/
def bankWords (l : List BankUse) : Nat :=
  ((l.map BankUse.eng).eraseDups.map (fun e => bankPeak (l.filter (fun u => u.eng == e)))).foldl max 0

/-- A row of 256 bytes at an engine-local address of engine e. -/
def State.bankRow (s : State) (e a : Nat) : List BankUse :=
  match s.localAt a 256 with
  | some (g, o) => [⟨g * 16 + e, some (o / 4), []⟩]
  | none => []

/-- Single words at engine-local addresses of engine e. -/
def State.bankCells (s : State) (e : Nat) (l : List Nat) : List BankUse :=
  l.filterMap (fun a => (s.localAt a 4).map (fun x => ⟨x.1 * 16 + e, none, [x.2 / 4]⟩))

/-- The rows that the ports among some operand codes reach, before their pops. -/
def State.bankPorts (s : State) (codes : List (BitVec 6)) : List BankUse :=
  s.actives.flatMap (fun e => (portsOf (codes.map BitVec.toNat)).flatMap (fun k => s.bankRow e (s.portAddr k)))

/-- The words of the active lanes of a gathered word. -/
def State.bankGather (s : State) (g : Gate) (f : MemFields) (lit : Option Dword) : List BankUse :=
  if f.spc then (s.acting g).flatMap (fun e =>
    s.bankCells e ((laneList (s.laneMask e f.lq f.ln)).map (fun k => (gatherAt (s.engBase e f.sA f.sE f.disp lit) (s.rVec e f.vI.toNat) f.sh k).toNat)))
  else []

/-- The words of the active lanes of a private access (R64). -/
def State.bankPrivate (s : State) (g : Gate) (f : MemFields) (lit : Option Dword) : List BankUse :=
  (s.acting g).flatMap (fun e => (laneList (s.laneMask e f.lq f.ln)).flatMap (fun k =>
    let p := privOff f lit (s.rVec e f.vI.toNat) k
    s.bankCells e (if f.sz = 3 then [privAddr p k, privAddr (p + 4) k] else [privAddr p k / 4 * 4])))

/-- The row of a 256-byte access whose lane mask is not empty. -/
def State.bankVector (s : State) (g : Gate) (spc : Bool) (lq : BitVec 3) (ln : Bool) (base : Nat → Dword) : List BankUse :=
  if spc then (s.acting g).flatMap (fun e => if s.laneMask e lq ln = 0 then [] else s.bankRow e (base e).toNat) else []

/-- What a word of class M reads, and what it writes, besides its ports. The rows that OLD and ADRN take over many cycles count for none of
them, for R348 does not say in which cycle they use their banks (DESIGN CHOICE, log 44). -/
def State.bankMemory (s : State) (i : Instr) : List BankUse × List BankUse :=
  match i with
  | .vld g f lit => (s.bankVector g f.spc f.lq f.ln (fun e => s.engBase e f.sA f.sE f.disp lit), [])
  | .vst g f lit => ([], s.bankVector g f.spc f.lq f.ln (fun e => s.engBase e f.sA f.sE f.disp lit))
  | .lda g f lit => (s.bankVector g (f.vec && f.spc) f.lq f.ln (fun e => s.engBase e f.sA f.sE f.disp lit), [])
  | .stl g f lit => ([], s.bankVector g (f.vec && f.spc) f.lq f.ln (fun e => s.engBase e f.sA f.sE f.disp lit))
  | .stx g f lit => ([], s.bankVector g (f.vec && f.spc) f.lq f.ln (fun e => s.engBase e f.sA f.sE f.disp lit))
  | .vldg g f lit => (s.bankGather g f lit, [])
  | .vstg g f lit => ([], s.bankGather g f lit)
  | .vatom g f lit => (s.bankGather g f lit, s.bankGather g f lit)
  | .vldp g f lit => (s.bankPrivate g f lit, [])
  | .vstp g f lit => ([], s.bankPrivate g f lit)
  | _ => ([], [])

/-- The reads and the writes of a word that is about to act. -/
def State.bankUses (s : State) (i : Instr) : List BankUse × List BankUse :=
  let m := s.bankMemory i
  let v := s.vectorCodes i
  (s.bankPorts v.1 ++ m.1, s.bankPorts v.2 ++ m.2)

/-- The extra cycles for which a bundle holds the issue of its context (R348). -/
def bankHold (uses : List BankUse × List BankUse) : Nat := max (bankWords uses.1) (bankWords uses.2) - 1

end Sys2Proof.Machine
end

