-- ==== Sys2Proof/Machine/Bundle.lean ====
section
/-!
DEFINITION. The issue of a bundle: arrival at a loop's end or a kernel, framing and the bundle check, the words' checks, their
effects, and what follows (R22, R24, R26, R40, R47, R54, R55, R60, R168, R173 to R177, R188, R189, R200, R206 to R208, R348).
-/
namespace Sys2Proof.Machine

/-! ## The bundle check (R173, R188, R189) -/

/-- Whether a word is BCST. -/
def isBcst (i : Instr) : Bool :=
  match i with
  | .bcst _ _ => true
  | .bcstLiteral _ _ => true
  | _ => false

/-- A decoded word of a bundle. -/
structure BWord where
  addr : Nat
  cls  : Nat
  i    : Instr
  deriving DecidableEq, Repr

/-- The words of a framed bundle, or the address and class of the first offending one; `seen` says that a BCST stands before. -/
def State.bundleWords (s : State) (cid : Nat) : Bool → List Framed → Except (Nat × Nat) (List BWord)
  | _, [] => .ok []
  | _, .bad a c :: _ => .error (a, c)
  | seen, .word a raw :: t =>
    match decodeParts (s.stepped (s.ctxAt cid) cid a raw.parts) with
    | none => .error (a, raw.parts.cls)
    | some i =>
      if !(s.encodingOk i) || (s.readsBc i && !seen) || (isBcst i && seen) then .error (a, raw.parts.cls)
      else match s.bundleWords cid (seen || isBcst i) t with
        | .ok l => .ok (⟨a, raw.parts.cls, i⟩ :: l)
        | .error e => .error e

/-- Bytes of a framed bundle. -/
def framedBytes (l : List Framed) : Nat :=
  l.foldl (fun n x => match x with
    | .word _ raw => n + raw.len
    | .bad _ _ => n) 0

/-- A sequencer-side record at a bundle's boundary or for one of its words (R56, R189). -/
def boundaryRec (reason space cls addr bundle : Nat) : FaultRec :=
  ⟨BitVec.ofNat 64 addr, BitVec.ofNat 64 bundle, causeWord reason 0 space cls 0 false false true, 0⟩

/-! ## Arrival (R40, R207) -/

/-- Whether a loop's exit flag is still pending when issue reaches its end. -/
def Ctx.exitPending (c : Ctx) : Bool :=
  match c.loopNow with
  | some l => c.pc == l.stop && (match l.exitF with | some f => c.pending.contains (.f f.toNat) | none => false)
  | none => false

/-- Count an iteration for some engines. -/
def State.countRuns (s : State) (cid : Nat) (m : Mask) : State :=
  s.modCtx cid (fun c => { c with items := c.items.map (fun e => if m.getLsbD e.1 then (e.1, { e.2 with iters := e.2.iters + 1 }) else e) })

/-- Whether a bundle of the kernel runs across its end. -/
def Ctx.crosses (c : Ctx) (b n : Nat) : Bool :=
  match c.pipe with
  | some p => !c.sup && p.inKernel && decide (p.k ≤ b) && decide (b < p.e) && decide (p.e < n)
  | none => false

/-! ## The words -/

/-- The state that a word gives; a word of a resident context always gives one. -/
def State.runInstr (s : State) (i : Instr) : State :=
  match exec i s with
  | .next t => t
  | _ => s

/-- Run a word by itself: its checks, and its effect where they let it act. -/
def State.probe (s : State) (w : BWord) : State :=
  ({ s with issue := { s.issue with word := w.addr, status := .ok, recs := [], heldOn := none, heldGid := none } } : State).runInstr w.i

/-- The free values of a word of a bundle: its checks and its effect draw the same ones. -/
def State.freeAt (s : State) (w : BWord) : Nat := s.free + (w.addr - s.issue.bundle) / 4

/-- What the checks say of each word of a bundle, in order: the ports that earlier words have popped and bc go with them. -/
def State.probes : List BWord → State → List Issue
  | [], _ => []
  | w :: t, s =>
    let u := ({ s with free := s.freeAt w } : State).probe w
    u.issue :: State.probes t { s with
      issue := if u.issue.status = .ok then { s.issue with bc := u.issue.bc, pops := u.issue.pops, ports := u.issue.ports } else s.issue }

/-- Words that end or rebuild the context act after the others of their bundle; every word reads the state before it (R174). -/
def actsLast (i : Instr) : Bool :=
  match i with
  | .exit _ => true
  | .done _ => true
  | .merge _ => true
  | .split _ _ _ _ => true
  | .splitLong _ _ _ _ => true
  | .sysret _ => true
  | .regrp _ _ => true
  | .idemb _ => true
  | .cswr _ cr _ => cr == 0x25
  | .cswrLiteral _ cr _ => cr == 0x25
  | _ => false

/-- Let the words of a bundle act, each with free values of its own. -/
def State.actAll : List BWord → State → State
  | [], s => s
  | w :: t, s =>
    let u := ({ s with free := s.freeAt w, issue := { s.issue with word := w.addr, status := .ok } } : State).runInstr w.i
    State.actAll t { u with free := s.free }

/-- What the words of a bundle reach in the banks, each after the pops of those before it. -/
def State.bundleUses (ws : List BWord) (ps : List Issue) (s : State) : List BankUse × List BankUse :=
  (ws.zip (s.issue :: ps)).foldl (fun a x =>
    let u := ({ s with issue := { s.issue with pops := x.2.pops } } : State).bankUses x.1.i
    (a.1 ++ u.1, a.2 ++ u.2)) ([], [])

/-- A round's records from those of a bundle's words: the first sequencer-side one, then the first of each engine (R55). -/
def mergeRecs (l : List FaultRec) : List FaultRec :=
  (l.filter FaultRec.isSeq).take 1 ++ (List.range 16).filterMap (fun e => l.find? (fun r => !r.isSeq && r.eid == e))

/-- Whether a record sets EPC to the next bundle (R54). -/
def FaultRec.nextEpc (r : FaultRec) : Bool := r.reason.toNat == rTRAP || r.reason.toNat == rBRK

/-- A bundle that holds goes back to its address; a SPAWN takes its place in the queue, an XPF.W that misses parks, and where the
bundle holds on words of its groups alone they arrive (R36, R50, R447). -/
def State.holdBundle (s : State) (cid b : Nat) (ws : List BWord) (ps : List Issue) : State :=
  let held := ps.filter (fun p => p.status == .held)
  let onGroups := held.all (fun p => p.heldGid.isSome)
  let t := s.modCtx cid (fun c => { c with
    pc := b, heldOn := held.findSome? Issue.heldOn, heldGid := if onGroups then held.findSome? Issue.heldGid else none })
  let arrives := onGroups && (ps.flatMap Issue.recs).isEmpty
  ws.foldl (fun u w => match w.i with
    | .spawn g sA => u.queueSpawn g sA
    | .xpf g x sE sR layer => u.xpfMiss g x sE sR layer
    | .regrp g h => if held.length = 1 && (ps.flatMap Issue.recs).isEmpty then u.regrpMark g h else u
    | i => if arrives then u.meetHeld i else u) t

/-- Hold a context's next issue for some cycles more than one (R348); beside a bound of the bundle's own on the next issue (R177, R179) the later
of the two counts (DESIGN CHOICE, log 44). -/
def State.holdBanks (s : State) (cid : Nat) (uses : List BankUse × List BankUse) : State :=
  let h := bankHold uses
  if h = 0 || (tableFind s.ctxs cid).isNone then s
  else s.modCtx cid (fun c => { c with nextIssue := max c.nextIssue (s.cycleOf c.place.die + 1 + h) })

/-- Issue the words of a bundle; the flag says that something has issued or trapped. -/
def State.issueWords (s : State) (cid b n : Nat) (ws : List BWord) (run : Option Mask) : State × Bool :=
  let counted := match run with
    | some m => s.countRuns cid m
    | none => s
  match ws with
  | [w] =>
    let t := s.probe w
    match t.issue.status with
    | .ok => ((if run.isSome then counted.probe w else t).holdBanks cid (s.bankUses w.i), true)
    | .held => (if (tableFind t.ctxs cid).isSome && (t.ctxAt cid).place.resident then
        t.modCtx cid (fun c => { c with pc := b, heldOn := t.issue.heldOn, heldGid := t.issue.heldGid }) else t, false)
    | .trapped => (t, true)
  | _ =>
    let ps := State.probes ws s
    let recs := ps.flatMap Issue.recs
    match recs.find? (fun r => r.reason.toNat == rILLEG) with
    | some r => (s.enterTrap cid b [r], true)
    | none =>
      if ps.any (fun p => p.status == .held) then (s.holdBundle cid b ws ps, false)
      else if !recs.isEmpty then
        let l := mergeRecs recs
        (s.enterTrap cid (if (l.head?.map FaultRec.nextEpc).getD false then n else b) l, true)
      else
        let t := State.actAll (ws.filter (fun w => !(actsLast w.i)) ++ ws.filter (fun w => actsLast w.i))
          { counted with issue := { counted.issue with pre := some ⟨s.ctxAt cid, s.engines⟩, window := some s.windowTable } }
        let u := ({ t with free := t.free + 64 } : State).holdBanks cid (s.bundleUses ws ps)
        (if u.issue.park then (u.modCtx cid Ctx.backEdge).parkNow (u.ownerOf cid) .parkWord (u.ctxAt cid).wakeAt else u, true)

/-! ## After a bundle -/

/-- A context once its bundle has issued: what the bundle held on is past. -/
def Ctx.issued (c : Ctx) : Ctx :=
  { c with heldOn := none, heldGid := none, met := none, dbgStep := false, heldRegrp := none, regrpFails := false }

/-- What follows a bundle that has issued from a place, whether or not its context still stands there: the next cycle of its
sequencer, the next issue cycle, the back edge of a kernel, settled writes, sent elements, multiplies that have entered, the counter
of bundles (R22, R40, R175, R263, R284, R443). -/
def State.afterBundle (s : State) (cid : Nat) (pl : Place) : State :=
  let t := s.cycleOf pl.die
  let q := tableGet s.seqs pl.seqKey {}
  let s0 := ({ s with seqs := tableInsert s.seqs pl.seqKey { q with ready := t + 1 } } : State).count (some pl.die) 0 1
  let c := s0.ctxAt cid
  let s1 :=
    if (tableFind s0.ctxs cid).isNone then s0
    else if !c.place.resident then s0.setCtx cid c.issued
    else (s0.setCtx cid { c.issued with nextIssue := max c.nextIssue (t + 1), inflight := pruneInFlight t c.inflight [] }.backEdge).mixSends cid
  s1.settleGang pl.gangNo

/-! ## The turn of a context -/

/-- Whether a context holds whatever its next bundle is: it waits, its owner's park found no area, a receive is past its bound. -/
def State.ctxHeld (s : State) (cid : Nat) : Bool :=
  let c := s.ctxAt cid
  let o := s.ctxAt (s.ownerOf cid)
  c.wait ≠ .none || (o.holdPark && !(s.reasonClear (s.ownerOf cid))) || c.exitPending ||
    c.recvs.any (fun r => !r.gone && !r.lent && decide (r.due ≤ s.cycleOf c.place.die)) ||
    (s.landingsOf cid).any (fun k => (s.ctxAt k).recvs.any (fun r => !r.gone && r.lent && (c.sup || decide (r.due ≤ s.cycleOf c.place.die))))

/-- The bundle at a context's pc, in an expanded segment. -/
def State.issueAt (s : State) (cid : Nat) (g : Segment) (run : Option Mask) : State × Bool :=
  let b := (s.ctxAt cid).pc
  if g.bytes.length ≤ b - g.base then (s.enterTrap cid b [boundaryRec rPROT 4 0 b b], true)
  else
    let fr := frameBundle b (g.bytes.drop (b - g.base))
    match s.bundleWords cid false fr with
    | .error (a, k) => (s.enterTrap cid b [boundaryRec rILLEG 4 k a b], true)
    | .ok ws =>
      let n := b + framedBytes fr
      if (s.ctxAt cid).crosses b n then (s.enterTrap cid b [boundaryRec rSTATE 0 0 0 b], true)
      else
        let t := ({ s with issue := { bundle := b, next := n } } : State).modCtx cid (fun c => { c with pc := n })
        let (u, ok) := t.issueWords cid b n ws run
        (if ok then u.afterBundle cid (s.ctxAt cid).place else u, ok)

/-- The bundle boundary of a context: it stops for a pre-emption, which parks it; a round that is due enters; else the loop and the kernel
act, an address that is no multiple of 4 faults (R169), a missing segment is fetched, or the bundle issues. -/
def State.boundary (s : State) (cid : Nat) : State × Bool :=
  if s.preemptStops cid then (s, false)
  else if s.roundDue cid then (s.roundEntry cid, true)
  else if s.ctxHeld cid then (s, false)
  else
    let s1 := s.modCtx (s.ownerOf cid) (fun c => { c with holdPark := false })
    let pc := (s1.ctxAt cid).pc
    let (s2, bad) := s1.loopArrive cid
    if bad then (s2.enterTrap cid pc [boundaryRec rSTATE 0 0 0 pc], true)
    else
      let (s3, wrong, run) := s2.kernelArrive cid
      if wrong then (s3.enterTrap cid pc [boundaryRec rSTATE 0 0 0 pc], true)
      else
        let b := (s3.ctxAt cid).pc
        if b % 4 ≠ 0 then (s3.enterTrap cid b [boundaryRec rALIGN 4 0 b b], true)
        else match s3.segAt cid b with
          | none => (s3.fetchSegment cid (slotOf b), true)
          | some g => s3.issueAt cid g run

/-- The first cycle in which a context's sequencer can issue for it. -/
def State.issueCycle (s : State) (cid : Nat) : Nat := max (s.ctxAt cid).nextIssue (s.seqOf cid).ready

/-- Whether the cycle in which a context can issue has come. -/
def State.due (s : State) (cid : Nat) : Bool := decide (s.nowAt (s.ctxAt cid).place.die (s.issueCycle cid) ≤ s.now)

/-- Whether a context's next bundle holds for a landing that it split off and that has not merged (R46). -/
def State.awaitsLanding (s : State) (cid : Nat) : Bool :=
  (s.ctxAt cid).stack.head?.any (fun e => e.kind == 1 && (tableFind s.ctxs e.child).isSome) && s.due cid &&
    !(({ s with focus := cid, issue := {} } : State).boundary cid).2

/-- Whether a landing stepped by STEPALL waits its turn: the running path goes first, unless it holds for a landing, then the landings in
ascending LAND order (R61). One stepped by its name waits for none. -/
def State.stepsLater (s : State) (cid : Nat) : Bool :=
  let c := s.ctxAt cid
  c.isLanding && c.dbgStop && c.dbgTurn && s.ctxs.any (fun e => ((e.1 == c.parent && !(s.awaitsLanding e.1)) ||
    (e.2.parent == c.parent && decide (e.2.place.land < c.place.land))) && e.2.dbgStop && e.2.dbgStep && e.2.wait == .none)

/-- A context takes its turn in this cycle; the flag says that something happened. -/
def State.tryIssue (s : State) (cid : Nat) : State × Bool :=
  let c := s.ctxAt cid
  if (tableFind s.ctxs cid).isNone || !c.place.resident || (c.dbgStop && !c.dbgStep) || s.stepsLater cid then (s, false)
  else
    let t := ({ s with focus := cid, issue := {} } : State).settleGang c.place.gangNo
    t.boundary cid

/-- Whether a context's next bundle is ready in this cycle (R22). -/
def State.readyNow (s : State) (cid : Nat) : Bool := s.due cid && (s.tryIssue cid).2

/-! ## Who issues in a cycle (R22, R47, R60) -/

/-- Whether a context has been ready for 64 consecutive cycles up to now without issuing (R60). -/
def State.passedOver (s : State) (cid : Nat) : Bool :=
  let c := s.ctxAt cid
  64 ≤ c.passed && c.passedAt + 1 == s.cycleOf c.place.die

/-- Contexts of a sequencer in the order of R22 and R60: the token's holder, unless the other has been passed over too long. -/
def State.seqOrder (s : State) (key : Nat) : List Nat :=
  let l := (s.ctxs.filter (fun e => e.2.place.resident && e.2.place.seqKey == key)).map Prod.fst
  let q := tableGet s.seqs key {}
  let holder := l.filter (fun c => (s.ctxAt c).place.ctxNo == q.token)
  let other := l.filter (fun c => (s.ctxAt c).place.ctxNo != q.token)
  if other.any s.passedOver then other ++ holder else holder ++ other

/-- The contexts whose bundles a context's bundle meets at a common engine: a landing's, those of its gang's other context, and the
other way round (R47). Engines are those of the active masks. -/
def State.meetsAtEngines (s : State) (cid : Nat) : List Nat :=
  let c := s.ctxAt cid
  let other (x : Nat) (y : Ctx) : Bool := y.place.resident && y.place.gangNo == c.place.gangNo && y.isLanding != c.isLanding &&
    s.ownerOf x != s.ownerOf cid && (y.active &&& c.active) != 0
  ((s.ctxs.filter (fun e => other e.1 e.2)).map Prod.fst)

/-- Whether a context lets a ready bundle that it would meet at an engine go first: a landing that has just gone first, and a gang's
context to every other landing (R47); a bundle that has been passed over too long goes before either (R60). -/
def State.yields (s : State) (cid : Nat) : Bool :=
  let c := s.ctxAt cid
  !(s.passedOver cid) &&
    (s.meetsAtEngines cid).any (fun o => (s.passedOver o || (if c.isLanding then c.shared else !(s.ctxAt o).shared)) && s.readyNow o)

/-- A ready context has let cycle t pass: once a cycle (R60). -/
def Ctx.passOnce (c : Ctx) (t : Nat) : Ctx :=
  if c.passedAt = t ∧ c.passed ≠ 0 then c else { c with passed := if c.passedAt + 1 = t then c.passed + 1 else 1, passedAt := t }

/-- A context that another one has met at an engine lets this cycle pass. -/
def State.yieldCycle (s : State) (cid : Nat) : State :=
  let t := s.cycleOf (s.ctxAt cid).place.die
  s.modCtx cid (fun c => { c.passOnce t with nextIssue := max c.nextIssue (t + 1), shared := false, yieldedAt := some t })

/-- After a context has issued, from s to u: those that were ready and that it met at an engine go on in the next cycle, and the other of
its sequencer has been passed over once more if it was ready (R47, R60). One that has yielded in this cycle already is met too. -/
def State.passOver (s u : State) (cid : Nat) : State :=
  let t := s.cycleOf (s.ctxAt cid).place.die
  let met := (s.meetsAtEngines cid).filter (fun o => (s.ctxAt o).yieldedAt == some t || s.readyNow o)
  let v := if (tableFind u.ctxs cid).isSome then u.modCtx cid (fun c => { c with passed := 0, shared := c.isLanding && !met.isEmpty }) else u
  let w := (met.filter (fun o => (tableFind v.ctxs o).isSome)).foldl State.yieldCycle v
  match s.otherOn cid with
  | some o =>
    if (tableFind w.ctxs o).isNone || (w.ctxAt o).yieldedAt == some t then w
    else w.modCtx o (fun c => if s.readyNow o then c.passOnce t else { c with passed := 0, passedAt := t })
  | none => w

/-- The first context of a list whose cycle has come and for which something happens. -/
def State.issueOne : List Nat → State → State × Bool
  | [], s => (s, false)
  | c :: t, s =>
    if !(s.due c) then State.issueOne t s
    else if s.yields c then State.issueOne t s
    else
      let (u, ok) := s.tryIssue c
      if ok then (s.passOver u c, true) else State.issueOne t u

end Sys2Proof.Machine
end

