-- ==== Sys2Proof/Machine/Agenda.lean ====
section
/-!
DEFINITION. Who acts next: the steps of the agents besides contexts, the default order among all of them, and the turns of a
plan (log 1).
-/
namespace Sys2Proof.Machine

/-- Rows of the opcode table that are steps of an agent and no word of a program. -/
def isEvent (i : Instr) : Bool :=
  match i with
  | .asyncRoundEntry _ | .asyncOpStop _ | .copyComplete _ | .oldLoadComplete _ _ | .loadDataReturn _ _ | .channelElementArrival _ _
  | .invalidationComplete _ | .translationWalk _ _ _ _ _ | .segmentFetch _ _ | .binTimer _ _ | .stealAge _ _ | .steal _ | .binLaunch _ _ _ _
  | .waitingItemFile _ | .itemReady _ | .parkWake _ | .cwthrExpiry _ | .preempt _ | .resume _ _ _ | .deferredPark _ | .candidateAge _ _
  | .coresGroupResume _ | .regionFree _ | .xpFillComplete _ _ | .readyToReceive _ _ _ _ _ | .rendezvousTimeout _ | .peerAbort _
  | .kuborDataComplete _ _ _ | .timedIssue _ | .launch _ | .launchComplete | .retire _ | .refresh _ | .hold _ | .release _ | .rstctl _
  | .registerWrite _ _ _ | .memoryBarRead _ _ | .memoryBarWrite _ _ | .fwEnable _ _ | .fwDisable _ _ | .halt | .run | .step | .stepall
  | .debugEnableSet | .debugEnableClear | .dbgdata _ | .lwin _ _ | .xpctl _ _ | .stctl _ | .promote _ | .demote _ | .replace _ | .refetch _
  | .nvmeCompletion _ _ | .start | .checkpointTransfer | .restore | .enterGangIdle _ | .enterDieRetention _ | .enterPackageStandby | .wake _
  | .currentGrant | .ttctl _ _ | .tdom _ | .tsnap _ | .gret _ | .gangErrorRetire _ | .hbmChannelSpare _ _ | .laneFailure _ | .scrub
  | .eccUncorrectable _ | .boot | .bootimg _ | .attreq _ | .keyld _ | .linkMemoryArrival _ | .multiplyReadsDone _ | .flitReplay _
  | .hbmSpareCopyDone _ _ => true
  | _ => false

/-! ## Steps that the package takes by itself -/

/-- The steps that the package takes by itself, under the names of the opcode table. -/
inductive Own where
  | asyncRoundEntry (cid : Nat)
  | asyncOpStop (op : Nat)
  | copyComplete (op : Nat)
  | multiplyReadsDone (op : Nat)
  | invalidationComplete (op : Nat)
  | oldLoadComplete (eng : Nat) (slot : BitVec 5)
  | loadDataReturn (cid : Nat) (n : Nat)
  | channelElementArrival (ch : BitVec 10) (eid : BitVec 4)
  | binTimer (die : Nat) (bin : Nat)
  | stealAge (die : Nat) (bin : Nat)
  | steal (die : Nat)
  | binLaunch (die : Nat) (bin : Nat) (gang : Nat) (ctx : Nat)
  | waitingItemFile (die : Nat)
  | itemReady (cid : Nat)
  | parkWake (cid : Nat)
  | cwthrExpiry (cid : Nat)
  | preempt (cid : Nat)
  | resume (cid : Nat) (gang : Nat) (ctx : Nat)
  | deferredPark (cid : Nat)
  | candidateAge (die : Nat) (n : Nat)
  | coresGroupResume (gid : Nat)
  | regionFree (region : Nat)
  | xpFillComplete (die : Nat) (buf : Nat)
  | rendezvousTimeout (slot : Nat)
  | kuborDataComplete (coll : Word) (n : Nat)
  | launchComplete
  | promote (k : Nat)
  | demote (k : Nat)
  | replace (k : Nat)
  | refetch (k : Nat)
  | nvmeCompletion (req : Nat) (ok : Bool)
  | checkpointTransfer
  | enterGangIdle (gang : Nat)
  | enterDieRetention (die : Nat)
  | enterPackageStandby
  | boot
  deriving DecidableEq, Repr

/-- What such a step answers: the meaning of its row. -/
def Own.answer (o : Own) (s : State) : Answer :=
  match o with
  | .asyncRoundEntry cid => execAsyncRoundEntry cid s
  | .asyncOpStop op => execAsyncOpStop op s
  | .copyComplete op => execCopyComplete op s
  | .multiplyReadsDone op => execMultiplyReadsDone op s
  | .invalidationComplete op => execInvalidationComplete op s
  | .oldLoadComplete eng slot => execOldLoadComplete eng slot s
  | .loadDataReturn cid n => execLoadDataReturn cid n s
  | .channelElementArrival ch eid => execChannelElementArrival ch eid s
  | .binTimer die bin => execBinTimer die bin s
  | .stealAge die bin => execStealAge die bin s
  | .steal die => execSteal die s
  | .binLaunch die bin gang ctx => execBinLaunch die bin gang ctx s
  | .waitingItemFile die => execWaitingItemFile die s
  | .itemReady cid => execItemReady cid s
  | .parkWake cid => execParkWake cid s
  | .cwthrExpiry cid => execCwthrExpiry cid s
  | .preempt cid => execPreempt cid s
  | .resume cid gang ctx => execResume cid gang ctx s
  | .deferredPark cid => execDeferredPark cid s
  | .candidateAge die n => execCandidateAge die n s
  | .coresGroupResume gid => execCoresGroupResume gid s
  | .regionFree region => execRegionFree region s
  | .xpFillComplete die buf => execXpFillComplete die buf s
  | .rendezvousTimeout slot => execRendezvousTimeout slot s
  | .kuborDataComplete coll n => execKuborDataComplete coll n ⟨⟨0, 0⟩, some []⟩ s
  | .launchComplete => execLaunchComplete s
  | .promote k => execPromote k s
  | .demote k => execDemote k s
  | .replace k => execReplace k s
  | .refetch k => execRefetch k s
  | .nvmeCompletion req ok => execNvmeCompletion req ok s
  | .checkpointTransfer => execCheckpointTransfer s
  | .enterGangIdle gang => execEnterGangIdle gang s
  | .enterDieRetention die => execEnterDieRetention die s
  | .enterPackageStandby => execEnterPackageStandby s
  | .boot => execBoot s

/-- The state after such a step. -/
def State.runOwn (s : State) (o : Own) : State :=
  match o.answer s with
  | .next t => t
  | _ => s

/-- Completions of what is under way in operations, loads, slots and channels. -/
def State.completions (s : State) : List Own :=
  s.ops.flatMap (fun e => [.copyComplete e.1, .multiplyReadsDone e.1, .invalidationComplete e.1, .asyncOpStop e.1]) ++
  s.ctxs.flatMap (fun e =>
    (if e.2.rounds.isEmpty then [] else [.asyncRoundEntry e.1]) ++ (List.range e.2.pending.length).map (fun n => .loadDataReturn e.1 n) ++
    e.2.recvs.map (fun r => .channelElementArrival (BitVec.ofNat 10 r.ch) (BitVec.ofNat 4 r.eid))) ++
  s.engines.flatMap (fun e => (e.2.slots.filter (fun o => o.2.loading)).map (fun o => .oldLoadComplete e.1 (BitVec.ofNat 5 o.1)))

/-- Steps of the scheduler for a die. -/
def State.dieSteps (s : State) (d : Nat) : List Own :=
  let x := s.die d
  [.waitingItemFile d] ++
  x.bins.flatMap (fun b => [.binTimer d b.1, .stealAge d b.1, .candidateAge d b.1]) ++
  ((x.bins.filter (fun b => b.2.due)).flatMap (fun b => (s.freeSeats d).map (fun g => .binLaunch d b.1 g.1 g.2))) ++
  ((s.ctxs.filter (fun e => e.2.readyAt.isSome)).flatMap (fun e => (s.freeSeats d).map (fun g => .resume e.1 g.1 g.2))) ++
  [.steal d] ++ x.pool.map (fun b => .xpFillComplete d b.1)

/-- Steps of the scheduler for contexts, groups and regions. -/
def State.ctxSteps (s : State) : List Own :=
  s.ctxs.flatMap (fun e => [.parkWake e.1, .itemReady e.1, .deferredPark e.1, .cwthrExpiry e.1, .candidateAge e.2.place.die (Config.binsPerDie + e.1),
    .preempt e.1]) ++
  (s.groups.filter (fun e => e.2.cores)).map (fun e => .coresGroupResume e.1) ++
  (s.regions.filter (fun e => e.2.retired)).map (fun e => .regionFree e.1)

/-- Steps of the porches whose data lie in this package. -/
def State.porchSteps (s : State) : List Own :=
  s.porches.flatMap (fun e => if e.2.running then
    (e.2.ops.filter (fun o => o.src.isNone || s.fromSelf o)).map (fun o => .kuborDataComplete e.2.coll o.n) ++ [.rendezvousTimeout e.1] else [])

/-- Steps of the cellar. -/
def State.cellarSteps (s : State) : List Own :=
  (if s.ringPa = 0 then [] else
    (s.cellar.next :: (s.cellar.reqs.filter (fun e => e.2.phase == 1)).map Prod.fst).flatMap (fun k => [.promote k, .demote k, .replace k, .refetch k])) ++
  (s.cellar.reqs.filter (fun e => e.2.phase ≠ 1)).map (fun e => .nvmeCompletion e.1 true) ++
  (if s.cellar.ckPhase = 1 ∨ s.cellar.ckPhase = 2 then [.checkpointTransfer] else [])

/-- Sleeps that LTOL allows. -/
def State.sleepSteps (s : State) : List Own :=
  (if 2000 ≤ s.ltol then (List.range Config.gangs).map .enterGangIdle else []) ++
  (if 200000 ≤ s.ltol then (List.range Config.dies).map .enterDieRetention else []) ++
  (if 5000000 ≤ s.ltol then [.enterPackageStandby] else [])

/-- Everything that may happen by itself, in the default order. -/
def State.agenda (s : State) : List Own :=
  [.boot] ++ (if s.launching.isSome then [.launchComplete] else []) ++ s.completions ++ s.ctxSteps ++
  (List.range Config.dies).flatMap s.dieSteps ++ s.porchSteps ++ s.cellarSteps

/-- The first step of a list that changes the state. -/
def State.firstStep (s : State) : List Own → Option State
  | [] => none
  | i :: t =>
    let u := s.runOwn i
    if u = s then s.firstStep t else some u

/-! ## Turns -/

/-- A word that decodes to nothing is illegal when it would issue: its head and its opcode say what it waits for (R328, R336). -/
def State.illegalWord (s : State) (q w : Nat) : State :=
  s.kuborTurn q ⟨w.testBit 123, .ofNat 4 (bits w 119 4), false, 0⟩ (1 ≤ bits w 124 4 && decide (bits w 124 4 ≤ 4)) (fun _ => .stop 1)

/-- A porch slot issues its next word; past its last one a program is illegal (R336). -/
def State.porchTurn (s : State) (q : Nat) : State :=
  let p := s.porch q
  if !p.running then s
  else match p.nextWord with
    | some i => ({ s with porchFocus := q } : State).runInstr i
    | none => match p.image[p.pc]? with
      | some w => s.illegalWord q w.toNat
      | none => s.stopPorch q 1

/-- The first running porch slot whose word does something. -/
def State.porchAny (s : State) : List Nat → Option State
  | [] => none
  | q :: t =>
    let u := s.porchTurn q
    if u = { s with porchFocus := u.porchFocus } then s.porchAny t else some u

/-- Time passes, up to the next cycle of some die: no cycle of a die is left out, whatever its clock (R22, R27). -/
def State.laterTime (s : State) : State :=
  { s with now := (List.range Config.dies).foldl (fun a d => min a (max (s.now + 1) (s.nowAt d (s.cycleOf d + 1)))) (s.now + 10) }

/-- What lies below the model adds to the counters while time passes, in numbers of its own: energy, replays of a die in tight-timing mode, and
cycles that a grant has held, no more than have passed (R443, log 3). -/
def State.countBelow (s : State) (passed : Nat → Nat) : State :=
  (List.range Config.dies).foldl (fun t d =>
    let replays := if (s.barReg 5 (0x20 + d * 8)).getLsbD 0 then Config.freeBits s.free (2 ^ 59 + d) else 0
    (t.count (some d) 2 replays).count (some d) 7 (Config.freeBits s.free (2 ^ 59 + 4 + d) % (passed d + 1)))
    (s.count none 1 (Config.freeBits s.free (2 ^ 59 + 8)))

/-- Programs whose next word is held although its stamp has come, while time passes the stamp, up to t (R337). -/
def State.holdPast (s : State) (t : Nat) : State :=
  s.porches.foldl (fun u e => match e.2.nextWord.bind kHeadOf with
    | some k =>
      if e.2.running && k.ts && s.timed && decide ((e.2.reg k.tsr).toNat ≤ s.time) && decide ((e.2.reg k.tsr).toNat < t) &&
          (s.porchTurn e.1).porch e.1 == e.2 then u.modPorch e.1 (fun p => p.holdLate k)
      else u
    | none => u) s

/-- Time passes to the next cycle of a die. -/
def State.passTime (s : State) : State :=
  let t := (s.holdPast s.laterTime.time).laterTime
  t.countBelow (fun d => t.cycleOf d - s.cycleOf d)

/-- Resident contexts, sequencer by sequencer, the two of each in the order of R22 and R60. -/
def State.issueOrder (s : State) : List Nat :=
  let keys := s.ctxs.foldl (fun (l : List Nat) e =>
    if !e.2.place.resident || l.contains e.2.place.seqKey then l else l ++ [e.2.place.seqKey]) []
  keys.flatMap s.seqOrder

/-- Time does not pass a cycle in which a bundle is ready: it issues (R22). -/
def State.tick (s : State) : State :=
  match State.issueOne s.issueOrder s with
  | (u, true) => u
  | (u, false) => u.passTime

/-- A turn of a context's sequencer: in a cycle in which it can issue, its contexts in the order of R22; else time passes. -/
def State.issueTurn (s : State) (cid : Nat) : State :=
  let order := if (s.ctxAt cid).place.resident then s.seqOrder (s.ctxAt cid).place.seqKey else []
  if order.any s.due then (State.issueOne order s).1 else s.tick

/-- One of the three kinds of agents acts, if it can: the package by itself, the contexts, the porches. A context that holds may
still leave its mark (R36, R50). -/
def State.actKind (s : State) (k : Nat) : State × Bool :=
  match k % 3 with
  | 0 => match s.firstStep s.agenda with
    | some u => (u, true)
    | none => (s, false)
  | 1 => State.issueOne s.issueOrder s
  | _ => match s.porchAny (s.porches.map Prod.fst) with
    | some u => (u, true)
    | none => (s, false)

/-- The first of some kinds of agents that can act does. -/
def State.actFirst : List Nat → State → State × Bool
  | [], s => (s, false)
  | k :: t, s =>
    let (u, ok) := s.actKind k
    if ok then (u, true) else State.actFirst t u

/-- The default order: the three kinds take turns; when none can act, units sleep where they may, or time passes. -/
def State.defaultTurn (s : State) : State :=
  match State.actFirst [s.order, s.order + 1, s.order + 2] { s with order := (s.order + 1) % 3 } with
  | (u, true) => u
  | (u, false) => match u.firstStep u.sleepSteps with
    | some v => v
    | none => u.passTime

/-- Whether an uncorrectable error in the hall has stopped the package (R435). -/
def State.fatal (s : State) : Bool := (s.barReg 0 0x08).getLsbD 1

/-- Steps that a stopped package still takes: the host reaches its registers, and the reset among them. -/
def fatalAllows (i : Instr) : Bool :=
  match i with
  | .rstctl _ => true
  | .registerWrite _ _ _ => true
  | .memoryBarRead _ _ => true
  | .memoryBarWrite _ _ => true
  | _ => false

/-- One turn of a plan. -/
def State.turn (s : State) (t : Turn) : State :=
  match t with
  | .event i => if isEvent i && (!s.fatal || fatalAllows i) then s.runInstr i else s
  | .issue cid => if s.fatal then s else s.issueTurn cid
  | .porch q => if s.fatal then s else s.porchTurn q
  | .tick => if s.fatal then s.passTime else s.tick

/-- The delivery of an element has ended once its source can no longer change it: what waits for it goes on (R111, R113, R263). -/
def State.settleSends (s : State) : State :=
  let opens (c : Ctx) (x : Sent) : Bool := decide (s.cycleOf c.place.die < x.upto)
  if s.ctxs.any (fun e => e.2.sends.any (fun x => !(opens e.2 x))) then
    ({ s with ctxs := s.ctxs.map (fun e => (e.1, { e.2 with sends := e.2.sends.filter (opens e.2) })) } : State).settleWaits
  else s

/-- What follows every step: deliveries end, errors met at words that stay uncorrectable are raised, a gang whose last context has gone is
replaced, what was being switched off is, dies wake whose wake time has come, a pantry that is too full writes lines back, and the free
values go on (R17, R113, R412, R430, R435, R436, logs 3 and 8). -/
def State.endTurn (s : State) : State :=
  let t := s.settleSends.raiseMet.swapGangs.closeIdle.wakeDue.trimPantry
  { t with free := t.free + 1, issue := {} }

/-- One step: the plan's first turn, or the default. -/
def State.next (s : State) : State :=
  match s.plan with
  | t :: rest => (({ s with plan := rest, issue := {} } : State).turn t).endTurn
  | [] => (if s.fatal then s.passTime else ({ s with issue := {} } : State).defaultTurn).endTurn

/-! ## Placing an instruction where the next step fetches it -/

/-- The context that runs a placed instruction, and the bytes it fetches: a bundle of one word. -/
def State.placeWord (s : State) (w : Nat) : State :=
  let c := s.ctxAt 1
  let bytes := leBytes 20 (w ||| 32)
  { s with
    plan := [.issue 1], focus := 1, nextCid := max s.nextCid 2
    ctxs := tableInsert s.ctxs 1 { c with
      place := .gang 0 0, active := c.active ||| 1, live := c.live ||| 1, pc := 0, wait := .none, rounds := [], loop := none, pipe := none, recvs := []
      pending := [], linked := [], tokens := 0, nextIssue := 0, dbgStop := false, holdPark := false, preempt := false }
    seqs := tableInsert s.seqs 0 { tableGet s.seqs 0 {} with token := 0, lower := some ⟨c.region, 0, bytes, 0⟩, ready := 0 } }

/-- The porch slot that runs a placed Kubor word. -/
def State.placeKubor (s : State) (w : Nat) : State :=
  { s with
    plan := [.porch 0], porchFocus := 0
    porches := tableInsert s.porches 0 { s.porch 0 with loaded := true, running := true, pc := 0, image := [BitVec.ofNat 128 w], loops := [] } }

end Sys2Proof.Machine
end

