-- ==== Sys2Proof/Machine/Step.lean ====
section
/-! DEFINITION. One step of the package, and where a single instruction is placed for it (log 1). -/
namespace Sys2Proof.Machine

/-- One step. -/
def step (s : State) : Host.Outcome State Fault Refusal := .next s.next

/-- The state with one instruction where the next step fetches it. A word of a bundle stands alone in its bundle (its E bit set) in
the loop buffer of gang 0, whose context 0 runs it; a Kubor word is the one word of the program in porch slot 0. -/
def State.withFetchWord (s : State) (nbits w : Nat) : State := if nbits = 128 then s.placeKubor w else s.placeWord w

end Sys2Proof.Machine
end

