-- ==== Sys2Proof/Safety.lean ====
section
/-!
DEFINITION. What counts as a safe run, in the terms that claims use: the canonical form of what is stored, a run on which
every step answers a next state, and when a word of a context issues.
-/
namespace Sys2Proof

open Machine

/-- What HBM stores stands in its one canonical form: its bytes, and the keys of its blocks of 16 bytes (R73, R442). -/
def Canonical (s : State) : Prop := Memory.wf s.mem = true ∧ tableWf (fun _ => 0) s.blockKeys = true

/-- The control block of every live region, and of every region that a checkpoint's image holds, is aligned to 256 bytes (R379). -/
def BlocksAligned (s : State) : Prop :=
  (∀ e ∈ s.regions, e.2.cb % 256 = 0) ∧ ∀ i, s.cellar.image = some i → ∀ e ∈ i.regions, e.2.cb % 256 = 0

/-- A run of n steps is safe when it never stops and keeps what is stored canonical. -/
def SafeRun : Nat → State → Prop
  | 0, s => Canonical s
  | n + 1, s => Canonical s ∧ ∃ t, step s = .next t ∧ SafeRun n t

/-- A word of class `cls` issues in s: a resident context is in focus, none of the registers it uses is pending (R177), and an
engine word stands in no landing without engines (R13). -/
abbrev Issues (s : State) (cls : Nat) (uses : List Dest) : Prop :=
  (tableFind s.ctxs s.focus).isSome = true ∧ s.me.place.resident = true ∧
    (∀ d ∈ uses, s.pendingDest d = false) ∧ (2 ≤ cls → s.me.isLanding = true → s.me.live ≠ 0)

/-- A word gated by a flag issues, and its flag lets it act (R170). -/
abbrev Acts (s : State) (cls : Nat) (g : Gate) (uses : List Dest) : Prop :=
  Issues s cls (.f g.pred.toNat :: uses) ∧ s.gateF g = true

/-- A word that arrives at a group and waits (R156 to R158): where the generation of its arrival has completed it writes f1 and what it
gave; before that, by itself in its bundle, it makes the arrival and holds. -/
def Meets (s : State) (gid : Nat) (i : Instr) (x : Meeting) : Prop :=
  (∀ o, (s.makeMet x).metGot = some o → exec i s =
    .next (((((s.makeMet x).wF 1 o.kept 1).wS x.sD o.first 1).wS x.sC o.second 1).mod (fun c => { c with met := none }))) ∧
  (s.issue.pre = none → (s.makeMet x).metGot = none → exec i s =
    .next (State.makeMet { s with issue := { s.issue with status := .held, heldOn := none, heldGid := some gid } } x))

/-- The Kubor word of the slot in focus issues: its program runs, and a stamp has come in a timed domain (R336, R337). -/
abbrev KuborIssues (s : State) (k : KHead) : Prop :=
  (s.porch s.porchFocus).running = true ∧
    (k.ts = true → s.timed = true ∧ ((s.porch s.porchFocus).reg k.tsr).toNat ≤ s.time)

/-- The state that a Kubor word acts on: LATE is set where its stamp had passed when the program came to it (R337). -/
def stamped (s : State) (k : KHead) : State := s.modPorch s.porchFocus (fun p => p.stampLate k)

/-- The state that a Kubor word leaves: its program has come to the next word now (R337). -/
def cameTo (s t : State) : State := t.modPorch s.porchFocus (fun p => { p with reached := s.time })

/-! ## What a word leaves unchanged -/

/-- The word holds at issue: nothing but the mark of the hold changes (R177, R447). -/
def Held (s t : State) : Prop :=
  ∃ (on gid : Option Nat), t = { s with issue := { s.issue with status := .held, heldOn := on, heldGid := gid } }

/-- The word traps or faults: the context in focus takes the round (R54). -/
def Trapped (s t : State) : Prop := ∃ (epc : Nat) (recs : List FaultRec), t = s.enterTrap s.focus epc recs

/-- Only the context in focus may differ. -/
def OnlyFocus (s t : State) : Prop :=
  { t with ctxs := s.ctxs } = s ∧ ∀ c, c ≠ s.focus → tableFind t.ctxs c = tableFind s.ctxs c

/-- The state before a write of scalar n, the operation of the same bundle whose token scalar n was no longer writing it (R174). -/
def tokenTaken (n : Nat) (s : State) : State := if n = 0 then s else s.tokenLost n

/-- Only scalar n of the context in focus may differ, what the model keeps of writes inside their bounds (R175), and the token that
an operation of the same bundle would write there (R174). -/
def OnlyScalar (n : Nat) (s t : State) : Prop :=
  OnlyFocus (tokenTaken n s) t ∧ (∀ m, m ≠ n → t.me.sreg m = s.me.sreg m) ∧
    { t.me with scalars := s.me.scalars, inflight := s.me.inflight, recvs := s.me.recvs } = (tokenTaken n s).me

/-- Only flag n of the context in focus may differ, what the model keeps of writes inside their bounds (R175), and for f1 where in its
bundle it is written (R174). -/
def OnlyFlag (n : Nat) (s t : State) : Prop :=
  OnlyFocus s { t with issue := { t.issue with f1At := s.issue.f1At } } ∧ (n ≠ 1 → t.issue = s.issue) ∧ (∀ m, m ≠ n → t.me.flag m = s.me.flag m) ∧
    { t.me with flags := s.me.flags, inflight := s.me.inflight, recvs := s.me.recvs } = s.me

/-- Only engines, and of the contexts only the ports of the one in focus and what the model keeps of writes inside their bounds and
of the issue, may differ; accumulators, shapes, KCUR, drain status, operand slots, scale latches and multiplies under way stay, and so do the registers of every other
gang and of the other context of each engine. -/
def OnlyVectors (s t : State) : Prop :=
  { t with ctxs := s.ctxs, engines := s.engines, issue := s.issue } = s ∧
    (∀ c, { t.ctxAt c with inflight := (s.ctxAt c).inflight, recvs := (s.ctxAt c).recvs, ports := (s.ctxAt c).ports
                           lastTrans := (s.ctxAt c).lastTrans } = s.ctxAt c) ∧
    (∀ c, c ≠ s.focus → (t.ctxAt c).ports = (s.ctxAt c).ports) ∧
    (∀ g e n, (t.eng g e).slot n = (s.eng g e).slot n) ∧
    (∀ g e, (t.eng g e).latch = (s.eng g e).latch ∧ (t.eng g e).tasks = (s.eng g e).tasks ∧ (t.eng g e).busy = (s.eng g e).busy ∧
      (t.eng g e).lost = (s.eng g e).lost) ∧
    (∀ g e k n, ((t.eng g e).part k).accum n = ((s.eng g e).part k).accum n) ∧
    (∀ g e k n, ((t.eng g e).part k).zreg n = ((s.eng g e).part k).zreg n) ∧
    (∀ g e k, ((t.eng g e).part k).kcur = ((s.eng g e).part k).kcur) ∧
    (∀ g e k n, ((t.eng g e).part k).drainOf n = ((s.eng g e).part k).drainOf n) ∧
    (∀ g, g ≠ s.me.place.gangNo → ∀ e < 16, (t.eng g e).c0 = (s.eng g e).c0 ∧ (t.eng g e).c1 = (s.eng g e).c1) ∧
    (∀ g e, if s.me.place.engCtx = 0 then (t.eng g e).c1 = (s.eng g e).c1 else (t.eng g e).c0 = (s.eng g e).c0)

/-- The scalar that a word of class C or S writes, where that is all it writes (R221, R226 to R232). -/
def scalarDest (i : Instr) : Option (BitVec 5) :=
  match i with
  | .add _ _ _ d | .sub _ _ _ d | .mul _ _ _ d | .mulh _ _ _ d | .mulhu _ _ _ d | .divs _ _ _ d | .divu _ _ _ d | .rems _ _ _ d
  | .remu _ _ _ d | .and _ _ _ d | .or _ _ _ d | .xor _ _ _ d | .andn _ _ _ d | .shl _ _ _ d | .shr _ _ _ d | .sar _ _ _ d
  | .rotl _ _ _ d | .mins _ _ _ d | .minu _ _ _ d | .maxs _ _ _ d | .maxu _ _ _ d => some d
  | .addLiteral _ _ d _ | .subLiteral _ _ d _ | .mulLiteral _ _ d _ | .mulhLiteral _ _ d _ | .mulhuLiteral _ _ d _
  | .divsLiteral _ _ d _ | .divuLiteral _ _ d _ | .remsLiteral _ _ d _ | .remuLiteral _ _ d _ | .andLiteral _ _ d _
  | .orLiteral _ _ d _ | .xorLiteral _ _ d _ | .andnLiteral _ _ d _ | .shlLiteral _ _ d _ | .shrLiteral _ _ d _
  | .sarLiteral _ _ d _ | .rotlLiteral _ _ d _ | .minsLiteral _ _ d _ | .minuLiteral _ _ d _ | .maxsLiteral _ _ d _
  | .maxuLiteral _ _ d _ => some d
  | .sel _ _ _ d _ => some d
  | .mov _ _ d => some d
  | .movi _ _ d => some d
  | .moviLiteral _ d _ => some d
  | .lea _ _ _ d _ _ _ => some d
  | .clz _ _ d => some d
  | .ctz _ _ d => some d
  | .popc _ _ d => some d
  | .bfx _ _ d _ _ _ => some d
  | .bfi _ _ d _ _ => some d
  | .csrd _ _ d => some d
  | _ => none

/-- The flag that CMP and FLOP write (R229, R230). -/
def flagDest (i : Instr) : Option (BitVec 3) :=
  match i with
  | .cmp _ _ _ _ d _ _ _ => some d
  | .flop _ _ _ _ d => some d
  | _ => none

/-- The fields of a V word that writes a vector (R234). -/
def vectorFields (i : Instr) : Option VFields :=
  match i with
  | .vadd _ f _ | .vsub _ f _ | .vmul _ f _ | .vfma _ f _ | .vmax _ f _ | .vmin _ f _ | .vabs _ f _ | .vneg _ f _ | .vrcp _ f _
  | .vrsq _ f _ | .vexp _ f _ | .vlog _ f _ | .vtanh _ f _ | .viadd _ f _ | .visub _ f _ | .vimul _ f _ | .vimad _ f _ | .vimin _ f _
  | .vimax _ f _ | .vand _ f _ | .vor _ f _ | .vxor _ f _ | .vshl _ f _ | .vshr _ f _ | .vsar _ f _ | .vsel _ f _ | .vmov _ f _
  | .vcvt _ f _ | .vpack _ f _ | .vunpk _ f _ | .vreds _ f _ | .vscan _ f _ | .vperm _ f _ | .vlane _ f _ | .vqcnt _ f _ => some f
  | _ => none

/-- The predicate that a V word writes: whether a lane predicate, and its number (R241, R242, R244). -/
def predicateDest (i : Instr) : Option (Bool × BitVec 3) :=
  match i with
  | .vcmp _ f _ => some (true, BitVec.ofNat 3 f.vd.toNat)
  | .vcmps _ f _ => some (false, BitVec.ofNat 3 f.vd.toNat)
  | .vqop _ f _ => some (!(f.imm.getLsbD 0), BitVec.ofNat 3 f.vd.toNat)
  | _ => none

/-- Whether a V word with a vector result may store byte k of the 256 at its write port, with active lanes m: VPACK those of the part that
IMM names, VCVT to blocks any, the others those of their lanes, and under Z every one (R236, R248, R249). -/
def storesAtPort (i : Instr) (f : VFields) (m : LaneMask) (k : Nat) : Bool :=
  match i with
  | .vpack _ _ _ =>
    let w := (packWidth f.fmt.toNat).getD 16
    f.imm.toNat * 8 * w ≤ k && decide (k < f.imm.toNat * 8 * w + 8 * w)
  | .vcvt _ _ _ => decide (k < 256) && (10 ≤ f.fmt.toNat || f.z || m.getLsbD (k / 4))
  | _ => decide (k < 256) && (f.z || m.getLsbD (k / 4))

end Sys2Proof
end

