-- ==== Sys2Proof/Certificates/Slice0/Obligations.lean ====
section
/-!
DEFINITION. The statements for the provers. Each says which rule of the spec it follows; a statement that an instruction completes
gives the next state of its own effect, for every state and operands that meet its hypotheses.
-/

open Sys2Proof Sys2Proof.Machine

/-! ## Words of class C -/

/-- R200, R202 to R208: NOP, NOPW, the branches, the calls and the deadline branch, whose flag lets them act, have these effects; LOOP and
LOOPX that pass their checks set the loop state over the body after their bundle, or skip the body when the count is zero. -/
def Obligations.TransferWords : Prop :=
  ∀ (s : State) (g : Gate),
    (Acts s 0 g [] → exec (.nop g) s = .next s) ∧
    (∀ n, Acts s 0 g [] → exec (.nopw g n) s = .next (s.delay (max 1 n.toNat))) ∧
    (∀ off, Acts s 0 g [] → exec (.br g off) s = .next ((s.goto (s.target 16 off.toNat)).delay 2)) ∧
    (∀ t, Acts s 0 g [] → t.toNat < 2 ^ 56 → t.toNat % 4 = 0 → exec (.brLong g t) s = .next ((s.goto t.toNat).delay 2)) ∧
    (∀ p cond off, Acts s 0 g [] → exec (.brf g p cond off) s =
      .next ((if brfCond cond.toNat s.was.active (s.predMask p false) then s.goto (s.target 11 off.toNat) else s).delay 2)) ∧
    (∀ p cond t, Acts s 0 g [] → t.toNat < 2 ^ 56 → t.toNat % 4 = 0 → exec (.brfLong g p cond t) s =
      .next ((if brfCond cond.toNat s.was.active (s.predMask p false) then s.goto t.toNat else s).delay 2)) ∧
    (∀ sh sI sN, Acts s 0 g (useS [sI, sN]) → (s.rS sN + s.rS sI <<< sh.toNat).toNat < 2 ^ 56 →
      (s.rS sN + s.rS sI <<< sh.toNat).toNat % 4 = 0 →
      exec (.jmpi g sh sI sN) s = .next ((s.goto (s.rS sN + s.rS sI <<< sh.toNat).toNat).delay 3)) ∧
    (∀ off, Acts s 0 g (useS [31]) → exec (.call g off) s =
      .next (((s.wS 31 (BitVec.ofNat 64 s.issue.next) 2).goto (s.target 16 off.toNat)).delay 2)) ∧
    (∀ t, Acts s 0 g (useS [31]) → t.toNat < 2 ^ 56 → t.toNat % 4 = 0 → exec (.callLong g t) s =
      .next (((s.wS 31 (BitVec.ofNat 64 s.issue.next) 2).goto t.toNat).delay 2)) ∧
    (∀ sN, Acts s 0 g (useS [sN]) → (s.rS sN).toNat < 2 ^ 56 → (s.rS sN).toNat % 4 = 0 →
      exec (.ret g sN) s = .next ((s.goto (s.rS sN).toNat).delay 3)) ∧
    (∀ off sM, Acts s 0 g (useS [sM]) → exec (.brdl g off sM) s = .next ((match s.deadline with
      | some dl => if dl ≤ (BitVec.ofNat 64 s.time + s.rS sM).toNat then s.goto (s.target 11 off.toNat) else s
      | none => s).delay 2)) ∧
    (∀ sM t, Acts s 0 g (useS [sM]) → t.toNat < 2 ^ 56 → t.toNat % 4 = 0 → exec (.brdlLong g sM t) s = .next ((match s.deadline with
      | some dl => if dl ≤ (BitVec.ofNat 64 s.time + s.rS sM).toNat then s.goto t.toNat else s
      | none => s).delay 2)) ∧
    (∀ (imm : BitVec 11) (sC : BitVec 5) (x : LoopExt) (lit : Option Dword), Acts s 0 g (useS [sC]) → s.loopCheck x = .ok →
      let skip := s.mod (fun c => { c with pc := s.issue.next + (x.len.toNat + 1) * 4 })
      let set (exitF : Option (BitVec 3)) := s.mod (fun c => { c with
        pc := s.issue.next
        loop := some ⟨s.issue.next, s.issue.next + (x.len.toNat + 1) * 4, s.loopCount imm sC lit, 0, c.depth, exitF, x.incA, x.incB, c.sup⟩ })
      (Instr.wellFormed (.loop g imm sC x lit) = true →
        exec (.loop g imm sC x lit) s = .next (if s.loopCount imm sC lit = 0 then skip else set none)) ∧
      (Instr.wellFormed (.loopx g imm sC x lit) = true →
        exec (.loopx g imm sC x lit) s = .next (if s.loopCount imm sC lit = 0 then skip else set (some x.fx))))

/-- R43 to R46, R210: the words of divergence and rejoin that pass their checks. BRP pushes the taken engines as pending, or every
engine when none falls through; JOIN runs the pending engines of the top entry, or pops it. -/
def Obligations.DivergenceWords : Prop :=
  ∀ (s : State) (g : Gate),
    let brp (p : BitVec 3) (neg : Bool) (t : Nat) := (s.mod (fun c =>
      if (s.paths p neg).2 ≠ 0 then
        { c with stack := ⟨t, 0, 0, (s.paths p neg).1, c.active, 0⟩ :: c.stack, active := (s.paths p neg).2, pc := s.issue.next }
      else ({ c with stack := ⟨0, 0, 0, 0, c.active, 0⟩ :: c.stack, active := (s.paths p neg).1, pc := t } : Ctx).leaveKernel t)).delay 2
    let split (p : BitVec 3) (neg : Bool) (t : Nat) := (match s.splitLanding p neg with
      | some l => s.splitPar l (s.paths p neg).1 (s.paths p neg).2 t
      | none => s.splitSer (s.paths p neg).1 (s.paths p neg).2 t).delay 4
    (∀ p neg off, Acts s 0 g [] → s.brpCheck p neg (s.target 12 off.toNat) = .ok →
      exec (.brp g p neg off) s = .next (brp p neg (s.target 12 off.toNat))) ∧
    (∀ p neg t, Acts s 0 g [] → t.toNat < 2 ^ 56 → t.toNat % 4 = 0 → s.brpCheck p neg t.toNat = .ok →
      exec (.brpLong g p neg t) s = .next (brp p neg t.toNat)) ∧
    (Acts s 0 g [] → s.joinCheck = .ok → exec (.join g) s = .next ((s.mod (fun c => c.join s.issue.next)).delay 2)) ∧
    (∀ p neg off, Acts s 0 g [] → s.splitCheck p neg (s.target 12 off.toNat) = .ok →
      exec (.split g p neg off) s = .next (split p neg (s.target 12 off.toNat))) ∧
    (∀ p neg t, Acts s 0 g [] → t.toNat < 2 ^ 56 → t.toNat % 4 = 0 → s.splitCheck p neg t.toNat = .ok →
      exec (.splitLong g p neg t) s = .next (split p neg t.toNat)) ∧
    (Acts s 0 g [] → s.was.isLanding = true → s.was.stack = [] → exec (.merge g) s = .next (s.mergeLanding s.focus)) ∧
    (Acts s 0 g [] → s.was.isLanding = false → s.mergeCheck = .ok →
      exec (.merge g) s = .next ((s.mod (fun c => c.join s.issue.next)).delay 2)) ∧
    (∀ sM j, Acts s 0 g (useS [sM]) → (s.was.rejoin j.toNat).waiting = 0 → exec (.jinit g sM j) s = .next (s.mod (fun c =>
      c.putJ j.toNat ⟨BitVec.ofNat 16 (s.rS sM).toNat &&& c.active, 0, c.depth, (c.rejoin j.toNat).cont, s.nextOp⟩))) ∧
    (∀ j lit, Acts s 0 g [] → lit.toNat < 2 ^ 16 → (s.was.rejoin j.toNat).waiting = 0 → exec (.jinitLiteral g j lit) s =
      .next (s.mod (fun c => c.putJ j.toNat ⟨BitVec.ofNat 16 lit.toNat &&& c.active, 0, c.depth, (c.rejoin j.toNat).cont, s.nextOp⟩))) ∧
    (∀ j, Acts s 0 g [] → exec (.jarv g j) s = .next (s.mod (fun c =>
      c.putJ j.toNat { c.rejoin j.toNat with mask := (c.rejoin j.toNat).mask &&& ~~~c.active }))) ∧
    (∀ j, Acts s 0 g [.f 1] → s.jwaitCheck j = .ok →
      exec (.jwait g j) s = .next ((s.mod (fun c => (c.jwait j.toNat s.issue.next).1)).delay 2))

/-- R49, R52, R54, R169, R211 to R216, R219, R220: the words that hand the token, mark restart regions, trap, stop for the debugger,
return from the handler, file, park, end and fuse work. That SYSRET to an EPC that is no multiple of 4 raises ALIGN at its own bundle, and
that EXIT on a landing ends its gang context, is the model's reading (log 18), and that R178's record names address 0 in space 0
(log 40); so is that a REGRP whose partner has come to its own acts at
once, the first of the two waiting for the second (log 47). -/
def Obligations.SequencerWords : Prop :=
  ∀ (s : State) (g : Gate),
    (Acts s 0 g [] → exec (.pass g) s = .next s.pass) ∧
    (Acts s 0 g [] → exec (.idemb g) s =
      .next ((s.mod (fun c => { c with idem := some { s.snapshot s.focus with pc := s.issue.next } })).delay 2)) ∧
    (Acts s 0 g [] → exec (.ideme g) s = .next (s.mod (fun c => { c with idem := none }))) ∧
    (∀ code, Acts s 0 g [] → s.issue.pre = none → exec (.trap g code) s =
      .next (s.enterTrap s.focus s.issue.next [s.seqRec rTRAP 0 0 (BitVec.ofNat 64 code.toNat)])) ∧
    (∀ code, Acts s 0 g [] → s.issue.pre = none → exec (.trapLiteral g code) s =
      .next (s.enterTrap s.focus s.issue.next [s.seqRec rTRAP 0 0 code])) ∧
    (∀ code, Acts s 0 g [] → s.was.dbgEn = true → exec (.brk g code) s =
      .next ((s.mod (fun c => { c with dbgStop := true, dbgBrk := true })).cause 1)) ∧
    (∀ code, Acts s 0 g [] → s.issue.pre = none → s.me.dbgEn = false → exec (.brk g code) s =
      .next (s.enterTrap s.focus s.issue.next [s.seqRec rBRK 0 0 (BitVec.ofNat 64 code.toNat)])) ∧
    (Acts s 0 g [] → s.was.sup = true → s.rEpc.toNat % 4 = 0 → exec (.sysret g) s = .next (s.sysret s.focus)) ∧
    (Acts s 0 g [] → s.issue.pre = none → s.me.sup = false →
      exec (.sysret g) s = .next (s.enterTrap s.focus s.issue.bundle [s.seqRec rSTATE 0 0 0])) ∧
    (Acts s 0 g [] → s.issue.pre = none → s.was.sup = true → s.rEpc.toNat % 4 ≠ 0 →
      exec (.sysret g) s = .next (s.enterTrap s.focus s.issue.bundle [s.seqRec rALIGN 4 0 s.rEpc])) ∧
    (∀ sA, Acts s 0 g (.f 1 :: useS [sA]) → s.was.idem = none → s.me.spawnOk = none →
      (∀ r d, s.spawnAt (s.rS sA) = some (r, d) → (s.die d).canFile r = true) →
      exec (.spawn g sA) s = .next (match s.spawnAt (s.rS sA) with
        | some (r, d) => ((s.spawnReads (s.rS sA)).fileItem d s.focus (s.rS sA).toNat r).1.wF 1 true 1
        | none => (s.spawnReads (s.rS sA)).wF 1 false 1)) ∧
    (∀ sT, Acts s 0 g (useS [sT]) → s.issue.pre = none → exec (.park g sT) s =
      .next ((s.mod (fun c => { c with pc := s.issue.next }.backEdge)).parkNow s.owner .parkWord (s.rS sT).toNat)) ∧
    (∀ sT, Acts s 0 g (useS [sT]) → s.issue.pre ≠ none → exec (.park g sT) s =
      .next { s.mod (fun c => { c with wakeAt := (s.rS sT).toNat }) with issue := { s.issue with park := true } }) ∧
    (Acts s 0 g [] → s.doneCheck = .ok → exec (.done g) s = .next s.done) ∧
    (Acts s 0 g [] → s.opsHold = .ok → exec (.exit g) s = .next (s.exitContext s.owner)) ∧
    (∀ h, Acts s 0 g [.h h.toNat, .f 1] →
      let t := s.mod (fun c => { c with heldRegrp := none, regrpFails := false })
      (s.me.regrpFails = true → exec (.regrp g h) s = .next ((t.regrpF1 false).regrpLeave s.focus)) ∧
      (∀ gid m, s.me.regrpFails = false → s.was.idem = none → s.splitOut = false → s.handleMember h = some (gid, m) →
        s.countedOn gid = false → (∀ p, s.regrpPartner gid = some p → s.regrpCame gid p = true) →
        exec (.regrp g h) s = .next (t.regrp gid)))

/-- R148 to R160, R217, R218: the group words, of a member whose handle stands, outside restart regions and splits. GBAR, GVOTE and
GRDC arrive and hold until the generation of their arrival has completed; they then write what it gave. -/
def Obligations.GroupWords : Prop :=
  ∀ (s : State) (g : Gate) (h : BitVec 3) (gid : Nat) (m : Member),
    (∀ sA sN, Acts s 0 g (.h h.toNat :: .f 1 :: useS [sA, sN]) → s.was.idem = none → s.splitOut = false → s.rH h = 0 →
      attrOk (s.rS sA).toNat = true → exec (.gnew g sA sN h) s =
        .next (match s.createGroup (.ctx s.owner) s.me.region (bits (s.rS sN).toNat 0 32) (s.rS sA).toNat with
          | some (t, w) => (t.wH h w).wF 1 true 1
          | none => (s.wH h 0).wF 1 false 1)) ∧
    (∀ sN, Acts s 0 g (.h h.toNat :: .f 1 :: useS [sN]) → s.was.idem = none → s.splitOut = false → s.rH h = 0 →
      (s.groupNamed (bits (s.rS sN).toNat 0 32)).any s.countedOn = false → exec (.gjoin g sN h) s = .next (match s.joinGroup (.ctx s.owner) s.me.region (bits (s.rS sN).toNat 0 32) with
          | some (t, w) => (t.wH h w).wF 1 true 1
          | none => (s.wH h 0).wF 1 false 1)) ∧
    (s.handleMember h = some (gid, m) → s.countedOn gid = false →
      (∀ cnt, Acts s 0 g [.h h.toNat] → s.was.idem = none → s.splitOut = false → exec (.gleave g cnt h) s =
        .next (((s.modCtx s.owner (fun c => if bits c.window.toNat 0 12 = gid then { c with window := 0 } else c)).issueArrival
          cnt true false gid 32 0).wH h 0)) ∧
      (∀ cnt, Acts s 0 g [.h h.toNat] → s.was.idem = none → s.arrivalHold gid m = .ok →
        exec (.garv g cnt h) s = .next (s.issueArrival cnt false false gid 32 0)) ∧
      (Acts s 0 g [.h h.toNat, .f 1] → s.givenHere m = false → (∀ n, m.last = some n → n < (s.groupAt gid).gen) →
        exec (.gwait g h) s = .next (s.wF 1 (m.last.isNone || !m.lastLost) 1)) ∧
      (∀ cnt, Acts s 0 g [.h h.toNat, .f 1] → s.was.idem = none → Meets s gid (.gbar g cnt h) (barMeeting cnt h)) ∧
      (∀ cnt f sD, Acts s 0 g (.h h.toNat :: .f 1 :: .f f.toNat :: useS [sD]) → s.was.idem = none →
        Meets s gid (.gvote g cnt f h sD) ⟨h, cnt, 16, if s.rF f then 1 else 0, sD, 0⟩) ∧
      (∀ cnt sC sD (op : BitVec 4) sS, Acts s 0 g (.h h.toNat :: .f 1 :: useS [sC, sD, sS]) → op.toNat ≤ 8 → s.was.idem = none →
        Meets s gid (.grdc g cnt h sC sD op sS) ⟨h, cnt, op.toNat, s.rS sS, sD, sC⟩) ∧
      (Acts s 0 g [.h h.toNat] → s.was.idem = none → s.splitOut = false → s.rH h ≠ 0 → (s.groupAt gid).win = true →
        exec (.gwin g h) s = .next (s.modCtx s.owner (fun c => { c with window := s.rH h }))) ∧
      (∀ (sel : BitVec 3) sD, Acts s 0 g (.h h.toNat :: useS [sD]) → sel.toNat ≤ 4 →
        exec (.gqry g sel h sD) s = .next (s.wS sD ((s.groupAt gid).query m sel.toNat) 1))) ∧
    (Acts s 0 g [.h h.toNat] → s.was.idem = none → s.splitOut = false → s.rH h = 0 →
      exec (.gwin g h) s = .next (s.modCtx s.owner (fun c => { c with window := 0 })))

/-- R221 to R225: CSRD reads a control register, CSWR and the words of single registers write one; what only the handler may
access needs the handler. That a CSRD of the handler lands with bound 1 and not R221's 3 is the model's choice (log 45). -/
def Obligations.ControlRegisterWords : Prop :=
  ∀ (s : State) (g : Gate) (cr : BitVec 11),
    ctlRegOk cr = true →
    (crSuper cr.toNat = true → s.was.sup = true) →
    (∀ sD, Acts s 0 g (useS [sD]) → exec (.csrd g cr sD) s = .next (s.wS sD (s.rCr cr.toNat) (if s.was.sup then 1 else 3))) ∧
    (∀ sS, Acts s 0 g (useS [sS]) → exec (.cswr g cr sS) s = .next (s.crWrite cr.toNat (s.rS sS))) ∧
    (∀ lit, Acts s 0 g [] → exec (.cswrLiteral g cr lit) s = .next (s.crWrite cr.toNat lit)) ∧
    (∀ x, Issues s 0 [] → s.was.sup = true → exec (.abort x) s = .next (s.abort x)) ∧
    (∀ x, Issues s 0 [] → exec (.srseed x) s = .next (s.putSeed x)) ∧
    (∀ x, Issues s 0 [] → s.was.sup = true → exec (.fqnext x) s = .next s.nextFault) ∧
    (∀ x, Issues s 0 [] → exec (.kcurWrite x) s = .next (s.putKcur x))

/-! ## Words of class S -/

/-- R226 to R228: every three-register word writes its function of two registers, or of a register and its literal, to sd, with
the bound of the opcode map; a division by zero and the one signed division that overflows have the results of R228. -/
def Obligations.ScalarThreeRegister : Prop :=
  ∀ (s : State) (g : Gate) (sa sb sd : BitVec 5) (lit : Dword),
    let result (i : Instr) (L : Nat) (v : Dword) : Prop := exec i s = .next (s.wS sd v L)
    (Acts s 1 g (useS [sd, sa, sb]) →
      let a := s.rS sa
      let b := s.rS sb
      result (.add g sb sa sd) 1 (a + b) ∧
      result (.sub g sb sa sd) 1 (a - b) ∧
      result (.mul g sb sa sd) 3 (a * b) ∧
      result (.mulh g sb sa sd) 3 (BitVec.ofInt 64 (a.toInt * b.toInt / 2 ^ 64)) ∧
      result (.mulhu g sb sa sd) 3 (BitVec.ofNat 64 (a.toNat * b.toNat / 2 ^ 64)) ∧
      result (.divs g sb sa sd) 20 (if b = 0 then BitVec.allOnes 64 else BitVec.ofInt 64 (a.toInt.tdiv b.toInt)) ∧
      result (.divu g sb sa sd) 20 (if b = 0 then BitVec.allOnes 64 else BitVec.ofNat 64 (a.toNat / b.toNat)) ∧
      result (.rems g sb sa sd) 20 (if b = 0 then a else BitVec.ofInt 64 (a.toInt.tmod b.toInt)) ∧
      result (.remu g sb sa sd) 20 (if b = 0 then a else BitVec.ofNat 64 (a.toNat % b.toNat)) ∧
      result (.and g sb sa sd) 1 (a &&& b) ∧
      result (.or g sb sa sd) 1 (a ||| b) ∧
      result (.xor g sb sa sd) 1 (a ^^^ b) ∧
      result (.andn g sb sa sd) 1 (a &&& ~~~b) ∧
      result (.shl g sb sa sd) 1 (a <<< (b.toNat % 64)) ∧
      result (.shr g sb sa sd) 1 (a >>> (b.toNat % 64)) ∧
      result (.sar g sb sa sd) 1 (a.sshiftRight (b.toNat % 64)) ∧
      result (.rotl g sb sa sd) 1 (a.rotateLeft (b.toNat % 64)) ∧
      result (.mins g sb sa sd) 1 (if a.toInt < b.toInt then a else b) ∧
      result (.minu g sb sa sd) 1 (if a.toNat < b.toNat then a else b) ∧
      result (.maxs g sb sa sd) 1 (if a.toInt < b.toInt then b else a) ∧
      result (.maxu g sb sa sd) 1 (if a.toNat < b.toNat then b else a)) ∧
    (Acts s 1 g (useS [sd, sa]) →
      let a := s.rS sa
      let b := lit
      result (.addLiteral g sa sd lit) 1 (a + b) ∧
      result (.subLiteral g sa sd lit) 1 (a - b) ∧
      result (.mulLiteral g sa sd lit) 3 (a * b) ∧
      result (.mulhLiteral g sa sd lit) 3 (BitVec.ofInt 64 (a.toInt * b.toInt / 2 ^ 64)) ∧
      result (.mulhuLiteral g sa sd lit) 3 (BitVec.ofNat 64 (a.toNat * b.toNat / 2 ^ 64)) ∧
      result (.divsLiteral g sa sd lit) 20 (if b = 0 then BitVec.allOnes 64 else BitVec.ofInt 64 (a.toInt.tdiv b.toInt)) ∧
      result (.divuLiteral g sa sd lit) 20 (if b = 0 then BitVec.allOnes 64 else BitVec.ofNat 64 (a.toNat / b.toNat)) ∧
      result (.remsLiteral g sa sd lit) 20 (if b = 0 then a else BitVec.ofInt 64 (a.toInt.tmod b.toInt)) ∧
      result (.remuLiteral g sa sd lit) 20 (if b = 0 then a else BitVec.ofNat 64 (a.toNat % b.toNat)) ∧
      result (.andLiteral g sa sd lit) 1 (a &&& b) ∧
      result (.orLiteral g sa sd lit) 1 (a ||| b) ∧
      result (.xorLiteral g sa sd lit) 1 (a ^^^ b) ∧
      result (.andnLiteral g sa sd lit) 1 (a &&& ~~~b) ∧
      result (.shlLiteral g sa sd lit) 1 (a <<< (b.toNat % 64)) ∧
      result (.shrLiteral g sa sd lit) 1 (a >>> (b.toNat % 64)) ∧
      result (.sarLiteral g sa sd lit) 1 (a.sshiftRight (b.toNat % 64)) ∧
      result (.rotlLiteral g sa sd lit) 1 (a.rotateLeft (b.toNat % 64)) ∧
      result (.minsLiteral g sa sd lit) 1 (if a.toInt < b.toInt then a else b) ∧
      result (.minuLiteral g sa sd lit) 1 (if a.toNat < b.toNat then a else b) ∧
      result (.maxsLiteral g sa sd lit) 1 (if a.toInt < b.toInt then b else a) ∧
      result (.maxuLiteral g sa sd lit) 1 (if a.toNat < b.toNat then b else a))

/-- R229 to R233: the compares, flag tables, moves, addresses, counts, bit fields and broadcasts. A compare or flag table writes
its flag and nothing else. -/
def Obligations.ScalarValueWords : Prop :=
  ∀ (s : State) (g : Gate) (sa sb sd : BitVec 5) (fa fb fc fd : BitVec 3),
    (∀ comb cond lit, Acts s 1 g (.f fc.toNat :: .f fd.toNat :: useS [sa, sb]) → Instr.wellFormed (.cmp g fc sb sa fd comb cond lit) = true →
      exec (.cmp g fc sb sa fd comb cond lit) s = .next (s.wF fd
        (cmpComb comb.toNat (cmpCond cond.toNat (s.rS sa) (match lit with | some l => l | none => s.rS sb)) (s.rF fc)) 1)) ∧
    (∀ tt, Acts s 1 g [.f fb.toNat, .f fa.toNat, .f fd.toNat] →
      exec (.flop g tt fb fa fd) s = .next (s.wF fd (tt.getLsbD ((if s.rF fa then 2 else 0) + (if s.rF fb then 1 else 0))) 1)) ∧
    (Acts s 1 g (.f fc.toNat :: useS [sb, sa, sd]) →
      exec (.sel g sb sa sd fc) s = .next (s.wS sd (if s.rF fc then s.rS sa else s.rS sb) 1)) ∧
    (∀ disp sh lit, Acts s 1 g (useS [sd, sb, sa]) → Instr.wellFormed (.lea g sb sa sd disp sh lit) = true →
      exec (.lea g sb sa sd disp sh lit) s =
        .next (s.wS sd (s.rS sa + s.rS sb <<< sh.toNat + (match lit with | some l => l | none => disp.signExtend 64)) 1)) ∧
    (Acts s 1 g (useS [sd, sa]) → exec (.mov g sa sd) s = .next (s.wS sd (s.rS sa) 1) ∧
      exec (.clz g sa sd) s = .next (s.wS sd (BitVec.ofNat 64 (clzFuel (s.rS sa).toNat 64)) 1) ∧
      exec (.ctz g sa sd) s = .next (s.wS sd (BitVec.ofNat 64 (ctzFuel (s.rS sa).toNat 0 64)) 1) ∧
      exec (.popc g sa sd) s = .next (s.wS sd (BitVec.ofNat 64 (countBits (s.rS sa).toNat 64)) 1) ∧
      (∀ (sgn : Bool) (wid : BitVec 7) (pos : BitVec 6), 1 ≤ wid.toNat → wid.toNat ≤ 64 →
        exec (.bfx g sa sd sgn wid pos) s = .next (s.wS sd (bfxFn (s.rS sa) sgn wid.toNat pos.toNat) 1) ∧
        exec (.bfi g sa sd wid pos) s = .next (s.wS sd (bfiFn (s.rS sd) (s.rS sa) wid.toNat pos.toNat) 1))) ∧
    (Acts s 1 g (useS [sd]) →
      (∀ imm : BitVec 11, exec (.movi g imm sd) s = .next (s.wS sd (imm.signExtend 64) 1)) ∧
      (∀ lit, exec (.moviLiteral g sd lit) s = .next (s.wS sd lit 1))) ∧
    (Acts s 1 g (useS [sa]) → exec (.bcst g sa) s = .next { s with issue := { s.issue with bc := s.rS sa } }) ∧
    (∀ lit, Acts s 1 g [] → exec (.bcstLiteral g lit) s = .next { s with issue := { s.issue with bc := lit } })

/-! ## Words of class V -/

/-- R238, R239: the floating-point words compute each active lane exactly and round it once, with FP32 operands and result; VMAX
and VMIN follow R131; the five transcendental words issue once every two cycles. -/
def Obligations.VectorFloatWords : Prop :=
  ∀ (s : State) (g : Gate) (f : VFields) (lit : Option Dword),
    let ready (i : Instr) (n : Nat) : Prop :=
      s.encodingOk i = true ∧ Issues s 3 (s.useV (f.vd.toNat :: vreads f n lit)) ∧ s.portCheck 3 (vreads f n lit) [f.vd.toNat] = .ok
    let binary (fn : Machine.Num → Machine.Num → NumF) : State := s.vecEff g f (vreads f 2 lit) 4 (fun t e m st =>
      floatLanes m f.rm.toNat (fun a b _ => fn a b) (t.opA f none e) (t.opB f lit e) 0 st)
    let select (isMax : Bool) : State := s.vecEff g f (vreads f 2 lit) 2 (fun t e m st => eachLane m (fun k r =>
      ((fmaxmin isMax (laneN (t.opA f none e) k) (laneN (t.opB f lit e) k)).1,
        ⟨r.gen, r.flags ||| (fmaxmin isMax (laneN (t.opA f none e) k) (laneN (t.opB f lit e) k)).2⟩)) st)
    let sign (fn : Nat → Nat) : State := s.vecEff g f (vreads f 1 lit) 2 (fun t e _ st =>
      ((List.range 64).map (fun k => fn (laneN (t.opA f lit e) k)), st))
    let unary (fn : Machine.Num → NumF) : State := (s.vecEff g f (vreads f 1 lit) 12 (fun t e m st =>
      floatLanes m f.rm.toNat (fun a _ _ => fn a) (t.opA f lit e) 0 0 st)).mod (fun c => { c with lastTrans := s.cycle + 2 })
    (ready (.vadd g f lit) 2 → exec (.vadd g f lit) s = .next (binary (addN (f.rm == 3)))) ∧
    (ready (.vsub g f lit) 2 → exec (.vsub g f lit) s = .next (binary (fun a b => addN (f.rm == 3) a b.negate))) ∧
    (ready (.vmul g f lit) 2 → exec (.vmul g f lit) s = .next (binary mulN)) ∧
    (ready (.vfma g f lit) 3 → exec (.vfma g f lit) s = .next (s.vecEff g f (vreads f 3 lit) 4 (fun t e m st =>
      floatLanes m f.rm.toNat (fun a b c => ((addN (f.rm == 3) (mulN a b).1 c).1, (mulN a b).2 ||| (addN (f.rm == 3) (mulN a b).1 c).2))
        (t.opA f none e) (t.opB f lit e) (t.rVec e f.vc.toNat) st))) ∧
    (ready (.vmax g f lit) 2 → exec (.vmax g f lit) s = .next (select true)) ∧
    (ready (.vmin g f lit) 2 → exec (.vmin g f lit) s = .next (select false)) ∧
    (ready (.vabs g f lit) 1 → exec (.vabs g f lit) s = .next (sign (fun x => x % 2 ^ 31))) ∧
    (ready (.vneg g f lit) 1 → exec (.vneg g f lit) s = .next (sign (fun x => x ^^^ 2 ^ 31))) ∧
    (s.was.lastTrans ≤ s.cycle →
      (ready (.vrcp g f lit) 1 → exec (.vrcp g f lit) s = .next (unary rcpN)) ∧
      (ready (.vrsq g f lit) 1 → exec (.vrsq g f lit) s = .next (unary rsqN)) ∧
      (ready (.vexp g f lit) 1 → exec (.vexp g f lit) s = .next (unary (expN (f.sub == 1)))) ∧
      (ready (.vlog g f lit) 1 → exec (.vlog g f lit) s = .next (unary (logN (f.sub == 1)))) ∧
      (ready (.vtanh g f lit) 1 → exec (.vtanh g f lit) s = .next (unary tanhN)))

/-- R240: the integer and bit words on 32-bit lanes, wrapping or saturating. -/
def Obligations.VectorIntegerWords : Prop :=
  ∀ (s : State) (g : Gate) (f : VFields) (lit : Option Dword),
    let ready (i : Instr) (n : Nat) : Prop :=
      s.encodingOk i = true ∧ Issues s 3 (s.useV (f.vd.toNat :: vreads f n lit)) ∧ s.portCheck 3 (vreads f n lit) [f.vd.toNat] = .ok
    let lanewise (n L : Nat) (fn : Nat → Nat → Nat → Nat) : State := s.vecEff g f (vreads f n lit) L (fun t e _ st =>
      ((List.range 64).map (fun k => fn (laneN (t.opA f none e) k) (laneN (t.opB f lit e) k) (laneN (t.rVec e f.vc.toNat) k)), st))
    let num (uns : Bool) (x : Nat) : Int := if uns then (x : Int) else toSigned 32 x
    let fit (uns : Bool) (x : Int) : Nat := if f.sat then sat32 uns x else wrapInt 32 x
    (ready (.viadd g f lit) 2 → exec (.viadd g f lit) s =
      .next (lanewise 2 2 (fun a b _ => fit (f.sub == 1) (num (f.sub == 1) a + num (f.sub == 1) b)))) ∧
    (ready (.visub g f lit) 2 → exec (.visub g f lit) s =
      .next (lanewise 2 2 (fun a b _ => fit (f.sub == 1) (num (f.sub == 1) a - num (f.sub == 1) b)))) ∧
    (ready (.vimul g f lit) 2 → exec (.vimul g f lit) s = .next (lanewise 2 4 (fun a b _ =>
      if f.sub = 0 then fit false (num false a * num false b)
      else wrapInt 32 (num (f.sub == 2) a * num (f.sub == 2) b / 2 ^ 32)))) ∧
    (ready (.vimad g f lit) 3 → exec (.vimad g f lit) s = .next (lanewise 3 4 (fun a b c =>
      fit (f.sub == 1) (num (f.sub == 1) a * num (f.sub == 1) b + num (f.sub == 1) c)))) ∧
    (ready (.vimin g f lit) 2 → exec (.vimin g f lit) s =
      .next (lanewise 2 2 (fun a b _ => wrapInt 32 (min (num (f.sub == 1) a) (num (f.sub == 1) b))))) ∧
    (ready (.vimax g f lit) 2 → exec (.vimax g f lit) s =
      .next (lanewise 2 2 (fun a b _ => wrapInt 32 (max (num (f.sub == 1) a) (num (f.sub == 1) b))))) ∧
    (ready (.vand g f lit) 2 → exec (.vand g f lit) s = .next (lanewise 2 2 (fun a b _ => a &&& b))) ∧
    (ready (.vor g f lit) 2 → exec (.vor g f lit) s = .next (lanewise 2 2 (fun a b _ => a ||| b))) ∧
    (ready (.vxor g f lit) 2 → exec (.vxor g f lit) s = .next (lanewise 2 2 (fun a b _ => a ^^^ b))) ∧
    (ready (.vshl g f lit) 2 → exec (.vshl g f lit) s = .next (lanewise 2 2 (fun a b _ => a * 2 ^ (b % 32) % 2 ^ 32))) ∧
    (ready (.vshr g f lit) 2 → exec (.vshr g f lit) s = .next (lanewise 2 2 (fun a b _ => a / 2 ^ (b % 32)))) ∧
    (ready (.vsar g f lit) 2 → exec (.vsar g f lit) s = .next (lanewise 2 2 (fun a b _ => wrapInt 32 (toSigned 32 a / 2 ^ (b % 32)))))

/-- R241 to R245, R250 to R252: selects, moves, counts, reductions, scans, permutes and lane words write a vector; the compares and
predicate words write a lane or an engine predicate. -/
def Obligations.VectorLaneWords : Prop :=
  ∀ (s : State) (g : Gate) (f : VFields) (lit : Option Dword),
    let ready (i : Instr) (reads : List Nat) : Prop :=
      s.encodingOk i = true ∧ Issues s 3 (s.useV (f.vd.toNat :: reads)) ∧ s.portCheck 3 reads [f.vd.toNat] = .ok
    let tests (i : Instr) (reads : List Nat) : Prop := s.encodingOk i = true ∧ Issues s 3 (s.useV reads) ∧ s.portCheck 3 reads [] = .ok
    let mask (e : Nat) : LaneMask := s.laneMask e f.lq f.ln
    let conds (e : Nat) : List (Bool × Flags) := s.compareLanes f lit e (mask e)
    (ready (.vsel g f lit) (vreads f 2 lit) → exec (.vsel g f lit) s = .next (s.vecEff g f (vreads f 2 lit) 2 (fun t e _ st =>
      ((List.range 64).map (fun k => if (t.rQ e f.qc).getLsbD k then laneN (t.opA f none e) k else laneN (t.opB f lit e) k), st)))) ∧
    (ready (.vmov g f lit) (vreads f 1 lit) → exec (.vmov g f lit) s = .next (s.vecEff g f (vreads f 1 lit) 2 (fun t e _ st =>
      ((List.range 64).map (laneN (t.opA f lit e)), st)))) ∧
    (ready (.vqcnt g f lit) [] → exec (.vqcnt g f lit) s = .next (s.vecEff g f [] 3 (fun t e _ st =>
      ((List.range 64).map (qcount f.sub.toNat (t.rQ e (BitVec.ofNat 3 f.va.toNat))), st)))) ∧
    (ready (.vreds g f lit) (vreads f 1 lit) → exec (.vreds g f lit) s = .next (s.vecEff g f (vreads f 1 lit) 10 (fun t e m st =>
      (List.replicate 64 (treeRed f.sub.toNat 6 (reduceLanes f m (t.opA f lit e))).1,
        ⟨st.gen, st.flags ||| (treeRed f.sub.toNat 6 (reduceLanes f m (t.opA f lit e))).2⟩)))) ∧
    (ready (.vscan g f lit) (vreads f 1 lit) → exec (.vscan g f lit) s = .next (s.vecEff g f (vreads f 1 lit) 10 (fun t e m st =>
      let xs := scanRed f.sub.toNat (reduceLanes f m (t.opA f lit e))
      (xs.map Prod.fst, ⟨st.gen, (xs.zipIdx.filter (fun p => m.getLsbD p.2)).foldl (fun a p => a ||| p.1.2) st.flags⟩)))) ∧
    (ready (.vperm g f lit) (vreads f (if f.sub = 1 then 3 else 2) lit) → exec (.vperm g f lit) s =
      .next (s.vecEff g f (vreads f (if f.sub = 1 then 3 else 2) lit) 4 (fun t e _ st => ((List.range 64).map (fun k =>
        let i := laneN (t.opB f lit e) k
        if f.sub = 1 ∧ i.testBit 6 = true then laneN (t.rVec e f.vc.toNat) (i % 64) else laneN (t.opA f none e) (i % 64)), st)))) ∧
    (f.sub = 0 → ready (.vlane g f lit) [] → exec (.vlane g f lit) s = .next (s.vecEff g f [] 4 (fun _ _ _ st =>
      ((List.range 64).map (fun k => k + f.imm.toNat), st)))) ∧
    (f.sub = 1 → ready (.vlane g f lit) (vreads f 1 lit) → exec (.vlane g f lit) s =
      .next (s.vecEff g f (vreads f 1 lit) 4 (fun t e _ st => (compacted (t.opA f lit e) (t.rQ e f.qc), st)))) ∧
    (f.sub = 2 → ready (.vlane g f lit) (vreads f 1 lit) → exec (.vlane g f lit) s = .next ((s.each (s.acting g) (fun u e =>
      u.putVec e f.vd.toNat (s.portAddr (f.vd.toNat - 32)) (mask e &&& s.rQ e f.qc) f.z
        ((List.range 64).map (fun k => laneN (s.opA f lit e) (countBits (s.rQ e f.qc).toNat k))) 4)).popAll (f.vd.toNat :: vreads f 1 lit))) ∧
    (f.sub = 3 → ready (.vlane g f lit) (vreads f 1 lit) → exec (.vlane g f lit) s =
      .next (s.vecEff g f (vreads f 1 lit) 4 (fun t e _ st =>
        ((List.range 64).map (fun k => laneN (t.opA f lit e) ((k + f.imm.toNat) % 64)), st)))) ∧
    (f.sub = 4 → ready (.vlane g f lit) (vreads f 1 lit) → exec (.vlane g f lit) s =
      .next (s.vecEff g f (vreads f 1 lit) 4 (fun t e _ st =>
        ((List.range 64).map (fun _ => laneN (t.opA f lit e) (f.imm.toNat % 64)), st)))) ∧
    (tests (.vcmp g f lit) (vreads f 2 lit) → exec (.vcmp g f lit) s = .next ((s.each (s.acting g) (fun u e =>
      (u.putMask e f (mask e) (ofLaneBits (fun k => ((conds e).getD k (false, 0)).1)) 2).raise e (laneFlags (conds e)))).popAll (vreads f 2 lit))) ∧
    (tests (.vcmps g f lit) (vreads f 2 lit) → exec (.vcmps g f lit) s = .next ((s.each (s.acting g) (fun u e =>
      (u.wP e (BitVec.ofNat 3 f.vd.toNat) (vcmpsRed (bits f.imm.toNat 0 2)
        (((List.range 64).filter (fun k => (mask e).getLsbD k)).map (fun k => ((conds e).getD k (false, 0)).1))) 3).raise e
          (laneFlags (conds e)))).popAll (vreads f 2 lit))) ∧
    (tests (.vqop g f lit) [] → f.imm = 0 → exec (.vqop g f lit) s = .next (s.each (s.acting g) (fun u e =>
      u.putMask e f (mask e) (ofLaneBits (fun k => truth f.sub.toNat ((s.rQ e (BitVec.ofNat 3 f.va.toNat)).getLsbD k)
        ((s.rQ e (BitVec.ofNat 3 f.vb.toNat)).getLsbD k))) 2))) ∧
    (tests (.vqop g f lit) [] → f.imm = 1 → exec (.vqop g f lit) s = .next (s.each (s.acting g) (fun u e =>
      u.wP e (BitVec.ofNat 3 f.vd.toNat) (truth f.sub.toNat (s.rP e (BitVec.ofNat 3 f.va.toNat)) (s.rP e (BitVec.ofNat 3 f.vb.toNat))) 2)))

/-- R246 to R249: VCVT between lanes, from a block format and to one, VPACK and VUNPK. -/
def Obligations.VectorConversionWords : Prop :=
  ∀ (s : State) (g : Gate) (f : VFields) (lit : Option Dword),
    let ready (i : Instr) (reads : List Nat) : Prop :=
      s.encodingOk i = true ∧ Issues s 3 (s.useV (f.vd.toNat :: reads)) ∧ s.portCheck 3 reads [f.vd.toNat] = .ok
    let scl : Bool := f.imm.getLsbD 0
    let reads : List Nat := vreads f (if scl then 2 else 1) lit
    let src (t : State) (e : Nat) : Vec := t.opA f (if scl then none else lit) e
    (ready (.vcvt g f lit) reads →
      (f.fmt.toNat < 10 → f.fmt2.toNat < 10 → exec (.vcvt g f lit) s = .next (s.vecEff g f reads 4 (fun t e m st => eachLane m (fun k r =>
        convLane f (laneN (src t e) k) (if scl then some (bits (laneN (t.opB f lit e) k) 0 8) else none) r) st))) ∧
      (f.fmt.toNat < 10 → 10 ≤ f.fmt2.toNat → exec (.vcvt g f lit) s = .next (s.vecEff g f reads 4 (fun t e m st =>
        eachLane m (fun k r => RStream.roundF r fFP32 f.rm.toNat (unblock f.fmt2.toNat (src t e) k)) st))) ∧
      (10 ≤ f.fmt.toNat → exec (.vcvt g f lit) s = .next ((s.each (s.acting g) (fun u e =>
        let r := encodeBlocks f.fmt.toNat f.rm.toNat (s.laneMask e f.lq f.ln) (src s e) (List.range (if f.fmt = 10 then 2 else 4)) (u.stream e)
        (u.putVecBytes e f.vd.toNat (s.portAddr (f.vd.toNat - 32)) (encodedBytes f r.1) 4).putStream e r.2)).popAll (f.vd.toNat :: reads)))) ∧
    (∀ w, packWidth f.fmt.toNat = some w →
      (ready (.vunpk g f lit) (vreads f 1 lit) → exec (.vunpk g f lit) s = .next (s.vecEff g f (vreads f 1 lit) 4 (fun t e _ st =>
        ((List.range 64).map (fun k =>
          let x := bits (t.opA f lit e).toNat (f.imm.toNat * 64 * w + k * w) w
          if f.sub = 1 then wrapInt 32 (toSigned w x) else x), st)))) ∧
      (ready (.vpack g f lit) (vreads f 1 lit) → f.vd.toNat < 32 → exec (.vpack g f lit) s = .next ((s.each (s.acting g) (fun u e =>
        u.wV e f.vd.toNat (BitVec.ofNat 2048 (packed f w (s.laneMask e f.lq f.ln) (s.rV e f.vd.toNat) (s.opA f lit e))) 4)).popAll
          (f.vd.toNat :: vreads f 1 lit))) ∧
      (ready (.vpack g f lit) (vreads f 1 lit) → 32 ≤ f.vd.toNat → exec (.vpack g f lit) s = .next ((s.each (s.acting g) (fun u e =>
        u.localWrite e (s.portAddr (f.vd.toNat - 32) + f.imm.toNat * 8 * w)
          (bytesAt (packed f w (s.laneMask e f.lq f.ln) (vecOfBytes (u.localRead e (s.portAddr (f.vd.toNat - 32)) 256)) (s.opA f lit e))
            (f.imm.toNat * 8 * w) (8 * w)))).popAll (f.vd.toNat :: vreads f 1 lit))))

/-! ## Words of class Q -/

/-- R253 to R256: the compare-exchange words exchange keys, and with them payloads, in the lanes whose keys are out of order. -/
def Obligations.SortWords : Prop :=
  ∀ (s : State) (g : Gate) (f : QFields),
    let ready (i : Instr) (regs : List (BitVec 6)) : Prop :=
      i.wellFormed = true ∧ Issues s 2 (s.useV (regs.map BitVec.toNat)) ∧ s.acting g ≠ []
    (ready (.cxs g f) [f.ka, f.kb] → exec (.cxs g f) s =
      .next (s.each (s.acting g) (fun u e => u.exchange s e f.ka f.kb (s.cxsMask e f)))) ∧
    (ready (.cxsi g f) [f.ka, f.kb, f.pa, f.pb] → exec (.cxsi g f) s = .next (s.each (s.acting g) (fun u e =>
      (u.exchange s e f.ka f.kb (s.cxsMask e f)).exchange s e f.pa f.pb (s.cxsMask e f)))) ∧
    (ready (.cxv g f) [f.ka] → exec (.cxv g f) s = .next (s.each (s.acting g) (fun u e =>
      u.putKeys e f.ka (s.cxvMask e f) (fun k => s.keyAt e f.ka (k ^^^ 2 ^ f.j.toNat))))) ∧
    (ready (.cxvi g f) [f.ka, f.pa] → exec (.cxvi g f) s = .next (s.each (s.acting g) (fun u e =>
      (u.putKeys e f.ka (s.cxvMask e f) (fun k => s.keyAt e f.ka (k ^^^ 2 ^ f.j.toNat))).putKeys e f.pa (s.cxvMask e f)
        (fun k => s.keyAt e f.pa (k ^^^ 2 ^ f.j.toNat)))))

/-! ## Words of classes T and K -/

/-- R67, R68, R276 to R278: claiming, releasing, loading and tagging operand slots, in engines whose slots do not hold the word. -/
def Obligations.SlotWords : Prop :=
  ∀ (s : State) (g : Gate) (n : BitVec 3) (o : BitVec 5),
    s.acting g ≠ [] →
    (Issues s 4 [] → n.toNat + o.toNat ≤ 31 → (∀ e ∈ s.actives, ∀ k ∈ slotRun o n, s.slotHold e k = .no) →
      ((∀ e ∈ s.acting g, ∀ k ∈ slotRun o n, (s.rO e k).owner = 0 ∨ (s.rO e k).owner = s.owner) → exec (.oclm g n o) s =
        .next (s.each (s.acting g) (fun u e => (slotRun o n).foldl (fun v k =>
          v.wO e k { owner := v.owner, scale := ((v.myEng e).slot k).scale } 2) u))) ∧
      ((∀ e ∈ s.acting g, ∀ k ∈ slotRun o n, (s.rO e k).owner = s.owner) → exec (.orel g n o) s =
        .next (s.each (s.acting g) (fun u e => (slotRun o n).foldl (fun v k => v.wTags e k (fun x => { x with owner := 0 }) false 1) u)))) ∧
    (∀ sA sS tr (fmt : BitVec 4) (pitch : BitVec 16), Issues s 4 (useS [sA, sS]) → Instr.wellFormed (.old g o sA sS tr fmt pitch) = true →
      let base := bits (s.rS sA).toNat 0 32
      let sb := bits (s.rS sS).toNat 0 32
      let ranges := oldRows fmt.toNat tr base pitch.toNat ++ (if fmt = 10 then [(sb, 512)] else [])
      (∀ e ∈ s.actives, s.slotHold e o.toNat = .no) → (∀ e ∈ s.acting g, (s.rO e o.toNat).owner = s.owner) →
      base % 4 = 0 → (fmt = 10 → sb % 4 = 0) → (∀ r ∈ ranges, (s.localAt r.1 r.2).isSome = true) →
      exec (.old g o sA sS tr fmt pitch) s = .next (s.each (s.acting g) (fun u e => u.wO e o.toNat
        { ((u.myEng e).slot o.toNat) with
          data := (u.oldData e ((u.myEng e).slot o.toNat) fmt.toNat tr base sb pitch.toNat).1
          scale := (u.oldData e ((u.myEng e).slot o.toNat) fmt.toNat tr base sb pitch.toNat).2
          loading := true
          fmt := fmt } 1))) ∧
    (∀ (setf : Bool) (fmt : BitVec 4), (if setf then slotFmtOk fmt = true else fmt = 0) →
      (∀ e ∈ s.actives, s.slotHold e o.toNat = .no) → (∀ e ∈ s.acting g, (s.rO e o.toNat).owner = s.owner) →
      let tagged (user : Dword) : State := s.each (s.acting g) (fun u e => u.wTags e o.toNat (fun x =>
        { x with tag := BitVec.ofNat 16 user.toNat, fmt := if setf then fmt else x.fmt }) setf 2)
      (∀ sU, Issues s 4 (useS [sU]) → exec (.otag g sU setf fmt o) s = .next (tagged (s.rS sU))) ∧
      (∀ lit, Issues s 4 [] → lit.toNat < 2 ^ 16 → exec (.otagLiteral g false setf fmt o lit) s = .next (tagged lit))) ∧
    (∀ pd : BitVec 3, (∀ e ∈ s.actives, s.slotReadHold e o.toNat = .no) →
      let tested (user : Dword) : State := s.each (s.acting g) (fun u e =>
        u.wP e pd ((u.rO e o.toNat).owner == u.owner && (u.rO e o.toNat).tag == BitVec.ofNat 16 user.toNat) 2)
      (∀ sU, Issues s 4 (useS [sU]) → exec (.otagQ g sU pd o) s = .next (tested (s.rS sU))) ∧
      (∀ lit, Issues s 4 [] → lit.toNat < 2 ^ 16 → exec (.otagLiteral g true false (pd.zeroExtend 4) o lit) s = .next (tested lit)))

/-- R279 to R284, R293 to R297: the multiplies of slots start a task in every acting engine whose array, slots and accumulator are
free; AZRO, AADD and ADRN act on accumulators, DSTQ tests a drain's status. -/
def Obligations.ArrayWords : Prop :=
  ∀ (s : State) (g : Gate) (ad : BitVec 2) (oa ob om : BitVec 5) (zs : BitVec 4) (za : Bool),
    s.acting g ≠ [] →
    (Issues s 4 [] → zs.toNat ≤ 8 →
      (∀ e ∈ s.actives, s.accBusy e ad.toNat = .no ∧ s.slotReadHold e oa.toNat = .no ∧ s.slotReadHold e ob.toNat = .no) →
      (∀ e ∈ s.acting g, s.arrayBusy e = false ∧ (s.rO e oa.toNat).owner = s.owner ∧ (s.rO e ob.toNat).owner = s.owner ∧
        (tagPair (s.rO e oa.toNat).fmt.toNat (s.rO e ob.toNat).fmt.toNat).isSome = true) →
      exec (.mma g ad oa ob zs za) s = .next (s.each (s.acting g) (fun u e =>
        let a := u.rO e oa.toNat
        let b := u.rO e ob.toNat
        let grp := ((tagPair a.fmt.toNat b.fmt.toNat).map Prod.fst).getD 1
        let sh := u.shape e zs ((slotCap a.fmt.toNat).getD 64)
        u.startTask e ad za ⟨u.me.place.engCtx, false, ad.toNat, [oa.toNat, ob.toNat], a, b, {}, {}, sh.rows, sh.cols, sh.klen, grp,
          ceilDiv sh.klen grp, 0, u.cycle, none⟩))) ∧
    (Issues s 4 [] → zs.toNat ≤ 8 → ob ≠ 31 →
      (∀ e ∈ s.actives, s.accBusy e ad.toNat = .no ∧ ∀ k ∈ [oa.toNat, ob.toNat, ob.toNat + 1, om.toNat], s.slotReadHold e k = .no) →
      (∀ e ∈ s.acting g, s.arrayBusy e = false ∧
        (∀ k ∈ [oa.toNat, ob.toNat, ob.toNat + 1, om.toNat], (s.rO e k).owner = s.owner) ∧
        (s.rO e ob.toNat).fmt = (s.rO e (ob.toNat + 1)).fmt ∧
        (∃ n i, tagPair (s.rO e oa.toNat).fmt.toNat (s.rO e ob.toNat).fmt.toNat = some (n, i) ∧ n ≠ 4)) →
      exec (.mmsp g ad oa ob zs za om) s = .next (s.each (s.acting g) (fun u e =>
        let a := u.rO e oa.toNat
        let lgs := sparseGroup a.fmt.toNat
        let sh := u.shape e zs (2 * (slotCap a.fmt.toNat).getD 64)
        u.startTask e ad za ⟨u.me.place.engCtx, true, ad.toNat, [oa.toNat, ob.toNat, ob.toNat + 1, om.toNat], a, u.rO e ob.toNat,
          u.rO e (ob.toNat + 1), u.rO e om.toNat, sh.rows, sh.cols, sh.klen, lgs, ceilDiv (ceilDiv sh.klen 4) lgs, 0, u.cycle, none⟩))) ∧
    (Issues s 4 [] → (∀ e ∈ s.actives, s.accBusy e ad.toNat = .no) →
      exec (.azro g ad) s = .next (s.each (s.acting g) (fun u e => (u.wAcc e ad.toNat 0 2).wDrain e ad.toNat 0 2))) ∧
    (∀ (int : Bool) (as_ : BitVec 2), Issues s 4 [] → zs.toNat ≤ 8 →
      (∀ e ∈ s.actives, s.accBusy e ad.toNat = .no ∧ s.accBusy e as_.toNat = .no) →
      exec (.aadd g int zs as_ ad) s = .next (s.each (s.acting g) (fun u e =>
        let sum := accMap (u.shape e zs 64).rows (u.shape e zs 64).cols (fun i j old =>
          if int then ((old + (accElem (u.rAcc e as_.toNat) i j).toNat) % 2 ^ 32, 0)
          else fadd32 old (accElem (u.rAcc e as_.toNat) i j).toNat) (u.rAcc e ad.toNat)
        (u.wAccIn e ad.toNat sum.1 (shapeMask (u.shape e zs 64).rows (u.shape e zs 64).cols) 68).raise e sum.2))) ∧
    (∀ f : DrainFields, Instr.wellFormed (.adrn g f) = true → (∀ e ∈ s.actives, s.accBusy e f.acc.toNat = .no) →
      (f.dst = true → Issues s 4 [] → (∀ e ∈ s.actives, s.slotHold e f.addr.toNat = .no) → (∀ e ∈ s.acting g,
        (s.rO e f.addr.toNat).owner = s.owner ∧ (f.part = 0 ∨ (s.rO e f.addr.toNat).fmt = f.fmt)) → exec (.adrn g f) s = .next (s.each (s.acting g) (fun u e => u.drain e f))) ∧
      (f.dst = false → Issues s 4 (useS [f.addr]) → bits (s.rS f.addr).toNat 0 32 % 4 = 0 →
        (∀ e ∈ s.acting g, ∀ r ∈ drainRanges f (bits (s.rS f.addr).toNat 0 32) (s.shape e f.zs 64), (s.localAt r.1 r.2).isSome = true) →
        exec (.adrn g f) s = .next (s.each (s.acting g) (fun u e => u.drain e f)))) ∧
    (∀ (ok : Bool) (sel : BitVec 4) (pd : BitVec 3), Issues s 4 [] →
      (∀ e < 16, tableGet (s.wasPart e).drainT ad.toNat 0 ≤ s.cycle) →
      exec (.dstq g ok sel ad pd) s = .next (s.each (s.acting g) (fun u e =>
        u.wP e pd (decide (s.rDrain e ad.toNat &&& BitVec.ofNat 8 sel.toNat ≠ 0) != ok) 2)))

/-- R138, R274, R275, R298: SHP writes the shape fields that its mask names; the K words write the edge scale latches. -/
def Obligations.ShapeAndScaleWords : Prop :=
  ∀ (s : State) (g : Gate) (lit : Option Dword),
    (∀ (zd : BitVec 3) (vsrc : Bool) (va : BitVec 6) (sS : BitVec 5) (wm : BitVec 3),
      let codes := if vsrc then [va.toNat] else []
      Issues s 4 (useS [sS] ++ s.useV codes) → s.encodingOk (.shp g zd vsrc va sS wm lit) = true → s.portCheck 4 codes [] = .ok →
      exec (.shp g zd vsrc va sS wm lit) s = .next ((s.each (s.acting g) (fun u e =>
        u.wZ e zd (shapePut (((u.myEng e).part u.me.place.engCtx).zreg zd.toNat).toNat
          (if vsrc then bits (s.rVec e va.toNat).toNat 0 64 else (match lit with | some l => l | none => u.rS sS).toNat) wm) 2)).popAll codes)) ∧
    (∀ (va : BitVec 6) (side : BitVec 2), Issues s 5 (s.useV [va.toNat]) → s.encodingOk (.scl g va side) = true →
      s.portCheck 5 [va.toNat] [] = .ok → exec (.scl g va side) s = .next ((s.each (s.acting g) (fun u e =>
        u.putSides e side (BitVec.ofNat 512 (s.rVec e va.toNat).toNat) (BitVec.ofNat 512 (bits (s.rVec e va.toNat).toNat 512 512)))).popAll [va.toNat])) ∧
    (s.acting g ≠ [] → Issues s 5 [] →
      (∀ (rx cx : BitVec 8) (side : BitVec 2), Instr.wellFormed (.scli g rx cx side lit) = true → exec (.scli g rx cx side lit) s =
        .next (s.each (s.acting g) (fun u e => u.putSides e side
          (sameBytes (match lit with | some l => bits l.toNat 0 8 | none => rx.toNat))
          (sameBytes (match lit with | some l => bits l.toNat 8 8 | none => cx.toNat))))) ∧
      exec (.sclz g) s = .next (s.each (s.acting g) (fun u e => u.putSides e 3 (sameBytes 127) (sameBytes 127))))

/-! ## Asynchronous words (R88, R111) -/

/-- R84, R88 to R94, R285 to R291, R310 to R313: a word of the background that passes its checks starts one operation with the
operands read at issue; a copy's token is pending until the operation ends. -/
def Obligations.BackgroundWords : Prop :=
  ∀ (s : State) (g : Gate),
    (∀ sP sT pa, Issues s 6 (useS [sP, sT]) → sT ≠ 0 → s.cpyActs g sP = true → s.cpyCheck g sP = .ok → s.homeOf .read (s.rS sP) = some pa →
      exec (.cpy g sP sT) s = .next (((s.pbTouch s.party (s.rS sP).toNat pa).pbKeep s.party pa).startOp sT.toNat
        ((cpyBlock (s.pbRead s.party pa)).ctl.testBit 31) (.cpy (s.pbRead s.party pa))
        ((s.cpyEngines g (cpyBlock (s.pbRead s.party pa))).map (fun e => (e, 0))))) ∧
    (s.acting g ≠ [] →
      let all (f : Nat → Nat) := (s.acting g).map (fun e => (e, f e))
      (∀ f : CpylFields, s.encodingOk (.cpyl g f) = true → Issues s 6 (useS [f.sT, f.sB] ++ s.useV [f.vO.toNat]) →
        s.portCheck 6 [f.vO.toNat] [] = .ok → (∀ e ∈ s.acting g, s.cpylRec e f = none) →
        exec (.cpyl g f) s = .next ((s.startOp f.sT.toNat f.comm (.cpyl (s.rS f.sB) f.lbase.toNat (4 * 2 ^ f.sz.toNat) f.dir
          ((s.acting g).map (fun e => (e, s.rVec e f.vO.toNat))) ((s.acting g).map (fun e => (e, s.laneMask e f.lq f.ln))))
          (all (fun _ => 0))).popAll [f.vO.toNat])) ∧
      (∀ f : CpywFields, Instr.wellFormed (.cpyw g f) = true → Issues s 6 (useS [f.sT, f.sA, f.sB]) → (∀ e ∈ s.acting g, s.cpywRec e f = none) →
        exec (.cpyw g f) s = .next (s.startOp f.sT.toNat f.comm (.cpyw (s.rS f.sA) (s.rS f.sB) f) (all (fun _ => 0)))) ∧
      (∀ sT (vK : BitVec 6) sD (nblk : BitVec 8) comm, Instr.wellFormed (.cpyk g sT vK sD nblk comm) = true →
        Issues s 6 (useS [sT, sD] ++ s.useV [vK.toNat]) →
        (∀ e ∈ s.acting g, s.cpykRec e vK (bits (s.rS sD).toNat 0 32) nblk.toNat = none) →
        exec (.cpyk g sT vK sD nblk comm) s = .next (s.startOp sT.toNat comm
          (.cpyk ((s.acting g).map (fun e => (e, kvDesc (s.rV e vK.toNat)))) (bits (s.rS sD).toNat 0 32) nblk.toNat)
          (all (fun e => kvPos (kvDesc (s.rV e vK.toNat)))))) ∧
      (∀ (ad : BitVec 2) (oq : BitVec 5) (vk : BitVec 6) (zs : BitVec 4) (za : Bool), zs.toNat ≤ 8 → vk.toNat < 32 →
        Issues s 4 (s.useV [vk.toNat]) →
        (∀ e ∈ s.actives, s.gatherBusy e ad (s.queryRun e oq.toNat (s.kvWordAt e vk 0)) = .no) →
        (∀ e ∈ s.acting g, s.arrayBusy e = false ∧ s.kvDescRec e 4 (s.rV e vk.toNat) (s.kvWordAt e vk 0) true = none ∧
          s.kvSlotsRec e (s.queryRun e oq.toNat (s.kvWordAt e vk 0)) (s.kvWordAt e vk 0) = none) →
        exec (.kvmm g ad oq vk zs za) s = .next ((s.each (s.acting g) (fun u e => u.opStart e ad za)).startOp 0 false
          (.kvmm ad.toNat oq.toNat ((s.acting g).map (fun e => (e, (s.queryRun e oq.toNat (s.kvWordAt e vk 0)).map (s.rO e))))
            ((s.acting g).map (fun e => (e, s.kvWordAt e vk 0))) (all (fun e => s.kvHead e vk)) (all (fun e => (s.shape e zs 64).rows))
            (all (fun e => (s.shape e zs 64).cols))) (all (fun e => kvPos (s.kvWordAt e vk 0))) (s.opBase ad za))) ∧
      (∀ (ad : BitVec 2) (oq : BitVec 5) (vk : BitVec 6) (zs : BitVec 4) (za : Bool) (dsel : BitVec 2), zs.toNat ≤ 8 → vk.toNat < 32 →
        Issues s 4 (s.useV [vk.toNat]) →
        let shp (e : Nat) := s.shape e zs ((slotCap (s.rO e oq.toNat).fmt.toNat).getD 64)
        (∀ e ∈ s.actives, s.gatherBusy e ad [oq.toNat] = .no) →
        (∀ e ∈ s.acting g, s.arrayBusy e = false ∧ s.kvDescRec e 4 (s.rV e vk.toNat) (s.kvWordAt e vk 1) true = none ∧
          (∀ c, s.kvCard s.party (s.kvWordAt e vk 1) = some c → dsel.toNat * 64 < c.d) ∧
          s.kvSlotsRec e [oq.toNat] (s.kvWordAt e vk 1) = none) →
        exec (.kvmv g ad oq vk zs za dsel) s = .next ((s.each (s.acting g) (fun u e => u.opStart e ad za)).startOp 0 false
          (.kvmv ad.toNat oq.toNat ((s.acting g).map (fun e => (e, [s.rO e oq.toNat])))
            ((s.acting g).map (fun e => (e, s.kvWordAt e vk 1))) (all (fun e => s.kvHead e vk)) (all (fun e => (shp e).rows))
            (all (fun e => (shp e).cols)) (all (fun e => (shp e).klen)) (dsel.toNat * 64)) (all (fun e => kvPos (s.kvWordAt e vk 1))) (s.opBase ad za))) ∧
      (∀ (ad : BitVec 2) (oa : BitVec 5) (vi : BitVec 6) (zs : BitVec 4) (za : Bool) (sT sC : BitVec 5), zs.toNat ≤ 8 → vi.toNat < 32 →
        let regs (e : Nat) := (List.range (ceilDiv (s.gmmaShape e oa zs).klen 64)).map (fun i => vi.toNat + i)
        let c := (s.rS sC).toNat
        Issues s 4 (useS [sT, sC] ++ s.useE (fun e => (regs e).map (fun n => .v e n))) →
        (∀ e ∈ s.actives, s.gatherBusy e ad [oa.toNat] = .no) →
        (∀ e ∈ s.acting g, s.arrayBusy e = false ∧ s.gmmaRec e oa vi zs (s.rS sT) = none) →
        exec (.gmma g ad oa vi zs za sT sC) s = .next ((s.each (s.acting g) (fun u e => u.opStart e ad za)).startOp 0 false
          (.gmma ad.toNat oa.toNat ((s.acting g).map (fun e => (e, [s.rO e oa.toNat]))) (bits (s.rS sT).toNat 0 16)
            (toSigned 32 (bits c 0 32)) (toSigned 32 (bits c 32 32)) ((s.acting g).map (fun e => (e, (regs e).map (s.rV e))))
            (all (fun e => (s.gmmaShape e oa zs).rows)) (all (fun e => (s.gmmaShape e oa zs).cols)) (all (fun e => (s.gmmaShape e oa zs).klen)))
          (all (fun _ => 0)) (s.opBase ad za))))

/-! ## Words of class M -/

/-- R103, R104, R107, R299 to R302, R307: the scalar loads, stores and atomics whose address translates and is aligned. A load's
destination is pending until its data return. -/
def Obligations.ScalarMemoryWords : Prop :=
  ∀ (s : State) (g : Gate) (sz : BitVec 2) (sA sD : BitVec 5) (lit : Dword),
    s.gateM g = true →
    (Issues s 6 (useS [sA, sD]) →
      (∀ sgn : Bool, (sgn && sz == 3) = false →
        (s.flatFault s.party .read (s.rS sA).toNat (2 ^ sz.toNat) = none →
          exec (.lds g sgn sz sA sD) s = .next (s.loadS sD sz.toNat sgn (s.rS sA))) ∧
        (s.flatFault s.party .read (s.rS sA + lit).toNat (2 ^ sz.toNat) = none →
          exec (.ldsLiteral g sgn sz sA sD lit) s = .next (s.loadS sD sz.toNat sgn (s.rS sA + lit)))) ∧
      (s.flatFault s.party .write (s.rS sA).toNat (2 ^ sz.toNat) = none →
        exec (.sts g sz sA sD) s = .next (s.storeS sz.toNat (s.rS sA) (s.rS sD))) ∧
      (s.flatFault s.party .write (s.rS sA + lit).toNat (2 ^ sz.toNat) = none →
        exec (.stsLiteral g sz sA sD lit) s = .next (s.storeS sz.toNat (s.rS sA + lit) (s.rS sD)))) ∧
    (∀ (f : StrongFields) (l : Option Dword), f.vec = false → Issues s 6 (useS [f.sA, BitVec.ofNat 5 f.r.toNat]) →
      let va := s.baseDisp f.sA f.disp l
      (Instr.wellFormed (.lda g f l) = true → s.flatFault s.party .read va.toNat (2 ^ f.sz.toNat) = none →
        exec (.lda g f l) s = .next (s.loadS (BitVec.ofNat 5 f.r.toNat) f.sz.toNat f.sgn va)) ∧
      (Instr.wellFormed (.stl g f l) = true → s.flatFault s.party .write va.toNat (2 ^ f.sz.toNat) = none →
        exec (.stl g f l) s = .next (s.storeS f.sz.toNat va (s.rS (BitVec.ofNat 5 f.r.toNat)))) ∧
      (Instr.wellFormed (.stx g f l) = true → s.flatFault s.party .write va.toNat (2 ^ f.sz.toNat) = none → s.isView .write va = false →
        exec (.stx g f l) s = .next (s.storeS f.sz.toNat va (s.rS (BitVec.ofNat 5 f.r.toNat))))) ∧
    (∀ (f : AtomFields) (l : Option Dword),
      let va := s.baseDisp f.sA f.disp l
      let w := if f.sz then 64 else 32
      s.flatFault s.party .atomic va.toNat (if f.sz then 8 else 4) = none → s.atomFault f.scope va = false →
      (Instr.wellFormed (.atom g f l) = true → Issues s 6 (useS [f.sA, f.sV, f.sD]) →
        let r := (s.through .atomic va (.s f.sD.toNat)).atomAt va f.sz 0 (fun old => atomOp f.op.toNat w old (bits (s.rS f.sV).toNat 0 w))
          (fun pa => .atomic pa f.sz f.op.toNat (s.rS f.sV))
        exec (.atom g f l) s = .next (r.2.wSheld f.sD (BitVec.ofNat 64 r.1))) ∧
      (Instr.wellFormed (.atcas g f l) = true → Issues s 6 (useS [f.sA, f.sV, f.sC, f.sD]) →
        let r := (s.through .atomic va (.s f.sD.toNat)).atomAt va f.sz 0
          (fun old => if old = bits (s.rS f.sC).toNat 0 w then bits (s.rS f.sV).toNat 0 w else old)
          (fun pa => .cas pa f.sz (s.rS f.sC) (s.rS f.sV))
        exec (.atcas g f l) s = .next (r.2.wSheld f.sD (BitVec.ofNat 64 r.1))))

/-- R64, R87, R302 to R306, R308: the vector words of class M whose acting engines record no fault: whole vectors, gathered lanes,
private lanes and vector atomics, engine by engine. -/
def Obligations.VectorMemoryWords : Prop :=
  ∀ (s : State) (g : Gate) (lit : Option Dword),
    (∀ f : StrongFields, f.vec = true →
      let addr (t : State) (e : Nat) := t.engBase e f.sA f.sE f.disp lit
      let m (e : Nat) := s.laneMask e f.lq f.ln
      (s.encodingOk (.lda g f lit) = true → Issues s 6 (useS [f.sA, f.sE] ++ s.useV [f.r.toNat]) → s.portCheck 6 [] [f.r.toNat] = .ok →
        (∀ e ∈ s.acting g, s.vecRec e f.spc false (m e) (addr s e) = none) →
        exec (.lda g f lit) s = .next ((s.each (s.acting g) (fun u e =>
          (if m e = 0 then u else u.vecTouch e f.r.toNat f.spc (addr s e) 256).putHeld e f.r.toNat (s.portAddr (f.r.toNat - 32)) (m e) false
            (u.vecLoad e f.spc (addr s e)))).popAll [f.r.toNat])) ∧
      (Issues s 6 (useS [f.sA, f.sE] ++ s.useV [f.r.toNat]) → s.portCheck 6 [f.r.toNat] [] = .ok →
        (∀ e ∈ s.acting g, s.vecRec e f.spc true (m e) (addr s e) = none) →
        let stored := (s.each (s.acting g) (fun u e => u.vecStore e f.spc (addr s e) (lanes (s.rVec e f.r.toNat)) (m e))).popAll [f.r.toNat]
        (s.encodingOk (.stl g f lit) = true → exec (.stl g f lit) s = .next stored) ∧
        (s.encodingOk (.stx g f lit) = true → (∀ e ∈ s.acting g, f.spc = false → m e ≠ 0 → s.isView .write (addr s e) = false) →
          exec (.stx g f lit) s = .next stored))) ∧
    (∀ f : MemFields,
      let addr (e : Nat) := s.engBase e f.sA f.sE f.disp lit
      let m (e : Nat) := s.laneMask e f.lq f.ln
      let vI (e : Nat) := s.rVec e f.vI.toNat
      let high := if f.sz = 3 then [f.vR.toNat + 1] else []
      (s.encodingOk (.vld g f lit) = true → Issues s 6 (useS [f.sA, f.sE] ++ s.useV [f.vR.toNat]) → s.portCheck 6 [] [f.vR.toNat] = .ok →
        (∀ e ∈ s.acting g, s.vecRec e f.spc false (m e) (addr e) = none) →
        exec (.vld g f lit) s = .next ((s.each (s.acting g) (fun u e =>
          (if m e = 0 then u else u.vecTouch e f.vR.toNat f.spc (addr e) 256).putHeld e f.vR.toNat 0 (m e) f.z (u.vecLoad e f.spc (addr e)))).popAll
            [f.vR.toNat])) ∧
      (s.encodingOk (.vst g f lit) = true → Issues s 6 (useS [f.sA, f.sE] ++ s.useV [f.vR.toNat]) → s.portCheck 6 [f.vR.toNat] [] = .ok →
        (∀ e ∈ s.acting g, s.vecRec e f.spc true (m e) (addr e) = none) →
        exec (.vst g f lit) s = .next ((s.each (s.acting g) (fun u e =>
          u.vecStore e f.spc (addr e) (lanes (s.rVec e f.vR.toNat)) (m e))).popAll [f.vR.toNat])) ∧
      (s.encodingOk (.vldg g f lit) = true → Issues s 6 (useS [f.sA, f.sE] ++ s.useV [f.vI.toNat, f.vR.toNat]) →
        s.portCheck 6 [f.vI.toNat] [f.vR.toNat] = .ok → (∀ e ∈ s.acting g, s.gatherRec e f lit .read false (fun _ _ => none) = none) →
        exec (.vldg g f lit) s = .next ((s.each (s.acting g) (fun u e =>
          ((laneList (m e)).foldl (fun w k => w.vecTouch e f.vR.toNat f.spc (gatherAt (addr e) (vI e) f.sh k) 4) u).putHeld e f.vR.toNat
            (s.portAddr (f.vR.toNat - 32)) (m e) f.z ((List.range 64).map (fun k =>
            if (m e).getLsbD k then u.load4 e f.spc (gatherAt (addr e) (vI e) f.sh k) else 0)))).popAll [f.vI.toNat, f.vR.toNat])) ∧
      (s.encodingOk (.vstg g f lit) = true → Issues s 6 (useS [f.sA, f.sE] ++ s.useV [f.vI.toNat, f.vR.toNat]) →
        s.portCheck 6 [f.vI.toNat, f.vR.toNat] [] = .ok → (∀ e ∈ s.acting g, s.gatherRec e f lit .write true (fun _ _ => none) = none) →
        exec (.vstg g f lit) s = .next ((s.each (s.acting g) (fun u e => (laneList (m e)).foldl (fun w k =>
          w.store4 e f.spc (gatherAt (addr e) (vI e) f.sh k) (bits (s.rVec e f.vR.toNat).toNat (32 * k) 32)) u)).popAll
            [f.vI.toNat, f.vR.toNat])) ∧
      (s.encodingOk (.vldp g f lit) = true → Issues s 6 (s.useV ([f.vI.toNat] ++ ([f.vR.toNat] ++ high))) →
        s.portCheck 6 [f.vI.toNat] ([f.vR.toNat] ++ high) = .ok → (∀ e ∈ s.acting g, s.privRec e f lit false = none) →
        let at_ (u : State) (e n o k : Nat) : Nat :=
          if (m e).getLsbD k then leValue (u.localRead e (privAddr (privOff f lit (vI e) k + o) k) n) else 0
        let n := min 4 (2 ^ f.sz.toNat)
        exec (.vldp g f lit) s = .next ((s.each (s.acting g) (fun u e =>
          let u1 := u.putVec e f.vR.toNat 0 (m e) f.z ((List.range 64).map (fun k =>
            if f.sgn then wrapInt 32 (toSigned (8 * n) (at_ u e n 0 k)) else at_ u e n 0 k)) 6
          if f.sz = 3 then u1.putVec e (f.vR.toNat + 1) 0 (m e) f.z ((List.range 64).map (at_ u e 4 4)) 6 else u1)).popAll
            ([f.vI.toNat] ++ ([f.vR.toNat] ++ high)))) ∧
      (s.encodingOk (.vstp g f lit) = true → Issues s 6 (s.useV ([f.vI.toNat, f.vR.toNat] ++ high)) →
        s.portCheck 6 ([f.vI.toNat, f.vR.toNat] ++ high) [] = .ok → (∀ e ∈ s.acting g, s.privRec e f lit true = none) →
        exec (.vstp g f lit) s = .next ((s.each (s.acting g) (fun u e => (laneList (m e)).foldl (fun w k =>
          let p := privOff f lit (vI e) k
          let w1 := w.localWrite e (privAddr p k) (leBytes (min 4 (2 ^ f.sz.toNat)) (bits (s.rVec e f.vR.toNat).toNat (32 * k) 32))
          if f.sz = 3 then w1.localWrite e (privAddr (p + 4) k) (leBytes 4 (bits (s.rVec e (f.vR.toNat + 1)).toNat (32 * k) 32)) else w1)
            u)).popAll ([f.vI.toNat, f.vR.toNat] ++ high))) ∧
      (s.encodingOk (.vatom g f lit) = true →
        let writes := if f.nr then [] else [f.vR.toNat]
        Issues s 6 (useS [f.sA, f.sE] ++ s.useV ([f.vI.toNat, f.vR.toNat] ++ writes)) → s.portCheck 6 [f.vI.toNat, f.vR.toNat] writes = .ok →
        (∀ e ∈ s.acting g, s.gatherRec e f lit .atomic true (fun _ va =>
          if !f.spc && s.atomFault f.scope va then some (s.engRec e rPROT 1 6 true va) else none) = none) →
        exec (.vatom g f lit) s = .next ((s.each (s.acting g) (fun u e =>
          let r := (u.vatomThrough e f (addr e) (vI e) (laneList (m e))).vatomEng e f (addr e) (vI e) (s.rVec e f.vR.toNat).toNat (laneList (m e)) []
          if f.nr then r.2
          else r.2.putHeld e f.vR.toNat 0 (m e) false ((List.range 64).map (fun k => ((r.1.find? (fun p => p.1 == k)).map Prod.snd).getD 0)))).popAll
              ([f.vI.toNat, f.vR.toNat] ++ writes))))

/-- R71, R92, R95, R109, R309, R314 to R318, R321, R425, R426: PORT, the order, prefetch and cache words, and the words of paging,
sequences and experts. TINV and BTINV start an invalidation whose token is pending; PGMAP, TINV and BTINV are the handler's. That FENCE
leaves the state as it is follows log 2; that a fill or a miss of XPF starts at once, log 35; that PBINV of an address that does not
translate removes nothing, log 46; which lines a pantry lists, log 8; that the record of R178 names address 0 in space 0, log 40. -/
def Obligations.PortAndWalkWords : Prop :=
  ∀ (s : State) (g : Gate) (sA sD : BitVec 5) (lit : Option Dword),
    s.gateM g = true →
    (∀ (gN : BitVec 2) (sL sH : BitVec 5) (boff : BitVec 32), Instr.wellFormed (.port g gN sL sH boff lit) = true →
      Issues s 6 (useS (if sL = 0 then [sH] else [sL, sL + 1, sL + 2, sH])) →
      let l (i : BitVec 5) : Dword := if sL = 0 then 0 else s.rS (sL + i)
      exec (.port g gN sL sH boff lit) s = .next { s.mod (fun c => c.putG gN.toNat
        (portLoad (l 0) (l 1) (l 2) (match lit with | some x => x | none => s.rS sH) boff)) with
          issue := { s.issue with ports := gN.toNat :: s.issue.ports } }) ∧
    (∀ scope kind, Instr.wellFormed (.fence g scope kind) = true → Issues s 6 [] → exec (.fence g scope kind) s = .next s) ∧
    (Issues s 6 (useS [sA]) →
      (∀ disp n, Instr.wellFormed (.pfx g sA disp n lit) = true → exec (.pfx g sA disp n lit) s =
        .next ((List.range (n.toNat + 1)).foldl (fun u i => u.onLine (s.baseDisp sA disp lit + BitVec.ofNat 64 (128 * i))
          (fun w l => w.readsHbm (.context w.focus) (w.regionKey w.party.region) (l * 128) 128)) s)) ∧
      (let t := s.findHome .find (s.rS sA)
       (∀ pa, s.homeOf .find (s.rS sA) = some pa → paKind pa = .hbm → exec (.cwb g sA) s = .next (t.writeBack (pa / 128)) ∧
         exec (.cinv g sA) s = .next (t.dropLine (pa / 128))) ∧
       ((∀ pa, s.homeOf .find (s.rS sA) = some pa → paKind pa ≠ .hbm) → exec (.cwb g sA) s = .next t ∧ exec (.cinv g sA) s = .next t)) ∧
      (let t := s.findHome .read (s.rS sA)
       (∀ pa, s.homeOf .read (s.rS sA) = some pa → exec (.pbinv g sA) s = .next (t.setDie t.me.place.die
         { t.die t.me.place.die with pbCache := (t.die t.me.place.die).pbCache.filter (fun e => e.addr ≠ pa / 64 * 64) })) ∧
       (s.homeOf .read (s.rS sA) = none → exec (.pbinv g sA) s = .next t))) ∧
    (s.was.sup = true → sD ≠ 0 → Issues s 6 (useS [sA, sD]) →
      (∀ kind : BitVec 2, kind ≠ 3 → exec (.tinv g kind sA sD) s = .next (s.startOp sD.toNat false (.tinv kind.toNat (s.rS sA)) [(16, 0)])) ∧
      (∀ (nblk : BitVec 16) (all : Bool), (all = true ↔ nblk = 0) →
        exec (.btinv g sA sD nblk all) s = .next (s.startOp sD.toNat false (.btinv (s.rS sA) nblk.toNat all) [(16, 0)]))) ∧
    (s.issue.pre = none → s.me.sup = false → Issues s 6 (useS [sA, sD]) →
      ∀ i : Instr, i.wellFormed = true → ((∃ sz zf perm, i = .pgmap g sA sD sz zf perm) ∨ (∃ kind, i = .tinv g kind sA sD) ∨
        ∃ nblk all, i = .btinv g sA sD nblk all) → exec i s = .next (s.enterTrap s.focus s.issue.bundle [s.seqRec rSTATE 0 6 0])) ∧
    (∀ (sz zf : Bool) (perm : BitVec 3), s.was.sup = true → Issues s 6 (useS [sA, sD]) →
      exec (.pgmap g sA sD sz zf perm) s =
        .next ((s.pgmap (s.rS sA) sz zf perm.toNat).1.wSheld sD (s.pgmap (s.rS sA) sz zf perm.toNat).2)) ∧
    (∀ (op : Bool) (sQ : BitVec 5), (s.cardFor s.party (bits (s.rS sQ).toNat 0 20) 0).isSome = true →
      (Issues s 6 (useS [sA, sQ, sD]) → exec (.kvseq g op sA sQ sD) s = .next (s.kvseq op (s.rS sQ) (s.rS sA) sD)) ∧
      (∀ l, Issues s 6 (useS [sQ, sD]) → exec (.kvseqLiteral g op sQ sD l) s = .next (s.kvseq op (s.rS sQ) l sD))) ∧
    (∀ (sE sR : BitVec 5) (layer : BitVec 8), Issues s 6 (useS [sE, sR]) →
      let read (va : Nat) : State := (s.readsFlat (.context s.focus) s.party (s.rS sR).toNat 64).readsFlat (.context s.focus) s.party va 32
      (exec (.xpf g false sE sR layer) s = .next (match s.xpfWeights sE sR layer with
        | some w => ((read w.1).startFill (read w.1).party w.2 ((read w.1).poolSpare s.me.place.die)).1
        | none => s.readsFlat (.context s.focus) s.party (s.rS sR).toNat 64)) ∧
      (∀ va w b, s.xpfWeights sE sR layer = some (va, w) → (s.die s.me.place.die).residentIn w.src = some b →
        exec (.xpf g true sE sR layer) s =
          .next (((read va).pinBuf s.me.place.die b).modCtx (read va).owner (fun c => { c with pins := b :: c.pins, missPin := none }))))

/-! ## Words of class X -/

/-- R141, R257 to R261: the exchange words give every engine of the set its vector; XVOT and XPICK write their scalar too. A false
flag gives an empty set. -/
def Obligations.ExchangeWords : Prop :=
  ∀ (s : State) (g : Gate),
    let ready (i : Instr) (reads : List Nat) (vd : BitVec 6) (sD : BitVec 5) : Prop :=
      s.encodingOk i = true ∧ Issues s 7 (.f g.pred.toNat :: useS [sD] ++ s.useV (vd.toNat :: reads)) ∧ s.portCheck 7 reads [vd.toNat] = .ok
    (∀ f : XFields,
      let reads := if f.pat = 2 then [f.va.toNat, f.vb.toNat] else [f.va.toNat]
      ready (.xshf g f) reads f.vd 0 → exec (.xshf g f) s = .next ((s.giveAll g f.vd f.lq f.ln 6 (fun e =>
        match s.shuffleFrom f e with
        | some x => lanes (s.fromEng g x f.va)
        | none => List.replicate 64 0)).popAll (f.vd.toNat :: reads))) ∧
    (∀ f : XFields, ready (.xred g f) [f.va.toNat] f.vd 0 →
      let r := (List.range 64).map (s.reduceLane g f)
      exec (.xred g f) s = .next (((s.giveAll g f.vd f.lq f.ln 12 (fun _ => r.map Prod.fst)).each (s.exchanging g) (fun u e =>
        u.raise e ((r.zipIdx.filter (fun p => (s.laneMask e f.lq f.ln).getLsbD p.2)).foldl (fun a p => a ||| p.1.2) 0))).popAll
          [f.vd.toNat, f.va.toNat])) ∧
    (∀ f : XFields, ready (.xbc g f) [f.va.toNat] f.vd 0 → exec (.xbc g f) s =
      .next ((s.giveAll g f.vd f.lq f.ln 6 (fun _ => lanes (s.fromEng g f.m.toNat f.va))).popAll [f.vd.toNat, f.va.toNat])) ∧
    (∀ (vd : BitVec 6) (sD : BitVec 5) (pn : Bool) (ps : BitVec 3), ready (.xvot g vd sD pn ps) [] vd sD →
      let b := s.ballot g pn ps
      let m := (ofEngineBits (fun e => b.contains e)).toNat
      let u := s.giveAll g vd 0 false 14 (fun _ => [m, b.length, b.head?.getD 0xFFFFFFFF] ++ List.replicate 61 0)
      exec (.xvot g vd sD pn ps) s = .next ((if s.gateF g then u.wS sD (BitVec.ofNat 64 (m + b.length * 2 ^ 16)) 14 else u).popAll [vd.toNat])) ∧
    (∀ f : PickFields, ready (.xpick g f) [f.va.toNat] f.vd f.sD →
      let pick := if f.hi then (s.ballot g f.pn f.ps).getLast? else (s.ballot g f.pn f.ps).head?
      let u := s.giveAll g f.vd f.lq f.ln 14 (fun _ => match pick with
        | some e => lanes (s.rVec e f.va.toNat)
        | none => List.replicate 64 0)
      exec (.xpick g f) s = .next ((if s.gateF g then u.wS f.sD (match pick with
        | some e => BitVec.ofNat 64 e
        | none => BitVec.allOnes 64) 14 else u).popAll [f.vd.toNat, f.va.toNat]))

/-- R262 to R268, R322 to R324: the channel words complete. XSND puts an element of every active engine into its stream where each
has room; XRCV and XRCA receive; both need a loaded channel of which the context is the endpoint, an OPND that fits its shape, ports
that may be popped, and units and slots that are free for them. XCHS reads a channel's status. CHLD with s0 frees an entry that is not
in use or that has lost an endpoint, and else loads a record that can be read, or says that it does not stand. -/
def Obligations.ChannelWords : Prop :=
  ∀ (s : State) (g : Gate) (ch : BitVec 10),
    (∀ (o : BitVec 6) (c : Channel) (i : Instr),
      let vec := opndVec c.shape o
      let ready (send dst : Bool) : Prop :=
        Issues s 7 (.f g.pred.toNat :: s.useV vec) ∧ s.gateF g = true ∧ s.channelFor ch send = some c ∧ s.encodingOk i = true ∧
        s.portCheck 7 (if dst then [] else vec) (if dst then vec else []) = .ok ∧
        (∀ e ∈ s.actives, s.opndBusy e c.shape o dst = .no) ∧
        (∀ e ∈ s.actives, ∀ n, opndSlot c.shape o = some n → (s.rO e n).owner = s.owner)
      (i = .xsnd g o ch → ready true false → (∀ e ∈ s.actives, c.rcv.ended = true ∨ (c.stream e).length < c.depth) →
        exec i s = .next (({ s.each s.actives (fun u e => u.sendFrom s ch c o e) with nextOp := s.nextOp + 1 } : State).popAll vec)) ∧
      (i = .xrcv g o ch → ready false true →
        exec i s = .next ((s.each s.actives (fun u e => u.receiveIn ch o false e)).popAll vec)) ∧
      (i = .xrca g o ch → ready false true →
        exec i s = .next ((s.each s.actives (fun u e => u.receiveIn ch o true e)).popAll vec))) ∧
    (∀ sD, Acts s 7 g (useS [sD]) →
      let act (f : Nat → Bool) : Nat := (ofEngineBits (fun e => s.was.active.getLsbD e && f e)).toNat
      exec (.xchs g sD ch) s = .next (s.wS sD (match tableFind s.channels ch.toNat with
        | none => 0
        | some c => BitVec.ofNat 64
          (act (fun e => !(c.stream e).isEmpty) + act c.room * 2 ^ 16 + 2 ^ 32 + (if c.snd.ended || c.rcv.ended then 2 ^ 33 else 0))) 1)) ∧
    (Acts s 7 g (.f 1 :: useS [0]) →
      (∀ c, tableFind s.channels ch.toNat = some c → c.snd.ended = true ∨ c.rcv.ended = true ∨ s.channelUsed ch.toNat = false) →
      exec (.chld g 0 ch) s = .next ({ s with channels := tableErase s.channels ch.toNat }.wF 1 true 1)) ∧
    (∀ sA, sA ≠ 0 → Acts s 7 g (.f 1 :: useS [sA]) →
      (∀ k < 4, s.flatFault s.party .read ((s.rS sA).toNat + 8 * k) 8 = none) →
      let t := s.readsFlat (.context s.focus) s.party (s.rS sA).toNat 32
      exec (.chld g sA ch) s = .next (match s.flatRecord s.party (s.rS sA).toNat 4 with
        | none => t.wF 1 false 1
        | some r => match tableFind s.channels ch.toNat with
          | some x => t.wF 1 (x.record == r && !x.snd.ended && !x.rcv.ended && s.isAncestor x.region s.me.region) 1
          | none => match s.channelOf s.me.region r with
            | some x => { t with channels := tableInsert t.channels ch.toNat x }.wF 1 true 1
            | none => t.wF 1 false 1))

/-- R269 to R272, R325 to R327, R339: loading a Kubor program into a free slot, starting it, and reading how it stopped. That KGO stops with
LINK where a port on a route is down is the model's reading (log 43); what KWT reads of a program that was never started is a free value
(log 24). -/
def Obligations.ProgramWords : Prop :=
  ∀ (s : State) (g : Gate) (q : Nat),
    (∀ (psel : BitVec 2) (sD : BitVec 5) (x : Porch), psel ≠ 3 → s.kldSlot psel.toNat = some q →
      let loaded (va : Dword) := (((s.readsFlat (.context s.focus) s.party va.toNat (272 + 16 * x.image.length)).setPorch q
        { x with inc := (s.porch q).inc }).wS sD (progHandle (s.porch q).inc q) 1).wF 1 true 1
      (∀ sA, Acts s 7 g (.f 1 :: useS [sA, sD]) → s.kuborImage s.party (s.rS sA).toNat = some x →
        exec (.kld g psel sA sD) s = .next (loaded (s.rS sA))) ∧
      (∀ lit, Acts s 7 g (.f 1 :: useS [sD]) → s.kuborImage s.party lit.toNat = some x →
        exec (.kldLiteral g psel sD lit) s = .next (loaded lit))) ∧
    (∀ (psel : BitVec 2) (sA sD : BitVec 5), psel ≠ 3 → Acts s 7 g (.f 1 :: useS [sA, sD]) → s.kuborImage s.party (s.rS sA).toNat = none →
      exec (.kld g psel sA sD) s = .next (((match s.kldSlot psel.toNat with
        | some _ => s.readsFlat (.context s.focus) s.party (s.rS sA).toNat 16
        | none => s).wS sD 0 1).wF 1 false 1)) ∧
    (∀ (sR sP : BitVec 5) d, Acts s 7 g (.f 1 :: useS [sR, sP]) → s.progSlot (s.rS sP) s.me.region = some q →
      s.argBlock s.party (s.rS sR).toNat = some d → (s.porch q).running = false →
      let started := (s.readsFlat (.context s.focus) s.party (s.rS sR).toNat 128).setPorch q { s.porch q with
        running := true, region := s.me.region, w := (List.range 15).foldl (fun t i => tableSet t (i + 1) (d.getD (i + 1) 0) 0) []
        c := [], flags := 0, loops := [], pc := 0, late := false, block := s.rS sR, ops := [], issued := 0, rtrs := []
        reached := s.time }
      exec (.kgo g sR sP) s =
        .next ((if s.programsOf (s.porch q).coll ≠ [] then started.stopPorch q 0x0C
          else if (s.porch q).routes.any s.routeDown then started.stopPorch q 6 else started).wF 1 true 1)) ∧
    (∀ (rel : Bool) (sP sD : BitVec 5), Acts s 7 g (.f 1 :: useS [sP, sD]) → s.progSlot (s.rS sP) s.me.region = some q →
      (s.porch q).running = false →
      let read := (s.wS sD (BitVec.ofNat 64 (s.porch q).code) 1).wF 1 ((s.porch q).code == 0) 1
      exec (.kwt g rel sP sD) s = .next (if rel then read.setPorch q { inc := nextInc (s.porch q).inc } else read))

/-! ## Kubor words -/

/-- R328 to R333, R337: a data word whose routes, addresses and place among sixteen outstanding words allow it becomes outstanding and
takes its place in the send order. LATE, which `stamped` sets, and the cycle in which a program comes to a word, are read as log 43 says. -/
def Obligations.KuborDataWords : Prop :=
  ∀ (s : State) (k : KHead) (d : KData),
    KuborIssues s k →
    let t := stamped s k
    let q := s.porchFocus
    let p := t.porch q
    let a := (p.reg d.ba + p.reg d.xa * BitVec.ofNat 64 d.stride.toNat).toNat
    let b := (p.reg d.bb + p.reg d.xb * BitVec.ofNat 64 d.stride.toNat).toNat
    let peer := t.routePeer (p.route d.pe.toNat)
    let self := routeSelf (p.route d.pe.toNat)
    let ready (i : Instr) : Prop := i.wellFormed = true ∧ t.kuborFault p i d a b = 0 ∧ p.ops.length < 16
    let sends (i : Instr) : Option (Nat × BitVec 8) := (kSendRoute i).map (fun r => (t.routePeer (p.route r.toNat), d.tag))
    let out (i : Instr) (src : Option (Nat × BitVec 8)) : Porch :=
      { p with ops := p.ops ++ [{ n := p.issued, word := i, addrA := a, addrB := b, src := src, dst := sends i, met := false, into := none
                                  got := none, stage := 0, since := t.time }], issued := p.issued + 1 }
    let receives (i : Instr) : State :=
      if self then (t.setPorch q (Porch.advance { out i (some (peer, d.tag)) with
        rtrs := p.rtrs ++ [⟨peer, d.tag, d.n.toNat, d.fin, some p.issued, kDest i a⟩] })).meet q
      else (({ t with outbox := t.outbox ++ [.rtr p.coll peer d.tag d.n.toNat d.fin (kDest i a)] } : State).setPorch q
        (Porch.advance (out i (some (peer, d.tag))))).meet q
    (ready (.send k d) → exec (.send k d) s = .next (cameTo s ((t.setPorch q (out (.send k d) none).advance).meet q))) ∧
    (ready (.copy k d) → exec (.copy k d) s = .next (cameTo s ((t.setPorch q (out (.copy k d) none).advance).meet q))) ∧
    (ready (.recv k d) → (self = true → p.rtrs.length < rtrLimit) → exec (.recv k d) s = .next (cameTo s (receives (.recv k d)))) ∧
    (ready (.rdc k d) → (self = true → p.rtrs.length < rtrLimit) → exec (.rdc k d) s = .next (cameTo s (receives (.rdc k d))))

/-- R334 to R337: the control words of a Kubor program that need not wait: waits that are met, arrivals, joins and creations, the
release store, loops, branches and the end. LATE, which `stamped` sets, and a LOOP of count 0 that pushes nothing, are read as log 43 says. -/
def Obligations.KuborControlWords : Prop :=
  ∀ (s : State) (k : KHead),
    KuborIssues s k → k.ok false = true →
    let t := stamped s k
    let q := s.porchFocus
    let p := t.porch q
    let done (u : State) : Answer := .next (cameTo s u)
    let joined (wd : BitVec 4) (r : Option (State × Word)) : Answer := match r with
      | some (u, h) => done (u.modPorch q (fun x => (x.put wd (BitVec.ofNat 64 h.toNat)).advance))
      | none => done (t.modPorch q (fun x => (x.put wd 0).advance))
    (∀ (cw : BitVec 3) (wv : BitVec 4) (imm : BitVec 32),
      (p.reg wv + BitVec.ofNat 64 imm.toNat).toNat ≤ (p.counter cw.toNat).toNat → exec (.waitCnt k cw wv imm) s = done (t.setPorch q p.advance)) ∧
    (∀ (wv wh : BitVec 4) gid m, t.kuborMember q (p.reg wh) = some (gid, m) →
      (m.last = none → exec (.waitGrp k wv wh) s = done (t.setPorch q (p.put wv 0).advance)) ∧
      (∀ n, m.last = some n → n < (t.groupAt gid).gen →
        exec (.waitGrp k wv wh) s = done (t.setPorch q (p.put wv (if m.lastLost then 1 else 0)).advance))) ∧
    (k.ts = true → exec (.waitTs k) s = done (t.setPorch q p.advance)) ∧
    (∀ (wn : BitVec 4) gid m, t.kuborMember q (p.reg wn) = some (gid, m) → p.ops = [] →
      (m.arrGen ≤ (t.groupAt gid).gen + 1 → exec (.sigArv k wn) s =
        done ((t.enterArrival gid (.porch q p.inc) { Arrival.plain with leave := false }).modPorch q (fun x => x.advance))) ∧
      exec (.sigLeave k wn) s =
        done ((t.enterArrival gid (.porch q p.inc) { Arrival.plain with leave := true }).modPorch q (fun x => (x.put wn 0).advance))) ∧
    (∀ wd wn : BitVec 4,
      exec (.sigJoin k wd wn) s = joined wd (t.joinGroup (.porch q p.inc) p.region (bits (p.reg wn).toNat 0 32)) ∧
      (∀ wa : BitVec 4, attrOk (p.reg wa).toNat = true → exec (.sigNew k wd wn wa) s =
        joined wd (t.createGroup (.porch q p.inc) p.region (bits (p.reg wn).toNat 0 32) (p.reg wa).toNat))) ∧
    (∀ (wn wa : BitVec 4) (imm : Dword), (p.reg wn + imm).toNat % 8 = 0 → t.reaches p.party .write (p.reg wn + imm).toNat = true → p.ops = [] →
      exec (.sigStl k wn wa imm) s =
        done ((t.flatStoreRaw p.party (p.reg wn + imm).toNat (leBytes 8 (p.reg wa).toNat)).modPorch q Porch.advance)) ∧
    (∀ f : KLoopFields, f.len ≠ 0 → p.pc + f.len.toNat < p.image.length →
      let count := ((p.reg f.wc).toNat + f.imm.toNat) % 2 ^ 32
      (count = 0 → exec (.kuborLoop k f) s = done (t.setPorch q (Porch.fall 8 p (p.pc + 1 + f.len.toNat)))) ∧
      (count ≠ 0 → p.loops.length < 4 → exec (.kuborLoop k f) s =
        done (t.setPorch q { p with pc := p.pc + 1, loops := ⟨p.pc + 1, f.len.toNat, count, 0, f⟩ :: p.loops }))) ∧
    (∀ (wa wb : BitVec 4) (cond : BitVec 3) (off : BitVec 32), cond.toNat ≤ 5 →
      (brcHolds cond.toNat (p.reg wa) (p.reg wb) = true → 0 ≤ (p.pc : Int) + off.toInt → (p.pc : Int) + off.toInt < p.image.length →
        exec (.brc k wa wb cond off) s = done (t.setPorch q { p with
          pc := ((p.pc : Int) + off.toInt).toNat, loops := loopsAround ((p.pc : Int) + off.toInt).toNat p.loops })) ∧
      (brcHolds cond.toNat (p.reg wa) (p.reg wb) = false → exec (.brc k wa wb cond off) s = done (t.setPorch q p.advance))) ∧
    (p.ops = [] → exec (.kend k) s = done (t.stopPorch q 0))

/-! ## Steps of operations and contexts -/

/-- R24, R25, R55, R83, R84, R88, R89, R177, R264, R265, R276, R290, R319, R320: what is under way for a context comes to its end:
a round enters, an operation stops or completes, an invalidation has left no cached copy, a load of a slot or a register ends, a
channel element lands, and a segment is fetched. That an operation makes its accesses in the step that ends or stops it rests on log 14;
that a round drops the records of engines that have ended, and does not enter when none is left, on log 18. -/
def Obligations.BackgroundSteps : Prop :=
  ∀ s : State,
    (∀ (cid : Nat) (r : Round) (t : List Round), (tableFind s.ctxs cid).isSome = true → (s.ctxAt cid).rounds = r :: t →
      s.roundDue cid = true →
      let c := s.ctxAt cid
      let recs := r.recs.filter (fun x => x.isSeq || c.live.getLsbD x.eid)
      let s2 := (s.setCtx cid { c with rounds := t }).markTold r
      exec (.asyncRoundEntry cid) s =
        .next (if recs.isEmpty then s2 else { s2.enterTrap cid c.pc recs with issue := s.issue })) ∧
    (∀ (id : Nat) (o : Op), tableFind s.ops id = some o → s.opReady id o = true →
      (tableFind (s.runToStop id o).ops id ≠ some o → exec (.asyncOpStop id) s = .next (s.runToStop id o)) ∧
      (∀ o2 : Op, (∀ p ∈ o.parts, p.state ≠ .stopped) → tableFind (s.runToEnd id o).ops id = some o2 →
        (∀ p ∈ o2.parts, p.open_ = false) →
        (o.kind.isCopy = true → exec (.copyComplete id) s = .next ((s.runToEnd id o).endOp id o2)) ∧
        (o.kind.accOf.isSome = true → exec (.multiplyReadsDone id) s = .next ((s.runToEnd id o).endOp id o2)))) ∧
    (∀ (id : Nat) (o : Op), tableFind s.ops id = some o → o.kind.isInvalidation = true → s.invalidationHeld o = false →
      let u := (s.invalidate o.region o.kind).forgetOwn o
      ∀ o1 : Op, tableFind u.ops id = some o1 → u.opReady id o1 = true → (∀ p ∈ o1.parts, p.state ≠ .stopped) →
      ∀ o2 : Op, tableFind (u.runToEnd id o1).ops id = some o2 → (∀ p ∈ o2.parts, p.open_ = false) →
      exec (.invalidationComplete id) s = .next ((u.runToEnd id o1).endOp id o2)) ∧
    (∀ (eng : Nat) (slot : BitVec 5), let o := s.slotAt (eng / 16) (eng % 16) slot.toNat
      o.loading = true →
      exec (.oldLoadComplete eng slot) s = .next (s.modEng (eng / 16) (eng % 16) (fun x => x.putO slot.toNat
        { o with loading := false, owner := if (tableFind s.ctxs o.owner).isSome then o.owner else 0 }))) ∧
    (∀ cid n : Nat, (tableFind s.ctxs cid).isSome = true → n < (s.ctxAt cid).pending.length →
      exec (.loadDataReturn cid n) s = .next (s.modCtx cid (fun c => { c with
        pending := c.pending.eraseIdx n, linked := c.linked.filter (fun x => (c.pending.eraseIdx n).contains x.1) }))) ∧
    (∀ (ch : BitVec 10) (eid : BitVec 4) (cid : Nat) (c : Channel) (x : Option Acc) (r : Receive),
      s.recvOwner ch.toNat eid.toNat = some cid → tableFind s.channels ch.toNat = some c → c.nextElem eid.toNat = some x →
      (s.ctxAt cid).recvs.find? (fun r => r.ch == ch.toNat && r.eid == eid.toNat) = some r → r.gone = false →
      let s1 := s.modChannel ch.toNat (fun c => c.putStream eid.toNat ((c.stream eid.toNat).drop 1))
      let s2 := s1.modCtx cid (fun c => { c with recvs := dropRecv ch.toNat eid.toNat c.recvs })
      let at_ := if (s.ctxAt cid).isLanding && !(s.ctxAt cid).place.resident then s.ownerOf cid else cid
      exec (.channelElementArrival ch eid) s = .next (s2.withArea (s2.ownerOf cid) (fun t => t.asCtx at_ (fun u => u.landElement r x
        ((s.ctxAt cid).recvs.takeWhile (fun y => !(y.ch == ch.toNat && y.eid == eid.toNat))))))) ∧
    (∀ (cid : Nat) (w : Dword) (g : Segment), (tableFind s.ctxs cid).isSome = true → (s.ctxAt cid).place.resident = true →
      s.mayFetch cid w.toNat = true → s.expand (s.partyOf cid) w.toNat = .ok g →
      exec (.segmentFetch cid w) s = .next ((s.codeTouch (.context cid) (s.partyOf cid) w.toNat).putSegment cid g))

/-- R399 to R407: a stair core walks for each kind of miss, and leaves reason 0 with what it found, or the reason, in its registers
at return; a KV block in flight leaves the walk waiting. -/
def Obligations.WalkSteps : Prop :=
  ∀ (s0 : State) (core : Nat) (x10 x11 x12 x13 : Dword), core < 4 * Config.dies → x12.toNat < 2 ^ 13 →
    let p : Party := ⟨bits x13.toNat 0 12, core / 4⟩
    let a : Acc4 := if x10.getLsbD 4 then .atomic else if x10.getLsbD 3 then .write else .read
    let s := s0.walkReads (match s0.ctxOn (bits x12.toNat 0 8) (bits x12.toNat 8 1) with
      | some cid => .context cid
      | none => .record (bits x13.toNat 0 12)) p x10 x11
    (bits x10.toNat 0 3 = 1 → exec (.translationWalk core x10 x11 x12 x13) s0 =
      .next ((s.keepPage p a x11.toNat).putCore core (walkResult x11 x12 x13 ((s.flatPage p a x11.toNat).map (fun h => (h.base, h.perm)))))) ∧
    (bits x10.toNat 0 3 = 4 → exec (.translationWalk core x10 x11 x12 x13) s0 =
      .next ((s.keepPage p .code x11.toNat).putCore core (walkResult x11 x12 x13 ((s.flatPage p .code x11.toNat).map (fun h => (h.base, h.perm)))))) ∧
    (bits x10.toNat 0 3 = 2 →
      let id := bits x11.toNat 0 16
      let tile := bits x11.toNat 16 48
      exec (.translationWalk core x10 x11 x12 x13) s0 = .next (match s.tensor p id with
        | none => s.putCore core (walkResult x11 x12 x13 (.error rPROT))
        | some t => (s.keepTile p id t tile (x10.getLsbD 3)).putCore core
            (walkResult x11 x12 x13 ((s.tileAt p id t tile (x10.getLsbD 3)).map (fun f => (f.1, if f.2 then 3 else 1)))))) ∧
    (bits x10.toNat 0 3 = 3 →
      (s.cardFor p (kvSeq x11) (kvLayer x11) = none →
        exec (.translationWalk core x10 x11 x12 x13) s0 = .next (s.putCore core (walkResult x11 x12 x13 (.error rPROT)))) ∧
      (∀ c, s.cardFor p (kvSeq x11) (kvLayer x11) = some c →
        let found := s.kvWalk p c (kvLayer x11) (kvPlane x11) (kvPos x11 / 16)
        (∀ f, found = .frame f → exec (.translationWalk core x10 x11 x12 x13) s0 = .next
          ((s.keepKv p (kvSeq x11) c (kvLayer x11) (kvPlane x11) (kvPos x11 / 16) f).putCore core (walkResult x11 x12 x13 (.ok (f, 3))))) ∧
        (∀ r, found = .fail r → exec (.translationWalk core x10 x11 x12 x13) s0 = .next (s.putCore core (walkResult x11 x12 x13 (.error r)))) ∧
        (found = .hold → exec (.translationWalk core x10 x11 x12 x13) s0 = .next s)))

/-! ## The scheduler -/

/-- R36 to R40, R388: bins: the timer makes a bin due, items age into being stealable, a candidate ages to priority 256, a due bin
launches at a free place, and a die without work steals. -/
def Obligations.BinSteps : Prop :=
  ∀ (s : State) (die bin : Nat) (b : Bin), s.binAt die bin = some b →
    (b.due = false → b.since + (s.region b.region).timer ≤ s.time →
      exec (.binTimer die bin) s = .next (s.putBin die bin (some { b with due := true }))) ∧
    ((∃ i ∈ b.items, i.old = false ∧ s.outwaited b i = true) →
      exec (.stealAge die bin) s = .next (s.putBin die bin (some { b with
        items := b.items.map (fun i => { i with old := i.old || s.outwaited b i }) }))) ∧
    (bin < Config.binsPerDie → b.due = true → b.aged = false → b.since + 50000000 ≤ s.time →
      exec (.candidateAge die bin) s = .next (s.putBin die bin (some { b with aged := true }))) ∧
    (∀ (gang ctx : Nat) (c : Cand), s.firstFor die gang ctx = some c → c.isBin = true → c.id = bin →
      gang / Config.gangsPerDie = die → s.placeFree gang ctx = true → s.reserved c.prio gang ctx = false →
      exec (.binLaunch die bin gang ctx) s = .next (s.launchBin die bin b gang ctx)) ∧
    (∀ thief nb g k : Nat, thief < Config.dies → (∀ e ∈ (s.die thief).bins, e.2.due = false) → (s.die thief).freeBin = some nb →
      s.stealSeat thief (s.effPrio b.region (s.withItems b (b.items.filter b.stealable)).aged) = some (g, k) →
      (stealOrder thief (s.die thief).lastSteal).find? (fun v => ((s.die v).stealFrom).isSome) = some die → (s.die die).stealFrom = some bin →
      s.admits b.region = true → s.marked Region.held b.region = false → s.marked Region.retired b.region = false →
      exec (.steal thief) s = .next (s.stealInto thief die bin nb g k b))

/-- R36, R50, R213, R384, R388, R390: a waiting item opens or joins a bin for the context, or the launch, that waits; a READY context ages
after 50 ms; a resident context with a token outstanding longer than CWTHR parks; a park that waits for an area takes one; the wake time
of a PARK clears its reason. That a launch waits with its waiting item rests on log 25. -/
def Obligations.WaitingSteps : Prop :=
  ∀ s : State,
    (∀ (die bn : Nat) (w : WaitItem) (t : List WaitItem) (r : List Dword), (s.die die).waiting = w :: t →
      s.flatRecord (if w.cid = 0 then ⟨w.region, die⟩ else s.partyOf w.cid) w.addr.toNat 8 = some r →
      ((s.die die).joinBin r).or (s.die die).freeBin = some bn →
      let s1 := (s.setDie die { s.die die with waiting := t }).putInBin die bn w.addr.toNat r
      exec (.waitingItemFile die) s = .next (if w.cid = 0 then s1.fileOn else s1.modCtx w.cid (fun c => { c with spawnOk := some w.addr }))) ∧
    (∀ (die cid since : Nat) (c : Ctx), tableFind s.ctxs cid = some c → c.readyAt = some since → c.place.die = die → c.aged = false →
      since + 50000000 ≤ s.time →
      exec (.candidateAge die (Config.binsPerDie + cid)) s = .next (s.setCtx cid { c with aged := true })) ∧
    (∀ (cid n : Nat), (tableFind s.ctxs cid).isSome = true → (s.ctxAt cid).heldOn = some n → (s.ctxAt cid).place.resident = true →
      s.stoppedSide (s.ownerOf cid) = false → (s.ctxAt cid).holdPark = false → (s.ctxAt cid).tokens.getLsbD n = true →
      (∃ o, s.tokenOp cid n = some o ∧ o.issued + (s.ctxAt cid).cwthr.toNat < s.cycleOf (s.ctxAt cid).place.die) →
      exec (.cwthrExpiry cid) s = .next (s.parkNow (s.ownerOf cid) .copyWait 0)) ∧
    (∀ cid : Nat, (tableFind s.ctxs cid).isSome = true → (s.ctxAt cid).holdPark = true → (s.ctxAt cid).place.resident = true →
      s.stoppedSide cid = false → s.reasonClear cid = false → (s.freeAreaOf (s.ctxAt cid).region).isSome = true →
      exec (.deferredPark cid) s = .next (s.parkNow cid (s.ctxAt cid).reason (s.ctxAt cid).wakeAt)) ∧
    (∀ cid : Nat, (tableFind s.ctxs cid).isSome = true → (s.ctxAt cid).reason = .parkWord → (s.ctxAt cid).wakeAt ≠ 0 →
      (s.ctxAt cid).wakeAt ≤ s.time →
      exec (.parkWake cid) s = .next (s.setCtx cid { s.ctxAt cid with wakeAt := 0 }))

/-- R31, R50, R52, R53, R163, R389, R394: a parked context becomes READY, resumes at a free place or with its co-resident group, and a
context that the scheduler has chosen parks at a pre-emption point. That groups linked by shared contexts resume together at the lowest free
places rests on log 33; when a context is READY, and that a choice without a free area is not started, on log 16. -/
def Obligations.ParkingSteps : Prop :=
  ∀ (s : State) (cid : Nat), (tableFind s.ctxs cid).isSome = true →
    ((s.ctxAt cid).place.resident = false → (s.ctxAt cid).isLanding = false → (s.ctxAt cid).readyAt = none → s.opsRun cid = false →
      s.recvOpen cid = false → (∀ x ∈ s.sidesOf cid, s.reasonClear x = true) →
      let c := s.ctxAt cid
      exec (.itemReady cid) s = .next ((c.items.foldl (fun t e =>
        t.itemState (schedParty e.2.region c.place.die) e.2.addr.toNat stREADY) s).modCtx cid (fun x => { x with
          readyAt := some s.time })).coresUpdate) ∧
    (cid ∈ s.runningOn (s.ctxAt cid).place.die → s.stoppedSide cid = false → (s.ctxAt cid).preempt = true ∨ (s.victimFor cid).isSome = true →
      (s.freeAreaOf (s.ctxAt cid).region).isSome = true →
      (s.atPreemptPoint cid = true → exec (.preempt cid) s = .next (s.preemptNow cid)) ∧
      (s.atPreemptPoint cid = false → exec (.preempt cid) s = .next (s.setCtx cid { s.ctxAt cid with
        preempt := true, victimOf := ((s.victimFor cid).map (fun x => x.mark (s.ctxAt cid).place.die)).or (s.ctxAt cid).victimOf }))) ∧
    (∀ (gang ctx : Nat) (c : Cand), s.firstFor (gang / Config.gangsPerDie) gang ctx = some c → c.isBin = false → c.id = cid →
      s.inCores cid = false → s.reserved c.prio gang ctx = false → s.placeFree gang ctx = true →
      exec (.resume cid gang ctx) s = .next ((s.wakeGang gang).resumeAt cid gang ctx)) ∧
    (∀ gid : Nat, (s.groupAt gid).cores = true →
      let gs := s.coresLinked s.groups.length [gid]
      (∀ g ∈ gs, (s.groupAt g).state = .resuming) →
      let cs := (s.ctxs.map Prod.fst).filter (fun c => gs.any (fun g => (s.groupAt g).contexts.contains c))
      ∀ t0, State.placeAll cs s = some t0 →
      let t := cs.foldl State.resumeCheck t0
      exec (.coresGroupResume gid) s = .next { t with groups := t.groups.map (fun e =>
        if gs.contains e.1 && e.2.state == .resuming then (e.1, { e.2 with state := .live }) else e) })

/-- R24, R386, R426, R428: a retired region without work is freed, each control block's usage becoming all ones, and its code leaves the loop
buffers; a fill leaves its weights in the buffer, which is resident and named in the weight entry. That the whole fill is copied in this one
step, and the order in which buffers that are free then are taken, rest on log 35. -/
def Obligations.RegionAndFillSteps : Prop :=
  ∀ s : State,
    (∀ r : Nat, (tableFind s.regions r).isSome = true → (s.region r).retired = true → s.regionBusy r = false →
      exec (.regionFree r) s = .next { (s.subtree r).foldl (fun t a => t.cbPut a 160 (2 ^ 64 - 1)) s with
        regions := s.regions.filter (fun e => !(s.subtree r).contains e.1)
        seqs := s.seqs.map (fun e => (e.1, e.2.forget (s.subtree r).contains)) }) ∧
    (∀ (die buf base size count : Nat), s.poolOf die = some (base, size, count) →
      let b := (s.die die).buf buf
      b.state = 1 →
      let key := s.regionKey b.region
      let s1 := (List.range (b.size * 512)).foldl (fun t i =>
        t.physWrite key (base + buf * size + i * 128) (s.physRead key (b.src + i * 128) 128)) (s.reads (.record b.region) key b.src (b.size * 65536))
      let s2 := s1.putRes b.region b.entry die (buf + 1)
      exec (.xpFillComplete die buf) s = .next ((s2.setDie die { s2.die die with
        pool := tableInsert (s2.die die).pool buf { b with state := 2 } }).binsTake die))

/-- R326, R332, R333, R337, R339, R340: the porches: a peer's message is noted and met with a send, a word that has waited beyond its route's
timeout stops its program with 4, a peer's abort stops every program of the COLL with 7, an outstanding data word completes, and a
stamped word issues at its stamp. That a data word moves all its data in the step that completes it rests on logs 14 and 24, the stop with
LENMM where lengths differ on logs 24 and 43, LATE on log 43. -/
def Obligations.PorchSteps : Prop :=
  ∀ s : State,
    (∀ (coll : Word) (q peer : Nat) (tag : BitVec 8) (n : Nat) (fin : BitVec 4) (dest : Option Nat), s.programOf coll = some q →
      (s.porch q).rtrs.length < rtrLimit →
      exec (.readyToReceive coll peer tag ⟨n, fin⟩ dest) s =
        .next ((s.rouse.modPorch q (fun p => { p with rtrs := p.rtrs ++ [⟨peer, tag, n, fin, none, dest⟩] })).meet q)) ∧
    (∀ slot : Nat, (s.porch slot).running = true → (∃ o ∈ (s.porch slot).ops, s.overdue (s.porch slot) o = true) →
      exec (.rendezvousTimeout slot) s = .next (s.stopPorch slot 4)) ∧
    (∀ coll : Word, exec (.peerAbort coll) s = .next ((s.programsOf coll).foldl (fun t q => t.stopPorch q 7) s.rouse)) ∧
    (∀ (coll : Word) (q n sn : Nat) (sfin : BitVec 4) (o : KOp) (d : KData),
      let p := s.porch q
      let far := o.src.isSome && !(s.fromSelf o)
      s.programOf coll = some q → p.ops.find? (fun o => o.n == n) = some o → kDataOf o.word = some d →
      (far = true → d.n.toNat ≠ sn ∨ d.fin ≠ sfin →
        ∀ data, exec (.kuborDataComplete coll n ⟨⟨sn, sfin⟩, data⟩) s = .next (s.rouse.stopPorch q 5)) ∧
      (far = true → d.n.toNat = sn → d.fin = sfin → exec (.kuborDataComplete coll n ⟨⟨sn, sfin⟩, none⟩) s =
        .next (s.rouse.modPorch q (fun p => p.modOp n (fun x => { x with came := true })))) ∧
      ((far = true → d.n.toNat = sn ∧ d.fin = sfin) → o.dst = none → o.stage = 0 → (s.fromSelf o = true → o.got.isSome = true) → ∀ bs : List Byte,
        let inc := if s.fromSelf o then (match o.got with | some x => x.2 | none => []) else bs
        (kReceives o.word = true → inc.length = kBytes d.fin.toNat d.n.toNat) →
        let u := if far then (s.dataWakes p o).count none 3 bs.length else s
        u.operandOk p d (kReads o.word) .read o.addrA = true → u.operandOk p d (kWritesA o.word) .write o.addrA = true →
        u.operandOk p d (kWritesB o.word) .write o.addrB = true →
        let r := u.kuborResult p o inc
        let met := match kReads o.word with
          | some f => u.readsFlat (.porch q) p.party o.addrA (kBytes f d.n.toNat)
          | none => u
        exec (.kuborDataComplete coll n ⟨⟨sn, sfin⟩, some bs⟩) s =
          .next ((((met.kuborStore p o r).count none 5 (kBytes d.fin.toNat d.n.toNat)).modPorch q (fun x =>
            { x with flags := x.flags ||| r.flags })).modPorch q (fun x => x.finish o)))) ∧
    (∀ (slot : Nat) (k : KHead), (s.porch slot).running = true → k.ts = true → ((s.porch slot).reg k.tsr).toNat ≤ s.time →
      let u : State := { s with porchFocus := slot }
      (∀ i : Instr, (s.porch slot).nextWord = some i → kHeadOf i = some k → exec (.timedIssue slot) s = exec i u) ∧
      ((s.porch slot).nextWord = some (.waitTs k) → s.timed = true → k.ok false = true →
        exec (.timedIssue slot) s = .next (cameTo u ((stamped u k).modPorch slot Porch.advance))))

/-! ## The host -/

/-- R384, R385, R430: LAUNCH while no launch is under way: a chain that passes every check is registered and its items are filed, with BUSY
set; a chain that fails a check leaves only the code of the first failure in LSTAT (R385 gives the codes; the order in which the checks
are made is the model's, log 25); the write wakes the package, and what the launch reads meets its uncorrectable words (R435). LAUNCH while BUSY is ignored. LAUNCH_COMPLETE: once every item is filed
LSTAT takes the count and INTCAUSE bit 0 is set. -/
def Obligations.LaunchSteps : Prop :=
  ∀ s0 : State, let s := s0.touchBar
    (∀ (pa : Dword) (chain : List Block) (bad : Nat), s.launching = none → s.chainFrom 4096 pa.toNat = (chain, bad) →
      let t := s.registerAll chain
      let c := s.chainCode t chain chain 0 []
      let code := if c ≠ 0 then c else bad
      (code = 0 → exec (.launch pa) s0 = .next (((t.readsBlocks chain).readsLaunch chain).fileBlocks chain)) ∧
      (code ≠ 0 → exec (.launch pa) s0 =
        .next ((({ s with cellar := { s.cellar with launched := true } } : State).readsBlocks chain).endLaunch 0 code))) ∧
    (∀ pa : Dword, s.launching.isSome = true → exec (.launch pa) s0 = .next s) ∧
    (∀ w, s0.launching = some w → s0.launchWaits = false → exec .launchComplete s0 = .next ((s0.endLaunch w.count 0).cause 0))

/-- R386: a command on a live region: RETIRE marks it retired, HOLD holds it and chooses its subtree's running contexts, RELEASE
releases the subtree, REFRESH re-reads the six fields of the region's own block and chooses the contexts beyond each GANGS. -/
def Obligations.RegionControlSteps : Prop :=
  ∀ (s0 : State) (region : BitVec 12), let r := region.toNat
    let s := s0.touchBar
    (tableFind s.regions r).isSome = true →
    exec (.retire region) s0 = .next (s.setRegion r { s.region r with retired := true }) ∧
    exec (.hold region) s0 = .next ((s.setRegion r { s.region r with held := true }).preemptAll (s.runningOf r)) ∧
    exec (.release region) s0 = .next ((s.subtree r).foldl (fun u x => u.setRegion x { u.region x with held := false }) s) ∧
    exec (.refresh region) s0 =
      .next (((s.refreshRegion r).subtree r).foldl (fun v x => v.preemptAll ((s.refreshRegion r).excess x)) (s.refreshRegion r))

/-- R5, R6, R375, R376, R378: RSTCTL with its key leaves the package as after reset; a host write stores a register's defined bits and no
others, clears the bits of INTCAUSE written as 1, and is ignored where the register is read-only; an offset of BAR0 reaches the block of
its capability, and a 32-bit access the half it names. R86, R411, R417: a closed format window, a pool that is off and the cellar while
it is off take their settings; R431, R437, R439: the power limit is clamped, the error ring and the measurements take theirs. What
RSTCTL leaves as it was rests on log 28, that a half write keeps the other half on log 43. -/
def Obligations.RegisterWriteSteps : Prop :=
  ∀ (s : State) (v : Dword),
    let write (cap off : Nat) : Answer := exec (.registerWrite (BitVec.ofNat 16 cap) (BitVec.ofNat 26 off) (.whole v)) s
    let put (cap off : Nat) (field : Option (Nat × Nat)) : Prop := write cap off = .next (s.touchBar.setBar cap off (match field with
      | some (lo, w) => BitVec.ofNat 64 (bits v.toNat lo w * 2 ^ lo)
      | none => v))
    let kept (cap off : Nat) : Prop := write cap off = .next s.touchBar
    (bits v.toNat 16 16 = 0x5A5A → v.getLsbD 0 = true → exec (.rstctl v) s = .next s.packageReset) ∧
    (∀ x ∈ ([(0, 0x48, 12, 40), (0, 0x50, 0, 21), (0, 0x78, 0, 3), (2, 0x00, 0, 16), (2, 0x20, 0, 32), (3, 0x00, 0, 19),
        (6, 0x08, 12, 40), (7, 0x90, 0, 8)] : List (Nat × Nat × Nat × Nat)), put x.1 x.2.1 (some (x.2.2.1, x.2.2.2))) ∧
    (∀ x ∈ ([(6, 0x20), (7, 0x10), (7, 0x18), (7, 0x20), (7, 0x28), (7, 0x30), (7, 0x38)] : List (Nat × Nat)), put x.1 x.2 none) ∧
    (∀ n < 16, s.window n = none → put 1 (n * 0x20) (some (16, 36)) ∧ put 1 (n * 0x20 + 8) none ∧ put 1 (n * 0x20 + 0x10) (some (6, 46))) ∧
    (∀ n < 16, ∀ c ∈ ([0x00, 0x08, 0x10] : List Nat), (s.window n).isSome = true → kept 1 (n * 0x20 + c)) ∧
    (∀ d < 4, ((s.barReg 3 (0x48 + d * 0x10)).getLsbD 32 = false → put 3 (0x40 + d * 0x10) (some (16, 36))) ∧
      ((s.barReg 3 (0x48 + d * 0x10)).getLsbD 32 = true → kept 3 (0x40 + d * 0x10))) ∧
    ((s.barReg 4 0).getLsbD 0 = false → put 4 0x18 (some (0, 36)) ∧ put 4 0x20 (some (12, 40)) ∧ (∀ k < 8, put 4 (0x40 + k * 8) (some (0, 32))) ∧
      write 4 0x28 = .next ((s.touchBar.setBar 4 0x28 (BitVec.ofNat 64 (bits v.toNat 12 40 * 2 ^ 12))).onCellar (fun c => { c with next := 0 }))) ∧
    ((s.barReg 4 0).getLsbD 0 = true → ∀ off ∈ ([0x18, 0x20, 0x28, 0x40, 0x48, 0x50, 0x58, 0x60, 0x68, 0x70, 0x78] : List Nat), kept 4 off) ∧
    write 5 0x00 = .next (s.touchBar.setLtol v) ∧
    write 5 0x10 = .next (s.touchBar.setBar 5 0x10 (BitVec.ofNat 64 (min 2200 (max 300 (bits v.toNat 0 12))))) ∧
    write 6 0x10 = .next (s.touchBar.setBar 6 0x10 (BitVec.ofNat 64 (bits v.toNat 0 5 + bits v.toNat 8 8 * 2 ^ 8))) ∧
    (∀ x ∈ ([(2, 0x10), (2, 0x18), (4, 0x08), (4, 0x10), (4, 0x88), (5, 0x08), (5, 0x18), (6, 0x18), (6, 0x28), (7, 0x00), (7, 0x48), (7, 0x88)] :
      List (Nat × Nat)), kept x.1 x.2) ∧
    exec (.registerWrite 0 0x70 (.whole v)) s = .next (s.touchBar.setBar 0 0x70 (s.barReg 0 0x70 &&& ~~~v)) ∧
    exec (.registerWrite 0 0x58 (.whole v)) s = exec (.launch v) s.touchBar ∧
    (∀ off : BitVec 26, off ∈ ([0x00, 0x08, 0x10, 0x60] : List (BitVec 26)) → exec (.registerWrite 0 off (.whole v)) s = .next s.touchBar) ∧
    exec (.registerWrite 0 0x2018 (.whole v)) s = exec (.registerWrite 1 0x18 (.whole v)) s ∧
    exec (.registerWrite 0 0x10020 (.whole v)) s = exec (.registerWrite 2 0x20 (.whole v)) s ∧
    (∀ w : Word,
      exec (.registerWrite 0 0x48 (.half w)) s = .next (s.touchBar.setBar 0 0x48
        (BitVec.ofNat 64 (bits ((s.barReg 0 0x48).toNat / 2 ^ 32 * 2 ^ 32 + w.toNat) 12 40 * 2 ^ 12))) ∧
      exec (.registerWrite 0 0x4C (.half w)) s = .next (s.touchBar.setBar 0 0x48
        (BitVec.ofNat 64 (bits ((s.barReg 0 0x48).toNat % 2 ^ 32 + w.toNat * 2 ^ 32) 12 40 * 2 ^ 12))))

/-- R86, R374, R411, R412, R417, R430: a read of the memory BAR answers HBM's bytes, all ones beyond it, and a write stores them, and both
wake the die of the address; a read that meets a word whose error stays gets no data (R435); windows, link windows, expert pools and the
cellar are switched on and off (an LWIN write that keeps EN changes nothing by log 31, and EN cleared clears READY by log 28); a link
window through which data move, and a pool with a pinned buffer, wait to be switched off. R99, R102: a memory operation of another
package whose address has its home here is performed there, under no key (log 8): a read answers the bytes, a write stores them, and an
atomic updates HBM and answers the old value. -/
def Obligations.HostMemorySteps : Prop :=
  ∀ (s0 : State) (v : Dword), let s := s0.touchBar
    (∀ (off : BitVec 40) (width : Nat), let t := (s.touchHbm off.toNat).reads .barRead s.hostKey off.toNat (min width (Config.hbmBytes - off.toNat))
      (t.fleet.met = s.fleet.met → exec (.memoryBarRead off width) s0 = .next { t with outbox := t.outbox ++ [.barData
        ((List.range width).map (fun i => if off.toNat + i < Config.hbmBytes then s.hbmByte s.hostKey (off.toNat + i) else 0xFF))] }) ∧
      (t.fleet.met ≠ s.fleet.met → exec (.memoryBarRead off width) s0 = .next t)) ∧
    (∀ (off : BitVec 40) (data : List Byte), exec (.memoryBarWrite off data) s0 =
      .next ((s.touchHbm off.toNat).hbmWrite s.hostKey off.toNat (data.take (Config.hbmBytes - off.toNat)))) ∧
    (∀ n : BitVec 4,
      let c := v.toNat / 256 * 256
      exec (.fwEnable n v) s0 = .next (s.setBar 1 (n.toNat * 0x20 + 0x18) (BitVec.ofNat 64 (c + bit (s.windowOk n.toNat c)))) ∧
      (s.window n.toNat = none → exec (.fwDisable n v) s0 = .next (s.setBar 1 (n.toNat * 0x20 + 0x18) (BitVec.ofNat 64 c))) ∧
      (∀ w, s.window n.toNat = some w →
        exec (.fwDisable n v) s0 = .next ((s.dropView w).setBar 1 (n.toNat * 0x20 + 0x18) (BitVec.ofNat 64 c)))) ∧
    (∀ n : BitVec 10,
      let off := 0x1000 + n.toNat * 8
      let old := s.barReg 3 off
      let pkg := bits v.toNat 0 19
      let ports := bits v.toNat 20 36
      (old.getLsbD 63 = true → v.getLsbD 63 = false → s.windowBusy n.toNat = false →
        exec (.lwin n v) s0 = .next (s.setBar 3 off (BitVec.ofNat 64 (old.toNat % 2 ^ 63)))) ∧
      (old.getLsbD 63 = true → v.getLsbD 63 = false → s.windowBusy n.toNat = true →
        exec (.lwin n v) s0 = .next (s.onFleet (fun f => { f with
          closingWindows := n.toNat :: f.closingWindows.filter (· ≠ n.toNat) }))) ∧
      (old.getLsbD 63 = true → v.getLsbD 63 = true → exec (.lwin n v) s0 = .next s) ∧
      (old.getLsbD 63 = false → exec (.lwin n v) s0 = .next (s.setBar 3 off
        (BitVec.ofNat 64 (pkg + ports * 2 ^ 20 + bit (v.getLsbD 63 && pkg ≠ s.pkgId && ports ≠ 0) * 2 ^ 63))))) ∧
    (∀ die : BitVec 2,
      let off := 0x48 + die.toNat * 0x10
      let old := s.barReg 3 off
      (old.getLsbD 32 = true → v.getLsbD 32 = false → (∀ e ∈ (s.die die.toNat).pool, e.2.pins = 0) →
        exec (.xpctl die v) s0 = .next ((s.dropPool die.toNat).setBar 3 off (BitVec.ofNat 64 (old.toNat % 2 ^ 32)))) ∧
      (old.getLsbD 32 = true → v.getLsbD 32 = false → (∃ e ∈ (s.die die.toNat).pool, 0 < e.2.pins) →
        exec (.xpctl die v) s0 = .next (s.onFleet (fun f => { f with
          closingPools := die.toNat :: f.closingPools.filter (· ≠ die.toNat) }))) ∧
      (old.getLsbD 32 = false → exec (.xpctl die v) s0 = .next (s.setBar 3 off (BitVec.ofNat 64 (v.toNat % 2 ^ 33))))) ∧
    (let t := s.setBar 4 0 (BitVec.ofNat 64 (v.toNat % 2));
      ((s.barReg 4 0).getLsbD 0 = false → v.getLsbD 0 = true →
        exec (.stctl v) s0 = .next (t.onCellar (fun c => { c with
          ctrls := s.findControllers, spaces := s.findControllers.map s.namespaceOf, queues := s.findControllers.flatMap queuePairs
          lbas := s.leastLbas, out := [], fails := [], ready := true }))) ∧
      ((s.barReg 4 0).getLsbD 0 = true → v.getLsbD 0 = false → exec (.stctl v) s0 = .next (t.onCellar (fun c => { c with ready := false })))) ∧
    (∀ pa : Nat,
      (isHome pa = true →
        (∀ n, let t := s0.linkWakes (.read pa n)
          exec (.linkMemoryArrival (.read pa n)) s0 = .next ((t.reads .scrub noKey pa n).linkAnswer (t.physRead noKey pa n))) ∧
        (∀ bs, exec (.linkMemoryArrival (.write pa bs)) s0 = .next ((s0.linkWakes (.write pa bs)).physWrite noKey pa bs))) ∧
      (paKind pa = .hbm → ∀ dw : Bool,
        let n := if dw then 8 else 4
        (∀ o v, let t := s0.linkWakes (.atomic pa dw o v)
          let old := t.physValue noKey pa n
          exec (.linkMemoryArrival (.atomic pa dw o v)) s0 =
            .next (((t.reads .scrub noKey pa n).physWrite noKey pa (leBytes n (atomOp o (8 * n) old (bits v.toNat 0 (8 * n))))).linkAnswer (leBytes n old))) ∧
        (∀ c v, let t := s0.linkWakes (.cas pa dw c v)
          let old := t.physValue noKey pa n
          exec (.linkMemoryArrival (.cas pa dw c v)) s0 =
            .next (((t.reads .scrub noKey pa n).physWrite noKey pa (leBytes n (if old = bits c.toNat 0 (8 * n) then bits v.toNat 0 (8 * n) else old))).linkAnswer (leBytes n old)))))

/-- R61, R356, R396, R397: the commands of the debug block act on the context that DBGSEL names, one that is resident: HALT stops it
and sets INTCAUSE bit 1, RUN lets it go on, STEP and STEPALL let it, and with STEPALL its landings, issue one bundle each, the
enable is set and cleared, and DBGDATA writes a unit of a register while the context is stopped. A command without a selected
context only shows bit 3 of DBGSTAT, which the next one that acts clears (log 43: how long it shows is the model's choice). -/
def Obligations.DebugSteps : Prop :=
  (∀ s0 : State, s0.selected = none → ∀ i ∈ [Instr.halt, .run, .step, .stepall, .debugEnableSet, .debugEnableClear],
    exec i s0 = .next (s0.touchBar.setBar 2 0x10 8)) ∧
  ∀ (s0 : State) (cid : Nat), s0.selected = some cid →
    let s := s0.touchBar
    let t := s.setBar 2 0x10 0
    ((s.ctxAt cid).dbgStop = false → exec .halt s0 = .next ((t.modCtx cid (fun c => { c with dbgStop := true, dbgBrk := false })).cause 1)) ∧
    exec .run s0 = .next (t.modCtx cid (fun c => { c with dbgStop := false, dbgStep := false, dbgBrk := false })) ∧
    exec .debugEnableSet s0 = .next (t.modCtx cid (fun c => { c with dbgEn := true })) ∧
    exec .debugEnableClear s0 = .next (t.modCtx cid (fun c => { c with dbgEn := false })) ∧
    ((s.ctxAt cid).dbgStop = true →
      exec .step s0 = .next (t.stepThese [cid] false) ∧
      exec .stepall s0 = .next (t.stepThese (cid :: t.landOrder cid) true) ∧
      (∀ v : Dword,
        let r := s.debugAt.1
        let e := s.debugAt.2.1
        let k := s.debugAt.2.2
        let c := s.ctxAt cid
        exec (.dbgdata v) s0 = .next ((s.modCtx cid (fun x => x.putUnit r k v)).modEng c.place.gangNo e (fun x =>
          x.setPart c.place.engCtx ((x.part c.place.engCtx).putUnit r k v)))))

/-! ## The cellar -/

/-- R420 to R424: the stair cores take the ring's next entry when its LAP matches: an entry that names no block becomes CODE 2 (R420), any
other its operation; a request that waits is tried again; and the head moves on. The order in which the codes are tested is the
model's (log 27). -/
def Obligations.TierSteps : Prop :=
  ∀ (s : State) (k : Nat), s.ringPa ≠ 0 → s.cellar.ckPhase ≠ 2 →
    let t := (s.entryReads k).onCellar (fun c => { c with next := c.next + 1 })
    let act (op : Nat) (u : State) : Prop :=
      (op = 1 → exec (.promote k) s = .next u) ∧ (op = 2 → exec (.demote k) s = .next u) ∧ (op = 3 → exec (.replace k) s = .next u) ∧
      (op = 4 → exec (.refetch k) s = .next u)
    (∀ r, tableFind s.cellar.reqs k = some r → r.phase = 1 → s.tierAct k r ≠ s → act r.op ((s.requestReads r).tierAct k r).putHead) ∧
    (tableFind s.cellar.reqs k = none → s.entryReady k = true →
      (∀ r, t.tierReq k = some r → r.op = bits (s.ringWord k 8) 0 4 → act r.op ((t.requestReads r).tierAct k r).putHead) ∧
      (t.tierReq k = none → act (bits (s.ringWord k 8) 0 4) (t.putStatus (some (t.ringEntryPa k)) 2 0).putHead))

/-- R418, R419, R421: a storage command ends. A read of a slot decides by its tag; a write goes to the slot, then to the mirror where
there is one, and then the block has left; a failure is tried three times in all, and a command to a controller that is out of service
fails at once (log 28). -/
def Obligations.StorageSteps : Prop :=
  ∀ (s0 : State) (k : Nat) (ok : Bool) (r : TierReq), tableFind s0.cellar.reqs k = some r → 2 ≤ r.phase → s0.cellar.ckPhase ≠ 2 →
    let s := s0.requestReads r
    (r.op = 4 → leafTier (s.leafWord r.region r.leaf) ≠ 2) →
    let down := s.cellar.unserved r.target
    let t := s.onCellar (fun c => c.command r.target (ok && !down))
    let u := t.putSlot r.region r.target r.frame r.size
    (ok = false → down = false → r.tries < 2 → exec (.nvmeCompletion k ok) s0 = .next (t.putReq k { r with tries := r.tries + 1 })) ∧
    (r.op ≠ 2 → ((ok = true ∧ down = false) ∨ down = true ∨ 2 ≤ r.tries) →
      exec (.nvmeCompletion k ok) s0 = .next (t.readDone k r (ok && !down)).putHead) ∧
    (r.op = 2 → (down = true ∨ (ok = false ∧ 2 ≤ r.tries)) → exec (.nvmeCompletion k ok) s0 = .next (t.writeFailed k r).putHead) ∧
    (r.op = 2 → ok = true → down = false →
      (r.mirror.isSome = true → r.phase = 2 → exec (.nvmeCompletion k ok) s0 = .next (u.putReq k { r with phase := 3, tries := 0 })) ∧
      ((r.mirror = none ∨ r.phase ≠ 2) → exec (.nvmeCompletion k ok) s0 = .next (u.demoted k r).putHead))

/-- R444, R445: START quiesces the package when no program runs, the reserve is large enough and the cellar is ready; once all is
quiet CHECKPOINT_TRANSFER writes back the pantries' dirty lines and transfers HBM slot by slot, byte for byte as stored, and in its last
step the hall; a namespace that is too small or a controller out of service fails it; RESTORE, after a reset and before any launch, puts
what the slots hold back with every region held. How many slots a step writes, and that the hall is held as one image, are the model's
(log 28). -/
def Obligations.CheckpointSteps : Prop :=
  ∀ s0 : State, let s := s0.touchBar
    let able : Prop := Config.checkpointSlots ≤ s.cellar.slots ∧ ∀ c ∈ s.cellar.ctrls, c ∉ s.cellar.out
    let n := s.cellar.ckSlots
    (s.cellar.ckPhase ≠ 1 → s.cellar.ckPhase ≠ 2 → (∀ e ∈ s.porches, e.2.running = false) → Config.checkpointSlots ≤ s.ckres →
      s.cellar.ready = true →
      exec .start s0 = .next ((s.regions.map Prod.fst).foldl (fun t r => t.holdRegion r) (s.ckStat 1 0 0))) ∧
    (s0.cellar.ckPhase = 1 → s0.quiet = true → exec .checkpointTransfer s0 =
      .next (((s0.pantry.map Prod.fst).foldl State.writeBack s0).ckStat 2 0 0)) ∧
    (s0.cellar.ckPhase = 2 → ¬ able → exec .checkpointTransfer s0 = .next (s0.ckStat 0 4 n)) ∧
    (s0.cellar.ckPhase = 2 → able →
      (n < Config.checkpointHbm → let m := min Config.checkpointHbm (n + Config.checkpointStep)
        exec .checkpointTransfer s0 = .next ((s0.storeSlots n m).ckStat 2 0 m)) ∧
      (Config.checkpointHbm ≤ n →
        exec .checkpointTransfer s0 = .next ((s0.onCellar (fun c => { c with image := some s0.image })).ckStat 3 0 Config.checkpointSlots))) ∧
    (∀ i, s.cellar.launched = false → s.ctxs = [] → s.regions = [] → s.cellar.ready = true → s.cellar.image = some i →
      exec .restore s0 = .next ((s.restore i).ckStat 3 0 Config.checkpointSlots))

/-! ## The fleet -/

/-- R429, R430: a gang, a die and the package go to sleep under the conditions of R430, gang-idle losing scratchpads and operand
stores and a die in retention writing back its pantry, and wake (when these come is the model's, log 29). R431 to R434, R443: grants
change only what bounds timing; TTCTL sets a die's clock at once (log 29), clamped to 1300 to 1550 MHz, and TDOM the timed domain; TSNAP
copies every counter to its snapshot (log 30); a replayed flit is counted; SCRUB changes no value of HBM and counts and records what it
corrects, a number that is free (log 3). -/
def Obligations.PowerAndClockSteps : Prop :=
  ∀ s : State,
    (∀ gang : Nat, let d := gang / Config.gangsPerDie
      2000 ≤ s.ltol → gang ∈ s.gangsOn d → d < Config.dies → s.gangBusy gang = false → gang ∉ (s.die d).gangIdle → s.farWake d 2000 = true →
      exec (.enterGangIdle gang) s = .next ((s.loseGang gang).setDie d { (s.loseGang gang).die d with
        gangIdle := gang :: ((s.loseGang gang).die d).gangIdle })) ∧
    (∀ die : Nat, 200000 ≤ s.ltol → die < Config.dies → (s.die die).power ≠ 2 → (∀ g ∈ s.gangsOn die, g ∈ (s.die die).gangIdle) →
      (∀ e ∈ (s.die die).bins, e.2.items = []) → s.dieBusy die = false → s.farWake die 200000 = true →
      exec (.enterDieRetention die) s =
        .next (((s.pantryOf die).foldl State.dropLine s).setDie die { s.die die with power := 2 })) ∧
    (5000000 ≤ s.ltol → s.fleet.standby = false → (∀ d < Config.dies, (s.die d).power = 2 ∧ s.farWake d 5000000 = true) →
      (∀ e ∈ s.porches, e.2.running = false) → (∀ e ∈ s.channels, ∀ x ∈ e.2.streams, x.2 = []) → s.fleet.lastBar + 1000000 ≤ s.time →
      s.launching = none → exec .enterPackageStandby s = .next (s.onFleet (fun f => { f with standby := true }))) ∧
    (∀ g < Config.gangs, exec (.wake (.gang g)) s = .next (s.wakeGang g)) ∧
    (∀ d < Config.dies, exec (.wake (.die d)) s = .next (s.wakeDie d)) ∧
    exec (.wake .package) s = .next s.rouse ∧
    (∀ v : Dword,
      exec .currentGrant s = .next (((List.range Config.dies).foldl (fun u d => u.setDie d { u.die d with
        grants := s.grants.filter (fun e => decide (e.1 / Config.gangsPerDie = d)) }) s).onFleet (fun f => { f with
          grant := s.grants.foldl (fun a e => a + e.2) 0 })) ∧
      (∀ die : BitVec 2, let mhz := min 1550 (max 1300 (bits v.toNat 16 11))
        exec (.ttctl die v) s = .next ((s.touchBar.setBar 5 (0x20 + die.toNat * 8) (BitVec.ofNat 64 (bit (v.getLsbD 0) + mhz * 2 ^ 16))).setClock die.toNat
          (if v.getLsbD 0 then mhz else 1300))) ∧
      exec (.tdom v) s = .next (s.touchBar.setBar 5 0x40 (BitVec.ofNat 64 (v.toNat % 2 ^ 17))) ∧
      exec (.tsnap v) s = .next (([none, some 0, some 1, some 2, some 3] : List (Option Nat)).foldl (fun t d =>
        (List.range 8).foldl (fun u i => u.setBar 6 (0x800 + counterOff d i) (s.counter d i)) t) s.touchBar) ∧
      (∀ port < linkPorts, exec (.flitReplay port) s = .next (s.count none 4 1)) ∧
      (let n := Config.freeBits s.free (2 ^ 55 + 3) % 2 ^ 32;
        (n = 0 → exec .scrub s = .next s) ∧
        (n ≠ 0 → ∃ unit src die, 1 ≤ src ∧ src ≤ 7 ∧ die < 4 ∧ exec .scrub s = .next ((s.count none 7 n).errorRecord unit src 1 die 0xFF n))))

/-- R57, R435 to R437: GRET and 64 corrected errors retire a gang; a channel is spared and its copy ends; a lane fails over to the
spare, and a second failure takes the port down and stops the programs routed over it with 6; an uncorrectable error ends the work
of the domain that it strikes, a read of the memory BAR that meets one is a Completer Abort, one in a gang's own memory retires the gang,
one in HBM stays until a write replaces its word, and a read that meets such a word raises it again. What the records say beyond R437,
and that a word is 32 bytes, are the model's (log 30). -/
def Obligations.ErrorSteps : Prop :=
  ∀ s : State,
    (∀ v : Dword, bits v.toNat 8 8 = 0xA5 → exec (.gret v) s = .next (s.touchBar.retireGang (bits v.toNat 0 8))) ∧
    (∀ gang : Nat, exec (.gangErrorRetire gang) s = .next ((s.count none 7 64).retireGang gang)) ∧
    (∀ stack channel : Nat, let used := tableGet s.fleet.hbmSpare stack 0
      (stack < hbmStacks → channel < 32 → used < 2 → tableFind s.fleet.copying (stack * 32 + channel) = none →
        exec (.hbmChannelSpare stack channel) s = .next (((s.count none 7 256).onFleet (fun f => { f with
          hbmSpare := tableInsert f.hbmSpare stack (used + 1), copying := tableInsert f.copying (stack * 32 + channel) 1 })).errorRecord
          (stack * 32 + channel) 4 3 (stack / 3) 0xFF 256)) ∧
      exec (.hbmSpareCopyDone stack channel) s = .next (s.onFleet (fun f => { f with
        copying := tableErase f.copying (stack * 32 + channel) }))) ∧
    (∀ port < linkPorts, (s.linkPort port).down = false →
      ((s.linkPort port).spared = false → exec (.laneFailure port) s =
        .next ((s.onFleet (fun f => { f with links := tableInsert f.links port { s.linkPort port with spared := true } })).errorRecord
          port 6 3 0xFF 0xFF 1)) ∧
      ((s.linkPort port).spared = true → exec (.laneFailure port) s =
        .next (((s.porches.filter (fun e => e.2.running && e.2.routes.any (fun r => s.routeUses r port))).map Prod.fst).foldl
          (fun u q => u.stopPorch q 6)
          ((s.onFleet (fun f => { f with links := tableInsert f.links port { s.linkPort port with down := true } })).errorRecord
            port 6 5 0xFF 0xFF 1)))) ∧
    (∀ cid : Nat, (tableFind s.ctxs cid).isSome = true →
      let c := s.ctxAt cid
      exec (.eccUncorrectable (.context cid)) s = .next (s.eccRegion (s.errorAt (.context cid)) c.region) ∧
      (s.errorAt (.engine cid)).die = c.place.die ∧
      exec (.eccUncorrectable (.engine cid)) s = .next ((s.eccRegion (s.errorAt (.engine cid)) c.region).retireGang c.place.gangNo)) ∧
    (∀ q : Nat, (s.porch q).running = true →
      exec (.eccUncorrectable (.porch q)) s = .next ((s.stopPorch q 0x0A).eccRegion (s.errorAt (.porch q)) (s.porch q).region)) ∧
    (∀ r : Nat, (tableFind s.regions r).isSome = true → exec (.eccUncorrectable (.record r)) s = .next (s.eccRegion (s.errorAt (.record r)) r)) ∧
    (∀ r : Nat, tableFind s.regions r = none → exec (.eccUncorrectable (.record r)) s = .next (s.eccRecord (s.errorAt (.record r)) 0xFF)) ∧
    exec (.eccUncorrectable .barRead) s =
      .next (({ s with outbox := s.outbox ++ [.completerAbort] } : State).eccRecord (s.errorAt .barRead) 0xFF) ∧
    (∃ unit, exec (.eccUncorrectable .hallState) s =
      .next (((s.setBar 0 0x08 (s.barReg 0 0x08 ||| 2)).cause 2).eccRecord ⟨unit, 5, 0xFF⟩ 0xFF)) ∧
    (∀ gid : Nat, (s.groupAt gid).state ≠ .free →
      let t := s.eccRegion ⟨gid, 5, 0xFF⟩ (s.groupAt gid).region
      exec (.eccUncorrectable (.group gid)) s =
        .next (if (t.groupAt gid).state = .free then t else t.setGroup gid { inc := nextInc (t.groupAt gid).inc })) ∧
    (∀ ch c, tableFind s.channels ch = some c →
      let t := s.eccRegion ⟨ch, 5, 0xFF⟩ c.region
      exec (.eccUncorrectable (.channel ch)) s = .next { t with channels := tableErase t.channels ch }) ∧
    (∀ q : Nat, (s.porch q).loaded = true → exec (.eccUncorrectable (.porchSlot q)) s =
      .next (((s.eccRegion ⟨q, 5, 0xFF⟩ (s.porch q).home).stopPorch q 0x0A).setPorch q { inc := nextInc (s.porch q).inc })) ∧
    (∃ x : ErrorAt, 1 ≤ x.src ∧ x.src ≤ 7 ∧ x.die < 4 ∧ exec (.eccUncorrectable .scrub) s = .next (s.eccRecord x 0xFF)) ∧
    (∀ pa < Config.hbmBytes, exec (.eccUncorrectable (.word pa)) s = .next ((s.spoil pa).eccRecord ⟨pa / 32 * 32, 4, dieOfPa (pa / 32 * 32)⟩ 0xFF)) ∧
    (∀ (w : EccVictim) (slot pa n : Nat), 0 < n → paKind pa = .hbm →
      let hit : Nat → Prop := fun k => k < pa + n ∧ pa < k + 32
      let t := s.useLines slot pa n false
      ((∃ k ∈ s.fleet.badWords, hit k) → ∃ k ∈ s.fleet.badWords, hit k ∧
        s.reads w slot pa n = t.onFleet (fun f => { f with met := f.met ++ [(w, k)] })) ∧
      ((∀ k ∈ s.fleet.badWords, ¬ hit k) → s.reads w slot pa n = t)) ∧
    (∀ (slot pa k : Nat) (bs : List Byte), pa ≤ k → k + 32 ≤ pa + bs.length → k ∉ (s.hbmWrite slot pa bs).fleet.badWords)

/-- R438 to R441: BOOT checks the flash's image once, BOOTIMG written with 1 repeats a failed check on what the host placed in HBM, and SECSTAT
takes the outcome (when BOOT comes is the model's, log 32); an image that is accepted fills the walk stores (R398) and is measured; ATTREQ
writes the report, padded to 4 KiB; KEYLD erases or loads a slot that no live region uses, and refuses one that is in use, or a
blob that does not unwrap. The report, the image and the blob are accessed under no key (log 8). -/
def Obligations.BootAndKeySteps : Prop :=
  ∀ s : State,
    (s.barReg 7 0 = 0 → s.fleet.verified = false → exec .boot s = .next (s.bootCheck none)) ∧
    (s.fleet.verified = false → exec (.bootimg 1) s = .next (s.touchBar.bootCheck (some s.touchBar.hbmImage))) ∧
    (∀ image, (s.bootCheck image).barReg 7 0 = BitVec.ofNat 64
      (bit ((Config.imageCheck image).1 % 5 == 0) + (Config.imageCheck image).1 % 5 * 2 ^ 8 + (Config.imageCheck image).2.1.toNat * 2 ^ 16)) ∧
    (∀ v : Dword, exec (.attreq v) s = .next ((s.touchBar.physWrite noKey (bits v.toNat 12 40 * 4096)
      ((Config.attestation s.touchBar.reportWords ++ List.replicate 4096 0).take 4096)).setBar 7 0x48 1)) ∧
    (∀ v : Dword,
      let slot := bits v.toNat 0 7
      let at_ := bits v.toNat 8 44 * 256
      let blob := s.physRead noKey at_ 256
      let t := s.touchBar.reads .scrub noKey at_ 256
      let used : Prop := ∃ e ∈ s.regions, e.2.keyslot = slot
      let erased : Prop := ∀ b ∈ (blob.drop 96).take 72, b = 0
      (used → exec (.keyld v) s = .next (t.setBar 7 0x88 0x200)) ∧
      (¬ used → erased → exec (.keyld v) s = .next ((t.onFleet (fun f => { f with keys := tableErase f.keys slot })).setBar 7 0x88 0)) ∧
      (¬ used → ¬ erased → exec (.keyld v) s = .next (match Config.unwrapKey blob slot with
        | some k => (t.onFleet (fun f => { f with keys := tableInsert f.keys slot k })).setBar 7 0x88 0
        | none => t.setBar 7 0x88 0x100)))

/-! ## Issue, traps and privilege -/

/-- R22, R24, R168, R174: the context whose turn it is, first in its sequencer's order with its cycle come, issues the word at its pc: when
the bytes there frame as a bundle of one word that decodes to an instruction i that passes the encoding checks, the step is exec of
i at the state with pc at the next bundle, followed by what follows a bundle (the hold for its banks, R348, and the next issue
cycle); a word that holds leaves pc at the bundle, and the others of the sequencer take the cycle. A porch slot's step is exec of
its next word, and an event's step is exec of the event. The plan and its turns are the model's (log 1), and so are what a package stopped
by an error still takes (log 30) and which accesses count in the banks (log 44). -/
def Obligations.StepRunsTheInstruction : Prop :=
  ∀ (s : State) (rest : List Turn),
    (∀ (cid : Nat) (others : List Nat) (i : Instr) (s2 s3 : State) (run : Option Mask) (g : Segment) (raw : RawWord),
      let s0 : State := { s with plan := rest, issue := {} }
      s0.stepsLater cid = false → s.plan = .issue cid :: rest → s.fatal = false → (tableFind s.ctxs cid).isSome = true → (s.ctxAt cid).place.resident = true →
      ((s.ctxAt cid).dbgStop = true → (s.ctxAt cid).dbgStep = true) →
      s0.seqOrder (s.ctxAt cid).place.seqKey = cid :: others → s0.due cid = true → s0.yields cid = false →
      let s1 := ({ s0 with focus := cid } : State).settleGang (s.ctxAt cid).place.gangNo
      s1.roundDue cid = false → s1.ctxHeld cid = false → s1.preemptStops cid = false →
      (s1.modCtx (s1.ownerOf cid) (fun c => { c with holdPark := false })).loopArrive cid = (s2, false) →
      s2.kernelArrive cid = (s3, false, run) → s3.segAt cid (s3.ctxAt cid).pc = some g →
      let b := (s3.ctxAt cid).pc
      b % 4 = 0 → b - g.base < g.bytes.length → frameBundle b (g.bytes.drop (b - g.base)) = [.word b raw] →
      decodeParts (s3.stepped (s3.ctxAt cid) cid b raw.parts) = some i → s3.encodingOk i = true → s3.readsBc i = false →
      (s3.ctxAt cid).crosses b (b + raw.len) = false →
      let u := ({ s3 with issue := { bundle := b, next := b + raw.len } } : State).modCtx cid (fun c => { c with pc := b + raw.len })
      let v (x : State) : State := { x with issue := { x.issue with word := b } }
      let done (r : State) : State := (s0.passOver (r.afterBundle cid (s3.ctxAt cid).place) cid).endTurn
      (∀ r, exec i (v u) = .next r →
        (r.issue.status = .ok → run = none → step s = .next (done (r.holdBanks cid (u.bankUses i)))) ∧
        (r.issue.status = .trapped → step s = .next (done r)) ∧
        (r.issue.status = .held → (tableFind r.ctxs cid).isSome = true → (r.ctxAt cid).place.resident = true →
          step s = .next (State.issueOne others
            (r.modCtx cid (fun c => { c with pc := b, heldOn := r.issue.heldOn, heldGid := r.issue.heldGid }))).1.endTurn) ∧
        (∀ m r', r.issue.status = .ok → run = some m → exec i (v (u.countRuns cid m)) = .next r' →
          step s = .next (done (r'.holdBanks cid (u.bankUses i)))))) ∧
    (∀ (q : Nat) (i : Instr) (r : State), s.plan = .porch q :: rest → s.fatal = false → (s.porch q).running = true →
      (s.porch q).nextWord = some i → exec i { s with plan := rest, issue := {}, porchFocus := q } = .next r → step s = .next r.endTurn) ∧
    (∀ (i : Instr) (r : State), s.plan = .event i :: rest → isEvent i = true → (s.fatal = false ∨ fatalAllows i = true) →
      exec i { s with plan := rest, issue := {} } = .next r → step s = .next r.endTurn)

/-- R170, R177: a well-formed word of class C or S whose flag does not let it act has no effect: with none of the context's registers
pending it answers the state as it was. Otherwise it may hold on a register, or trap: only with ILLEG because it is not well formed
(R188), or with STATE on the token of an operation that has stopped (R55). -/
def Obligations.FalseFlagHasNoEffect : Prop :=
  ∀ (s : State) (i : Instr) (p : Parts), encodeParts i = some p → p.cls < 2 → s.gateF p.gate = false →
    (Issues s p.cls [] → s.issue.pre = none → s.encodingOk i = true → (∀ d, s.pendingDest d = false) → exec i s = .next s) ∧
    (∀ t, exec i s = .next t → t = s ∨ Held s t ∨
      (Trapped s t ∧ s.issue.pre = none ∧ (s.encodingOk i = false ∨ ∃ n, s.stoppedToken (.s n) = true)))

/-- R96, R171, R188, R189, R262: a word that is not well formed, that reads a write port or writes a read port, or whose OPND does not fit
its channel's shape, whatever its predicate or flag says, raises ILLEG at its bundle, with one record that names the word, the
bundle and the class, and none of it executes; without a resident context in focus there is no word, and the model faults by name (log 1). -/
def Obligations.MalformedWordsTrap : Prop :=
  ∀ (s : State) (i : Instr) (p : Parts), encodeParts i = some p →
    (((tableFind s.ctxs s.focus).isNone = true ∨ s.me.place.resident = false) → exec i s = .fault .noContext) ∧
    ((tableFind s.ctxs s.focus).isSome = true → s.me.place.resident = true → s.issue.pre = none → s.encodingOk i = false →
      exec i s = .next (s.enterTrap s.focus s.issue.bundle
        [⟨BitVec.ofNat 64 s.issue.word, BitVec.ofNat 64 s.issue.bundle, causeWord rILLEG 0 4 p.cls 0 false false true, 0⟩]))

/-- R178: SYSRET, PGMAP, TINV and BTINV issued outside supervisor mode each raise a STATE trap at issue, with a sequencer-side
record: none of the bundle executes. -/
def Obligations.HandlerOnlyWords : Prop :=
  ∀ (s : State) (g : Gate), s.issue.pre = none → s.me.sup = false →
    let trapped (i : Instr) : Prop := ∃ r : FaultRec, r.isSeq = true ∧ r.reason.toNat = rSTATE ∧
      exec i s = .next (s.enterTrap s.focus s.issue.bundle [r])
    (Acts s 0 g [] → trapped (.sysret g)) ∧
    (s.gateM g = true →
      (∀ sV sD sz zf perm, Issues s 6 (useS [sV, sD]) → Instr.wellFormed (.pgmap g sV sD sz zf perm) = true →
        trapped (.pgmap g sV sD sz zf perm)) ∧
      (∀ kind sA sT, Issues s 6 (useS [sA, sT]) → Instr.wellFormed (.tinv g kind sA sT) = true → trapped (.tinv g kind sA sT)) ∧
      (∀ sK sT nblk all, Issues s 6 (useS [sK, sT]) → Instr.wellFormed (.btinv g sK sT nblk all) = true →
        trapped (.btinv g sK sT nblk all)))

/-- R54, R57, R177, R220: taking a trap or fault. Outside the handler the context saves EPC, the active mask, the first record's reason and the
stack depth, keeps its records, runs the faulting engines (or its mask, for a sequencer-side cause) in supervisor mode at HVEC, and
its registers and memory stay, what it had issued has landed or is waited for; in the handler it is a double fault, and the gang context is
aborted with DBLFLT, a landing's own owner too (log 18). The context is in no REGRP: one that is leaves it (log 47). -/
def Obligations.TrapEntry : Prop :=
  ∀ (s : State) (cid epc : Nat) (recs : List FaultRec),
    let c := s.ctxAt cid
    let t := s.enterTrap cid epc recs
    let d := t.ctxAt cid
    (c.sup = false → (∀ gid p owes live, c.wait ≠ .regrp gid p owes live) → (∀ e ∈ s.ctxs, e.2.regrpWaitsFor cid = false) →
      d.epc = BitVec.ofNat 64 epc ∧ d.emask = c.active ∧ d.ecause = (recs.head?.map FaultRec.reason).getD 0 ∧ d.trapDepth = c.depth ∧
      d.active = (if faultEngines recs = 0 then c.active else faultEngines recs) ∧ d.sup = true ∧ d.pc = c.hvec.toNat ∧
      d.faults = c.faults ++ recs ∧ d.scalars = c.scalars ∧ d.flags = c.flags ∧ d.handles = c.handles ∧ d.rejoins = c.rejoins ∧
      d.ports = c.ports ∧ d.stack = c.stack ∧ d.live = c.live ∧ d.loop = c.loop ∧ d.escr = c.escr ∧ d.hvec = c.hvec ∧
      d.wait = .none ∧ d.pending = [] ∧ d.inflight = [] ∧ (∀ r ∈ d.recvs, r.due = 0) ∧
      (∀ k, k ≠ cid → t.ctxAt k = s.ctxAt k) ∧ c.nextIssue ≤ d.nextIssue ∧ (∀ w ∈ c.inflight, w.seqDue ≤ d.nextIssue) ∧
      (∀ e ∈ s.engines, e.1 / 16 = c.place.gangNo → c.active.getLsbD (e.1 % 16) = true → e.2.landed ≤ d.nextIssue) ∧
      (∀ g e k, (t.eng g e).part k = (s.eng g e).part k) ∧ (∀ g e a, (t.eng g e).byte a = (s.eng g e).byte a) ∧
      (∀ key pa, t.hbmByte key pa = s.hbmByte key pa)) ∧
    (c.sup = true → t = (({ s with issue := { s.issue with status := .trapped, recs := recs } } : State).missFailed cid recs).abortContext
      (s.ownerOf cid) rDBLFLT)

/-- R54, R220: a handler that returns at once restores what the trap saved: the active mask (of live engines), the pc, the mode, and
the stack, and discards the records. -/
def Obligations.TrapThenReturn : Prop :=
  ∀ (s : State) (cid epc : Nat) (recs : List FaultRec),
    let c := s.ctxAt cid
    let d := ((s.enterTrap cid epc recs).sysret cid).ctxAt cid
    s.focus = cid → s.issue.pre = none → c.sup = false → (∀ gid p owes live, c.wait ≠ .regrp gid p owes live) →
    (∀ e ∈ s.ctxs, e.2.regrpWaitsFor cid = false) → c.active &&& c.live ≠ 0 → epc < 2 ^ 64 →
    d.active = c.active &&& c.live ∧ d.pc = epc ∧ d.sup = false ∧ d.stack = c.stack ∧ d.faults = [] ∧ d.wait = .none ∧
      d.scalars = c.scalars ∧ d.flags = c.flags

/-! ## Results and what stays -/

/-- R228: DIVS and REMS truncate toward zero, with the remainder's sign that of a; DIVU and REMU are unsigned; the corner cases; bound
20, and the context's next bundle may issue in the next cycle. -/
def Obligations.Division : Prop :=
  ∀ (s : State) (g : Gate) (sb sa sd : BitVec 5) (lit : Dword),
    let minInt : Dword := 0x8000_0000_0000_0000
    let divs (a b : Dword) : Dword := if b = 0 then 0xFFFF_FFFF_FFFF_FFFF else if a = minInt ∧ b = -1 then minInt else BitVec.ofInt 64 (a.toInt.tdiv b.toInt)
    let rems (a b : Dword) : Dword := if b = 0 then a else if a = minInt ∧ b = -1 then 0 else BitVec.ofInt 64 (a.toInt.tmod b.toInt)
    let divu (a b : Dword) : Dword := if b = 0 then 0xFFFF_FFFF_FFFF_FFFF else BitVec.ofNat 64 (a.toNat / b.toNat)
    let remu (a b : Dword) : Dword := if b = 0 then a else BitVec.ofNat 64 (a.toNat % b.toNat)
    (∀ v : Dword, (s.wS sd v 20).me.nextIssue = s.me.nextIssue) ∧
    (Acts s 1 g (useS [sd, sa, sb]) →
      exec (.divs g sb sa sd) s = .next (s.wS sd (divs (s.rS sa) (s.rS sb)) 20) ∧
      exec (.rems g sb sa sd) s = .next (s.wS sd (rems (s.rS sa) (s.rS sb)) 20) ∧
      exec (.divu g sb sa sd) s = .next (s.wS sd (divu (s.rS sa) (s.rS sb)) 20) ∧
      exec (.remu g sb sa sd) s = .next (s.wS sd (remu (s.rS sa) (s.rS sb)) 20)) ∧
    (Acts s 1 g (useS [sd, sa]) →
      exec (.divsLiteral g sa sd lit) s = .next (s.wS sd (divs (s.rS sa) lit) 20) ∧
      exec (.remsLiteral g sa sd lit) s = .next (s.wS sd (rems (s.rS sa) lit) 20) ∧
      exec (.divuLiteral g sa sd lit) s = .next (s.wS sd (divu (s.rS sa) lit) 20) ∧
      exec (.remuLiteral g sa sd lit) s = .next (s.wS sd (remu (s.rS sa) lit) 20))

/-- R172: a write of s0, f0, p0 or q0 is discarded, and they read zero, true and all ones (R15); everything else that the word does takes
place: a load to s0 is made, with what its translation and its read leave (R399, R401, R435, logs 9 and 11), and a VCMP to q0 raises its
flags and pops its ports. -/
def Obligations.DiscardedWrites : Prop :=
  (∀ (s : State) (v : Dword) (L : Nat), s.wS 0 v L = s ∧ s.wSheld 0 v = s) ∧
  (∀ (s : State) (b : Bool) (L : Nat), s.wF 0 b L = s ∧ ∀ e, s.wP e 0 b L = s) ∧
  (∀ (s : State) (e : Nat) (v : LaneMask) (L : Nat), s.wQ e 0 v L = s) ∧
  (∀ c : Ctx, c.sreg 0 = 0 ∧ c.flag 0 = true) ∧ (∀ x : EngCtx, x.pred 0 = true ∧ x.qreg 0 = BitVec.allOnes 64) ∧
  (∀ (s : State) (e : Nat), s.rF 0 = true ∧ s.rP e 0 = true ∧ s.rQ e 0 = BitVec.allOnes 64) ∧
  (∀ (s : State) (g : Gate) (sb sa : BitVec 5), Acts s 1 g (useS [0, sa, sb]) → exec (.add g sb sa 0) s = .next s) ∧
  (∀ (s : State) (g : Gate) (sA : BitVec 5), s.gateM g = true → Issues s 6 (useS [sA, 0]) →
    s.flatFault s.party .read (s.rS sA).toNat 8 = none →
    exec (.lds g false 3 sA 0) s =
      .next ((s.through .read (s.rS sA) (.s 0)).touch (.context s.focus) s.party .read (s.rS sA).toNat 8)) ∧
  (∀ (s : State) (g : Gate) (f : VFields) (lit : Option Dword), f.vd = 0 → s.encodingOk (.vcmp g f lit) = true →
    Issues s 3 (s.useV (vreads f 2 lit)) → s.portCheck 3 (vreads f 2 lit) [] = .ok →
    exec (.vcmp g f lit) s = .next ((s.each (s.acting g) (fun u e =>
      u.raise e (laneFlags (s.compareLanes f lit e (s.laneMask e f.lq f.ln))))).popAll (vreads f 2 lit)))

/-- R172, R226 to R232: what the scalar words leave unchanged. A word that writes one scalar changes no other scalar, no other register of
its context, no other context, no engine and no memory; CMP and FLOP change only their flag. -/
def Obligations.ScalarWordsFrame : Prop :=
  ∀ (s t : State) (i : Instr), exec i s = .next t →
    (∀ d, scalarDest i = some d → Held s t ∨ Trapped s t ∨ OnlyScalar d.toNat s t ∧ (d = 0 → t = s)) ∧
    (∀ d, flagDest i = some d → Held s t ∨ Trapped s t ∨ OnlyFlag d.toNat s t ∧ (d = 0 → t = s))

/-- R96, R142, R234 to R237, R248, R249: what the V words leave unchanged. They change no scalar, flag, handle, mask or pc, no memory, no
accumulator, shape, slot or scale latch, and nothing of other contexts; a word with a vector result changes no other vector register, no
predicate, and no scratchpad byte but, at a write port, those that it stores at the port's address in the active engines; a word with a
predicate result changes no vector register, no scratchpad byte and no other predicate. -/
def Obligations.VectorWordsFrame : Prop :=
  ∀ (s t : State) (i : Instr), exec i s = .next t →
    (∀ f, vectorFields i = some f → Held s t ∨ Trapped s t ∨ (OnlyVectors s t ∧
      (∀ g e k, (∀ n, n ≠ f.vd.toNat → ((t.eng g e).part k).vreg n = ((s.eng g e).part k).vreg n) ∧
        ((t.eng g e).part k).p = ((s.eng g e).part k).p ∧ (∀ n, ((t.eng g e).part k).qreg n = ((s.eng g e).part k).qreg n)) ∧
      (∀ g, ∀ e < 16, ∀ a, (t.eng g e).byte a ≠ (s.eng g e).byte a → 32 ≤ f.vd.toNat ∧ e ∈ s.actives ∧
        ∃ k, storesAtPort i f (s.laneMask e f.lq f.ln) k = true ∧ s.localAt (s.portAddr (f.vd.toNat - 32) + k) 1 = some (g, a)))) ∧
    (∀ lane d, predicateDest i = some (lane, d) → Held s t ∨ Trapped s t ∨ (OnlyVectors s t ∧
      ∀ g e, (∀ a, (t.eng g e).byte a = (s.eng g e).byte a) ∧
        ∀ k n, ((t.eng g e).part k).vreg n = ((s.eng g e).part k).vreg n ∧
          (lane = false ∨ n ≠ d.toNat → ((t.eng g e).part k).qreg n = ((s.eng g e).part k).qreg n) ∧
          (lane = true ∨ n ≠ d.toNat → ((t.eng g e).part k).pred n = ((s.eng g e).part k).pred n)))

/-- R3, R72, R74, R85, R87, R301, R302: a scalar store changes the bytes that it stores, little-endian, at the physical address to which its
flat address translates, and nothing else: no register, and no other byte as its region reads it; one to the host or a link window goes
out and changes no byte here, and one to a format view changes what the view's write changes (MemoryReadsBack). No control register
changes but the counters of R443. What keys do to a byte is the model's (log 8). -/
def Obligations.ScalarStoresFrame : Prop :=
  ∀ (s t : State) (i : Instr) (g : Gate) (sz : BitVec 2) (va : Dword) (sV : BitVec 5),
    ((∃ sA, i = .sts g sz sA sV ∧ va = s.rS sA) ∨ (∃ sA lit, i = .stsLiteral g sz sA sV lit ∧ va = s.rS sA + lit) ∨
      (∃ f l, (i = .stl g f l ∨ i = .stx g f l) ∧ f.vec = false ∧ f.sz = sz ∧ sV = BitVec.ofNat 5 f.r.toNat ∧ va = s.baseDisp f.sA f.disp l)) →
    exec i s = .next t → Held s t ∨ Trapped s t ∨ t = s ∨
      ((∀ cap off, cap < 6 → off < 2 ^ 26 → t.barReg cap off = s.barReg cap off) ∧ t.ctxs = s.ctxs ∧ t.engines = s.engines ∧ t.ops = s.ops ∧ t.groups = s.groups ∧ t.regions = s.regions ∧
        ∀ pa, (s.cachePage s.party .write va.toNat).flat s.party .write va.toNat = .ok pa →
          let key := s.regionKey s.party.region
          let out := leBytes (2 ^ sz.toNat) (s.rS sV).toNat
          (paKind pa = .hbm → t.outbox = s.outbox ∧
            (∀ k, k < 2 ^ sz.toNat → t.hbmByte key (pa + k) = BitVec.ofNat 8 ((s.rS sV).toNat / 2 ^ (8 * k))) ∧
            (∀ a, a < pa ∨ pa + 2 ^ sz.toNat ≤ a → t.hbmByte key a = s.hbmByte key a)) ∧
          (paKind pa = .host ∨ (∃ w, paKind pa = .link w) →
            t.outbox = s.outbox ++ [.write pa out] ∧ ∀ a, t.hbmByte key a = s.hbmByte key a) ∧
          (paKind pa = .none ∨ (paKind pa = .view ∧ s.windowAt pa = none) → t.outbox = s.outbox ∧ ∀ a, t.hbmByte key a = s.hbmByte key a) ∧
          (∀ w, paKind pa = .view → s.windowAt pa = some w →
            t.outbox = s.outbox ∧ ∀ a, t.hbmByte key a = (s.viewWrite key w pa out).hbmByte key a))

/-- R73, R74, R85, R87, R442: bytes written to HBM under a key slot read back under that slot, and every other byte reads under it as before.
Bytes written to the host or through a link window go out, and no byte here changes. Bytes written to a format view, inside one of its
blocks, are quantised with the rest of the block: the stored block reads back as the encoding of its new elements, the view shows what
that encoding stands for, and no byte outside the stored block and its scale changes. A read under any slot changes no byte that the slot
reads (R71). What keys do to a byte is the model's (log 8). -/
def Obligations.MemoryReadsBack : Prop :=
  ∀ (s : State) (key : Nat) (pa : Nat) (bs : List Byte),
    (∀ v n a, (s.readsHbm v key pa n).hbmByte key a = s.hbmByte key a) ∧
    (∀ a, (s.hbmWrite key pa bs).hbmByte key a = if pa ≤ a ∧ a < pa + bs.length then bs.getD (a - pa) 0 else s.hbmByte key a) ∧
    (paKind pa = .host → s.physWrite key pa bs = { s with outbox := s.outbox ++ [.write pa bs] }) ∧
    (∀ w, paKind pa = .link w → s.physWrite key pa bs = ({ s with outbox := s.outbox ++ [.write pa bs] } : State).count none 2 bs.length ∧
      ∀ a, (s.physWrite key pa bs).hbmByte key a = s.hbmByte key a) ∧
    (∀ w, paKind pa = .view → s.windowAt pa = some w →
      let per := w.elems * w.esize
      let o := pa - w.vbase
      let b := o / per
      let size := blockBytes w.sfmt
      let t := s.physWrite key pa bs
      let new := (List.range per).map (fun i => if o ≤ b * per + i ∧ b * per + i < o + bs.length then bs.getD (b * per + i - o) 0
        else (s.viewBytes key w b).getD i 0)
      let elems := (List.range w.elems).map (fun i =>
        decodeElem w.xfmt (leValue ((List.range w.esize).map (fun j => new.getD (i * w.esize + j) 0))))
      0 < bs.length → 0 < per → o % per + bs.length ≤ per →
      (∀ a, (a < w.sbase + b * size ∨ w.sbase + (b + 1) * size ≤ a) → (w.sfmt = 0xA → a ≠ w.scbase + b) → t.hbmByte key a = s.hbmByte key a) ∧
      (w.sfmt ≠ 0xA → ∀ k < size, t.hbmByte key (w.sbase + b * size + k) =
        (leBytes size (encodeKb ((kbM w.sfmt).getD 2) 0 elems ⟨0, 0⟩).1).getD k 0) ∧
      (w.sfmt = 0xA → (w.scbase + b < w.sbase + b * size ∨ w.sbase + (b + 1) * size ≤ w.scbase + b) →
        (∀ k < size, t.hbmByte key (w.sbase + b * size + k) = (leBytes size (encodeMx 0 elems ⟨0, 0⟩).1).getD k 0) ∧
        t.hbmByte key (w.scbase + b) = BitVec.ofNat 8 (encodeMx 0 elems ⟨0, 0⟩).2.1))

/-- R171, R175 to R177: what the register writes that the results are made of leave unchanged: each changes its one register of the
context in focus, or of one engine of its gang, and what the model keeps of writes inside their bounds. -/
def Obligations.RegisterWritesFrame : Prop :=
  ∀ (s : State) (L : Nat),
    (∀ (n : BitVec 5) v, OnlyScalar n.toNat s (s.wS n v L)) ∧
    (∀ (n : BitVec 3) b, OnlyFlag n.toNat s (s.wF n b L)) ∧
    (∀ (n : BitVec 3) v, OnlyFocus s (s.wH n v) ∧ (∀ m, m ≠ n.toNat → (s.wH n v).me.handle m = s.me.handle m) ∧
      (s.wH n v).me.handle n.toNat = v ∧
      { (s.wH n v).me with handles := s.me.handles, inflight := s.me.inflight, recvs := s.me.recvs } = s.me) ∧
    (∀ (n : BitVec 5) v, OnlyFocus s (s.wSheld n v) ∧ (∀ m, m ≠ n.toNat → (s.wSheld n v).me.sreg m = s.me.sreg m) ∧
      (n ≠ 0 → (s.wSheld n v).me.sreg n.toNat = v ∧ (s.wSheld n v).pendingDest (.s n.toNat) = true)) ∧
    (∀ e < 16, ∀ n v, OnlyVectors s (s.wV e n v L) ∧ ((s.wV e n v L).myEng e).part s.me.place.engCtx = (((s.myEng e).part s.me.place.engCtx).putV n v) ∧
      (∀ g d, (g, d) ≠ (s.me.place.gangNo, e) → d < 16 → (s.wV e n v L).eng g d = s.eng g d)) ∧
    (∀ e < 16, ∀ (n : BitVec 3) b, OnlyVectors s (s.wP e n b L) ∧
      (n ≠ 0 → ((s.wP e n b L).myEng e).part s.me.place.engCtx = (((s.myEng e).part s.me.place.engCtx).putP n.toNat b))) ∧
    (∀ e < 16, ∀ (n : BitVec 3) v, OnlyVectors s (s.wQ e n v L) ∧
      (n ≠ 0 → ((s.wQ e n v L).myEng e).part s.me.place.engCtx = (((s.myEng e).part s.me.place.engCtx).putQ n.toNat v))) ∧
    (∀ e < 16, ∀ f, OnlyVectors s (s.raise e f) ∧ (s.raise e f).ctxs = s.ctxs)

/-! ## Encodings -/

/-- R165, R166, R180 to R187, R206, R234, R279, R301, R328, R329: words of every class and a Kubor word, written out from their
encodings, decode to the instructions that they stand for. -/
def Obligations.DecodingIsRight : Prop :=
  let g : Gate := ⟨0, false⟩
  let fma : VFields := ⟨0, 0, 0, false, false, 0, 0, 0, 7, 5, false, 3, 4, 6⟩
  decodeTableWord 32 0x0000_0020 = some (.nop g) ∧
  decodeTableWord 32 0x0000_5020 = some (.exit g) ∧
  decodeTableWord 32 0x0000_3420 = some (.jwait g 0) ∧
  decodeTableWord 96 0x0000_0020_0510_1000_0080_1C21 = some (.loop g 4 0 ⟨0, 0x0200_5101, 0, 0⟩ none) ∧
  decodeTableWord 32 0x2908_0424 = some (.add g 10 8 8) ∧
  decodeTableWord 96 0x0000_0000_0000_0000_0081_0429 = some (.cxs g ⟨0, 0, false, false, 0, 0, 0, false, 0, 2, 1⟩) ∧
  decodeTableWord 96 0x0000_0000_0000_01C5_3106_10AD = some (.vfma ⟨2, false⟩ fma none) ∧
  decodeTableWord 96 0x0000_0000_0000_0001_3292_0471 = some (.mma ⟨1, false⟩ 2 4 5 3 true) ∧
  decodeTableWord 32 0x0000_0C34 = some (.sclz g) ∧
  decodeTableWord 32 0x0CE3_0438 = some (.lds g false 3 7 3) ∧
  decodeTableWord 32 0x1403_1C3C = some (.xrcv g 5 3) ∧
  decodeTableWord 128 0x3040_00E6_2226_0000_0000_000C_0000_0010 =
    some (.rdc ⟨false, 0, true, 0⟩ ⟨0, 1, 12, 12, 1, 1, 1, 3, 0, 0, 0, 12, 16⟩)

/-- R165, R166, R328, R329: decode and encode agree. The bytes of every well-formed word of a bundle, whatever follows them, read back as
that word with its E bit, its length and every operand; the bits of every well-formed Kubor word decode to it. -/
def Obligations.DecodeOfEncode : Prop :=
  ∀ i : Instr, i.wellFormed = true →
    (∀ (last : Bool) (bytes rest : List Byte), encodeWord last i = some bytes →
      ∃ raw, readWord (bytes ++ rest) = some (raw, rest) ∧ raw.last = last ∧ raw.len = bytes.length ∧ decodeParts raw.parts = some i) ∧
    (∀ w, encodeKubor i = some w → w < 2 ^ 128 ∧ decodeKubor w = some i)

/-! ## Reset and the invariant -/

/-- What reset leaves (R5, R12, R67, R134, R138, R153, R376, R396, R411, R429): no context, operation, group, channel, program or region, 40 gangs
of each die in service with two spares, scale latches at 127 and generators as SRSEED 0 sets them, every slot FREE, and the control
registers at their reset values. That registers, scratchpads and memory read zero, and time starts at zero, is the model's choice
(logs 4, 5 and 6). -/
def Obligations.ResetState : Prop :=
  let s := State.reset
  s.ctxs = [] ∧ s.ops = [] ∧ s.groups = [] ∧ s.channels = [] ∧ s.porches = [] ∧ s.regions = [] ∧ s.launching = none ∧
  (∀ d, (s.die d).retired = [] ∧ (s.die d).spareSlots = [40, 41] ∧ (s.die d).enabledSlots = List.range 40) ∧
  (∀ d < 4, (s.gangsOn d).length = 40) ∧ (∀ n, s.keyOf n = 0) ∧ s.pantry = [] ∧
  (∀ g e, (s.eng g e).gen = seedGen 0 e) ∧ (∀ g e n, (s.slotAt g e n).owner = 0) ∧
  s.barRead 0 0x40 = 0x800 ∧ s.barRead 5 0x10 = 2200 ∧ s.barRead 7 0x90 = 0xFF ∧ s.barRead 0 0x70 = 0 ∧
  (∀ slot pa, s.hbmByte slot pa = 0) ∧ s.time = 0

/-- The invariants of CanonicalIsKept hold at reset (R376). -/
def Obligations.ResetIsCanonical : Prop := Canonical State.reset ∧ BlocksAligned State.reset

/-- R73, R379: every step of the package keeps what is stored in its canonical form: HBM lists strictly rising addresses and no byte that
reads as an unlisted one does, and the keys of its blocks stand in the same form; and the control block of every live region stays aligned
to 256 bytes, in the image of a checkpoint too. -/
def Obligations.CanonicalIsKept : Prop :=
  ∀ s t : State, step s = .next t → (Canonical s → Canonical t) ∧ (BlocksAligned s → BlocksAligned t)
end

