-- ==== Sys2Proof/Laws/Ops.lean ====
section
/-!
SUPPORT. What the shared operations that issue a word can do, said once (R170, R174, R177, R189).
-/
namespace Sys2Proof.Laws

open Machine

/-! ## Verdicts -/

@[simp] theorem verdict_ok_and (v : Verdict) : Verdict.and .ok v = v := rfl
@[simp] theorem verdict_hold_and (v : Verdict) : Verdict.and .hold v = .hold := rfl
@[simp] theorem verdict_trap_and (n : Bool) (l : List FaultRec) (v : Verdict) : Verdict.and (.trap n l) v = .trap n l := rfl
@[simp] theorem ofRecs_nil : Verdict.ofRecs [] = .ok := rfl
@[simp] theorem need_true (s : State) (cls : Nat) : s.need cls true = .ok := rfl
@[simp] theorem need_false (s : State) (cls : Nat) : s.need cls false = .trap false [s.seqRec rSTATE 0 cls 0] := rfl
@[simp] theorem demand_true (s : State) (r : Nat) : s.demand r true = .ok := rfl
@[simp] theorem free_ok (s : State) : Machine.free s = .ok := rfl

theorem verdict_and_ok_iff (a b : Verdict) : Verdict.and a b = .ok ↔ a = .ok ∧ b = .ok := by
  cases a <;> simp [Verdict.and]

theorem need_ok_iff (s : State) (cls : Nat) (b : Bool) : s.need cls b = .ok ↔ b = true := by
  cases b <;> simp [State.need]

/-- A token whose operation has stopped is pending (R55, R177). -/
theorem stopped_is_pending (s : State) (d : Dest) (h : s.stoppedToken d = true) : s.pendingDest d = true := by
  cases d <;> simp_all [State.stoppedToken, State.pendingDest]

/-- With no register of a word pending, the scoreboard lets it go (R177). -/
theorem scoreboard_ok {s : State} {cls : Nat} {uses : List Dest} (h : ∀ d ∈ uses, s.pendingDest d = false) :
    s.scoreboard cls uses = .ok := by
  have hs : uses.any s.stoppedToken = false := by
    simp only [List.any_eq_false]
    intro d hd ht
    have := stopped_is_pending s d ht
    simp [h d hd] at this
  have hp : uses.any s.pendingDest = false := by
    simp only [List.any_eq_false]
    intro d hd
    simp [h d hd]
  simp [State.scoreboard, hs, hp]

/-! ## Issuing one word -/

/-- The encoding checks of a word that names no port and no channel are its well-formedness (R188). -/
theorem encodingOk_plain {i : Instr} (hc : channelUse i = none) (hs : sourceCodes i = []) (hd : destCodes i = []) (s : State) :
    s.encodingOk i = i.wellFormed := by
  simp [State.encodingOk, State.portMisused, State.vectorCodes, State.opndFits, hc, hs, hd]

/-- An ill-formed word fails the encoding checks. -/
theorem encodingOk_false {i : Instr} (h : i.wellFormed = false) (s : State) : s.encodingOk i = false := by simp [State.encodingOk, h]

/-- A context in focus that is resident is there. -/
theorem focus_there {s : State} (h1 : (tableFind s.ctxs s.focus).isSome = true) (h2 : s.me.place.resident = true) :
    ((tableFind s.ctxs s.focus).isNone || !s.me.place.resident) = false := by
  cases hf : tableFind s.ctxs s.focus <;> simp_all

/-- A word of a landing that has engines, or of class C or S, is let run. -/
theorem landing_runs {s : State} {cls : Nat} (h : 2 ≤ cls → s.me.isLanding = true → s.me.live ≠ 0) :
    (s.me.isLanding && s.me.live == 0 && decide (2 ≤ cls)) = false := by
  cases hb : s.me.isLanding <;> simp
  intro hz
  by_contra hc
  exact h (by omega) hb hz

/-- A word that issues and passes its checks has its effect when it acts, and changes nothing otherwise. -/
theorem runWord_next {i : Instr} {w : Needs} {eff : State → State} {s : State} (h : Issues s w.cls (w.uses s))
    (hw : s.encodingOk i = true) (hh : w.holds s = .ok) (hc : w.acts s = true → w.check s = .ok) :
    runWord i w eff s = .next (if w.acts s then eff s else s) := by
  obtain ⟨h1, h2, h3, h4⟩ := h
  unfold runWord
  simp only [focus_there h1 h2, Bool.false_eq_true, if_false]
  cases hp : s.issue.pre with
  | some p => rfl
  | none =>
    simp only [hw, Bool.not_true, Bool.false_eq_true, if_false, State.verdict, scoreboard_ok h3, verdict_ok_and, landing_runs h4, hh]
    cases ha : w.acts s with
    | false => simp
    | true => simp [hc ha]

/-- Nobody runs a word when no resident context is in focus. -/
theorem runWord_noContext {i : Instr} {w : Needs} {eff : State → State} {s : State}
    (h : ((tableFind s.ctxs s.focus).isNone || !s.me.place.resident) = true) : runWord i w eff s = .fault .noContext := by
  simp [runWord, h]

/-- A word that is checked and fails an encoding check raises ILLEG (R171, R189). -/
theorem runWord_illegal {i : Instr} {w : Needs} {eff : State → State} {s : State} (hf : (tableFind s.ctxs s.focus).isSome = true)
    (hr : s.me.place.resident = true) (hp : s.issue.pre = none) (hw : s.encodingOk i = false) :
    runWord i w eff s = .next (s.enterTrap s.focus s.issue.bundle [s.illegRec w.cls]) := by
  simp [runWord, focus_there hf hr, hp, hw]

/-- A word whose check raises a round enters the handler and has no effect (R188). -/
theorem runWord_trap {i : Instr} {w : Needs} {eff : State → State} {s : State} {n : Bool} {l : List FaultRec}
    (h : Issues s w.cls (w.uses s)) (hp : s.issue.pre = none) (hw : s.encodingOk i = true) (hh : w.holds s = .ok) (ha : w.acts s = true)
    (hc : w.check s = .trap n l) :
    runWord i w eff s = .next (s.enterTrap s.focus (if n then s.issue.next else s.issue.bundle) l) := by
  obtain ⟨h1, h2, h3, h4⟩ := h
  unfold runWord
  simp only [focus_there h1 h2, Bool.false_eq_true, if_false, hp, hw, Bool.not_true, State.verdict, scoreboard_ok h3, verdict_ok_and,
    landing_runs h4, hh, ha, if_true, hc]

/-- A word gated by a flag acts when the flag lets it. -/
theorem runFlag_next {i : Instr} {cls : Nat} {g : Gate} {uses : List Dest} {check : State → Verdict} {eff : State → State} {s : State}
    (h : Acts s cls g uses) (hw : s.encodingOk i = true) (hc : check s = .ok) :
    runFlag i cls g uses check eff s = .next (eff s) := by
  unfold runFlag
  rw [runWord_next h.1 hw rfl (fun _ => hc)]
  simp [h.2]

/-- A word whose flag is false has no effect (R170). -/
theorem runFlag_false {i : Instr} {cls : Nat} {g : Gate} {uses : List Dest} {check : State → Verdict} {eff : State → State} {s : State}
    (h : Issues s cls (.f g.pred.toNat :: uses)) (hg : s.gateF g = false) (hw : s.encodingOk i = true) :
    runFlag i cls g uses check eff s = .next s := by
  unfold runFlag
  rw [runWord_next h hw rfl (by simp [hg])]
  simp [hg]

/-- A sequencer-side M word acts when its gate lets it. -/
theorem runSeqM_next {i : Instr} {g : Gate} {uses : List Dest} {check : State → Verdict} {eff : State → State} {s : State}
    (h : Issues s 6 uses) (hg : s.gateM g = true) (hw : s.encodingOk i = true) (hc : check s = .ok) :
    runSeqM i g uses check eff s = .next (eff s) := by
  unfold runSeqM
  rw [runWord_next h hw rfl (fun _ => hc)]
  simp [hg]

/-- An engine word that acts in some engine has its effect. -/
theorem runEng_next {i : Instr} {cls : Nat} {g : Gate} {uses : State → List Dest} {check : State → Verdict} {eff : State → State} {s : State}
    (h : Issues s cls (uses s)) (hg : s.acting g ≠ []) (hw : s.encodingOk i = true) (hc : check s = .ok) :
    runEng i cls g uses check eff s = .next (eff s) := by
  unfold runEng
  rw [runWord_next h hw rfl (fun _ => hc)]
  simp [hg]

/-- An engine word that acts in no engine has no effect (R170). -/
theorem runEng_none {i : Instr} {cls : Nat} {g : Gate} {uses : State → List Dest} {check : State → Verdict} {eff : State → State} {s : State}
    (h : Issues s cls (uses s)) (hg : s.acting g = []) (hw : s.encodingOk i = true) :
    runEng i cls g uses check eff s = .next s := by
  unfold runEng
  rw [runWord_next h hw rfl (by simp [hg])]
  simp [hg]

/-- A word that units can hold, and that acts in some engine, has its effect. -/
theorem runUnit_next {i : Instr} {cls : Nat} {g : Gate} {uses : State → List Dest} {holds check : State → Verdict} {eff : State → State}
    {s : State} (h : Issues s cls (uses s)) (hg : s.acting g ≠ []) (hw : s.encodingOk i = true) (hh : holds s = .ok) (hc : check s = .ok) :
    runUnit i cls g uses holds check eff s = .next (eff s) := by
  unfold runUnit
  rw [runWord_next h hw hh (fun _ => hc)]
  simp [hg]

/-- A word that may pop ports has its effect. -/
theorem runPop_next {i : Instr} {cls : Nat} {uses : State → List Dest} {check : State → Verdict} {eff : State → State} {s : State}
    (h : Issues s cls (uses s)) (hw : s.encodingOk i = true) (hc : check s = .ok) :
    runPop i cls uses check eff s = .next (eff s) := by
  unfold runPop
  rw [runWord_next h hw rfl (fun _ => hc)]
  simp

/-- A trap of a word gated by a flag enters the handler. -/
theorem runFlag_trap {i : Instr} {cls : Nat} {g : Gate} {uses : List Dest} {check : State → Verdict} {eff : State → State} {s : State}
    {n : Bool} {l : List FaultRec} (h : Acts s cls g uses) (hp : s.issue.pre = none) (hw : s.encodingOk i = true) (hc : check s = .trap n l) :
    runFlag i cls g uses check eff s = .next (s.enterTrap s.focus (if n then s.issue.next else s.issue.bundle) l) :=
  runWord_trap h.1 hp hw rfl h.2 hc

/-- A C word acts when its flag lets it. -/
theorem ctl_next {i : Instr} {g : Gate} {uses : List Dest} {check : State → Verdict} {eff : State → State} {s : State}
    (h : Acts s 0 g uses) (hw : s.encodingOk i = true) (hc : check s = .ok) : ctl i g uses check eff s = .next (eff s) :=
  runFlag_next h hw hc

/-- A three-register word writes its function of its operands. -/
theorem threeReg_next {i : Instr} {g : Gate} {sa sb sd : BitVec 5} {lit : Option Dword} {L : Nat} {f : Dword → Dword → Dword} {s : State}
    (h : Acts s 1 g (useS (sd :: if lit.isNone then [sa, sb] else [sa]))) (hw : s.encodingOk i = true) :
    threeReg i g sa sb sd lit L f s = .next (s.wS sd (f (s.rS sa) (s.rSLit sb lit)) L) := by
  unfold threeReg scalarWord
  exact runFlag_next h hw rfl

/-- A V word that writes a vector has the shared effect. -/
theorem vecWord_next {i : Instr} {g : Gate} {f : VFields} {reads : List Nat} {L : Nat} {check : State → Verdict}
    {fn : State → Nat → LaneMask → RStream → List Nat × RStream} {s : State} (hw : s.encodingOk i = true)
    (h : Issues s 3 (s.useV (f.vd.toNat :: reads))) (hp : s.portCheck 3 reads [f.vd.toNat] = .ok) (hc : check s = .ok) :
    vecWord i g f reads L check fn s = .next (s.vecEff g f reads L fn) := by
  unfold vecWord
  exact runPop_next h hw (by simp [hc, hp])

/-- An engine word of class M that passes its checks acts and pops its ports. -/
theorem engineM_next {i : Instr} {reads writes : List Nat} {uses : List Dest} {check : State → Verdict} {eff : State → State} {s : State}
    (hw : s.encodingOk i = true) (h : Issues s 6 (uses ++ s.useV (reads ++ writes))) (hp : s.portCheck 6 reads writes = .ok) (hc : check s = .ok) :
    engineM i reads writes uses check eff s = .next ((eff s).popAll (reads ++ writes)) := by
  unfold engineM
  exact runPop_next h hw (by simp [hc, hp])

/-- Engines none of whose units holds a word. -/
theorem unitHolds_ok {s : State} {cls : Nat} {l : List Nat} {busy : Nat → Busy} (hb : ∀ e ∈ l, busy e = .no) : s.unitHolds cls l busy = .ok := by
  have h1 : l.any (fun e => busy e == .never) = false := by
    simp only [List.any_eq_false]; intro e he; simp [hb e he]
  have h2 : l.any (fun e => busy e == .wait) = false := by
    simp only [List.any_eq_false]; intro e he; simp [hb e he]
  simp [State.unitHolds, h1, h2]

/-- Engines that hold no multiply: none of its resources is busy and every array it waits for is free (R177, R284). -/
theorem multiplyHolds_ok {s : State} {g : Gate} {busy : Nat → Busy} (hb : ∀ e ∈ s.actives, busy e = .no)
    (ha : ∀ e ∈ s.arrayEngines g, s.arrayBusy e = false) : s.multiplyHolds g busy = .ok := by
  have h : (s.arrayEngines g).any s.arrayBusy = false := by
    simp only [List.any_eq_false]; intro e he; simp [ha e he]
  simp [State.multiplyHolds, unitHolds_ok hb, h]

/-- No engine records a fault. -/
theorem engineRecs_ok {l : List Nat} {f : Nat → Option FaultRec} (h : ∀ e ∈ l, f e = none) : State.engineRecs l f = .ok := by
  have : l.filterMap f = [] := by simp only [List.filterMap_eq_nil_iff]; exact h
  simp [State.engineRecs, this]

/-- Two reasons to hold that are both absent. -/
theorem busy_or_no {a b : Busy} (ha : a = .no) (hb : b = .no) : a.or b = .no := by subst ha; subst hb; rfl

/-- A fold of absent reasons to hold is absent. -/
theorem busy_fold_no {l : List Nat} {f : Nat → Busy} {b : Busy} (hb : b = .no) (h : ∀ k ∈ l, f k = .no) :
    l.foldl (fun x k => x.or (f k)) b = .no := by
  induction l generalizing b with
  | nil => simpa using hb
  | cons k t ih =>
    simp only [List.foldl_cons]
    exact ih (busy_or_no hb (h k (by simp))) (fun j hj => h j (by simp [hj]))

/-- A Kubor word that issues, of a program with room for its data, takes its effect on the stamped state, holds, or stops its program. -/
theorem runKubor_next {i : Instr} {k : KHead} {body : State → Nat → KStep} {s : State} (h : KuborIssues s k) (hw : i.wellFormed = true)
    (hd : (kDataOf i).isSome = true → (s.porch s.porchFocus).ops.length < 16) :
    runKubor i k body s = .next (match body (stamped s k) s.porchFocus with
      | .hold => s
      | .stop code => s.stopPorch s.porchFocus code
      | .go t => cameTo s t) := by
  obtain ⟨hr, ht⟩ := h
  have hts : (k.ts && !s.timed) = false ∧ (k.ts && decide (s.time < ((s.porch s.porchFocus).reg k.tsr).toNat)) = false := by
    cases hk : k.ts with
    | false => simp
    | true =>
      obtain ⟨h1, h2⟩ := ht hk
      simp [h1, Nat.not_lt.mpr h2]
  have hfull : ((kDataOf i).isSome && decide (16 ≤ (s.porch s.porchFocus).ops.length)) = false := by
    cases hk : (kDataOf i).isSome with
    | false => rfl
    | true => simp [Nat.not_le.mpr (hd hk)]
  simp only [runKubor, State.kuborTurn, hr, hw, Bool.not_true, Bool.false_eq_true, if_false, hts.1, hts.2, hfull, if_true]
  simp only [stamped]
  cases body (s.modPorch s.porchFocus (fun p => p.stampLate k)) s.porchFocus <;> rfl

end Sys2Proof.Laws
end

