-- ==== Sys2Proof/Laws/PerInstr.lean ====
section
/-!
SUPPORT. For every instruction: the parts that its encoding gives stay inside their fields and decode to it, and so do the 128 bits of
a Kubor word (R165, R166, R180 to R187, R328 to R336).
-/
namespace Sys2Proof.Laws.RoundTrip

open Machine

/-- The parts of a word, and the bits of a Kubor word, decode to the instruction. -/
def Statement (i : Instr) : Prop :=
  (∀ p, encodeParts i = some p → p.cls < 8 ∧ p.op < 64 ∧ p.f < 2 ^ (if p.ext then 80 else 16) ∧ decodeParts p = some i) ∧
  (∀ w, encodeKubor i = some w → w < 2 ^ 128 ∧ decodeKubor w = some i)

/-! ## Fields packed and cut off again -/

/-- Cutting off the fields that were packed gives each field's value inside its width. -/
theorem unpack_pack : ∀ (l : List (Nat × Nat)), unpackFields (l.map Prod.fst) (packFields l) = l.map (fun e => e.2 % 2 ^ e.1) ++ [0]
  | [] => rfl
  | (w, v) :: t => by
    have h : v % 2 ^ w < 2 ^ w := Nat.mod_lt _ (by positivity)
    simp only [List.map_cons, packFields, unpackFields, List.cons_append]
    rw [Nat.add_mul_mod_self_left, Nat.mod_mod, Nat.add_mul_div_left _ _ (by positivity), Nat.div_eq_of_lt h, Nat.zero_add, unpack_pack t]
/-- Packed fields stay inside the sum of their widths. -/
theorem pack_lt : ∀ (l : List (Nat × Nat)), packFields l < 2 ^ (l.map Prod.fst).sum
  | [] => by simp [packFields]
  | (w, v) :: t => by
    have h : v % 2 ^ w < 2 ^ w := Nat.mod_lt _ (by positivity)
    have := pack_lt t
    simp only [packFields, List.map_cons, List.sum_cons, pow_add]
    calc v % 2 ^ w + 2 ^ w * packFields t < 2 ^ w + 2 ^ w * packFields t := by omega
      _ = 2 ^ w * (packFields t + 1) := by ring
      _ ≤ _ := Nat.mul_le_mul_left _ this
/-- A word from what its encoding and its decoding are. -/
theorem packed {i : Instr} {cls op : Nat} {ext : Bool} {lit : Option Dword} {g : Gate} {f : Nat}
    (h : encodeParts i = some ⟨cls, op, ext, lit, g, f⟩) (hk : encodeKubor i = none) (hc : cls < 8) (ho : op < 64)
    (hf : f < 2 ^ (if ext then 80 else 16)) (hd : decodeParts ⟨cls, op, ext, lit, g, f⟩ = some i) : Statement i := by
  refine ⟨fun q hq => ?_, fun w hw => ?_⟩
  · rw [h] at hq; injection hq with hq; subst hq; exact ⟨hc, ho, hf, hd⟩
  · rw [hk] at hw; cases hw
/-- Packed fields stay inside any width that holds their widths. -/
theorem pack_le {ws : List Nat} {l : List (Nat × Nat)} {n : Nat} (hw : l.map Prod.fst = ws) (h : ws.sum ≤ n) : packFields l < 2 ^ n :=
  lt_of_lt_of_le (pack_lt l) (Nat.pow_le_pow_right (by decide) (hw ▸ h))
/-- A word whose layout is a list of fields. -/
theorem fields {i : Instr} {cls op : Nat} {ext : Bool} {lit : Option Dword} {g : Gate} {ws : List Nat} {l : List (Nat × Nat)}
    (h : encodeParts i = some ⟨cls, op, ext, lit, g, packFields l⟩) (hk : encodeKubor i = none) (hc : cls < 8) (ho : op < 64)
    (hs : ws.sum ≤ (if ext then 80 else 16)) (F : List Nat → Option Instr)
    (hd : ∀ f, decodeParts ⟨cls, op, ext, lit, g, f⟩ = F (unpackFields ws f)) (hw : l.map Prod.fst = ws)
    (hF : F (l.map (fun e => e.2 % 2 ^ e.1) ++ [0]) = some i) : Statement i :=
  packed h hk hc ho (pack_le hw hs) (by rw [hd, ← hw, unpack_pack, hF])
/-- A field of one bit read back. -/
@[simp] theorem bit_mod (b : Bool) : (b.toNat % 2 == 1) = b := by cases b <;> rfl
/-- A field of w bits read back. -/
theorem value {w m : Nat} (x : BitVec w) (h : 2 ^ w = m) : BitVec.ofNat w (x.toNat % m) = x := by subst h; simp
@[simp] theorem value2 (x : BitVec 2) : BitVec.ofNat 2 (x.toNat % 4) = x := value x rfl
@[simp] theorem value3 (x : BitVec 3) : BitVec.ofNat 3 (x.toNat % 8) = x := value x rfl
@[simp] theorem value4 (x : BitVec 4) : BitVec.ofNat 4 (x.toNat % 16) = x := value x rfl
@[simp] theorem value5 (x : BitVec 5) : BitVec.ofNat 5 (x.toNat % 32) = x := value x rfl
@[simp] theorem value6 (x : BitVec 6) : BitVec.ofNat 6 (x.toNat % 64) = x := value x rfl
@[simp] theorem value7 (x : BitVec 7) : BitVec.ofNat 7 (x.toNat % 128) = x := value x rfl
@[simp] theorem value8 (x : BitVec 8) : BitVec.ofNat 8 (x.toNat % 256) = x := value x rfl
@[simp] theorem value9 (x : BitVec 9) : BitVec.ofNat 9 (x.toNat % 512) = x := value x rfl
@[simp] theorem value10 (x : BitVec 10) : BitVec.ofNat 10 (x.toNat % 1024) = x := value x rfl
@[simp] theorem value11 (x : BitVec 11) : BitVec.ofNat 11 (x.toNat % 2048) = x := value x rfl
@[simp] theorem value12 (x : BitVec 12) : BitVec.ofNat 12 (x.toNat % 4096) = x := value x rfl
@[simp] theorem value16 (x : BitVec 16) : BitVec.ofNat 16 (x.toNat % 65536) = x := value x rfl
@[simp] theorem value26 (x : BitVec 26) : BitVec.ofNat 26 (x.toNat % 67108864) = x := value x rfl
@[simp] theorem value32 (x : BitVec 32) : BitVec.ofNat 32 (x.toNat % 4294967296) = x := value x rfl
@[simp] theorem value64 (x : BitVec 64) : BitVec.ofNat 64 (x.toNat % 18446744073709551616) = x := value x rfl
/-- The same with the widths given. -/
theorem unpack_eq {ws : List Nat} {l : List (Nat × Nat)} (hw : l.map Prod.fst = ws) :
    unpackFields ws (packFields l) = l.map (fun e => e.2 % 2 ^ e.1) ++ [0] := hw ▸ unpack_pack l
theorem QFields_lt {d : QFields} : d.toBits < 2 ^ (if true then 80 else 16) := pack_le (ws := [6, 6, 3, 1, 6, 6, 4, 1, 1, 3, 3]) rfl (by decide)
theorem QFields_bits {d : QFields} : QFields.ofBits d.toBits = some d := by
  unfold QFields.ofBits QFields.toBits
  rw [unpack_eq (ws := [6, 6, 3, 1, 6, 6, 4, 1, 1, 3, 3]) (l := [(6, d.ka.toNat), (6, d.kb.toNat), (3, d.lq.toNat), (1, d.ln.toNat), (6, d.pa.toNat), (6, d.pb.toNat), (4, d.fmt.toNat), (1, d.desc.toNat), (1, d.uns.toNat), (3, d.j.toNat), (3, d.k.toNat)]) rfl]
  simp
theorem VFields_lt {d : VFields} : d.toBits < 2 ^ (if true then 80 else 16) := pack_le (ws := [6, 6, 3, 1, 6, 6, 3, 4, 4, 1, 1, 4, 3, 8]) rfl (by decide)
theorem VFields_bits {d : VFields} : VFields.ofBits d.toBits = some d := by
  unfold VFields.ofBits VFields.toBits
  rw [unpack_eq (ws := [6, 6, 3, 1, 6, 6, 3, 4, 4, 1, 1, 4, 3, 8]) (l := [(6, d.vd.toNat), (6, d.va.toNat), (3, d.lq.toNat), (1, d.ln.toNat), (6, d.vb.toNat), (6, d.vc.toNat), (3, d.rm.toNat), (4, d.fmt.toNat), (4, d.fmt2.toNat), (1, d.sat.toNat), (1, d.z.toNat), (4, d.sub.toNat), (3, d.qc.toNat), (8, d.imm.toNat)]) rfl]
  simp
theorem StrongFields_lt {d : StrongFields} : d.toBits < 2 ^ (if true then 80 else 16) := pack_le (ws := [6, 5, 1, 1, 3, 2, 1, 32, 3, 1, 5]) rfl (by decide)
theorem StrongFields_bits {d : StrongFields} : StrongFields.ofBits d.toBits = some d := by
  unfold StrongFields.ofBits StrongFields.toBits
  rw [unpack_eq (ws := [6, 5, 1, 1, 3, 2, 1, 32, 3, 1, 5]) (l := [(6, d.r.toNat), (5, d.sA.toNat), (1, d.vec.toNat), (1, d.spc.toNat), (3, d.scope.toNat), (2, d.sz.toNat), (1, d.sgn.toNat), (32, d.disp.toNat), (3, d.lq.toNat), (1, d.ln.toNat), (5, d.sE.toNat)]) rfl]
  simp
theorem AtomFields_lt {d : AtomFields} : d.toBits < 2 ^ (if true then 80 else 16) := pack_le (ws := [5, 5, 5, 1, 3, 4, 1, 5, 32]) rfl (by decide)
theorem AtomFields_bits {d : AtomFields} : AtomFields.ofBits d.toBits = some d := by
  unfold AtomFields.ofBits AtomFields.toBits
  rw [unpack_eq (ws := [5, 5, 5, 1, 3, 4, 1, 5, 32]) (l := [(5, d.sD.toNat), (5, d.sA.toNat), (5, d.sV.toNat), (1, 0), (3, d.scope.toNat), (4, d.op.toNat), (1, d.sz.toNat), (5, d.sC.toNat), (32, d.disp.toNat)]) rfl]
  simp
theorem MemFields_lt {d : MemFields} : d.toBits < 2 ^ (if true then 80 else 16) := pack_le (ws := [6, 6, 1, 3, 5, 5, 3, 1, 1, 4, 2, 1, 2, 1, 32]) rfl (by decide)
theorem MemFields_bits {d : MemFields} : MemFields.ofBits d.toBits = some d := by
  unfold MemFields.ofBits MemFields.toBits
  rw [unpack_eq (ws := [6, 6, 1, 3, 5, 5, 3, 1, 1, 4, 2, 1, 2, 1, 32]) (l := [(6, d.vR.toNat), (6, d.vI.toNat), (1, d.spc.toNat), (3, d.scope.toNat), (5, d.sA.toNat), (5, d.sE.toNat), (3, d.lq.toNat), (1, d.ln.toNat), (1, d.z.toNat), (4, d.op.toNat), (2, d.sz.toNat), (1, d.sgn.toNat), (2, d.sh.toNat), (1, d.nr.toNat), (32, d.disp.toNat)]) rfl]
  simp
theorem XFields_lt {d : XFields} : d.toBits < 2 ^ (if true then 80 else 16) := pack_le (ws := [6, 6, 3, 1, 4, 4, 6]) rfl (by decide)
theorem XFields_bits {d : XFields} : XFields.ofBits d.toBits = some d := by
  unfold XFields.ofBits XFields.toBits
  rw [unpack_eq (ws := [6, 6, 3, 1, 4, 4, 6]) (l := [(6, d.vd.toNat), (6, d.va.toNat), (3, d.lq.toNat), (1, d.ln.toNat), (4, d.pat.toNat), (4, d.m.toNat), (6, d.vb.toNat)]) rfl]
  simp
theorem KData_bits {d : KData} : KData.ofBits d.toBits = some d := by
  unfold KData.ofBits KData.toBits
  rw [unpack_eq (ws := [32, 32, 6, 3, 4, 4, 4, 4, 4, 2, 4, 4, 8, 4]) (l := [(32, d.n.toNat), (32, d.stride.toNat), (6, 0), (3, d.rm.toNat), (4, d.xb.toNat), (4, d.bb.toNat), (4, d.xa.toNat), (4, d.ba.toNat), (4, d.pf.toNat), (2, d.out.toNat), (4, d.fout.toNat), (4, d.fin.toNat), (8, d.tag.toNat), (4, d.pe.toNat)]) rfl]
  simp
/-! ## Bytes of a word -/

/-- What takeLe reads of bytes that leBytes wrote. -/
theorem takeLe_back : ∀ (n v : Nat) (r : List Byte), takeLe n (leBytes n v ++ r) = some (v % 256 ^ n, r)
  | 0, v, r => by simp [takeLe, leBytes, Nat.mod_one]
  | n + 1, v, r => by
    simp only [leBytes, List.cons_append, takeLe, takeLe_back n]
    simp [pow_succ']
    rw [Nat.mod_mul]
/-- leBytes writes n bytes. -/
theorem leBytes_length (n v : Nat) : (leBytes n v).length = n := by
  induction n generalizing v with
  | zero => rfl
  | succ n ih => simp [leBytes, ih]
/-- A word's bytes, whatever follows them, read back as its parts, its E bit and its length. -/
theorem readWord_back (last : Bool) (p : Parts) (rest : List Byte) (hc : p.cls < 8) (ho : p.op < 64)
    (hf : p.f < 2 ^ (if p.ext then 80 else 16)) :
    ∃ raw, readWord (wordBytes last p ++ rest) = some (raw, rest) ∧ raw.last = last ∧ raw.len = (wordBytes last p).length ∧ raw.parts = p := by
  obtain ⟨cls, op, ext, lit, ⟨pred, neg⟩, f⟩ := p
  simp only at hc ho hf
  have hb : ∀ len : Nat, packFields [(2, len), (3, cls), (1, last.toNat), (3, pred.toNat), (1, neg.toNat), (6, op), (16, f)] < 2 ^ 32 := fun len =>
    pack_le (ws := [2, 3, 1, 3, 1, 6, 16]) rfl (by decide)
  unfold wordBytes readWord
  simp only [List.append_assoc, takeLe_back]
  rw [Nat.mod_eq_of_lt (by norm_num; exact hb _), unpack_eq (ws := [2, 3, 1, 3, 1, 6, 16]) rfl]
  have hcl : cls % 2 ^ 3 = cls := Nat.mod_eq_of_lt hc
  have hop : op % 2 ^ 6 = op := Nat.mod_eq_of_lt ho
  cases ext <;> cases lit with
  | none =>
    cases last <;> cases neg <;> simp_all [takeDword, wordLength, leBytes_length, takeLe_back] <;> try omega
  | some l =>
    have hl := l.isLt
    cases last <;> cases neg <;> simp_all [takeDword, wordLength, leBytes_length, takeLe_back, Nat.mod_eq_of_lt] <;> try omega
/-! ## Words of a bundle -/

theorem nop (g) : Statement (.nop g) :=
  fields rfl rfl (by decide) (by decide) (by decide) (fun u => match u with | [0] => some (.nop g) | _ => none)
    (fun _ => rfl) rfl (by simp)
theorem nopw (g n) : Statement (.nopw g n) :=
  fields rfl rfl (by decide) (by decide) (by decide) (fun u => match u with | [n, 0] => some (.nopw g (.ofNat 16 n)) | _ => none)
    (fun _ => rfl) rfl (by simp)
theorem br (g off) : Statement (.br g off) :=
  fields rfl rfl (by decide) (by decide) (by decide) (fun u => match u with | [off, 0] => some (.br g (.ofNat 16 off)) | _ => none)
    (fun _ => rfl) rfl (by simp)
theorem brLong (g l) : Statement (.brLong g l) :=
  fields rfl rfl (by decide) (by decide) (by decide) (fun u => match u with | [0] => some (.brLong g l) | _ => none)
    (fun _ => rfl) rfl (by simp)
theorem brf (g p cond off) : Statement (.brf g p cond off) :=
  fields rfl rfl (by decide) (by decide) (by decide) (fun u => match u with | [off, cond, p, 0] => some (.brf g (.ofNat 3 p) (.ofNat 2 cond) (.ofNat 11 off)) | _ => none)
    (fun _ => rfl) rfl (by simp)
theorem brfLong (g p cond l) : Statement (.brfLong g p cond l) :=
  fields rfl rfl (by decide) (by decide) (by decide) (fun u => match u with | [0, cond, p, 0] => some (.brfLong g (.ofNat 3 p) (.ofNat 2 cond) l) | _ => none)
    (fun _ => rfl) rfl (by simp)
theorem jmpi (g sh sI sN) : Statement (.jmpi g sh sI sN) :=
  fields rfl rfl (by decide) (by decide) (by decide) (fun u => match u with | [sN, sI, sh, 0] => some (.jmpi g (.ofNat 3 sh) (.ofNat 5 sI) (.ofNat 5 sN)) | _ => none)
    (fun _ => rfl) rfl (by simp)
theorem call (g off) : Statement (.call g off) :=
  fields rfl rfl (by decide) (by decide) (by decide) (fun u => match u with | [off, 0] => some (.call g (.ofNat 16 off)) | _ => none)
    (fun _ => rfl) rfl (by simp)
theorem callLong (g l) : Statement (.callLong g l) :=
  fields rfl rfl (by decide) (by decide) (by decide) (fun u => match u with | [0] => some (.callLong g l) | _ => none)
    (fun _ => rfl) rfl (by simp)
theorem ret (g sN) : Statement (.ret g sN) :=
  fields rfl rfl (by decide) (by decide) (by decide) (fun u => match u with | [sN, 0] => some (.ret g (.ofNat 5 sN)) | _ => none)
    (fun _ => rfl) rfl (by simp)
theorem loop (g imm sC x l) : Statement (.loop g imm sC x l) :=
  fields rfl rfl (by decide) (by decide) (by decide) (fun u => match u with | [sC, imm, X_len, X_fx, X_incA, X_incB, 0] => some (.loop g (.ofNat 11 imm) (.ofNat 5 sC) ⟨.ofNat 26 X_incB, .ofNat 26 X_incA, .ofNat 3 X_fx, .ofNat 9 X_len⟩ l) | _ => none)
    (fun _ => rfl) rfl (by simp)
theorem loopx (g imm sC x l) : Statement (.loopx g imm sC x l) :=
  fields rfl rfl (by decide) (by decide) (by decide) (fun u => match u with | [sC, imm, X_len, X_fx, X_incA, X_incB, 0] => some (.loopx g (.ofNat 11 imm) (.ofNat 5 sC) ⟨.ofNat 26 X_incB, .ofNat 26 X_incA, .ofNat 3 X_fx, .ofNat 9 X_len⟩ l) | _ => none)
    (fun _ => rfl) rfl (by simp)
theorem brp (g p pneg off) : Statement (.brp g p pneg off) :=
  fields rfl rfl (by decide) (by decide) (by decide) (fun u => match u with | [off, pneg, p, 0] => some (.brp g (.ofNat 3 p) (pneg == 1) (.ofNat 12 off)) | _ => none)
    (fun _ => rfl) rfl (by simp)
theorem brpLong (g p pneg l) : Statement (.brpLong g p pneg l) :=
  fields rfl rfl (by decide) (by decide) (by decide) (fun u => match u with | [0, pneg, p, 0] => some (.brpLong g (.ofNat 3 p) (pneg == 1) l) | _ => none)
    (fun _ => rfl) rfl (by simp)
theorem join (g) : Statement (.join g) :=
  fields rfl rfl (by decide) (by decide) (by decide) (fun u => match u with | [0] => some (.join g) | _ => none)
    (fun _ => rfl) rfl (by simp)
theorem jinit (g sM j) : Statement (.jinit g sM j) :=
  fields rfl rfl (by decide) (by decide) (by decide) (fun u => match u with | [j, sM, 0] => some (.jinit g (.ofNat 5 sM) (.ofNat 2 j)) | _ => none)
    (fun _ => rfl) rfl (by simp)
theorem jinitLiteral (g j l) : Statement (.jinitLiteral g j l) :=
  fields rfl rfl (by decide) (by decide) (by decide) (fun u => match u with | [j, 0, 0] => some (.jinitLiteral g (.ofNat 2 j) l) | _ => none)
    (fun _ => rfl) rfl (by simp)
theorem jarv (g j) : Statement (.jarv g j) :=
  fields rfl rfl (by decide) (by decide) (by decide) (fun u => match u with | [j, 0] => some (.jarv g (.ofNat 2 j)) | _ => none)
    (fun _ => rfl) rfl (by simp)
theorem jwait (g j) : Statement (.jwait g j) :=
  fields rfl rfl (by decide) (by decide) (by decide) (fun u => match u with | [j, 0] => some (.jwait g (.ofNat 2 j)) | _ => none)
    (fun _ => rfl) rfl (by simp)
theorem split (g p pneg off) : Statement (.split g p pneg off) :=
  fields rfl rfl (by decide) (by decide) (by decide) (fun u => match u with | [off, pneg, p, 0] => some (.split g (.ofNat 3 p) (pneg == 1) (.ofNat 12 off)) | _ => none)
    (fun _ => rfl) rfl (by simp)
theorem splitLong (g p pneg l) : Statement (.splitLong g p pneg l) :=
  fields rfl rfl (by decide) (by decide) (by decide) (fun u => match u with | [0, pneg, p, 0] => some (.splitLong g (.ofNat 3 p) (pneg == 1) l) | _ => none)
    (fun _ => rfl) rfl (by simp)
theorem merge (g) : Statement (.merge g) :=
  fields rfl rfl (by decide) (by decide) (by decide) (fun u => match u with | [0] => some (.merge g) | _ => none)
    (fun _ => rfl) rfl (by simp)
theorem regrp (g h) : Statement (.regrp g h) :=
  fields rfl rfl (by decide) (by decide) (by decide) (fun u => match u with | [h, 0] => some (.regrp g (.ofNat 3 h)) | _ => none)
    (fun _ => rfl) rfl (by simp)
theorem pass (g) : Statement (.pass g) :=
  fields rfl rfl (by decide) (by decide) (by decide) (fun u => match u with | [0] => some (.pass g) | _ => none)
    (fun _ => rfl) rfl (by simp)
theorem park (g sT) : Statement (.park g sT) :=
  fields rfl rfl (by decide) (by decide) (by decide) (fun u => match u with | [sT, 0] => some (.park g (.ofNat 5 sT)) | _ => none)
    (fun _ => rfl) rfl (by simp)
theorem spawn (g sA) : Statement (.spawn g sA) :=
  fields rfl rfl (by decide) (by decide) (by decide) (fun u => match u with | [sA, 0] => some (.spawn g (.ofNat 5 sA)) | _ => none)
    (fun _ => rfl) rfl (by simp)
theorem exit (g) : Statement (.exit g) :=
  fields rfl rfl (by decide) (by decide) (by decide) (fun u => match u with | [0] => some (.exit g) | _ => none)
    (fun _ => rfl) rfl (by simp)
theorem done (g) : Statement (.done g) :=
  fields rfl rfl (by decide) (by decide) (by decide) (fun u => match u with | [0] => some (.done g) | _ => none)
    (fun _ => rfl) rfl (by simp)
theorem idemb (g) : Statement (.idemb g) :=
  fields rfl rfl (by decide) (by decide) (by decide) (fun u => match u with | [0] => some (.idemb g) | _ => none)
    (fun _ => rfl) rfl (by simp)
theorem ideme (g) : Statement (.ideme g) :=
  fields rfl rfl (by decide) (by decide) (by decide) (fun u => match u with | [0] => some (.ideme g) | _ => none)
    (fun _ => rfl) rfl (by simp)
theorem gnew (g sA sN hD) : Statement (.gnew g sA sN hD) :=
  fields rfl rfl (by decide) (by decide) (by decide) (fun u => match u with | [hD, sN, sA, 0] => some (.gnew g (.ofNat 5 sA) (.ofNat 5 sN) (.ofNat 3 hD)) | _ => none)
    (fun _ => rfl) rfl (by simp)
theorem gjoin (g sN hD) : Statement (.gjoin g sN hD) :=
  fields rfl rfl (by decide) (by decide) (by decide) (fun u => match u with | [hD, sN, 0] => some (.gjoin g (.ofNat 5 sN) (.ofNat 3 hD)) | _ => none)
    (fun _ => rfl) rfl (by simp)
theorem gleave (g cnt h) : Statement (.gleave g cnt h) :=
  fields rfl rfl (by decide) (by decide) (by decide) (fun u => match u with | [h, cnt, 0] => some (.gleave g (cnt == 1) (.ofNat 3 h)) | _ => none)
    (fun _ => rfl) rfl (by simp)
theorem garv (g cnt h) : Statement (.garv g cnt h) :=
  fields rfl rfl (by decide) (by decide) (by decide) (fun u => match u with | [h, cnt, 0] => some (.garv g (cnt == 1) (.ofNat 3 h)) | _ => none)
    (fun _ => rfl) rfl (by simp)
theorem gwait (g h) : Statement (.gwait g h) :=
  fields rfl rfl (by decide) (by decide) (by decide) (fun u => match u with | [h, 0] => some (.gwait g (.ofNat 3 h)) | _ => none)
    (fun _ => rfl) rfl (by simp)
theorem gbar (g cnt h) : Statement (.gbar g cnt h) :=
  fields rfl rfl (by decide) (by decide) (by decide) (fun u => match u with | [h, cnt, 0] => some (.gbar g (cnt == 1) (.ofNat 3 h)) | _ => none)
    (fun _ => rfl) rfl (by simp)
theorem gvote (g cnt fs h sD) : Statement (.gvote g cnt fs h sD) :=
  fields rfl rfl (by decide) (by decide) (by decide) (fun u => match u with | [sD, h, fs, cnt, 0] => some (.gvote g (cnt == 1) (.ofNat 3 fs) (.ofNat 3 h) (.ofNat 5 sD)) | _ => none)
    (fun _ => rfl) rfl (by simp)
theorem grdc (g cnt h sC sD op sS) : Statement (.grdc g cnt h sC sD op sS) :=
  fields rfl rfl (by decide) (by decide) (by decide) (fun u => match u with | [sD, sC, h, cnt, 0, sS, op, 0] => some (.grdc g (cnt == 1) (.ofNat 3 h) (.ofNat 5 sC) (.ofNat 5 sD) (.ofNat 4 op) (.ofNat 5 sS)) | _ => none)
    (fun _ => rfl) rfl (by simp)
theorem gwin (g h) : Statement (.gwin g h) :=
  fields rfl rfl (by decide) (by decide) (by decide) (fun u => match u with | [h, 0] => some (.gwin g (.ofNat 3 h)) | _ => none)
    (fun _ => rfl) rfl (by simp)
theorem gqry (g which h sD) : Statement (.gqry g which h sD) :=
  fields rfl rfl (by decide) (by decide) (by decide) (fun u => match u with | [sD, h, which, 0] => some (.gqry g (.ofNat 3 which) (.ofNat 3 h) (.ofNat 5 sD)) | _ => none)
    (fun _ => rfl) rfl (by simp)
theorem trap (g code) : Statement (.trap g code) :=
  fields rfl rfl (by decide) (by decide) (by decide) (fun u => match u with | [code, 0] => some (.trap g (.ofNat 16 code)) | _ => none)
    (fun _ => rfl) rfl (by simp)
theorem trapLiteral (g l) : Statement (.trapLiteral g l) :=
  fields rfl rfl (by decide) (by decide) (by decide) (fun u => match u with | [0] => some (.trapLiteral g l) | _ => none)
    (fun _ => rfl) rfl (by simp)
theorem sysret (g) : Statement (.sysret g) :=
  fields rfl rfl (by decide) (by decide) (by decide) (fun u => match u with | [0] => some (.sysret g) | _ => none)
    (fun _ => rfl) rfl (by simp)
theorem brk (g code) : Statement (.brk g code) :=
  fields rfl rfl (by decide) (by decide) (by decide) (fun u => match u with | [code, 0] => some (.brk g (.ofNat 16 code)) | _ => none)
    (fun _ => rfl) rfl (by simp)
theorem csrd (g cr sD) : Statement (.csrd g cr sD) :=
  fields rfl rfl (by decide) (by decide) (by decide) (fun u => match u with | [sD, cr, 0] => some (.csrd g (.ofNat 11 cr) (.ofNat 5 sD)) | _ => none)
    (fun _ => rfl) rfl (by simp)
theorem cswr (g cr sS) : Statement (.cswr g cr sS) :=
  fields rfl rfl (by decide) (by decide) (by decide) (fun u => match u with | [sS, cr, 0] => some (.cswr g (.ofNat 11 cr) (.ofNat 5 sS)) | _ => none)
    (fun _ => rfl) rfl (by simp)
theorem cswrLiteral (g cr l) : Statement (.cswrLiteral g cr l) :=
  fields rfl rfl (by decide) (by decide) (by decide) (fun u => match u with | [0, cr, 0] => some (.cswrLiteral g (.ofNat 11 cr) l) | _ => none)
    (fun _ => rfl) rfl (by simp)
theorem brdl (g off sM) : Statement (.brdl g off sM) :=
  fields rfl rfl (by decide) (by decide) (by decide) (fun u => match u with | [sM, off, 0] => some (.brdl g (.ofNat 11 off) (.ofNat 5 sM)) | _ => none)
    (fun _ => rfl) rfl (by simp)
theorem brdlLong (g sM l) : Statement (.brdlLong g sM l) :=
  fields rfl rfl (by decide) (by decide) (by decide) (fun u => match u with | [sM, 0, 0] => some (.brdlLong g (.ofNat 5 sM) l) | _ => none)
    (fun _ => rfl) rfl (by simp)
theorem add (g sb sa sd) : Statement (.add g sb sa sd) :=
  fields rfl rfl (by decide) (by decide) (by decide) (fun u => match u with | [sd, sa, sb, 0] => some (.add g (.ofNat 5 sb) (.ofNat 5 sa) (.ofNat 5 sd)) | _ => none)
    (fun _ => rfl) rfl (by simp)
theorem addLiteral (g sa sd l) : Statement (.addLiteral g sa sd l) :=
  fields rfl rfl (by decide) (by decide) (by decide) (fun u => match u with | [sd, sa, 0, 0] => some (.addLiteral g (.ofNat 5 sa) (.ofNat 5 sd) l) | _ => none)
    (fun _ => rfl) rfl (by simp)
theorem sub (g sb sa sd) : Statement (.sub g sb sa sd) :=
  fields rfl rfl (by decide) (by decide) (by decide) (fun u => match u with | [sd, sa, sb, 0] => some (.sub g (.ofNat 5 sb) (.ofNat 5 sa) (.ofNat 5 sd)) | _ => none)
    (fun _ => rfl) rfl (by simp)
theorem subLiteral (g sa sd l) : Statement (.subLiteral g sa sd l) :=
  fields rfl rfl (by decide) (by decide) (by decide) (fun u => match u with | [sd, sa, 0, 0] => some (.subLiteral g (.ofNat 5 sa) (.ofNat 5 sd) l) | _ => none)
    (fun _ => rfl) rfl (by simp)
theorem mul (g sb sa sd) : Statement (.mul g sb sa sd) :=
  fields rfl rfl (by decide) (by decide) (by decide) (fun u => match u with | [sd, sa, sb, 0] => some (.mul g (.ofNat 5 sb) (.ofNat 5 sa) (.ofNat 5 sd)) | _ => none)
    (fun _ => rfl) rfl (by simp)
theorem mulLiteral (g sa sd l) : Statement (.mulLiteral g sa sd l) :=
  fields rfl rfl (by decide) (by decide) (by decide) (fun u => match u with | [sd, sa, 0, 0] => some (.mulLiteral g (.ofNat 5 sa) (.ofNat 5 sd) l) | _ => none)
    (fun _ => rfl) rfl (by simp)
theorem mulh (g sb sa sd) : Statement (.mulh g sb sa sd) :=
  fields rfl rfl (by decide) (by decide) (by decide) (fun u => match u with | [sd, sa, sb, 0] => some (.mulh g (.ofNat 5 sb) (.ofNat 5 sa) (.ofNat 5 sd)) | _ => none)
    (fun _ => rfl) rfl (by simp)
theorem mulhLiteral (g sa sd l) : Statement (.mulhLiteral g sa sd l) :=
  fields rfl rfl (by decide) (by decide) (by decide) (fun u => match u with | [sd, sa, 0, 0] => some (.mulhLiteral g (.ofNat 5 sa) (.ofNat 5 sd) l) | _ => none)
    (fun _ => rfl) rfl (by simp)
theorem mulhu (g sb sa sd) : Statement (.mulhu g sb sa sd) :=
  fields rfl rfl (by decide) (by decide) (by decide) (fun u => match u with | [sd, sa, sb, 0] => some (.mulhu g (.ofNat 5 sb) (.ofNat 5 sa) (.ofNat 5 sd)) | _ => none)
    (fun _ => rfl) rfl (by simp)
theorem mulhuLiteral (g sa sd l) : Statement (.mulhuLiteral g sa sd l) :=
  fields rfl rfl (by decide) (by decide) (by decide) (fun u => match u with | [sd, sa, 0, 0] => some (.mulhuLiteral g (.ofNat 5 sa) (.ofNat 5 sd) l) | _ => none)
    (fun _ => rfl) rfl (by simp)
theorem divs (g sb sa sd) : Statement (.divs g sb sa sd) :=
  fields rfl rfl (by decide) (by decide) (by decide) (fun u => match u with | [sd, sa, sb, 0] => some (.divs g (.ofNat 5 sb) (.ofNat 5 sa) (.ofNat 5 sd)) | _ => none)
    (fun _ => rfl) rfl (by simp)
theorem divsLiteral (g sa sd l) : Statement (.divsLiteral g sa sd l) :=
  fields rfl rfl (by decide) (by decide) (by decide) (fun u => match u with | [sd, sa, 0, 0] => some (.divsLiteral g (.ofNat 5 sa) (.ofNat 5 sd) l) | _ => none)
    (fun _ => rfl) rfl (by simp)
theorem divu (g sb sa sd) : Statement (.divu g sb sa sd) :=
  fields rfl rfl (by decide) (by decide) (by decide) (fun u => match u with | [sd, sa, sb, 0] => some (.divu g (.ofNat 5 sb) (.ofNat 5 sa) (.ofNat 5 sd)) | _ => none)
    (fun _ => rfl) rfl (by simp)
theorem divuLiteral (g sa sd l) : Statement (.divuLiteral g sa sd l) :=
  fields rfl rfl (by decide) (by decide) (by decide) (fun u => match u with | [sd, sa, 0, 0] => some (.divuLiteral g (.ofNat 5 sa) (.ofNat 5 sd) l) | _ => none)
    (fun _ => rfl) rfl (by simp)
theorem rems (g sb sa sd) : Statement (.rems g sb sa sd) :=
  fields rfl rfl (by decide) (by decide) (by decide) (fun u => match u with | [sd, sa, sb, 0] => some (.rems g (.ofNat 5 sb) (.ofNat 5 sa) (.ofNat 5 sd)) | _ => none)
    (fun _ => rfl) rfl (by simp)
theorem remsLiteral (g sa sd l) : Statement (.remsLiteral g sa sd l) :=
  fields rfl rfl (by decide) (by decide) (by decide) (fun u => match u with | [sd, sa, 0, 0] => some (.remsLiteral g (.ofNat 5 sa) (.ofNat 5 sd) l) | _ => none)
    (fun _ => rfl) rfl (by simp)
theorem remu (g sb sa sd) : Statement (.remu g sb sa sd) :=
  fields rfl rfl (by decide) (by decide) (by decide) (fun u => match u with | [sd, sa, sb, 0] => some (.remu g (.ofNat 5 sb) (.ofNat 5 sa) (.ofNat 5 sd)) | _ => none)
    (fun _ => rfl) rfl (by simp)
theorem remuLiteral (g sa sd l) : Statement (.remuLiteral g sa sd l) :=
  fields rfl rfl (by decide) (by decide) (by decide) (fun u => match u with | [sd, sa, 0, 0] => some (.remuLiteral g (.ofNat 5 sa) (.ofNat 5 sd) l) | _ => none)
    (fun _ => rfl) rfl (by simp)
theorem and (g sb sa sd) : Statement (.and g sb sa sd) :=
  fields rfl rfl (by decide) (by decide) (by decide) (fun u => match u with | [sd, sa, sb, 0] => some (.and g (.ofNat 5 sb) (.ofNat 5 sa) (.ofNat 5 sd)) | _ => none)
    (fun _ => rfl) rfl (by simp)
theorem andLiteral (g sa sd l) : Statement (.andLiteral g sa sd l) :=
  fields rfl rfl (by decide) (by decide) (by decide) (fun u => match u with | [sd, sa, 0, 0] => some (.andLiteral g (.ofNat 5 sa) (.ofNat 5 sd) l) | _ => none)
    (fun _ => rfl) rfl (by simp)
theorem or (g sb sa sd) : Statement (.or g sb sa sd) :=
  fields rfl rfl (by decide) (by decide) (by decide) (fun u => match u with | [sd, sa, sb, 0] => some (.or g (.ofNat 5 sb) (.ofNat 5 sa) (.ofNat 5 sd)) | _ => none)
    (fun _ => rfl) rfl (by simp)
theorem orLiteral (g sa sd l) : Statement (.orLiteral g sa sd l) :=
  fields rfl rfl (by decide) (by decide) (by decide) (fun u => match u with | [sd, sa, 0, 0] => some (.orLiteral g (.ofNat 5 sa) (.ofNat 5 sd) l) | _ => none)
    (fun _ => rfl) rfl (by simp)
theorem xor (g sb sa sd) : Statement (.xor g sb sa sd) :=
  fields rfl rfl (by decide) (by decide) (by decide) (fun u => match u with | [sd, sa, sb, 0] => some (.xor g (.ofNat 5 sb) (.ofNat 5 sa) (.ofNat 5 sd)) | _ => none)
    (fun _ => rfl) rfl (by simp)
theorem xorLiteral (g sa sd l) : Statement (.xorLiteral g sa sd l) :=
  fields rfl rfl (by decide) (by decide) (by decide) (fun u => match u with | [sd, sa, 0, 0] => some (.xorLiteral g (.ofNat 5 sa) (.ofNat 5 sd) l) | _ => none)
    (fun _ => rfl) rfl (by simp)
theorem andn (g sb sa sd) : Statement (.andn g sb sa sd) :=
  fields rfl rfl (by decide) (by decide) (by decide) (fun u => match u with | [sd, sa, sb, 0] => some (.andn g (.ofNat 5 sb) (.ofNat 5 sa) (.ofNat 5 sd)) | _ => none)
    (fun _ => rfl) rfl (by simp)
theorem andnLiteral (g sa sd l) : Statement (.andnLiteral g sa sd l) :=
  fields rfl rfl (by decide) (by decide) (by decide) (fun u => match u with | [sd, sa, 0, 0] => some (.andnLiteral g (.ofNat 5 sa) (.ofNat 5 sd) l) | _ => none)
    (fun _ => rfl) rfl (by simp)
theorem shl (g sb sa sd) : Statement (.shl g sb sa sd) :=
  fields rfl rfl (by decide) (by decide) (by decide) (fun u => match u with | [sd, sa, sb, 0] => some (.shl g (.ofNat 5 sb) (.ofNat 5 sa) (.ofNat 5 sd)) | _ => none)
    (fun _ => rfl) rfl (by simp)
theorem shlLiteral (g sa sd l) : Statement (.shlLiteral g sa sd l) :=
  fields rfl rfl (by decide) (by decide) (by decide) (fun u => match u with | [sd, sa, 0, 0] => some (.shlLiteral g (.ofNat 5 sa) (.ofNat 5 sd) l) | _ => none)
    (fun _ => rfl) rfl (by simp)
theorem shr (g sb sa sd) : Statement (.shr g sb sa sd) :=
  fields rfl rfl (by decide) (by decide) (by decide) (fun u => match u with | [sd, sa, sb, 0] => some (.shr g (.ofNat 5 sb) (.ofNat 5 sa) (.ofNat 5 sd)) | _ => none)
    (fun _ => rfl) rfl (by simp)
theorem shrLiteral (g sa sd l) : Statement (.shrLiteral g sa sd l) :=
  fields rfl rfl (by decide) (by decide) (by decide) (fun u => match u with | [sd, sa, 0, 0] => some (.shrLiteral g (.ofNat 5 sa) (.ofNat 5 sd) l) | _ => none)
    (fun _ => rfl) rfl (by simp)
theorem sar (g sb sa sd) : Statement (.sar g sb sa sd) :=
  fields rfl rfl (by decide) (by decide) (by decide) (fun u => match u with | [sd, sa, sb, 0] => some (.sar g (.ofNat 5 sb) (.ofNat 5 sa) (.ofNat 5 sd)) | _ => none)
    (fun _ => rfl) rfl (by simp)
theorem sarLiteral (g sa sd l) : Statement (.sarLiteral g sa sd l) :=
  fields rfl rfl (by decide) (by decide) (by decide) (fun u => match u with | [sd, sa, 0, 0] => some (.sarLiteral g (.ofNat 5 sa) (.ofNat 5 sd) l) | _ => none)
    (fun _ => rfl) rfl (by simp)
theorem rotl (g sb sa sd) : Statement (.rotl g sb sa sd) :=
  fields rfl rfl (by decide) (by decide) (by decide) (fun u => match u with | [sd, sa, sb, 0] => some (.rotl g (.ofNat 5 sb) (.ofNat 5 sa) (.ofNat 5 sd)) | _ => none)
    (fun _ => rfl) rfl (by simp)
theorem rotlLiteral (g sa sd l) : Statement (.rotlLiteral g sa sd l) :=
  fields rfl rfl (by decide) (by decide) (by decide) (fun u => match u with | [sd, sa, 0, 0] => some (.rotlLiteral g (.ofNat 5 sa) (.ofNat 5 sd) l) | _ => none)
    (fun _ => rfl) rfl (by simp)
theorem mins (g sb sa sd) : Statement (.mins g sb sa sd) :=
  fields rfl rfl (by decide) (by decide) (by decide) (fun u => match u with | [sd, sa, sb, 0] => some (.mins g (.ofNat 5 sb) (.ofNat 5 sa) (.ofNat 5 sd)) | _ => none)
    (fun _ => rfl) rfl (by simp)
theorem minsLiteral (g sa sd l) : Statement (.minsLiteral g sa sd l) :=
  fields rfl rfl (by decide) (by decide) (by decide) (fun u => match u with | [sd, sa, 0, 0] => some (.minsLiteral g (.ofNat 5 sa) (.ofNat 5 sd) l) | _ => none)
    (fun _ => rfl) rfl (by simp)
theorem minu (g sb sa sd) : Statement (.minu g sb sa sd) :=
  fields rfl rfl (by decide) (by decide) (by decide) (fun u => match u with | [sd, sa, sb, 0] => some (.minu g (.ofNat 5 sb) (.ofNat 5 sa) (.ofNat 5 sd)) | _ => none)
    (fun _ => rfl) rfl (by simp)
theorem minuLiteral (g sa sd l) : Statement (.minuLiteral g sa sd l) :=
  fields rfl rfl (by decide) (by decide) (by decide) (fun u => match u with | [sd, sa, 0, 0] => some (.minuLiteral g (.ofNat 5 sa) (.ofNat 5 sd) l) | _ => none)
    (fun _ => rfl) rfl (by simp)
theorem maxs (g sb sa sd) : Statement (.maxs g sb sa sd) :=
  fields rfl rfl (by decide) (by decide) (by decide) (fun u => match u with | [sd, sa, sb, 0] => some (.maxs g (.ofNat 5 sb) (.ofNat 5 sa) (.ofNat 5 sd)) | _ => none)
    (fun _ => rfl) rfl (by simp)
theorem maxsLiteral (g sa sd l) : Statement (.maxsLiteral g sa sd l) :=
  fields rfl rfl (by decide) (by decide) (by decide) (fun u => match u with | [sd, sa, 0, 0] => some (.maxsLiteral g (.ofNat 5 sa) (.ofNat 5 sd) l) | _ => none)
    (fun _ => rfl) rfl (by simp)
theorem maxu (g sb sa sd) : Statement (.maxu g sb sa sd) :=
  fields rfl rfl (by decide) (by decide) (by decide) (fun u => match u with | [sd, sa, sb, 0] => some (.maxu g (.ofNat 5 sb) (.ofNat 5 sa) (.ofNat 5 sd)) | _ => none)
    (fun _ => rfl) rfl (by simp)
theorem maxuLiteral (g sa sd l) : Statement (.maxuLiteral g sa sd l) :=
  fields rfl rfl (by decide) (by decide) (by decide) (fun u => match u with | [sd, sa, 0, 0] => some (.maxuLiteral g (.ofNat 5 sa) (.ofNat 5 sd) l) | _ => none)
    (fun _ => rfl) rfl (by simp)
theorem cmp (g fc sb sa fd comb cond l) : Statement (.cmp g fc sb sa fd comb cond l) :=
  fields rfl rfl (by decide) (by decide) (by decide) (fun u => match u with | [fd, sa, sb, fc, cond, comb, 0] => some (.cmp g (.ofNat 3 fc) (.ofNat 5 sb) (.ofNat 5 sa) (.ofNat 3 fd) (.ofNat 2 comb) (.ofNat 4 cond) l) | _ => none)
    (fun _ => rfl) rfl (by simp)
theorem flop (g tt fb fa fd) : Statement (.flop g tt fb fa fd) :=
  fields rfl rfl (by decide) (by decide) (by decide) (fun u => match u with | [fd, fa, fb, tt, 0] => some (.flop g (.ofNat 4 tt) (.ofNat 3 fb) (.ofNat 3 fa) (.ofNat 3 fd)) | _ => none)
    (fun _ => rfl) rfl (by simp)
theorem sel (g sb sa sd fc) : Statement (.sel g sb sa sd fc) :=
  fields rfl rfl (by decide) (by decide) (by decide) (fun u => match u with | [sd, sa, sb, 0, fc, 0] => some (.sel g (.ofNat 5 sb) (.ofNat 5 sa) (.ofNat 5 sd) (.ofNat 3 fc)) | _ => none)
    (fun _ => rfl) rfl (by simp)
theorem mov (g sa sd) : Statement (.mov g sa sd) :=
  fields rfl rfl (by decide) (by decide) (by decide) (fun u => match u with | [sd, sa, 0] => some (.mov g (.ofNat 5 sa) (.ofNat 5 sd)) | _ => none)
    (fun _ => rfl) rfl (by simp)
theorem movi (g imm sd) : Statement (.movi g imm sd) :=
  fields rfl rfl (by decide) (by decide) (by decide) (fun u => match u with | [sd, imm, 0] => some (.movi g (.ofNat 11 imm) (.ofNat 5 sd)) | _ => none)
    (fun _ => rfl) rfl (by simp)
theorem moviLiteral (g sd l) : Statement (.moviLiteral g sd l) :=
  fields rfl rfl (by decide) (by decide) (by decide) (fun u => match u with | [sd, 0, 0] => some (.moviLiteral g (.ofNat 5 sd) l) | _ => none)
    (fun _ => rfl) rfl (by simp)
theorem lea (g sb sa sd disp sh l) : Statement (.lea g sb sa sd disp sh l) :=
  fields rfl rfl (by decide) (by decide) (by decide) (fun u => match u with | [sd, sa, sb, 0, sh, disp, 0] => some (.lea g (.ofNat 5 sb) (.ofNat 5 sa) (.ofNat 5 sd) (.ofNat 32 disp) (.ofNat 4 sh) l) | _ => none)
    (fun _ => rfl) rfl (by simp)
theorem clz (g sa sd) : Statement (.clz g sa sd) :=
  fields rfl rfl (by decide) (by decide) (by decide) (fun u => match u with | [sd, sa, 0] => some (.clz g (.ofNat 5 sa) (.ofNat 5 sd)) | _ => none)
    (fun _ => rfl) rfl (by simp)
theorem ctz (g sa sd) : Statement (.ctz g sa sd) :=
  fields rfl rfl (by decide) (by decide) (by decide) (fun u => match u with | [sd, sa, 0] => some (.ctz g (.ofNat 5 sa) (.ofNat 5 sd)) | _ => none)
    (fun _ => rfl) rfl (by simp)
theorem popc (g sa sd) : Statement (.popc g sa sd) :=
  fields rfl rfl (by decide) (by decide) (by decide) (fun u => match u with | [sd, sa, 0] => some (.popc g (.ofNat 5 sa) (.ofNat 5 sd)) | _ => none)
    (fun _ => rfl) rfl (by simp)
theorem bfx (g sa sd sgn wid pos) : Statement (.bfx g sa sd sgn wid pos) :=
  fields rfl rfl (by decide) (by decide) (by decide) (fun u => match u with | [sd, sa, 0, pos, wid, sgn, 0] => some (.bfx g (.ofNat 5 sa) (.ofNat 5 sd) (sgn == 1) (.ofNat 7 wid) (.ofNat 6 pos)) | _ => none)
    (fun _ => rfl) rfl (by simp)
theorem bfi (g sa sd wid pos) : Statement (.bfi g sa sd wid pos) :=
  fields rfl rfl (by decide) (by decide) (by decide) (fun u => match u with | [sd, sa, 0, pos, wid, 0] => some (.bfi g (.ofNat 5 sa) (.ofNat 5 sd) (.ofNat 7 wid) (.ofNat 6 pos)) | _ => none)
    (fun _ => rfl) rfl (by simp)
theorem bcst (g sa) : Statement (.bcst g sa) :=
  fields rfl rfl (by decide) (by decide) (by decide) (fun u => match u with | [sa, 0] => some (.bcst g (.ofNat 5 sa)) | _ => none)
    (fun _ => rfl) rfl (by simp)
theorem bcstLiteral (g l) : Statement (.bcstLiteral g l) :=
  fields rfl rfl (by decide) (by decide) (by decide) (fun u => match u with | [0, 0] => some (.bcstLiteral g l) | _ => none)
    (fun _ => rfl) rfl (by simp)
theorem cxs (g d) : Statement (.cxs g d) :=
  packed rfl rfl (by decide) (by decide) QFields_lt (by
    show ((QFields.ofBits d.toBits).map fun d => (.cxs g d : Instr)) = _
    rw [QFields_bits]; rfl)
theorem cxsi (g d) : Statement (.cxsi g d) :=
  packed rfl rfl (by decide) (by decide) QFields_lt (by
    show ((QFields.ofBits d.toBits).map fun d => (.cxsi g d : Instr)) = _
    rw [QFields_bits]; rfl)
theorem cxv (g d) : Statement (.cxv g d) :=
  packed rfl rfl (by decide) (by decide) QFields_lt (by
    show ((QFields.ofBits d.toBits).map fun d => (.cxv g d : Instr)) = _
    rw [QFields_bits]; rfl)
theorem cxvi (g d) : Statement (.cxvi g d) :=
  packed rfl rfl (by decide) (by decide) QFields_lt (by
    show ((QFields.ofBits d.toBits).map fun d => (.cxvi g d : Instr)) = _
    rw [QFields_bits]; rfl)
theorem vadd (g d l) : Statement (.vadd g d l) :=
  packed rfl rfl (by decide) (by decide) VFields_lt (by
    show ((VFields.ofBits d.toBits).map fun d => (.vadd g d l : Instr)) = _
    rw [VFields_bits]; rfl)
theorem vsub (g d l) : Statement (.vsub g d l) :=
  packed rfl rfl (by decide) (by decide) VFields_lt (by
    show ((VFields.ofBits d.toBits).map fun d => (.vsub g d l : Instr)) = _
    rw [VFields_bits]; rfl)
theorem vmul (g d l) : Statement (.vmul g d l) :=
  packed rfl rfl (by decide) (by decide) VFields_lt (by
    show ((VFields.ofBits d.toBits).map fun d => (.vmul g d l : Instr)) = _
    rw [VFields_bits]; rfl)
theorem vfma (g d l) : Statement (.vfma g d l) :=
  packed rfl rfl (by decide) (by decide) VFields_lt (by
    show ((VFields.ofBits d.toBits).map fun d => (.vfma g d l : Instr)) = _
    rw [VFields_bits]; rfl)
theorem vmax (g d l) : Statement (.vmax g d l) :=
  packed rfl rfl (by decide) (by decide) VFields_lt (by
    show ((VFields.ofBits d.toBits).map fun d => (.vmax g d l : Instr)) = _
    rw [VFields_bits]; rfl)
theorem vmin (g d l) : Statement (.vmin g d l) :=
  packed rfl rfl (by decide) (by decide) VFields_lt (by
    show ((VFields.ofBits d.toBits).map fun d => (.vmin g d l : Instr)) = _
    rw [VFields_bits]; rfl)
theorem vabs (g d l) : Statement (.vabs g d l) :=
  packed rfl rfl (by decide) (by decide) VFields_lt (by
    show ((VFields.ofBits d.toBits).map fun d => (.vabs g d l : Instr)) = _
    rw [VFields_bits]; rfl)
theorem vneg (g d l) : Statement (.vneg g d l) :=
  packed rfl rfl (by decide) (by decide) VFields_lt (by
    show ((VFields.ofBits d.toBits).map fun d => (.vneg g d l : Instr)) = _
    rw [VFields_bits]; rfl)
theorem vrcp (g d l) : Statement (.vrcp g d l) :=
  packed rfl rfl (by decide) (by decide) VFields_lt (by
    show ((VFields.ofBits d.toBits).map fun d => (.vrcp g d l : Instr)) = _
    rw [VFields_bits]; rfl)
theorem vrsq (g d l) : Statement (.vrsq g d l) :=
  packed rfl rfl (by decide) (by decide) VFields_lt (by
    show ((VFields.ofBits d.toBits).map fun d => (.vrsq g d l : Instr)) = _
    rw [VFields_bits]; rfl)
theorem vexp (g d l) : Statement (.vexp g d l) :=
  packed rfl rfl (by decide) (by decide) VFields_lt (by
    show ((VFields.ofBits d.toBits).map fun d => (.vexp g d l : Instr)) = _
    rw [VFields_bits]; rfl)
theorem vlog (g d l) : Statement (.vlog g d l) :=
  packed rfl rfl (by decide) (by decide) VFields_lt (by
    show ((VFields.ofBits d.toBits).map fun d => (.vlog g d l : Instr)) = _
    rw [VFields_bits]; rfl)
theorem vtanh (g d l) : Statement (.vtanh g d l) :=
  packed rfl rfl (by decide) (by decide) VFields_lt (by
    show ((VFields.ofBits d.toBits).map fun d => (.vtanh g d l : Instr)) = _
    rw [VFields_bits]; rfl)
theorem viadd (g d l) : Statement (.viadd g d l) :=
  packed rfl rfl (by decide) (by decide) VFields_lt (by
    show ((VFields.ofBits d.toBits).map fun d => (.viadd g d l : Instr)) = _
    rw [VFields_bits]; rfl)
theorem visub (g d l) : Statement (.visub g d l) :=
  packed rfl rfl (by decide) (by decide) VFields_lt (by
    show ((VFields.ofBits d.toBits).map fun d => (.visub g d l : Instr)) = _
    rw [VFields_bits]; rfl)
theorem vimul (g d l) : Statement (.vimul g d l) :=
  packed rfl rfl (by decide) (by decide) VFields_lt (by
    show ((VFields.ofBits d.toBits).map fun d => (.vimul g d l : Instr)) = _
    rw [VFields_bits]; rfl)
theorem vimad (g d l) : Statement (.vimad g d l) :=
  packed rfl rfl (by decide) (by decide) VFields_lt (by
    show ((VFields.ofBits d.toBits).map fun d => (.vimad g d l : Instr)) = _
    rw [VFields_bits]; rfl)
theorem vimin (g d l) : Statement (.vimin g d l) :=
  packed rfl rfl (by decide) (by decide) VFields_lt (by
    show ((VFields.ofBits d.toBits).map fun d => (.vimin g d l : Instr)) = _
    rw [VFields_bits]; rfl)
theorem vimax (g d l) : Statement (.vimax g d l) :=
  packed rfl rfl (by decide) (by decide) VFields_lt (by
    show ((VFields.ofBits d.toBits).map fun d => (.vimax g d l : Instr)) = _
    rw [VFields_bits]; rfl)
theorem vand (g d l) : Statement (.vand g d l) :=
  packed rfl rfl (by decide) (by decide) VFields_lt (by
    show ((VFields.ofBits d.toBits).map fun d => (.vand g d l : Instr)) = _
    rw [VFields_bits]; rfl)
theorem vor (g d l) : Statement (.vor g d l) :=
  packed rfl rfl (by decide) (by decide) VFields_lt (by
    show ((VFields.ofBits d.toBits).map fun d => (.vor g d l : Instr)) = _
    rw [VFields_bits]; rfl)
theorem vxor (g d l) : Statement (.vxor g d l) :=
  packed rfl rfl (by decide) (by decide) VFields_lt (by
    show ((VFields.ofBits d.toBits).map fun d => (.vxor g d l : Instr)) = _
    rw [VFields_bits]; rfl)
theorem vshl (g d l) : Statement (.vshl g d l) :=
  packed rfl rfl (by decide) (by decide) VFields_lt (by
    show ((VFields.ofBits d.toBits).map fun d => (.vshl g d l : Instr)) = _
    rw [VFields_bits]; rfl)
theorem vshr (g d l) : Statement (.vshr g d l) :=
  packed rfl rfl (by decide) (by decide) VFields_lt (by
    show ((VFields.ofBits d.toBits).map fun d => (.vshr g d l : Instr)) = _
    rw [VFields_bits]; rfl)
theorem vsar (g d l) : Statement (.vsar g d l) :=
  packed rfl rfl (by decide) (by decide) VFields_lt (by
    show ((VFields.ofBits d.toBits).map fun d => (.vsar g d l : Instr)) = _
    rw [VFields_bits]; rfl)
theorem vcmp (g d l) : Statement (.vcmp g d l) :=
  packed rfl rfl (by decide) (by decide) VFields_lt (by
    show ((VFields.ofBits d.toBits).map fun d => (.vcmp g d l : Instr)) = _
    rw [VFields_bits]; rfl)
theorem vsel (g d l) : Statement (.vsel g d l) :=
  packed rfl rfl (by decide) (by decide) VFields_lt (by
    show ((VFields.ofBits d.toBits).map fun d => (.vsel g d l : Instr)) = _
    rw [VFields_bits]; rfl)
theorem vmov (g d l) : Statement (.vmov g d l) :=
  packed rfl rfl (by decide) (by decide) VFields_lt (by
    show ((VFields.ofBits d.toBits).map fun d => (.vmov g d l : Instr)) = _
    rw [VFields_bits]; rfl)
theorem vcvt (g d l) : Statement (.vcvt g d l) :=
  packed rfl rfl (by decide) (by decide) VFields_lt (by
    show ((VFields.ofBits d.toBits).map fun d => (.vcvt g d l : Instr)) = _
    rw [VFields_bits]; rfl)
theorem vpack (g d l) : Statement (.vpack g d l) :=
  packed rfl rfl (by decide) (by decide) VFields_lt (by
    show ((VFields.ofBits d.toBits).map fun d => (.vpack g d l : Instr)) = _
    rw [VFields_bits]; rfl)
theorem vunpk (g d l) : Statement (.vunpk g d l) :=
  packed rfl rfl (by decide) (by decide) VFields_lt (by
    show ((VFields.ofBits d.toBits).map fun d => (.vunpk g d l : Instr)) = _
    rw [VFields_bits]; rfl)
theorem vreds (g d l) : Statement (.vreds g d l) :=
  packed rfl rfl (by decide) (by decide) VFields_lt (by
    show ((VFields.ofBits d.toBits).map fun d => (.vreds g d l : Instr)) = _
    rw [VFields_bits]; rfl)
theorem vscan (g d l) : Statement (.vscan g d l) :=
  packed rfl rfl (by decide) (by decide) VFields_lt (by
    show ((VFields.ofBits d.toBits).map fun d => (.vscan g d l : Instr)) = _
    rw [VFields_bits]; rfl)
theorem vperm (g d l) : Statement (.vperm g d l) :=
  packed rfl rfl (by decide) (by decide) VFields_lt (by
    show ((VFields.ofBits d.toBits).map fun d => (.vperm g d l : Instr)) = _
    rw [VFields_bits]; rfl)
theorem vlane (g d l) : Statement (.vlane g d l) :=
  packed rfl rfl (by decide) (by decide) VFields_lt (by
    show ((VFields.ofBits d.toBits).map fun d => (.vlane g d l : Instr)) = _
    rw [VFields_bits]; rfl)
theorem vqcnt (g d l) : Statement (.vqcnt g d l) :=
  packed rfl rfl (by decide) (by decide) VFields_lt (by
    show ((VFields.ofBits d.toBits).map fun d => (.vqcnt g d l : Instr)) = _
    rw [VFields_bits]; rfl)
theorem vcmps (g d l) : Statement (.vcmps g d l) :=
  packed rfl rfl (by decide) (by decide) VFields_lt (by
    show ((VFields.ofBits d.toBits).map fun d => (.vcmps g d l : Instr)) = _
    rw [VFields_bits]; rfl)
theorem vqop (g d l) : Statement (.vqop g d l) :=
  packed rfl rfl (by decide) (by decide) VFields_lt (by
    show ((VFields.ofBits d.toBits).map fun d => (.vqop g d l : Instr)) = _
    rw [VFields_bits]; rfl)
theorem mma (g ad oa ob zs za) : Statement (.mma g ad oa ob zs za) :=
  fields rfl rfl (by decide) (by decide) (by decide) (fun u => match u with | [ad, oa, ob, zs, za, 0] => some (.mma g (.ofNat 2 ad) (.ofNat 5 oa) (.ofNat 5 ob) (.ofNat 4 zs) (za == 1)) | _ => none)
    (fun _ => rfl) rfl (by simp)
theorem mmsp (g ad oa ob zs za om) : Statement (.mmsp g ad oa ob zs za om) :=
  fields rfl rfl (by decide) (by decide) (by decide) (fun u => match u with | [ad, oa, ob, zs, za, 0, om, 0] => some (.mmsp g (.ofNat 2 ad) (.ofNat 5 oa) (.ofNat 5 ob) (.ofNat 4 zs) (za == 1) (.ofNat 5 om)) | _ => none)
    (fun _ => rfl) rfl (by simp)
theorem kvmm (g ad oq vk zs za) : Statement (.kvmm g ad oq vk zs za) :=
  fields rfl rfl (by decide) (by decide) (by decide) (fun u => match u with | [ad, oq, vk, 0, zs, za, 0] => some (.kvmm g (.ofNat 2 ad) (.ofNat 5 oq) (.ofNat 6 vk) (.ofNat 4 zs) (za == 1)) | _ => none)
    (fun _ => rfl) rfl (by simp)
theorem kvmv (g ad oq vk zs za dsel) : Statement (.kvmv g ad oq vk zs za dsel) :=
  fields rfl rfl (by decide) (by decide) (by decide) (fun u => match u with | [ad, oq, vk, 0, zs, za, dsel, 0] => some (.kvmv g (.ofNat 2 ad) (.ofNat 5 oq) (.ofNat 6 vk) (.ofNat 4 zs) (za == 1) (.ofNat 2 dsel)) | _ => none)
    (fun _ => rfl) rfl (by simp)
theorem gmma (g ad oa vi zs za sT sC) : Statement (.gmma g ad oa vi zs za sT sC) :=
  fields rfl rfl (by decide) (by decide) (by decide) (fun u => match u with | [ad, oa, vi, 0, zs, za, sT, sC, 0] => some (.gmma g (.ofNat 2 ad) (.ofNat 5 oa) (.ofNat 6 vi) (.ofNat 4 zs) (za == 1) (.ofNat 5 sT) (.ofNat 5 sC)) | _ => none)
    (fun _ => rfl) rfl (by simp)
theorem oclm (g n o) : Statement (.oclm g n o) :=
  fields rfl rfl (by decide) (by decide) (by decide) (fun u => match u with | [o, n, 0] => some (.oclm g (.ofNat 3 n) (.ofNat 5 o)) | _ => none)
    (fun _ => rfl) rfl (by simp)
theorem orel (g n o) : Statement (.orel g n o) :=
  fields rfl rfl (by decide) (by decide) (by decide) (fun u => match u with | [o, n, 0] => some (.orel g (.ofNat 3 n) (.ofNat 5 o)) | _ => none)
    (fun _ => rfl) rfl (by simp)
theorem old (g o sA sS tr fmt pitch) : Statement (.old g o sA sS tr fmt pitch) :=
  fields rfl rfl (by decide) (by decide) (by decide) (fun u => match u with | [o, sA, sS, tr, fmt, pitch, 0] => some (.old g (.ofNat 5 o) (.ofNat 5 sA) (.ofNat 5 sS) (tr == 1) (.ofNat 4 fmt) (.ofNat 16 pitch)) | _ => none)
    (fun _ => rfl) rfl (by simp)
theorem otagLiteral (g q setf fmt o l) : Statement (.otagLiteral g q setf fmt o l) :=
  fields rfl rfl (by decide) (by decide) (by decide) (fun u => match u with | [o, fmt, setf, q, 0, 0] => some (.otagLiteral g (q == 1) (setf == 1) (.ofNat 4 fmt) (.ofNat 5 o) l) | _ => none)
    (fun _ => rfl) rfl (by simp)
theorem azro (g a) : Statement (.azro g a) :=
  fields rfl rfl (by decide) (by decide) (by decide) (fun u => match u with | [a, 0] => some (.azro g (.ofNat 2 a)) | _ => none)
    (fun _ => rfl) rfl (by simp)
theorem aadd (g int_ zs as_ ad) : Statement (.aadd g int_ zs as_ ad) :=
  fields rfl rfl (by decide) (by decide) (by decide) (fun u => match u with | [ad, as_, zs, int_, 0] => some (.aadd g (int_ == 1) (.ofNat 4 zs) (.ofNat 2 as_) (.ofNat 2 ad)) | _ => none)
    (fun _ => rfl) rfl (by simp)
theorem adrn (g d) : Statement (.adrn g d) :=
  fields rfl rfl (by decide) (by decide) (by decide) (fun u => match u with | [F_acc, F_dst, F_addr, F_fmt, F_zs, F_rm, F_ftz, F_clr, F_int, F_part, F_pitch, 0] => some (.adrn g ⟨.ofNat 16 F_pitch, .ofNat 2 F_part, F_int == 1, F_clr == 1, F_ftz == 1, .ofNat 3 F_rm, .ofNat 4 F_zs, .ofNat 4 F_fmt, .ofNat 5 F_addr, F_dst == 1, .ofNat 2 F_acc⟩) | _ => none)
    (fun _ => rfl) rfl (by simp)
theorem shp (g zd vsrc va sS wm l) : Statement (.shp g zd vsrc va sS wm l) :=
  fields rfl rfl (by decide) (by decide) (by decide) (fun u => match u with | [zd, vsrc, va, sS, 0, wm, 0] => some (.shp g (.ofNat 3 zd) (vsrc == 1) (.ofNat 6 va) (.ofNat 5 sS) (.ofNat 3 wm) l) | _ => none)
    (fun _ => rfl) rfl (by simp)
theorem dstq (g ok which an pd) : Statement (.dstq g ok which an pd) :=
  fields rfl rfl (by decide) (by decide) (by decide) (fun u => match u with | [pd, an, which, ok, 0] => some (.dstq g (ok == 1) (.ofNat 4 which) (.ofNat 2 an) (.ofNat 3 pd)) | _ => none)
    (fun _ => rfl) rfl (by simp)
theorem scl (g va side) : Statement (.scl g va side) :=
  fields rfl rfl (by decide) (by decide) (by decide) (fun u => match u with | [va, 0, side, 0] => some (.scl g (.ofNat 6 va) (.ofNat 2 side)) | _ => none)
    (fun _ => rfl) rfl (by simp)
theorem scli (g rx cx side l) : Statement (.scli g rx cx side l) :=
  fields rfl rfl (by decide) (by decide) (by decide) (fun u => match u with | [0, rx, cx, side, 0] => some (.scli g (.ofNat 8 rx) (.ofNat 8 cx) (.ofNat 2 side) l) | _ => none)
    (fun _ => rfl) rfl (by simp)
theorem sclz (g) : Statement (.sclz g) :=
  fields rfl rfl (by decide) (by decide) (by decide) (fun u => match u with | [0] => some (.sclz g) | _ => none)
    (fun _ => rfl) rfl (by simp)
theorem lds (g sgn sz sA sD) : Statement (.lds g sgn sz sA sD) :=
  fields rfl rfl (by decide) (by decide) (by decide) (fun u => match u with | [sD, sA, sz, sgn, 0] => some (.lds g (sgn == 1) (.ofNat 2 sz) (.ofNat 5 sA) (.ofNat 5 sD)) | _ => none)
    (fun _ => rfl) rfl (by simp)
theorem ldsLiteral (g sgn sz sA sD l) : Statement (.ldsLiteral g sgn sz sA sD l) :=
  fields rfl rfl (by decide) (by decide) (by decide) (fun u => match u with | [sD, sA, sz, sgn, 0] => some (.ldsLiteral g (sgn == 1) (.ofNat 2 sz) (.ofNat 5 sA) (.ofNat 5 sD) l) | _ => none)
    (fun _ => rfl) rfl (by simp)
theorem sts (g sz sA sS) : Statement (.sts g sz sA sS) :=
  fields rfl rfl (by decide) (by decide) (by decide) (fun u => match u with | [sS, sA, sz, 0] => some (.sts g (.ofNat 2 sz) (.ofNat 5 sA) (.ofNat 5 sS)) | _ => none)
    (fun _ => rfl) rfl (by simp)
theorem stsLiteral (g sz sA sS l) : Statement (.stsLiteral g sz sA sS l) :=
  fields rfl rfl (by decide) (by decide) (by decide) (fun u => match u with | [sS, sA, sz, 0] => some (.stsLiteral g (.ofNat 2 sz) (.ofNat 5 sA) (.ofNat 5 sS) l) | _ => none)
    (fun _ => rfl) rfl (by simp)
theorem lda (g d l) : Statement (.lda g d l) :=
  packed rfl rfl (by decide) (by decide) StrongFields_lt (by
    show ((StrongFields.ofBits d.toBits).map fun d => (.lda g d l : Instr)) = _
    rw [StrongFields_bits]; rfl)
theorem stl (g d l) : Statement (.stl g d l) :=
  packed rfl rfl (by decide) (by decide) StrongFields_lt (by
    show ((StrongFields.ofBits d.toBits).map fun d => (.stl g d l : Instr)) = _
    rw [StrongFields_bits]; rfl)
theorem stx (g d l) : Statement (.stx g d l) :=
  packed rfl rfl (by decide) (by decide) StrongFields_lt (by
    show ((StrongFields.ofBits d.toBits).map fun d => (.stx g d l : Instr)) = _
    rw [StrongFields_bits]; rfl)
theorem atom (g d l) : Statement (.atom g d l) :=
  packed rfl rfl (by decide) (by decide) AtomFields_lt (by
    show ((AtomFields.ofBits d.toBits).map fun d => (.atom g d l : Instr)) = _
    rw [AtomFields_bits]; rfl)
theorem atcas (g d l) : Statement (.atcas g d l) :=
  packed rfl rfl (by decide) (by decide) AtomFields_lt (by
    show ((AtomFields.ofBits d.toBits).map fun d => (.atcas g d l : Instr)) = _
    rw [AtomFields_bits]; rfl)
theorem vld (g d l) : Statement (.vld g d l) :=
  packed rfl rfl (by decide) (by decide) MemFields_lt (by
    show ((MemFields.ofBits d.toBits).map fun d => (.vld g d l : Instr)) = _
    rw [MemFields_bits]; rfl)
theorem vst (g d l) : Statement (.vst g d l) :=
  packed rfl rfl (by decide) (by decide) MemFields_lt (by
    show ((MemFields.ofBits d.toBits).map fun d => (.vst g d l : Instr)) = _
    rw [MemFields_bits]; rfl)
theorem vldp (g d l) : Statement (.vldp g d l) :=
  packed rfl rfl (by decide) (by decide) MemFields_lt (by
    show ((MemFields.ofBits d.toBits).map fun d => (.vldp g d l : Instr)) = _
    rw [MemFields_bits]; rfl)
theorem vstp (g d l) : Statement (.vstp g d l) :=
  packed rfl rfl (by decide) (by decide) MemFields_lt (by
    show ((MemFields.ofBits d.toBits).map fun d => (.vstp g d l : Instr)) = _
    rw [MemFields_bits]; rfl)
theorem vldg (g d l) : Statement (.vldg g d l) :=
  packed rfl rfl (by decide) (by decide) MemFields_lt (by
    show ((MemFields.ofBits d.toBits).map fun d => (.vldg g d l : Instr)) = _
    rw [MemFields_bits]; rfl)
theorem vstg (g d l) : Statement (.vstg g d l) :=
  packed rfl rfl (by decide) (by decide) MemFields_lt (by
    show ((MemFields.ofBits d.toBits).map fun d => (.vstg g d l : Instr)) = _
    rw [MemFields_bits]; rfl)
theorem vatom (g d l) : Statement (.vatom g d l) :=
  packed rfl rfl (by decide) (by decide) MemFields_lt (by
    show ((MemFields.ofBits d.toBits).map fun d => (.vatom g d l : Instr)) = _
    rw [MemFields_bits]; rfl)
theorem port (g gN sL sH boff l) : Statement (.port g gN sL sH boff l) :=
  fields rfl rfl (by decide) (by decide) (by decide) (fun u => match u with | [gN, sL, sH, 0, boff, 0] => some (.port g (.ofNat 2 gN) (.ofNat 5 sL) (.ofNat 5 sH) (.ofNat 32 boff) l) | _ => none)
    (fun _ => rfl) rfl (by simp)
theorem cpy (g sP sT) : Statement (.cpy g sP sT) :=
  fields rfl rfl (by decide) (by decide) (by decide) (fun u => match u with | [sT, sP, 0] => some (.cpy g (.ofNat 5 sP) (.ofNat 5 sT)) | _ => none)
    (fun _ => rfl) rfl (by simp)
theorem cpyl (g d) : Statement (.cpyl g d) :=
  fields rfl rfl (by decide) (by decide) (by decide) (fun u => match u with | [F_sT, F_sB, F_vO, F_sz, F_dir, F_lq, F_ln, F_comm, F_lbase, 0] => some (.cpyl g ⟨.ofNat 32 F_lbase, F_comm == 1, F_ln == 1, .ofNat 3 F_lq, F_dir == 1, .ofNat 2 F_sz, .ofNat 6 F_vO, .ofNat 5 F_sB, .ofNat 5 F_sT⟩) | _ => none)
    (fun _ => rfl) rfl (by simp)
theorem cpyw (g d) : Statement (.cpyw g d) :=
  fields rfl rfl (by decide) (by decide) (by decide) (fun u => match u with | [F_sT, F_sA, F_sB, F_comm, F_wx, F_wy, F_nch, F_pitch, F_esx, F_esy, 0] => some (.cpyw g ⟨.ofNat 8 F_esy, .ofNat 8 F_esx, .ofNat 16 F_pitch, .ofNat 16 F_nch, .ofNat 6 F_wy, .ofNat 6 F_wx, F_comm == 1, .ofNat 5 F_sB, .ofNat 5 F_sA, .ofNat 5 F_sT⟩) | _ => none)
    (fun _ => rfl) rfl (by simp)
theorem cpyk (g sT vK sD nblk comm) : Statement (.cpyk g sT vK sD nblk comm) :=
  fields rfl rfl (by decide) (by decide) (by decide) (fun u => match u with | [sT, vK, sD, nblk, comm, 0] => some (.cpyk g (.ofNat 5 sT) (.ofNat 6 vK) (.ofNat 5 sD) (.ofNat 8 nblk) (comm == 1)) | _ => none)
    (fun _ => rfl) rfl (by simp)
theorem fence (g scope kind) : Statement (.fence g scope kind) :=
  fields rfl rfl (by decide) (by decide) (by decide) (fun u => match u with | [kind, scope, 0] => some (.fence g (.ofNat 3 scope) (.ofNat 2 kind)) | _ => none)
    (fun _ => rfl) rfl (by simp)
theorem pfx (g sA disp lines l) : Statement (.pfx g sA disp lines l) :=
  fields rfl rfl (by decide) (by decide) (by decide) (fun u => match u with | [sA, 0, disp, lines, 0] => some (.pfx g (.ofNat 5 sA) (.ofNat 32 disp) (.ofNat 16 lines) l) | _ => none)
    (fun _ => rfl) rfl (by simp)
theorem xpf (g w sE sR layer) : Statement (.xpf g w sE sR layer) :=
  fields rfl rfl (by decide) (by decide) (by decide) (fun u => match u with | [sR, sE, w, 0, layer, 0] => some (.xpf g (w == 1) (.ofNat 5 sE) (.ofNat 5 sR) (.ofNat 8 layer)) | _ => none)
    (fun _ => rfl) rfl (by simp)
theorem cwb (g sA) : Statement (.cwb g sA) :=
  fields rfl rfl (by decide) (by decide) (by decide) (fun u => match u with | [sA, 0] => some (.cwb g (.ofNat 5 sA)) | _ => none)
    (fun _ => rfl) rfl (by simp)
theorem cinv (g sA) : Statement (.cinv g sA) :=
  fields rfl rfl (by decide) (by decide) (by decide) (fun u => match u with | [sA, 0] => some (.cinv g (.ofNat 5 sA)) | _ => none)
    (fun _ => rfl) rfl (by simp)
theorem pbinv (g sA) : Statement (.pbinv g sA) :=
  fields rfl rfl (by decide) (by decide) (by decide) (fun u => match u with | [sA, 0] => some (.pbinv g (.ofNat 5 sA)) | _ => none)
    (fun _ => rfl) rfl (by simp)
theorem pgmap (g sV sD sz zf perm) : Statement (.pgmap g sV sD sz zf perm) :=
  fields rfl rfl (by decide) (by decide) (by decide) (fun u => match u with | [sD, sV, 0, sz, zf, perm, 0] => some (.pgmap g (.ofNat 5 sV) (.ofNat 5 sD) (sz == 1) (zf == 1) (.ofNat 3 perm)) | _ => none)
    (fun _ => rfl) rfl (by simp)
theorem tinv (g kind sA sT) : Statement (.tinv g kind sA sT) :=
  fields rfl rfl (by decide) (by decide) (by decide) (fun u => match u with | [sT, sA, kind, 0] => some (.tinv g (.ofNat 2 kind) (.ofNat 5 sA) (.ofNat 5 sT)) | _ => none)
    (fun _ => rfl) rfl (by simp)
theorem btinv (g sK sT nblk all) : Statement (.btinv g sK sT nblk all) :=
  fields rfl rfl (by decide) (by decide) (by decide) (fun u => match u with | [sT, sK, 0, nblk, all, 0] => some (.btinv g (.ofNat 5 sK) (.ofNat 5 sT) (.ofNat 16 nblk) (all == 1)) | _ => none)
    (fun _ => rfl) rfl (by simp)
theorem kvseq (g op sV sQ sD) : Statement (.kvseq g op sV sQ sD) :=
  fields rfl rfl (by decide) (by decide) (by decide) (fun u => match u with | [sD, sQ, sV, op, 0] => some (.kvseq g (op == 1) (.ofNat 5 sV) (.ofNat 5 sQ) (.ofNat 5 sD)) | _ => none)
    (fun _ => rfl) rfl (by simp)
theorem kvseqLiteral (g op sQ sD l) : Statement (.kvseqLiteral g op sQ sD l) :=
  fields rfl rfl (by decide) (by decide) (by decide) (fun u => match u with | [sD, sQ, 0, op, 0] => some (.kvseqLiteral g (op == 1) (.ofNat 5 sQ) (.ofNat 5 sD) l) | _ => none)
    (fun _ => rfl) rfl (by simp)
theorem xshf (g d) : Statement (.xshf g d) :=
  packed rfl rfl (by decide) (by decide) XFields_lt (by
    show ((XFields.ofBits d.toBits).map fun d => (.xshf g d : Instr)) = _
    rw [XFields_bits]; rfl)
theorem xred (g d) : Statement (.xred g d) :=
  packed rfl rfl (by decide) (by decide) XFields_lt (by
    show ((XFields.ofBits d.toBits).map fun d => (.xred g d : Instr)) = _
    rw [XFields_bits]; rfl)
theorem xbc (g d) : Statement (.xbc g d) :=
  packed rfl rfl (by decide) (by decide) XFields_lt (by
    show ((XFields.ofBits d.toBits).map fun d => (.xbc g d : Instr)) = _
    rw [XFields_bits]; rfl)
theorem xvot (g vd sD pn ps) : Statement (.xvot g vd sD pn ps) :=
  fields rfl rfl (by decide) (by decide) (by decide) (fun u => match u with | [ps, pn, 0, sD, vd, 0] => some (.xvot g (.ofNat 6 vd) (.ofNat 5 sD) (pn == 1) (.ofNat 3 ps)) | _ => none)
    (fun _ => rfl) rfl (by simp)
theorem xpick (g d) : Statement (.xpick g d) :=
  fields rfl rfl (by decide) (by decide) (by decide) (fun u => match u with | [F_vd, F_va, F_lq, F_ln, F_ps, F_pn, F_sD, F_hi, 0] => some (.xpick g ⟨F_hi == 1, .ofNat 5 F_sD, F_pn == 1, .ofNat 3 F_ps, F_ln == 1, .ofNat 3 F_lq, .ofNat 6 F_va, .ofNat 6 F_vd⟩) | _ => none)
    (fun _ => rfl) rfl (by simp)
theorem xsnd (g opnd ch) : Statement (.xsnd g opnd ch) :=
  fields rfl rfl (by decide) (by decide) (by decide) (fun u => match u with | [ch, opnd, 0] => some (.xsnd g (.ofNat 6 opnd) (.ofNat 10 ch)) | _ => none)
    (fun _ => rfl) rfl (by simp)
theorem xrcv (g opnd ch) : Statement (.xrcv g opnd ch) :=
  fields rfl rfl (by decide) (by decide) (by decide) (fun u => match u with | [ch, opnd, 0] => some (.xrcv g (.ofNat 6 opnd) (.ofNat 10 ch)) | _ => none)
    (fun _ => rfl) rfl (by simp)
theorem xrca (g opnd ch) : Statement (.xrca g opnd ch) :=
  fields rfl rfl (by decide) (by decide) (by decide) (fun u => match u with | [ch, opnd, 0] => some (.xrca g (.ofNat 6 opnd) (.ofNat 10 ch)) | _ => none)
    (fun _ => rfl) rfl (by simp)
theorem xchs (g sD ch) : Statement (.xchs g sD ch) :=
  fields rfl rfl (by decide) (by decide) (by decide) (fun u => match u with | [ch, sD, 0] => some (.xchs g (.ofNat 5 sD) (.ofNat 10 ch)) | _ => none)
    (fun _ => rfl) rfl (by simp)
theorem chld (g sA ch) : Statement (.chld g sA ch) :=
  fields rfl rfl (by decide) (by decide) (by decide) (fun u => match u with | [ch, sA, 0] => some (.chld g (.ofNat 5 sA) (.ofNat 10 ch)) | _ => none)
    (fun _ => rfl) rfl (by simp)
theorem kld (g psel sA sD) : Statement (.kld g psel sA sD) :=
  fields rfl rfl (by decide) (by decide) (by decide) (fun u => match u with | [sD, sA, psel, 0] => some (.kld g (.ofNat 2 psel) (.ofNat 5 sA) (.ofNat 5 sD)) | _ => none)
    (fun _ => rfl) rfl (by simp)
theorem kldLiteral (g psel sD l) : Statement (.kldLiteral g psel sD l) :=
  fields rfl rfl (by decide) (by decide) (by decide) (fun u => match u with | [sD, 0, psel, 0] => some (.kldLiteral g (.ofNat 2 psel) (.ofNat 5 sD) l) | _ => none)
    (fun _ => rfl) rfl (by simp)
theorem kgo (g sR sP) : Statement (.kgo g sR sP) :=
  fields rfl rfl (by decide) (by decide) (by decide) (fun u => match u with | [sP, sR, 0] => some (.kgo g (.ofNat 5 sR) (.ofNat 5 sP)) | _ => none)
    (fun _ => rfl) rfl (by simp)
theorem kwt (g rel sP sD) : Statement (.kwt g rel sP sD) :=
  fields rfl rfl (by decide) (by decide) (by decide) (fun u => match u with | [sD, sP, rel, 0] => some (.kwt g (rel == 1) (.ofNat 5 sP) (.ofNat 5 sD)) | _ => none)
    (fun _ => rfl) rfl (by simp)

/-- Bit 10 of F tells the two forms of OTAG apart. -/
theorem bit_ten (f : Nat) : f.testBit 10 = decide (f / 2 ^ 5 / 2 ^ 4 / 2 ^ 1 % 2 ^ 1 = 1) := by
  rw [Nat.testBit_eq_decide_div_mod_eq]
  congr 2
  simp only [Nat.div_div_eq_div_mul]; norm_num

theorem otag_parts (g : Gate) (f : Nat) : decodeParts ⟨4, 9, false, none, g, f⟩ =
    if f.testBit 10 then (match unpackFields [5, 3, 2, 1, 5] f with | [o, pd, 0, 1, sU, 0] => some (.otagQ g (.ofNat 5 sU) (.ofNat 3 pd) (.ofNat 5 o)) | _ => none)
    else (match unpackFields [5, 4, 1, 1, 5] f with | [o, fmt, setf, 0, sU, 0] => some (.otag g (.ofNat 5 sU) (setf == 1) (.ofNat 4 fmt) (.ofNat 5 o)) | _ => none) := rfl

theorem otag (g sU setf fmt o) : Statement (.otag g sU setf fmt o) := by
  have h : (packFields [(5, o.toNat), (4, fmt.toNat), (1, setf.toNat), (1, 0), (5, sU.toNat)]).testBit 10 = false := by
    have e := congrArg (fun l => l.getD 3 0) (unpack_eq (ws := [5, 4, 1, 1, 5]) (l := [(5, o.toNat), (4, fmt.toNat), (1, setf.toNat), (1, 0), (5, sU.toNat)]) rfl)
    simp only [unpackFields, List.getD_cons_succ, List.getD_cons_zero, List.map_cons, List.cons_append] at e
    rw [bit_ten, e]; decide
  exact packed rfl rfl (by decide) (by decide) (pack_le (ws := [5, 4, 1, 1, 5]) rfl (by decide)) ((otag_parts ..).trans (by
    rw [if_neg (by rw [h]; decide), unpack_eq (ws := [5, 4, 1, 1, 5]) rfl]; simp))

theorem otagQ (g sU pd o) : Statement (.otagQ g sU pd o) := by
  have h : (packFields [(5, o.toNat), (3, pd.toNat), (2, 0), (1, 1), (5, sU.toNat)]).testBit 10 = true := by
    have e := congrArg (fun l => l.getD 3 0) (unpack_eq (ws := [5, 3, 2, 1, 5]) (l := [(5, o.toNat), (3, pd.toNat), (2, 0), (1, 1), (5, sU.toNat)]) rfl)
    simp only [unpackFields, List.getD_cons_succ, List.getD_cons_zero, List.map_cons, List.cons_append, Nat.div_div_eq_div_mul] at e
    rw [bit_ten]
    simp only [Nat.div_div_eq_div_mul]
    norm_num at e ⊢; exact e
  exact packed rfl rfl (by decide) (by decide) (pack_le (ws := [5, 3, 2, 1, 5]) rfl (by decide)) ((otag_parts ..).trans (by
    rw [if_pos h, unpack_eq (ws := [5, 3, 2, 1, 5]) rfl]; simp))

/-! ## Kubor words -/

/-- The head of a Kubor word read back. -/
@[simp] theorem head_back (k : KHead) : (⟨k.ts.toNat == 1, .ofNat 4 k.tsr.toNat, k.ce.toNat == 1, .ofNat 3 k.cn.toNat⟩ : KHead) = k := by
  have b : ∀ b : Bool, (b.toNat == 1) = b := by decide
  simp [b]

/-- Decode a Kubor word whose fields have been cut off. -/
def cut (u : List Nat) : Option Instr :=
  match u with
  | [f, cn, ce, tsr, ts, op, 0] =>
    let k : KHead := ⟨ts == 1, .ofNat 4 tsr, ce == 1, .ofNat 3 cn⟩
    match op with
    | 1 => (KData.ofBits f).map (.send k)
    | 2 => (KData.ofBits f).map (.recv k)
    | 3 => (KData.ofBits f).map (.rdc k)
    | 4 => (KData.ofBits f).map (.copy k)
    | 5 => decodeKWait k f
    | 6 => decodeKSig k f
    | 7 => decodeKLoop k f
    | 8 => decodeKBrc k f
    | 9 => if f = 0 then some (.kend k) else none
    | _ => none
  | _ => none

theorem cut_eq (w : Nat) : decodeKubor w = cut (unpackFields [115, 3, 1, 4, 1, 4] w) := rfl

theorem cut_1 (k : KHead) (f : Nat) : cut [f, k.cn.toNat, k.ce.toNat, k.tsr.toNat, k.ts.toNat, 1, 0] = (KData.ofBits f).map (Instr.send k) := by
  conv_rhs => rw [← head_back k]
  rfl
theorem cut_2 (k : KHead) (f : Nat) : cut [f, k.cn.toNat, k.ce.toNat, k.tsr.toNat, k.ts.toNat, 2, 0] = (KData.ofBits f).map (Instr.recv k) := by
  conv_rhs => rw [← head_back k]
  rfl
theorem cut_3 (k : KHead) (f : Nat) : cut [f, k.cn.toNat, k.ce.toNat, k.tsr.toNat, k.ts.toNat, 3, 0] = (KData.ofBits f).map (Instr.rdc k) := by
  conv_rhs => rw [← head_back k]
  rfl
theorem cut_4 (k : KHead) (f : Nat) : cut [f, k.cn.toNat, k.ce.toNat, k.tsr.toNat, k.ts.toNat, 4, 0] = (KData.ofBits f).map (Instr.copy k) := by
  conv_rhs => rw [← head_back k]
  rfl
theorem cut_5 (k : KHead) (f : Nat) : cut [f, k.cn.toNat, k.ce.toNat, k.tsr.toNat, k.ts.toNat, 5, 0] = decodeKWait k f := by
  conv_rhs => rw [← head_back k]
  rfl
theorem cut_6 (k : KHead) (f : Nat) : cut [f, k.cn.toNat, k.ce.toNat, k.tsr.toNat, k.ts.toNat, 6, 0] = decodeKSig k f := by
  conv_rhs => rw [← head_back k]
  rfl
theorem cut_7 (k : KHead) (f : Nat) : cut [f, k.cn.toNat, k.ce.toNat, k.tsr.toNat, k.ts.toNat, 7, 0] = decodeKLoop k f := by
  conv_rhs => rw [← head_back k]
  rfl
theorem cut_8 (k : KHead) (f : Nat) : cut [f, k.cn.toNat, k.ce.toNat, k.tsr.toNat, k.ts.toNat, 8, 0] = decodeKBrc k f := by
  conv_rhs => rw [← head_back k]
  rfl
theorem cut_9 (k : KHead) (f : Nat) : cut [f, k.cn.toNat, k.ce.toNat, k.tsr.toNat, k.ts.toNat, 9, 0] = if f = 0 then some (Instr.kend k) else none := by
  conv_rhs => rw [← head_back k]
  rfl

/-- A Kubor word from its head, opcode and bits 114:0. -/
theorem kubor_back {i : Instr} {k : KHead} {op f : Nat} (hp : encodeParts i = none) (h : encodeKubor i = some (kuborBits k op f)) (ho : op < 16)
    (hf : f < 2 ^ 115) (hF : cut [f, k.cn.toNat, k.ce.toNat, k.tsr.toNat, k.ts.toNat, op, 0] = some i) : Statement i := by
  refine ⟨fun p q => ?_, fun w hw => ?_⟩
  · rw [hp] at q; cases q
  · rw [h] at hw; injection hw with hw; subst hw
    refine ⟨pack_le (ws := [115, 3, 1, 4, 1, 4]) rfl (by decide), ?_⟩
    rw [cut_eq, kuborBits, unpack_eq (ws := [115, 3, 1, 4, 1, 4]) rfl]
    have b : ∀ b : Bool, b.toNat % 2 ^ 1 = b.toNat := by decide
    simp only [List.map_cons, List.map_nil, List.cons_append, List.nil_append, Nat.mod_eq_of_lt hf, Nat.mod_eq_of_lt k.cn.isLt,
      Nat.mod_eq_of_lt k.tsr.isLt, b, Nat.mod_eq_of_lt (show op < 2 ^ 4 from ho)]
    exact hF
theorem send (k d) : Statement (.send k d) :=
  kubor_back rfl rfl (by decide) (pack_le (ws := [32, 32, 6, 3, 4, 4, 4, 4, 4, 2, 4, 4, 8, 4]) rfl (by decide)) (by rw [cut_1, KData_bits]; rfl)
theorem recv (k d) : Statement (.recv k d) :=
  kubor_back rfl rfl (by decide) (pack_le (ws := [32, 32, 6, 3, 4, 4, 4, 4, 4, 2, 4, 4, 8, 4]) rfl (by decide)) (by rw [cut_2, KData_bits]; rfl)
theorem rdc (k d) : Statement (.rdc k d) :=
  kubor_back rfl rfl (by decide) (pack_le (ws := [32, 32, 6, 3, 4, 4, 4, 4, 4, 2, 4, 4, 8, 4]) rfl (by decide)) (by rw [cut_3, KData_bits]; rfl)
theorem copy (k d) : Statement (.copy k d) :=
  kubor_back rfl rfl (by decide) (pack_le (ws := [32, 32, 6, 3, 4, 4, 4, 4, 4, 2, 4, 4, 8, 4]) rfl (by decide)) (by rw [cut_4, KData_bits]; rfl)
theorem waitCnt (k cw wv imm) : Statement (.waitCnt k cw wv imm) :=
  kubor_back rfl rfl (by decide) (pack_le (ws := [32, 70, 4, 4, 3, 2]) rfl (by decide)) (by
    rw [cut_5, decodeKWait, unpack_eq (ws := [32, 70, 4, 4, 3, 2]) rfl]
    simp)
theorem waitGrp (k wv wh) : Statement (.waitGrp k wv wh) :=
  kubor_back rfl rfl (by decide) (pack_le (ws := [32, 70, 4, 4, 3, 2]) rfl (by decide)) (by
    rw [cut_5, decodeKWait, unpack_eq (ws := [32, 70, 4, 4, 3, 2]) rfl]
    simp)
theorem waitTs (k) : Statement (.waitTs k) :=
  kubor_back rfl rfl (by decide) (pack_le (ws := [32, 70, 4, 4, 3, 2]) rfl (by decide)) (by
    rw [cut_5, decodeKWait, unpack_eq (ws := [32, 70, 4, 4, 3, 2]) rfl]
    simp)
theorem sigArv (k wn) : Statement (.sigArv k wn) :=
  kubor_back rfl rfl (by decide) (pack_le (ws := [64, 36, 4, 4, 4, 3]) rfl (by decide)) (by
    rw [cut_6, decodeKSig, unpack_eq (ws := [64, 36, 4, 4, 4, 3]) rfl]
    simp)
theorem sigJoin (k wd wn) : Statement (.sigJoin k wd wn) :=
  kubor_back rfl rfl (by decide) (pack_le (ws := [64, 36, 4, 4, 4, 3]) rfl (by decide)) (by
    rw [cut_6, decodeKSig, unpack_eq (ws := [64, 36, 4, 4, 4, 3]) rfl]
    simp)
theorem sigLeave (k wn) : Statement (.sigLeave k wn) :=
  kubor_back rfl rfl (by decide) (pack_le (ws := [64, 36, 4, 4, 4, 3]) rfl (by decide)) (by
    rw [cut_6, decodeKSig, unpack_eq (ws := [64, 36, 4, 4, 4, 3]) rfl]
    simp)
theorem sigNew (k wd wn wa) : Statement (.sigNew k wd wn wa) :=
  kubor_back rfl rfl (by decide) (pack_le (ws := [64, 36, 4, 4, 4, 3]) rfl (by decide)) (by
    rw [cut_6, decodeKSig, unpack_eq (ws := [64, 36, 4, 4, 4, 3]) rfl]
    simp)
theorem sigStl (k wn wa imm) : Statement (.sigStl k wn wa imm) :=
  kubor_back rfl rfl (by decide) (pack_le (ws := [64, 36, 4, 4, 4, 3]) rfl (by decide)) (by
    rw [cut_6, decodeKSig, unpack_eq (ws := [64, 36, 4, 4, 4, 3]) rfl]
    simp)
theorem kuborLoop (k f) : Statement (.kuborLoop k f) :=
  kubor_back rfl rfl (by decide) (pack_le (ws := [32, 10, 13, 16, 16, 16, 4, 4, 4]) rfl (by decide)) (by
    rw [cut_7, decodeKLoop, unpack_eq (ws := [32, 10, 13, 16, 16, 16, 4, 4, 4]) rfl]
    simp)
theorem brc (k wa wb cond off) : Statement (.brc k wa wb cond off) :=
  kubor_back rfl rfl (by decide) (pack_le (ws := [32, 72, 3, 4, 4]) rfl (by decide)) (by
    rw [cut_8, decodeKBrc, unpack_eq (ws := [32, 72, 3, 4, 4]) rfl]
    simp)
theorem kend (k) : Statement (.kend k) := kubor_back rfl rfl (by decide) (by decide) (by rw [cut_9]; rfl)

/-! ## The steps that are no words -/

/-- An instruction that no word encodes. -/
theorem no_word {i : Instr} (h : encodeParts i = none) (hk : encodeKubor i = none) : Statement i := by
  refine ⟨fun p q => ?_, fun w q => ?_⟩
  · rw [h] at q; cases q
  · rw [hk] at q; cases q

theorem abort (x0) : Statement (.abort x0) := no_word rfl rfl
theorem srseed (x0) : Statement (.srseed x0) := no_word rfl rfl
theorem fqnext (x0) : Statement (.fqnext x0) := no_word rfl rfl
theorem kcurWrite (x0) : Statement (.kcurWrite x0) := no_word rfl rfl
theorem asyncRoundEntry (x0) : Statement (.asyncRoundEntry x0) := no_word rfl rfl
theorem asyncOpStop (x0) : Statement (.asyncOpStop x0) := no_word rfl rfl
theorem copyComplete (x0) : Statement (.copyComplete x0) := no_word rfl rfl
theorem oldLoadComplete (x0 x1) : Statement (.oldLoadComplete x0 x1) := no_word rfl rfl
theorem loadDataReturn (x0 x1) : Statement (.loadDataReturn x0 x1) := no_word rfl rfl
theorem channelElementArrival (x0 x1) : Statement (.channelElementArrival x0 x1) := no_word rfl rfl
theorem invalidationComplete (x0) : Statement (.invalidationComplete x0) := no_word rfl rfl
theorem translationWalk (x0 x1 x2 x3 x4) : Statement (.translationWalk x0 x1 x2 x3 x4) := no_word rfl rfl
theorem segmentFetch (x0 x1) : Statement (.segmentFetch x0 x1) := no_word rfl rfl
theorem binTimer (x0 x1) : Statement (.binTimer x0 x1) := no_word rfl rfl
theorem stealAge (x0 x1) : Statement (.stealAge x0 x1) := no_word rfl rfl
theorem steal (x0) : Statement (.steal x0) := no_word rfl rfl
theorem binLaunch (x0 x1 x2 x3) : Statement (.binLaunch x0 x1 x2 x3) := no_word rfl rfl
theorem waitingItemFile (x0) : Statement (.waitingItemFile x0) := no_word rfl rfl
theorem itemReady (x0) : Statement (.itemReady x0) := no_word rfl rfl
theorem parkWake (x0) : Statement (.parkWake x0) := no_word rfl rfl
theorem cwthrExpiry (x0) : Statement (.cwthrExpiry x0) := no_word rfl rfl
theorem preempt (x0) : Statement (.preempt x0) := no_word rfl rfl
theorem resume (x0 x1 x2) : Statement (.resume x0 x1 x2) := no_word rfl rfl
theorem deferredPark (x0) : Statement (.deferredPark x0) := no_word rfl rfl
theorem candidateAge (x0 x1) : Statement (.candidateAge x0 x1) := no_word rfl rfl
theorem coresGroupResume (x0) : Statement (.coresGroupResume x0) := no_word rfl rfl
theorem regionFree (x0) : Statement (.regionFree x0) := no_word rfl rfl
theorem xpFillComplete (x0 x1) : Statement (.xpFillComplete x0 x1) := no_word rfl rfl
theorem readyToReceive (x0 x1 x2 x3 x4) : Statement (.readyToReceive x0 x1 x2 x3 x4) := no_word rfl rfl
theorem rendezvousTimeout (x0) : Statement (.rendezvousTimeout x0) := no_word rfl rfl
theorem peerAbort (x0) : Statement (.peerAbort x0) := no_word rfl rfl
theorem kuborDataComplete (x0 x1 x2) : Statement (.kuborDataComplete x0 x1 x2) := no_word rfl rfl
theorem timedIssue (x0) : Statement (.timedIssue x0) := no_word rfl rfl
theorem launch (x0) : Statement (.launch x0) := no_word rfl rfl
theorem launchComplete : Statement .launchComplete := no_word rfl rfl
theorem retire (x0) : Statement (.retire x0) := no_word rfl rfl
theorem refresh (x0) : Statement (.refresh x0) := no_word rfl rfl
theorem hold (x0) : Statement (.hold x0) := no_word rfl rfl
theorem release (x0) : Statement (.release x0) := no_word rfl rfl
theorem rstctl (x0) : Statement (.rstctl x0) := no_word rfl rfl
theorem registerWrite (x0 x1 x2) : Statement (.registerWrite x0 x1 x2) := no_word rfl rfl
theorem memoryBarRead (x0 x1) : Statement (.memoryBarRead x0 x1) := no_word rfl rfl
theorem memoryBarWrite (x0 x1) : Statement (.memoryBarWrite x0 x1) := no_word rfl rfl
theorem fwEnable (x0 x1) : Statement (.fwEnable x0 x1) := no_word rfl rfl
theorem fwDisable (x0 x1) : Statement (.fwDisable x0 x1) := no_word rfl rfl
theorem halt : Statement .halt := no_word rfl rfl
theorem run : Statement .run := no_word rfl rfl
theorem step : Statement .step := no_word rfl rfl
theorem stepall : Statement .stepall := no_word rfl rfl
theorem debugEnableSet : Statement .debugEnableSet := no_word rfl rfl
theorem debugEnableClear : Statement .debugEnableClear := no_word rfl rfl
theorem dbgdata (x0) : Statement (.dbgdata x0) := no_word rfl rfl
theorem lwin (x0 x1) : Statement (.lwin x0 x1) := no_word rfl rfl
theorem xpctl (x0 x1) : Statement (.xpctl x0 x1) := no_word rfl rfl
theorem stctl (x0) : Statement (.stctl x0) := no_word rfl rfl
theorem promote (x0) : Statement (.promote x0) := no_word rfl rfl
theorem demote (x0) : Statement (.demote x0) := no_word rfl rfl
theorem replace (x0) : Statement (.replace x0) := no_word rfl rfl
theorem refetch (x0) : Statement (.refetch x0) := no_word rfl rfl
theorem nvmeCompletion (x0 x1) : Statement (.nvmeCompletion x0 x1) := no_word rfl rfl
theorem start : Statement .start := no_word rfl rfl
theorem checkpointTransfer : Statement .checkpointTransfer := no_word rfl rfl
theorem restore : Statement .restore := no_word rfl rfl
theorem enterGangIdle (x0) : Statement (.enterGangIdle x0) := no_word rfl rfl
theorem enterDieRetention (x0) : Statement (.enterDieRetention x0) := no_word rfl rfl
theorem enterPackageStandby : Statement .enterPackageStandby := no_word rfl rfl
theorem wake (x0) : Statement (.wake x0) := no_word rfl rfl
theorem currentGrant : Statement .currentGrant := no_word rfl rfl
theorem ttctl (x0 x1) : Statement (.ttctl x0 x1) := no_word rfl rfl
theorem tdom (x0) : Statement (.tdom x0) := no_word rfl rfl
theorem tsnap (x0) : Statement (.tsnap x0) := no_word rfl rfl
theorem gret (x0) : Statement (.gret x0) := no_word rfl rfl
theorem gangErrorRetire (x0) : Statement (.gangErrorRetire x0) := no_word rfl rfl
theorem hbmChannelSpare (x0 x1) : Statement (.hbmChannelSpare x0 x1) := no_word rfl rfl
theorem laneFailure (x0) : Statement (.laneFailure x0) := no_word rfl rfl
theorem scrub : Statement .scrub := no_word rfl rfl
theorem eccUncorrectable (x0) : Statement (.eccUncorrectable x0) := no_word rfl rfl
theorem boot : Statement .boot := no_word rfl rfl
theorem bootimg (x0) : Statement (.bootimg x0) := no_word rfl rfl
theorem attreq (x0) : Statement (.attreq x0) := no_word rfl rfl
theorem keyld (x0) : Statement (.keyld x0) := no_word rfl rfl
theorem linkMemoryArrival (x0) : Statement (.linkMemoryArrival x0) := no_word rfl rfl
theorem multiplyReadsDone (x0) : Statement (.multiplyReadsDone x0) := no_word rfl rfl
theorem flitReplay (x0) : Statement (.flitReplay x0) := no_word rfl rfl
theorem hbmSpareCopyDone (x0 x1) : Statement (.hbmSpareCopyDone x0 x1) := no_word rfl rfl

end Sys2Proof.Laws.RoundTrip
end

