-- ==== Sys2Proof/Laws/Table.lean ====
section
/-!
SUPPORT. Sparse tables: what a read gives after a write, and that the operations of tables and of memory keep the canonical form.
-/
namespace Sys2Proof.Laws

open Machine

variable {α : Type}

@[simp] theorem tableFind_nil (k : Nat) : tableFind ([] : Table α) k = none := rfl

@[simp] theorem tableFind_insert_self (t : Table α) (k : Nat) (v : α) : tableFind (tableInsert t k v) k = some v := by
  induction t with
  | nil => simp [tableInsert, tableFind]
  | cons e t ih =>
    obtain ⟨j, w⟩ := e
    simp only [tableInsert]
    split
    · simp [tableFind]
    · split
      · simp [tableFind]
      · simp [tableFind, *]

theorem tableFind_insert_ne (t : Table α) {k j : Nat} (v : α) (h : j ≠ k) : tableFind (tableInsert t k v) j = tableFind t j := by
  induction t with
  | nil => simp [tableInsert, tableFind, Ne.symm h]
  | cons e t ih =>
    obtain ⟨i, w⟩ := e
    simp only [tableInsert]
    split
    · subst_vars; simp [tableFind, Ne.symm h]
    · split
      · simp [tableFind, Ne.symm h]
      · simp [tableFind, ih]

@[simp] theorem tableFind_erase_self (t : Table α) (k : Nat) : tableFind (tableErase t k) k = none := by
  induction t with
  | nil => rfl
  | cons e t ih =>
    obtain ⟨j, w⟩ := e
    simp only [tableErase]
    split
    · exact ih
    · simp [tableFind, *]

theorem tableFind_erase_ne (t : Table α) {k j : Nat} (h : j ≠ k) : tableFind (tableErase t k) j = tableFind t j := by
  induction t with
  | nil => rfl
  | cons e t ih =>
    obtain ⟨i, w⟩ := e
    simp only [tableErase]
    split
    · subst_vars; simp [tableFind, Ne.symm h, ih]
    · simp [tableFind, ih]

@[simp] theorem tableGet_insert_self (t : Table α) (k : Nat) (v d : α) : tableGet (tableInsert t k v) k d = v := by simp [tableGet]

theorem tableGet_insert_ne (t : Table α) {k j : Nat} (v d : α) (h : j ≠ k) : tableGet (tableInsert t k v) j d = tableGet t j d := by
  simp [tableGet, tableFind_insert_ne t v h]

@[simp] theorem tableGet_set_self [DecidableEq α] (t : Table α) (k : Nat) (v d : α) : tableGet (tableSet t k v d) k d = v := by
  unfold tableSet; split <;> simp [tableGet, *]

theorem tableGet_set_ne [DecidableEq α] (t : Table α) {k j : Nat} (v d : α) (h : j ≠ k) : tableGet (tableSet t k v d) j d = tableGet t j d := by
  unfold tableSet; split <;> simp [tableGet, tableFind_erase_ne t h, tableFind_insert_ne t v h]

/-! ## The canonical form -/

theorem tableAbove_mono {t : Table α} {j k : Nat} (h : tableAbove k t = true) (hj : j ≤ k) : tableAbove j t = true := by
  cases t with
  | nil => rfl
  | cons e t =>
    obtain ⟨i, w⟩ := e
    simp only [tableAbove, Bool.and_eq_true, decide_eq_true_eq] at *
    exact ⟨by omega, h.2⟩

theorem tableAbove_insert {t : Table α} {j k : Nat} {v : α} (h : tableAbove j t = true) (hj : j < k) : tableAbove j (tableInsert t k v) = true := by
  induction t generalizing j with
  | nil => simpa [tableInsert, tableAbove] using hj
  | cons e t ih =>
    obtain ⟨i, w⟩ := e
    simp only [tableAbove, Bool.and_eq_true, decide_eq_true_eq] at h
    simp only [tableInsert]
    split
    · subst_vars; simp [tableAbove, h.1, h.2]
    · split
      · simp [tableAbove, *]
      · simp only [tableAbove, Bool.and_eq_true, decide_eq_true_eq]
        exact ⟨h.1, ih h.2 (by omega)⟩

theorem tableAbove_erase {t : Table α} {j k : Nat} (h : tableAbove j t = true) : tableAbove j (tableErase t k) = true := by
  induction t generalizing j with
  | nil => rfl
  | cons e t ih =>
    obtain ⟨i, w⟩ := e
    simp only [tableAbove, Bool.and_eq_true, decide_eq_true_eq] at h
    simp only [tableErase]
    split
    · exact ih (tableAbove_mono h.2 (by omega))
    · simp only [tableAbove, Bool.and_eq_true, decide_eq_true_eq]; exact ⟨h.1, ih h.2⟩

/-- Inserting keeps keys rising. -/
theorem tableSorted_insert {t : Table α} {k : Nat} {v : α} (h : tableSorted t = true) : tableSorted (tableInsert t k v) = true := by
  cases t with
  | nil => rfl
  | cons e t =>
    obtain ⟨i, w⟩ := e
    simp only [tableSorted] at h
    simp only [tableInsert]
    split
    · subst_vars; simpa [tableSorted] using h
    · split
      · simp [tableSorted, tableAbove, *]
      · simp only [tableSorted]; exact tableAbove_insert h (by omega)

/-- Erasing keeps keys rising. -/
theorem tableSorted_erase {t : Table α} {k : Nat} (h : tableSorted t = true) : tableSorted (tableErase t k) = true := by
  induction t with
  | nil => rfl
  | cons e t ih =>
    obtain ⟨i, w⟩ := e
    simp only [tableSorted] at h
    simp only [tableErase]
    split
    · apply ih
      cases t with
      | nil => rfl
      | cons f u => obtain ⟨a, b⟩ := f; simp only [tableAbove, Bool.and_eq_true] at h; exact h.2
    · simp only [tableSorted]; exact tableAbove_erase h

theorem mem_insert {t : Table α} {k : Nat} {v : α} {e : Nat × α} (h : e ∈ tableInsert t k v) : e = (k, v) ∨ e ∈ t := by
  induction t with
  | nil => simpa [tableInsert] using h
  | cons f t ih =>
    obtain ⟨i, w⟩ := f
    simp only [tableInsert] at h
    split at h
    · simp at h; rcases h with h | h <;> simp [h]
    · split at h
      · simp at h; rcases h with h | h | h <;> simp [h]
      · simp at h
        rcases h with h | h
        · simp [h]
        · rcases ih h with h | h <;> simp [h]

theorem mem_erase {t : Table α} {k : Nat} {e : Nat × α} (h : e ∈ tableErase t k) : e ∈ t := by
  induction t with
  | nil => simp [tableErase] at h
  | cons f t ih =>
    obtain ⟨i, w⟩ := f
    simp only [tableErase] at h
    split at h
    · simp [ih h]
    · simp at h; rcases h with h | h
      · simp [h]
      · simp [ih h]

/-- A write keeps a table canonical. -/
theorem tableWf_set [DecidableEq α] {t : Table α} {k : Nat} {v d : α} (h : tableWf (fun _ => d) t = true) :
    tableWf (fun _ => d) (tableSet t k v d) = true := by
  simp only [tableWf, Bool.and_eq_true, List.all_eq_true, decide_eq_true_eq] at *
  unfold tableSet
  split
  · exact ⟨tableSorted_erase h.1, fun e he => h.2 e (mem_erase he)⟩
  · refine ⟨tableSorted_insert h.1, fun e he => ?_⟩
    rcases mem_insert he with rfl | he
    · assumption
    · exact h.2 e he

/-- Writing bytes keeps memory canonical. -/
theorem writeMem_wf (bs : List Byte) : ∀ (m : Memory) (pa : Nat), Memory.wf m = true → Memory.wf (writeMem m pa bs) = true := by
  induction bs with
  | nil => intro m pa h; exact h
  | cons b bs ih => intro m pa h; exact ih _ _ (tableWf_set h)

/-- What a byte reads as after a write. -/
theorem writeMem_get (bs : List Byte) : ∀ (m : Memory) (pa a : Nat),
    tableGet (writeMem m pa bs) a 0 = if pa ≤ a ∧ a < pa + bs.length then bs.getD (a - pa) 0 else tableGet m a 0 := by
  induction bs with
  | nil => intro m pa a; rw [if_neg (by simp)]; rfl
  | cons b bs ih =>
    intro m pa a
    simp only [writeMem, ih, List.length_cons]
    by_cases h : a = pa
    · subst h
      rw [if_neg (by omega), if_pos (by omega)]; simp
    · rw [tableGet_set_ne _ _ _ h]
      by_cases h2 : pa + 1 ≤ a ∧ a < pa + 1 + bs.length
      · rw [if_pos h2, if_pos (by omega)]
        obtain ⟨n, rfl⟩ := Nat.exists_eq_add_of_le h2.1
        have : pa + 1 + n - pa = n + 1 := by omega
        rw [this]; simp
      · rw [if_neg h2, if_neg (by omega)]

/-! ## HBM -/

theorem foldl_keeps {σ β : Type} {P : σ → Prop} {f : σ → β → σ} (h : ∀ s x, P s → P (f s x)) :
    ∀ (l : List β) (s : σ), P s → P (l.foldl f s)
  | [], _, hs => hs
  | x :: l, s, hs => foldl_keeps h l (f s x) (h s x hs)

/-- The canonical form of HBM and of the keys of its blocks. -/
def HbmWf (s : State) : Prop := Memory.wf s.mem = true ∧ tableWf (fun _ => 0) s.blockKeys = true

theorem hbmWf_reset : HbmWf State.reset := ⟨rfl, rfl⟩

theorem rekeyBlock_wf {s : State} (seen key : BitVec 512) (n : Nat) (h : HbmWf s) : HbmWf (s.rekeyBlock seen key n) := by
  unfold State.rekeyBlock
  split
  · exact h
  · exact ⟨writeMem_wf _ _ _ h.1, tableWf_set h.2⟩

/-- A counter is no part of HBM. -/
theorem count_wf {s : State} (die : Option Nat) (i n : Nat) (h : HbmWf s) : HbmWf (s.count die i n) := h

theorem writeBack_wf {s : State} (line : Nat) (h : HbmWf s) : HbmWf (s.writeBack line) := by
  unfold State.writeBack
  split
  · next x _ =>
    split
    · exact h
    · have hk := foldl_keeps (P := HbmWf) (fun u i hu => rekeyBlock_wf x.key (s.keyOf x.tag) (line * 8 + i) hu) (List.range 8) s h
      have ht : HbmWf (if x.key = s.keyOf x.tag then s
          else (List.range 8).foldl (fun u i => u.rekeyBlock x.key (s.keyOf x.tag) (line * 8 + i)) s) := by
        split
        · exact h
        · exact hk
      exact ht
  · exact h

theorem useLine_wf {s : State} (slot line : Nat) (write : Bool) (h : HbmWf s) : HbmWf (s.useLine slot line write) := by
  unfold State.useLine
  dsimp only
  split
  · split
    · split <;> exact h
    · exact (show HbmWf (s.writeBack line) from writeBack_wf line h)
  · exact h

theorem useLines_wf {s : State} (slot pa n : Nat) (write : Bool) (h : HbmWf s) : HbmWf (s.useLines slot pa n write) := by
  unfold State.useLines
  split
  · exact h
  · exact foldl_keeps (P := HbmWf) (fun t i ht => useLine_wf slot (pa / 128 + i) write ht) _ s h

theorem mendWords_wf {s : State} (pa n : Nat) (h : HbmWf s) : HbmWf (s.mendWords pa n) := by
  unfold State.mendWords
  split <;> exact h

theorem hbmWrite_wf {s : State} (slot : Nat) (pa : Nat) (bs : List Byte) (h : HbmWf s) : HbmWf (s.hbmWrite slot pa bs) := by
  unfold State.hbmWrite
  split
  · exact h
  · have h1 := useLines_wf slot pa bs.length true h
    have h2 := foldl_keeps (P := HbmWf) (f := fun t i => t.rekeyBlock (t.keysAt (t.tagFor slot ((pa / 16 + i) / 8)) ((pa / 16 + i) / 8))
        (t.keysAt (t.tagFor slot ((pa / 16 + i) / 8)) ((pa / 16 + i) / 8)) (pa / 16 + i))
      (fun t i ht => rekeyBlock_wf _ _ _ ht) (List.range ((pa + bs.length - 1) / 16 - pa / 16 + 1)) _ h1
    exact mendWords_wf _ _ ⟨writeMem_wf _ _ _ h2.1, h2.2⟩

/-- What a read leaves keeps HBM canonical. -/
theorem readsHbm_wf {s : State} (v : EccVictim) (slot pa n : Nat) (h : HbmWf s) : HbmWf (s.readsHbm v slot pa n) := by
  unfold State.readsHbm
  split
  · exact h
  · dsimp only
    split
    · exact useLines_wf slot pa n false h
    · exact useLines_wf slot pa n false h

theorem viewWrite_wf {s : State} (key : Nat) (w : Window) (pa : Nat) (bs : List Byte) (h : HbmWf s) : HbmWf (s.viewWrite key w pa bs) := by
  unfold State.viewWrite
  refine foldl_keeps (P := HbmWf) (fun t k ht => ?_) _ s h
  unfold State.viewStoreBlock
  dsimp only
  split
  · exact hbmWrite_wf _ _ _ (hbmWrite_wf _ _ _ ht)
  · exact hbmWrite_wf _ _ _ ht

/-- A write at any physical address keeps HBM canonical. -/
theorem physWrite_wf {s : State} (key : Nat) (pa : Nat) (bs : List Byte) (h : HbmWf s) : HbmWf (s.physWrite key pa bs) := by
  unfold State.physWrite
  split
  · exact hbmWrite_wf _ _ _ h
  · split
    · exact viewWrite_wf _ _ _ _ h
    · exact h
  · exact h
  · unfold State.count; exact h
  · exact h

end Sys2Proof.Laws
end

