-- ==== Sys2Proof/Laws/State.lean ====
section
/-!
SUPPORT. What each update of the state leaves and changes, field by field, so that no later proof unfolds a record update.
-/
namespace Sys2Proof.Laws

open Machine

/-! ## State.setCtx -/

@[simp] theorem setCtx_now (s : State) (cid : Nat) (c : Ctx) : (s.setCtx cid c).now = s.now := rfl
@[simp] theorem setCtx_free (s : State) (cid : Nat) (c : Ctx) : (s.setCtx cid c).free = s.free := rfl
@[simp] theorem setCtx_plan (s : State) (cid : Nat) (c : Ctx) : (s.setCtx cid c).plan = s.plan := rfl
@[simp] theorem setCtx_focus (s : State) (cid : Nat) (c : Ctx) : (s.setCtx cid c).focus = s.focus := rfl
@[simp] theorem setCtx_porchFocus (s : State) (cid : Nat) (c : Ctx) : (s.setCtx cid c).porchFocus = s.porchFocus := rfl
@[simp] theorem setCtx_order (s : State) (cid : Nat) (c : Ctx) : (s.setCtx cid c).order = s.order := rfl
@[simp] theorem setCtx_issue (s : State) (cid : Nat) (c : Ctx) : (s.setCtx cid c).issue = s.issue := rfl
@[simp] theorem setCtx_nextCid (s : State) (cid : Nat) (c : Ctx) : (s.setCtx cid c).nextCid = s.nextCid := rfl
@[simp] theorem setCtx_nextOp (s : State) (cid : Nat) (c : Ctx) : (s.setCtx cid c).nextOp = s.nextOp := rfl
@[simp] theorem setCtx_ctxs (s : State) (cid : Nat) (c : Ctx) : (s.setCtx cid c).ctxs = tableInsert s.ctxs cid c := rfl
@[simp] theorem setCtx_engines (s : State) (cid : Nat) (c : Ctx) : (s.setCtx cid c).engines = s.engines := rfl
@[simp] theorem setCtx_seqs (s : State) (cid : Nat) (c : Ctx) : (s.setCtx cid c).seqs = s.seqs := rfl
@[simp] theorem setCtx_dies (s : State) (cid : Nat) (c : Ctx) : (s.setCtx cid c).dies = s.dies := rfl
@[simp] theorem setCtx_mem (s : State) (cid : Nat) (c : Ctx) : (s.setCtx cid c).mem = s.mem := rfl
@[simp] theorem setCtx_blockKeys (s : State) (cid : Nat) (c : Ctx) : (s.setCtx cid c).blockKeys = s.blockKeys := rfl
@[simp] theorem setCtx_pantry (s : State) (cid : Nat) (c : Ctx) : (s.setCtx cid c).pantry = s.pantry := rfl
@[simp] theorem setCtx_outbox (s : State) (cid : Nat) (c : Ctx) : (s.setCtx cid c).outbox = s.outbox := rfl
@[simp] theorem setCtx_ops (s : State) (cid : Nat) (c : Ctx) : (s.setCtx cid c).ops = s.ops := rfl
@[simp] theorem setCtx_groups (s : State) (cid : Nat) (c : Ctx) : (s.setCtx cid c).groups = s.groups := rfl
@[simp] theorem setCtx_channels (s : State) (cid : Nat) (c : Ctx) : (s.setCtx cid c).channels = s.channels := rfl
@[simp] theorem setCtx_porches (s : State) (cid : Nat) (c : Ctx) : (s.setCtx cid c).porches = s.porches := rfl
@[simp] theorem setCtx_regions (s : State) (cid : Nat) (c : Ctx) : (s.setCtx cid c).regions = s.regions := rfl
@[simp] theorem setCtx_bar (s : State) (cid : Nat) (c : Ctx) : (s.setCtx cid c).bar = s.bar := rfl
@[simp] theorem setCtx_launching (s : State) (cid : Nat) (c : Ctx) : (s.setCtx cid c).launching = s.launching := rfl
@[simp] theorem setCtx_cellar (s : State) (cid : Nat) (c : Ctx) : (s.setCtx cid c).cellar = s.cellar := rfl
@[simp] theorem setCtx_fleet (s : State) (cid : Nat) (c : Ctx) : (s.setCtx cid c).fleet = s.fleet := rfl

/-! ## State.modCtx -/

@[simp] theorem modCtx_now (s : State) (cid : Nat) (f : Ctx → Ctx) : (s.modCtx cid f).now = s.now := rfl
@[simp] theorem modCtx_free (s : State) (cid : Nat) (f : Ctx → Ctx) : (s.modCtx cid f).free = s.free := rfl
@[simp] theorem modCtx_plan (s : State) (cid : Nat) (f : Ctx → Ctx) : (s.modCtx cid f).plan = s.plan := rfl
@[simp] theorem modCtx_focus (s : State) (cid : Nat) (f : Ctx → Ctx) : (s.modCtx cid f).focus = s.focus := rfl
@[simp] theorem modCtx_porchFocus (s : State) (cid : Nat) (f : Ctx → Ctx) : (s.modCtx cid f).porchFocus = s.porchFocus := rfl
@[simp] theorem modCtx_order (s : State) (cid : Nat) (f : Ctx → Ctx) : (s.modCtx cid f).order = s.order := rfl
@[simp] theorem modCtx_issue (s : State) (cid : Nat) (f : Ctx → Ctx) : (s.modCtx cid f).issue = s.issue := rfl
@[simp] theorem modCtx_nextCid (s : State) (cid : Nat) (f : Ctx → Ctx) : (s.modCtx cid f).nextCid = s.nextCid := rfl
@[simp] theorem modCtx_nextOp (s : State) (cid : Nat) (f : Ctx → Ctx) : (s.modCtx cid f).nextOp = s.nextOp := rfl
@[simp] theorem modCtx_ctxs (s : State) (cid : Nat) (f : Ctx → Ctx) : (s.modCtx cid f).ctxs = tableInsert s.ctxs cid (f (s.ctxAt cid)) := rfl
@[simp] theorem modCtx_engines (s : State) (cid : Nat) (f : Ctx → Ctx) : (s.modCtx cid f).engines = s.engines := rfl
@[simp] theorem modCtx_seqs (s : State) (cid : Nat) (f : Ctx → Ctx) : (s.modCtx cid f).seqs = s.seqs := rfl
@[simp] theorem modCtx_dies (s : State) (cid : Nat) (f : Ctx → Ctx) : (s.modCtx cid f).dies = s.dies := rfl
@[simp] theorem modCtx_mem (s : State) (cid : Nat) (f : Ctx → Ctx) : (s.modCtx cid f).mem = s.mem := rfl
@[simp] theorem modCtx_blockKeys (s : State) (cid : Nat) (f : Ctx → Ctx) : (s.modCtx cid f).blockKeys = s.blockKeys := rfl
@[simp] theorem modCtx_pantry (s : State) (cid : Nat) (f : Ctx → Ctx) : (s.modCtx cid f).pantry = s.pantry := rfl
@[simp] theorem modCtx_outbox (s : State) (cid : Nat) (f : Ctx → Ctx) : (s.modCtx cid f).outbox = s.outbox := rfl
@[simp] theorem modCtx_ops (s : State) (cid : Nat) (f : Ctx → Ctx) : (s.modCtx cid f).ops = s.ops := rfl
@[simp] theorem modCtx_groups (s : State) (cid : Nat) (f : Ctx → Ctx) : (s.modCtx cid f).groups = s.groups := rfl
@[simp] theorem modCtx_channels (s : State) (cid : Nat) (f : Ctx → Ctx) : (s.modCtx cid f).channels = s.channels := rfl
@[simp] theorem modCtx_porches (s : State) (cid : Nat) (f : Ctx → Ctx) : (s.modCtx cid f).porches = s.porches := rfl
@[simp] theorem modCtx_regions (s : State) (cid : Nat) (f : Ctx → Ctx) : (s.modCtx cid f).regions = s.regions := rfl
@[simp] theorem modCtx_bar (s : State) (cid : Nat) (f : Ctx → Ctx) : (s.modCtx cid f).bar = s.bar := rfl
@[simp] theorem modCtx_launching (s : State) (cid : Nat) (f : Ctx → Ctx) : (s.modCtx cid f).launching = s.launching := rfl
@[simp] theorem modCtx_cellar (s : State) (cid : Nat) (f : Ctx → Ctx) : (s.modCtx cid f).cellar = s.cellar := rfl
@[simp] theorem modCtx_fleet (s : State) (cid : Nat) (f : Ctx → Ctx) : (s.modCtx cid f).fleet = s.fleet := rfl

/-! ## State.mod -/

@[simp] theorem mod_now (s : State) (f : Ctx → Ctx) : (s.mod f).now = s.now := rfl
@[simp] theorem mod_free (s : State) (f : Ctx → Ctx) : (s.mod f).free = s.free := rfl
@[simp] theorem mod_plan (s : State) (f : Ctx → Ctx) : (s.mod f).plan = s.plan := rfl
@[simp] theorem mod_focus (s : State) (f : Ctx → Ctx) : (s.mod f).focus = s.focus := rfl
@[simp] theorem mod_porchFocus (s : State) (f : Ctx → Ctx) : (s.mod f).porchFocus = s.porchFocus := rfl
@[simp] theorem mod_order (s : State) (f : Ctx → Ctx) : (s.mod f).order = s.order := rfl
@[simp] theorem mod_issue (s : State) (f : Ctx → Ctx) : (s.mod f).issue = s.issue := rfl
@[simp] theorem mod_nextCid (s : State) (f : Ctx → Ctx) : (s.mod f).nextCid = s.nextCid := rfl
@[simp] theorem mod_nextOp (s : State) (f : Ctx → Ctx) : (s.mod f).nextOp = s.nextOp := rfl
@[simp] theorem mod_ctxs (s : State) (f : Ctx → Ctx) : (s.mod f).ctxs = tableInsert s.ctxs s.focus (f s.me) := rfl
@[simp] theorem mod_engines (s : State) (f : Ctx → Ctx) : (s.mod f).engines = s.engines := rfl
@[simp] theorem mod_seqs (s : State) (f : Ctx → Ctx) : (s.mod f).seqs = s.seqs := rfl
@[simp] theorem mod_dies (s : State) (f : Ctx → Ctx) : (s.mod f).dies = s.dies := rfl
@[simp] theorem mod_mem (s : State) (f : Ctx → Ctx) : (s.mod f).mem = s.mem := rfl
@[simp] theorem mod_blockKeys (s : State) (f : Ctx → Ctx) : (s.mod f).blockKeys = s.blockKeys := rfl
@[simp] theorem mod_pantry (s : State) (f : Ctx → Ctx) : (s.mod f).pantry = s.pantry := rfl
@[simp] theorem mod_outbox (s : State) (f : Ctx → Ctx) : (s.mod f).outbox = s.outbox := rfl
@[simp] theorem mod_ops (s : State) (f : Ctx → Ctx) : (s.mod f).ops = s.ops := rfl
@[simp] theorem mod_groups (s : State) (f : Ctx → Ctx) : (s.mod f).groups = s.groups := rfl
@[simp] theorem mod_channels (s : State) (f : Ctx → Ctx) : (s.mod f).channels = s.channels := rfl
@[simp] theorem mod_porches (s : State) (f : Ctx → Ctx) : (s.mod f).porches = s.porches := rfl
@[simp] theorem mod_regions (s : State) (f : Ctx → Ctx) : (s.mod f).regions = s.regions := rfl
@[simp] theorem mod_bar (s : State) (f : Ctx → Ctx) : (s.mod f).bar = s.bar := rfl
@[simp] theorem mod_launching (s : State) (f : Ctx → Ctx) : (s.mod f).launching = s.launching := rfl
@[simp] theorem mod_cellar (s : State) (f : Ctx → Ctx) : (s.mod f).cellar = s.cellar := rfl
@[simp] theorem mod_fleet (s : State) (f : Ctx → Ctx) : (s.mod f).fleet = s.fleet := rfl

/-! ## State.setEng -/

@[simp] theorem setEng_now (s : State) (g e : Nat) (x : Engine) : (s.setEng g e x).now = s.now := rfl
@[simp] theorem setEng_free (s : State) (g e : Nat) (x : Engine) : (s.setEng g e x).free = s.free := rfl
@[simp] theorem setEng_plan (s : State) (g e : Nat) (x : Engine) : (s.setEng g e x).plan = s.plan := rfl
@[simp] theorem setEng_focus (s : State) (g e : Nat) (x : Engine) : (s.setEng g e x).focus = s.focus := rfl
@[simp] theorem setEng_porchFocus (s : State) (g e : Nat) (x : Engine) : (s.setEng g e x).porchFocus = s.porchFocus := rfl
@[simp] theorem setEng_order (s : State) (g e : Nat) (x : Engine) : (s.setEng g e x).order = s.order := rfl
@[simp] theorem setEng_issue (s : State) (g e : Nat) (x : Engine) : (s.setEng g e x).issue = s.issue := rfl
@[simp] theorem setEng_nextCid (s : State) (g e : Nat) (x : Engine) : (s.setEng g e x).nextCid = s.nextCid := rfl
@[simp] theorem setEng_nextOp (s : State) (g e : Nat) (x : Engine) : (s.setEng g e x).nextOp = s.nextOp := rfl
@[simp] theorem setEng_ctxs (s : State) (g e : Nat) (x : Engine) : (s.setEng g e x).ctxs = s.ctxs := rfl
@[simp] theorem setEng_engines (s : State) (g e : Nat) (x : Engine) : (s.setEng g e x).engines = tableInsert s.engines (engKey g e) x := rfl
@[simp] theorem setEng_seqs (s : State) (g e : Nat) (x : Engine) : (s.setEng g e x).seqs = s.seqs := rfl
@[simp] theorem setEng_dies (s : State) (g e : Nat) (x : Engine) : (s.setEng g e x).dies = s.dies := rfl
@[simp] theorem setEng_mem (s : State) (g e : Nat) (x : Engine) : (s.setEng g e x).mem = s.mem := rfl
@[simp] theorem setEng_blockKeys (s : State) (g e : Nat) (x : Engine) : (s.setEng g e x).blockKeys = s.blockKeys := rfl
@[simp] theorem setEng_pantry (s : State) (g e : Nat) (x : Engine) : (s.setEng g e x).pantry = s.pantry := rfl
@[simp] theorem setEng_outbox (s : State) (g e : Nat) (x : Engine) : (s.setEng g e x).outbox = s.outbox := rfl
@[simp] theorem setEng_ops (s : State) (g e : Nat) (x : Engine) : (s.setEng g e x).ops = s.ops := rfl
@[simp] theorem setEng_groups (s : State) (g e : Nat) (x : Engine) : (s.setEng g e x).groups = s.groups := rfl
@[simp] theorem setEng_channels (s : State) (g e : Nat) (x : Engine) : (s.setEng g e x).channels = s.channels := rfl
@[simp] theorem setEng_porches (s : State) (g e : Nat) (x : Engine) : (s.setEng g e x).porches = s.porches := rfl
@[simp] theorem setEng_regions (s : State) (g e : Nat) (x : Engine) : (s.setEng g e x).regions = s.regions := rfl
@[simp] theorem setEng_bar (s : State) (g e : Nat) (x : Engine) : (s.setEng g e x).bar = s.bar := rfl
@[simp] theorem setEng_launching (s : State) (g e : Nat) (x : Engine) : (s.setEng g e x).launching = s.launching := rfl
@[simp] theorem setEng_cellar (s : State) (g e : Nat) (x : Engine) : (s.setEng g e x).cellar = s.cellar := rfl
@[simp] theorem setEng_fleet (s : State) (g e : Nat) (x : Engine) : (s.setEng g e x).fleet = s.fleet := rfl

/-! ## State.modEng -/

@[simp] theorem modEng_now (s : State) (g e : Nat) (f : Engine → Engine) : (s.modEng g e f).now = s.now := rfl
@[simp] theorem modEng_free (s : State) (g e : Nat) (f : Engine → Engine) : (s.modEng g e f).free = s.free := rfl
@[simp] theorem modEng_plan (s : State) (g e : Nat) (f : Engine → Engine) : (s.modEng g e f).plan = s.plan := rfl
@[simp] theorem modEng_focus (s : State) (g e : Nat) (f : Engine → Engine) : (s.modEng g e f).focus = s.focus := rfl
@[simp] theorem modEng_porchFocus (s : State) (g e : Nat) (f : Engine → Engine) : (s.modEng g e f).porchFocus = s.porchFocus := rfl
@[simp] theorem modEng_order (s : State) (g e : Nat) (f : Engine → Engine) : (s.modEng g e f).order = s.order := rfl
@[simp] theorem modEng_issue (s : State) (g e : Nat) (f : Engine → Engine) : (s.modEng g e f).issue = s.issue := rfl
@[simp] theorem modEng_nextCid (s : State) (g e : Nat) (f : Engine → Engine) : (s.modEng g e f).nextCid = s.nextCid := rfl
@[simp] theorem modEng_nextOp (s : State) (g e : Nat) (f : Engine → Engine) : (s.modEng g e f).nextOp = s.nextOp := rfl
@[simp] theorem modEng_ctxs (s : State) (g e : Nat) (f : Engine → Engine) : (s.modEng g e f).ctxs = s.ctxs := rfl
@[simp] theorem modEng_engines (s : State) (g e : Nat) (f : Engine → Engine) : (s.modEng g e f).engines = tableInsert s.engines (engKey g e) (f (s.eng g e)) := rfl
@[simp] theorem modEng_seqs (s : State) (g e : Nat) (f : Engine → Engine) : (s.modEng g e f).seqs = s.seqs := rfl
@[simp] theorem modEng_dies (s : State) (g e : Nat) (f : Engine → Engine) : (s.modEng g e f).dies = s.dies := rfl
@[simp] theorem modEng_mem (s : State) (g e : Nat) (f : Engine → Engine) : (s.modEng g e f).mem = s.mem := rfl
@[simp] theorem modEng_blockKeys (s : State) (g e : Nat) (f : Engine → Engine) : (s.modEng g e f).blockKeys = s.blockKeys := rfl
@[simp] theorem modEng_pantry (s : State) (g e : Nat) (f : Engine → Engine) : (s.modEng g e f).pantry = s.pantry := rfl
@[simp] theorem modEng_outbox (s : State) (g e : Nat) (f : Engine → Engine) : (s.modEng g e f).outbox = s.outbox := rfl
@[simp] theorem modEng_ops (s : State) (g e : Nat) (f : Engine → Engine) : (s.modEng g e f).ops = s.ops := rfl
@[simp] theorem modEng_groups (s : State) (g e : Nat) (f : Engine → Engine) : (s.modEng g e f).groups = s.groups := rfl
@[simp] theorem modEng_channels (s : State) (g e : Nat) (f : Engine → Engine) : (s.modEng g e f).channels = s.channels := rfl
@[simp] theorem modEng_porches (s : State) (g e : Nat) (f : Engine → Engine) : (s.modEng g e f).porches = s.porches := rfl
@[simp] theorem modEng_regions (s : State) (g e : Nat) (f : Engine → Engine) : (s.modEng g e f).regions = s.regions := rfl
@[simp] theorem modEng_bar (s : State) (g e : Nat) (f : Engine → Engine) : (s.modEng g e f).bar = s.bar := rfl
@[simp] theorem modEng_launching (s : State) (g e : Nat) (f : Engine → Engine) : (s.modEng g e f).launching = s.launching := rfl
@[simp] theorem modEng_cellar (s : State) (g e : Nat) (f : Engine → Engine) : (s.modEng g e f).cellar = s.cellar := rfl
@[simp] theorem modEng_fleet (s : State) (g e : Nat) (f : Engine → Engine) : (s.modEng g e f).fleet = s.fleet := rfl

/-! ## State.onEng -/

@[simp] theorem onEng_now (s : State) (e : Nat) (f : Engine → Engine) : (s.onEng e f).now = s.now := rfl
@[simp] theorem onEng_free (s : State) (e : Nat) (f : Engine → Engine) : (s.onEng e f).free = s.free := rfl
@[simp] theorem onEng_plan (s : State) (e : Nat) (f : Engine → Engine) : (s.onEng e f).plan = s.plan := rfl
@[simp] theorem onEng_focus (s : State) (e : Nat) (f : Engine → Engine) : (s.onEng e f).focus = s.focus := rfl
@[simp] theorem onEng_porchFocus (s : State) (e : Nat) (f : Engine → Engine) : (s.onEng e f).porchFocus = s.porchFocus := rfl
@[simp] theorem onEng_order (s : State) (e : Nat) (f : Engine → Engine) : (s.onEng e f).order = s.order := rfl
@[simp] theorem onEng_issue (s : State) (e : Nat) (f : Engine → Engine) : (s.onEng e f).issue = s.issue := rfl
@[simp] theorem onEng_nextCid (s : State) (e : Nat) (f : Engine → Engine) : (s.onEng e f).nextCid = s.nextCid := rfl
@[simp] theorem onEng_nextOp (s : State) (e : Nat) (f : Engine → Engine) : (s.onEng e f).nextOp = s.nextOp := rfl
@[simp] theorem onEng_ctxs (s : State) (e : Nat) (f : Engine → Engine) : (s.onEng e f).ctxs = s.ctxs := rfl
@[simp] theorem onEng_engines (s : State) (e : Nat) (f : Engine → Engine) : (s.onEng e f).engines = tableInsert s.engines (engKey s.me.place.gangNo e) (f (s.myEng e)) := rfl
@[simp] theorem onEng_seqs (s : State) (e : Nat) (f : Engine → Engine) : (s.onEng e f).seqs = s.seqs := rfl
@[simp] theorem onEng_dies (s : State) (e : Nat) (f : Engine → Engine) : (s.onEng e f).dies = s.dies := rfl
@[simp] theorem onEng_mem (s : State) (e : Nat) (f : Engine → Engine) : (s.onEng e f).mem = s.mem := rfl
@[simp] theorem onEng_blockKeys (s : State) (e : Nat) (f : Engine → Engine) : (s.onEng e f).blockKeys = s.blockKeys := rfl
@[simp] theorem onEng_pantry (s : State) (e : Nat) (f : Engine → Engine) : (s.onEng e f).pantry = s.pantry := rfl
@[simp] theorem onEng_outbox (s : State) (e : Nat) (f : Engine → Engine) : (s.onEng e f).outbox = s.outbox := rfl
@[simp] theorem onEng_ops (s : State) (e : Nat) (f : Engine → Engine) : (s.onEng e f).ops = s.ops := rfl
@[simp] theorem onEng_groups (s : State) (e : Nat) (f : Engine → Engine) : (s.onEng e f).groups = s.groups := rfl
@[simp] theorem onEng_channels (s : State) (e : Nat) (f : Engine → Engine) : (s.onEng e f).channels = s.channels := rfl
@[simp] theorem onEng_porches (s : State) (e : Nat) (f : Engine → Engine) : (s.onEng e f).porches = s.porches := rfl
@[simp] theorem onEng_regions (s : State) (e : Nat) (f : Engine → Engine) : (s.onEng e f).regions = s.regions := rfl
@[simp] theorem onEng_bar (s : State) (e : Nat) (f : Engine → Engine) : (s.onEng e f).bar = s.bar := rfl
@[simp] theorem onEng_launching (s : State) (e : Nat) (f : Engine → Engine) : (s.onEng e f).launching = s.launching := rfl
@[simp] theorem onEng_cellar (s : State) (e : Nat) (f : Engine → Engine) : (s.onEng e f).cellar = s.cellar := rfl
@[simp] theorem onEng_fleet (s : State) (e : Nat) (f : Engine → Engine) : (s.onEng e f).fleet = s.fleet := rfl

/-! ## State.onPart -/

@[simp] theorem onPart_now (s : State) (e : Nat) (f : EngCtx → EngCtx) : (s.onPart e f).now = s.now := rfl
@[simp] theorem onPart_free (s : State) (e : Nat) (f : EngCtx → EngCtx) : (s.onPart e f).free = s.free := rfl
@[simp] theorem onPart_plan (s : State) (e : Nat) (f : EngCtx → EngCtx) : (s.onPart e f).plan = s.plan := rfl
@[simp] theorem onPart_focus (s : State) (e : Nat) (f : EngCtx → EngCtx) : (s.onPart e f).focus = s.focus := rfl
@[simp] theorem onPart_porchFocus (s : State) (e : Nat) (f : EngCtx → EngCtx) : (s.onPart e f).porchFocus = s.porchFocus := rfl
@[simp] theorem onPart_order (s : State) (e : Nat) (f : EngCtx → EngCtx) : (s.onPart e f).order = s.order := rfl
@[simp] theorem onPart_issue (s : State) (e : Nat) (f : EngCtx → EngCtx) : (s.onPart e f).issue = s.issue := rfl
@[simp] theorem onPart_nextCid (s : State) (e : Nat) (f : EngCtx → EngCtx) : (s.onPart e f).nextCid = s.nextCid := rfl
@[simp] theorem onPart_nextOp (s : State) (e : Nat) (f : EngCtx → EngCtx) : (s.onPart e f).nextOp = s.nextOp := rfl
@[simp] theorem onPart_ctxs (s : State) (e : Nat) (f : EngCtx → EngCtx) : (s.onPart e f).ctxs = s.ctxs := rfl
@[simp] theorem onPart_seqs (s : State) (e : Nat) (f : EngCtx → EngCtx) : (s.onPart e f).seqs = s.seqs := rfl
@[simp] theorem onPart_dies (s : State) (e : Nat) (f : EngCtx → EngCtx) : (s.onPart e f).dies = s.dies := rfl
@[simp] theorem onPart_mem (s : State) (e : Nat) (f : EngCtx → EngCtx) : (s.onPart e f).mem = s.mem := rfl
@[simp] theorem onPart_blockKeys (s : State) (e : Nat) (f : EngCtx → EngCtx) : (s.onPart e f).blockKeys = s.blockKeys := rfl
@[simp] theorem onPart_pantry (s : State) (e : Nat) (f : EngCtx → EngCtx) : (s.onPart e f).pantry = s.pantry := rfl
@[simp] theorem onPart_outbox (s : State) (e : Nat) (f : EngCtx → EngCtx) : (s.onPart e f).outbox = s.outbox := rfl
@[simp] theorem onPart_ops (s : State) (e : Nat) (f : EngCtx → EngCtx) : (s.onPart e f).ops = s.ops := rfl
@[simp] theorem onPart_groups (s : State) (e : Nat) (f : EngCtx → EngCtx) : (s.onPart e f).groups = s.groups := rfl
@[simp] theorem onPart_channels (s : State) (e : Nat) (f : EngCtx → EngCtx) : (s.onPart e f).channels = s.channels := rfl
@[simp] theorem onPart_porches (s : State) (e : Nat) (f : EngCtx → EngCtx) : (s.onPart e f).porches = s.porches := rfl
@[simp] theorem onPart_regions (s : State) (e : Nat) (f : EngCtx → EngCtx) : (s.onPart e f).regions = s.regions := rfl
@[simp] theorem onPart_bar (s : State) (e : Nat) (f : EngCtx → EngCtx) : (s.onPart e f).bar = s.bar := rfl
@[simp] theorem onPart_launching (s : State) (e : Nat) (f : EngCtx → EngCtx) : (s.onPart e f).launching = s.launching := rfl
@[simp] theorem onPart_cellar (s : State) (e : Nat) (f : EngCtx → EngCtx) : (s.onPart e f).cellar = s.cellar := rfl
@[simp] theorem onPart_fleet (s : State) (e : Nat) (f : EngCtx → EngCtx) : (s.onPart e f).fleet = s.fleet := rfl

/-! ## State.setSeq -/

@[simp] theorem setSeq_now (s : State) (cid : Nat) (q : Seq) : (s.setSeq cid q).now = s.now := rfl
@[simp] theorem setSeq_free (s : State) (cid : Nat) (q : Seq) : (s.setSeq cid q).free = s.free := rfl
@[simp] theorem setSeq_plan (s : State) (cid : Nat) (q : Seq) : (s.setSeq cid q).plan = s.plan := rfl
@[simp] theorem setSeq_focus (s : State) (cid : Nat) (q : Seq) : (s.setSeq cid q).focus = s.focus := rfl
@[simp] theorem setSeq_porchFocus (s : State) (cid : Nat) (q : Seq) : (s.setSeq cid q).porchFocus = s.porchFocus := rfl
@[simp] theorem setSeq_order (s : State) (cid : Nat) (q : Seq) : (s.setSeq cid q).order = s.order := rfl
@[simp] theorem setSeq_issue (s : State) (cid : Nat) (q : Seq) : (s.setSeq cid q).issue = s.issue := rfl
@[simp] theorem setSeq_nextCid (s : State) (cid : Nat) (q : Seq) : (s.setSeq cid q).nextCid = s.nextCid := rfl
@[simp] theorem setSeq_nextOp (s : State) (cid : Nat) (q : Seq) : (s.setSeq cid q).nextOp = s.nextOp := rfl
@[simp] theorem setSeq_ctxs (s : State) (cid : Nat) (q : Seq) : (s.setSeq cid q).ctxs = s.ctxs := rfl
@[simp] theorem setSeq_engines (s : State) (cid : Nat) (q : Seq) : (s.setSeq cid q).engines = s.engines := rfl
@[simp] theorem setSeq_seqs (s : State) (cid : Nat) (q : Seq) : (s.setSeq cid q).seqs = tableInsert s.seqs (s.ctxAt cid).place.seqKey q := rfl
@[simp] theorem setSeq_dies (s : State) (cid : Nat) (q : Seq) : (s.setSeq cid q).dies = s.dies := rfl
@[simp] theorem setSeq_mem (s : State) (cid : Nat) (q : Seq) : (s.setSeq cid q).mem = s.mem := rfl
@[simp] theorem setSeq_blockKeys (s : State) (cid : Nat) (q : Seq) : (s.setSeq cid q).blockKeys = s.blockKeys := rfl
@[simp] theorem setSeq_pantry (s : State) (cid : Nat) (q : Seq) : (s.setSeq cid q).pantry = s.pantry := rfl
@[simp] theorem setSeq_outbox (s : State) (cid : Nat) (q : Seq) : (s.setSeq cid q).outbox = s.outbox := rfl
@[simp] theorem setSeq_ops (s : State) (cid : Nat) (q : Seq) : (s.setSeq cid q).ops = s.ops := rfl
@[simp] theorem setSeq_groups (s : State) (cid : Nat) (q : Seq) : (s.setSeq cid q).groups = s.groups := rfl
@[simp] theorem setSeq_channels (s : State) (cid : Nat) (q : Seq) : (s.setSeq cid q).channels = s.channels := rfl
@[simp] theorem setSeq_porches (s : State) (cid : Nat) (q : Seq) : (s.setSeq cid q).porches = s.porches := rfl
@[simp] theorem setSeq_regions (s : State) (cid : Nat) (q : Seq) : (s.setSeq cid q).regions = s.regions := rfl
@[simp] theorem setSeq_bar (s : State) (cid : Nat) (q : Seq) : (s.setSeq cid q).bar = s.bar := rfl
@[simp] theorem setSeq_launching (s : State) (cid : Nat) (q : Seq) : (s.setSeq cid q).launching = s.launching := rfl
@[simp] theorem setSeq_cellar (s : State) (cid : Nat) (q : Seq) : (s.setSeq cid q).cellar = s.cellar := rfl
@[simp] theorem setSeq_fleet (s : State) (cid : Nat) (q : Seq) : (s.setSeq cid q).fleet = s.fleet := rfl

/-! ## State.setDie -/

@[simp] theorem setDie_now (s : State) (d : Nat) (x : Die) : (s.setDie d x).now = s.now := rfl
@[simp] theorem setDie_free (s : State) (d : Nat) (x : Die) : (s.setDie d x).free = s.free := rfl
@[simp] theorem setDie_plan (s : State) (d : Nat) (x : Die) : (s.setDie d x).plan = s.plan := rfl
@[simp] theorem setDie_focus (s : State) (d : Nat) (x : Die) : (s.setDie d x).focus = s.focus := rfl
@[simp] theorem setDie_porchFocus (s : State) (d : Nat) (x : Die) : (s.setDie d x).porchFocus = s.porchFocus := rfl
@[simp] theorem setDie_order (s : State) (d : Nat) (x : Die) : (s.setDie d x).order = s.order := rfl
@[simp] theorem setDie_issue (s : State) (d : Nat) (x : Die) : (s.setDie d x).issue = s.issue := rfl
@[simp] theorem setDie_nextCid (s : State) (d : Nat) (x : Die) : (s.setDie d x).nextCid = s.nextCid := rfl
@[simp] theorem setDie_nextOp (s : State) (d : Nat) (x : Die) : (s.setDie d x).nextOp = s.nextOp := rfl
@[simp] theorem setDie_ctxs (s : State) (d : Nat) (x : Die) : (s.setDie d x).ctxs = s.ctxs := rfl
@[simp] theorem setDie_engines (s : State) (d : Nat) (x : Die) : (s.setDie d x).engines = s.engines := rfl
@[simp] theorem setDie_seqs (s : State) (d : Nat) (x : Die) : (s.setDie d x).seqs = s.seqs := rfl
@[simp] theorem setDie_dies (s : State) (d : Nat) (x : Die) : (s.setDie d x).dies = tableInsert s.dies d x := rfl
@[simp] theorem setDie_mem (s : State) (d : Nat) (x : Die) : (s.setDie d x).mem = s.mem := rfl
@[simp] theorem setDie_blockKeys (s : State) (d : Nat) (x : Die) : (s.setDie d x).blockKeys = s.blockKeys := rfl
@[simp] theorem setDie_pantry (s : State) (d : Nat) (x : Die) : (s.setDie d x).pantry = s.pantry := rfl
@[simp] theorem setDie_outbox (s : State) (d : Nat) (x : Die) : (s.setDie d x).outbox = s.outbox := rfl
@[simp] theorem setDie_ops (s : State) (d : Nat) (x : Die) : (s.setDie d x).ops = s.ops := rfl
@[simp] theorem setDie_groups (s : State) (d : Nat) (x : Die) : (s.setDie d x).groups = s.groups := rfl
@[simp] theorem setDie_channels (s : State) (d : Nat) (x : Die) : (s.setDie d x).channels = s.channels := rfl
@[simp] theorem setDie_porches (s : State) (d : Nat) (x : Die) : (s.setDie d x).porches = s.porches := rfl
@[simp] theorem setDie_regions (s : State) (d : Nat) (x : Die) : (s.setDie d x).regions = s.regions := rfl
@[simp] theorem setDie_bar (s : State) (d : Nat) (x : Die) : (s.setDie d x).bar = s.bar := rfl
@[simp] theorem setDie_launching (s : State) (d : Nat) (x : Die) : (s.setDie d x).launching = s.launching := rfl
@[simp] theorem setDie_cellar (s : State) (d : Nat) (x : Die) : (s.setDie d x).cellar = s.cellar := rfl
@[simp] theorem setDie_fleet (s : State) (d : Nat) (x : Die) : (s.setDie d x).fleet = s.fleet := rfl

/-! ## State.setBar -/

@[simp] theorem setBar_now (s : State) (cap off : Nat) (v : Dword) : (s.setBar cap off v).now = s.now := by rw [State.setBar]
@[simp] theorem setBar_free (s : State) (cap off : Nat) (v : Dword) : (s.setBar cap off v).free = s.free := by rw [State.setBar]
@[simp] theorem setBar_plan (s : State) (cap off : Nat) (v : Dword) : (s.setBar cap off v).plan = s.plan := by rw [State.setBar]
@[simp] theorem setBar_focus (s : State) (cap off : Nat) (v : Dword) : (s.setBar cap off v).focus = s.focus := by rw [State.setBar]
@[simp] theorem setBar_porchFocus (s : State) (cap off : Nat) (v : Dword) : (s.setBar cap off v).porchFocus = s.porchFocus := by rw [State.setBar]
@[simp] theorem setBar_order (s : State) (cap off : Nat) (v : Dword) : (s.setBar cap off v).order = s.order := by rw [State.setBar]
@[simp] theorem setBar_issue (s : State) (cap off : Nat) (v : Dword) : (s.setBar cap off v).issue = s.issue := by rw [State.setBar]
@[simp] theorem setBar_nextCid (s : State) (cap off : Nat) (v : Dword) : (s.setBar cap off v).nextCid = s.nextCid := by rw [State.setBar]
@[simp] theorem setBar_nextOp (s : State) (cap off : Nat) (v : Dword) : (s.setBar cap off v).nextOp = s.nextOp := by rw [State.setBar]
@[simp] theorem setBar_ctxs (s : State) (cap off : Nat) (v : Dword) : (s.setBar cap off v).ctxs = s.ctxs := by rw [State.setBar]
@[simp] theorem setBar_engines (s : State) (cap off : Nat) (v : Dword) : (s.setBar cap off v).engines = s.engines := by rw [State.setBar]
@[simp] theorem setBar_seqs (s : State) (cap off : Nat) (v : Dword) : (s.setBar cap off v).seqs = s.seqs := by rw [State.setBar]
@[simp] theorem setBar_dies (s : State) (cap off : Nat) (v : Dword) : (s.setBar cap off v).dies = s.dies := by rw [State.setBar]
@[simp] theorem setBar_mem (s : State) (cap off : Nat) (v : Dword) : (s.setBar cap off v).mem = s.mem := by rw [State.setBar]
@[simp] theorem setBar_blockKeys (s : State) (cap off : Nat) (v : Dword) : (s.setBar cap off v).blockKeys = s.blockKeys := by rw [State.setBar]
@[simp] theorem setBar_pantry (s : State) (cap off : Nat) (v : Dword) : (s.setBar cap off v).pantry = s.pantry := by rw [State.setBar]
@[simp] theorem setBar_outbox (s : State) (cap off : Nat) (v : Dword) : (s.setBar cap off v).outbox = s.outbox := by rw [State.setBar]
@[simp] theorem setBar_ops (s : State) (cap off : Nat) (v : Dword) : (s.setBar cap off v).ops = s.ops := by rw [State.setBar]
@[simp] theorem setBar_groups (s : State) (cap off : Nat) (v : Dword) : (s.setBar cap off v).groups = s.groups := by rw [State.setBar]
@[simp] theorem setBar_channels (s : State) (cap off : Nat) (v : Dword) : (s.setBar cap off v).channels = s.channels := by rw [State.setBar]
@[simp] theorem setBar_porches (s : State) (cap off : Nat) (v : Dword) : (s.setBar cap off v).porches = s.porches := by rw [State.setBar]
@[simp] theorem setBar_regions (s : State) (cap off : Nat) (v : Dword) : (s.setBar cap off v).regions = s.regions := by rw [State.setBar]
@[simp] theorem setBar_launching (s : State) (cap off : Nat) (v : Dword) : (s.setBar cap off v).launching = s.launching := by rw [State.setBar]
@[simp] theorem setBar_cellar (s : State) (cap off : Nat) (v : Dword) : (s.setBar cap off v).cellar = s.cellar := by rw [State.setBar]
@[simp] theorem setBar_fleet (s : State) (cap off : Nat) (v : Dword) : (s.setBar cap off v).fleet = s.fleet := by rw [State.setBar]

/-! ## State.setGroup -/

@[simp] theorem setGroup_now (s : State) (gid : Nat) (g : Group) : (s.setGroup gid g).now = s.now := rfl
@[simp] theorem setGroup_free (s : State) (gid : Nat) (g : Group) : (s.setGroup gid g).free = s.free := rfl
@[simp] theorem setGroup_plan (s : State) (gid : Nat) (g : Group) : (s.setGroup gid g).plan = s.plan := rfl
@[simp] theorem setGroup_focus (s : State) (gid : Nat) (g : Group) : (s.setGroup gid g).focus = s.focus := rfl
@[simp] theorem setGroup_porchFocus (s : State) (gid : Nat) (g : Group) : (s.setGroup gid g).porchFocus = s.porchFocus := rfl
@[simp] theorem setGroup_order (s : State) (gid : Nat) (g : Group) : (s.setGroup gid g).order = s.order := rfl
@[simp] theorem setGroup_issue (s : State) (gid : Nat) (g : Group) : (s.setGroup gid g).issue = s.issue := rfl
@[simp] theorem setGroup_nextCid (s : State) (gid : Nat) (g : Group) : (s.setGroup gid g).nextCid = s.nextCid := rfl
@[simp] theorem setGroup_nextOp (s : State) (gid : Nat) (g : Group) : (s.setGroup gid g).nextOp = s.nextOp := rfl
@[simp] theorem setGroup_ctxs (s : State) (gid : Nat) (g : Group) : (s.setGroup gid g).ctxs = s.ctxs := rfl
@[simp] theorem setGroup_engines (s : State) (gid : Nat) (g : Group) : (s.setGroup gid g).engines = s.engines := rfl
@[simp] theorem setGroup_seqs (s : State) (gid : Nat) (g : Group) : (s.setGroup gid g).seqs = s.seqs := rfl
@[simp] theorem setGroup_dies (s : State) (gid : Nat) (g : Group) : (s.setGroup gid g).dies = s.dies := rfl
@[simp] theorem setGroup_mem (s : State) (gid : Nat) (g : Group) : (s.setGroup gid g).mem = s.mem := rfl
@[simp] theorem setGroup_blockKeys (s : State) (gid : Nat) (g : Group) : (s.setGroup gid g).blockKeys = s.blockKeys := rfl
@[simp] theorem setGroup_pantry (s : State) (gid : Nat) (g : Group) : (s.setGroup gid g).pantry = s.pantry := rfl
@[simp] theorem setGroup_outbox (s : State) (gid : Nat) (g : Group) : (s.setGroup gid g).outbox = s.outbox := rfl
@[simp] theorem setGroup_ops (s : State) (gid : Nat) (g : Group) : (s.setGroup gid g).ops = s.ops := rfl
@[simp] theorem setGroup_groups (s : State) (gid : Nat) (g : Group) : (s.setGroup gid g).groups = tableInsert s.groups gid g := rfl
@[simp] theorem setGroup_channels (s : State) (gid : Nat) (g : Group) : (s.setGroup gid g).channels = s.channels := rfl
@[simp] theorem setGroup_porches (s : State) (gid : Nat) (g : Group) : (s.setGroup gid g).porches = s.porches := rfl
@[simp] theorem setGroup_regions (s : State) (gid : Nat) (g : Group) : (s.setGroup gid g).regions = s.regions := rfl
@[simp] theorem setGroup_bar (s : State) (gid : Nat) (g : Group) : (s.setGroup gid g).bar = s.bar := rfl
@[simp] theorem setGroup_launching (s : State) (gid : Nat) (g : Group) : (s.setGroup gid g).launching = s.launching := rfl
@[simp] theorem setGroup_cellar (s : State) (gid : Nat) (g : Group) : (s.setGroup gid g).cellar = s.cellar := rfl
@[simp] theorem setGroup_fleet (s : State) (gid : Nat) (g : Group) : (s.setGroup gid g).fleet = s.fleet := rfl

/-! ## State.setPorch -/

@[simp] theorem setPorch_now (s : State) (q : Nat) (p : Porch) : (s.setPorch q p).now = s.now := rfl
@[simp] theorem setPorch_free (s : State) (q : Nat) (p : Porch) : (s.setPorch q p).free = s.free := rfl
@[simp] theorem setPorch_plan (s : State) (q : Nat) (p : Porch) : (s.setPorch q p).plan = s.plan := rfl
@[simp] theorem setPorch_focus (s : State) (q : Nat) (p : Porch) : (s.setPorch q p).focus = s.focus := rfl
@[simp] theorem setPorch_porchFocus (s : State) (q : Nat) (p : Porch) : (s.setPorch q p).porchFocus = s.porchFocus := rfl
@[simp] theorem setPorch_order (s : State) (q : Nat) (p : Porch) : (s.setPorch q p).order = s.order := rfl
@[simp] theorem setPorch_issue (s : State) (q : Nat) (p : Porch) : (s.setPorch q p).issue = s.issue := rfl
@[simp] theorem setPorch_nextCid (s : State) (q : Nat) (p : Porch) : (s.setPorch q p).nextCid = s.nextCid := rfl
@[simp] theorem setPorch_nextOp (s : State) (q : Nat) (p : Porch) : (s.setPorch q p).nextOp = s.nextOp := rfl
@[simp] theorem setPorch_ctxs (s : State) (q : Nat) (p : Porch) : (s.setPorch q p).ctxs = s.ctxs := rfl
@[simp] theorem setPorch_engines (s : State) (q : Nat) (p : Porch) : (s.setPorch q p).engines = s.engines := rfl
@[simp] theorem setPorch_seqs (s : State) (q : Nat) (p : Porch) : (s.setPorch q p).seqs = s.seqs := rfl
@[simp] theorem setPorch_dies (s : State) (q : Nat) (p : Porch) : (s.setPorch q p).dies = s.dies := rfl
@[simp] theorem setPorch_mem (s : State) (q : Nat) (p : Porch) : (s.setPorch q p).mem = s.mem := rfl
@[simp] theorem setPorch_blockKeys (s : State) (q : Nat) (p : Porch) : (s.setPorch q p).blockKeys = s.blockKeys := rfl
@[simp] theorem setPorch_pantry (s : State) (q : Nat) (p : Porch) : (s.setPorch q p).pantry = s.pantry := rfl
@[simp] theorem setPorch_outbox (s : State) (q : Nat) (p : Porch) : (s.setPorch q p).outbox = s.outbox := rfl
@[simp] theorem setPorch_ops (s : State) (q : Nat) (p : Porch) : (s.setPorch q p).ops = s.ops := rfl
@[simp] theorem setPorch_groups (s : State) (q : Nat) (p : Porch) : (s.setPorch q p).groups = s.groups := rfl
@[simp] theorem setPorch_channels (s : State) (q : Nat) (p : Porch) : (s.setPorch q p).channels = s.channels := rfl
@[simp] theorem setPorch_porches (s : State) (q : Nat) (p : Porch) : (s.setPorch q p).porches = tableInsert s.porches q p := rfl
@[simp] theorem setPorch_regions (s : State) (q : Nat) (p : Porch) : (s.setPorch q p).regions = s.regions := rfl
@[simp] theorem setPorch_bar (s : State) (q : Nat) (p : Porch) : (s.setPorch q p).bar = s.bar := rfl
@[simp] theorem setPorch_launching (s : State) (q : Nat) (p : Porch) : (s.setPorch q p).launching = s.launching := rfl
@[simp] theorem setPorch_cellar (s : State) (q : Nat) (p : Porch) : (s.setPorch q p).cellar = s.cellar := rfl
@[simp] theorem setPorch_fleet (s : State) (q : Nat) (p : Porch) : (s.setPorch q p).fleet = s.fleet := rfl

/-! ## State.modPorch -/

@[simp] theorem modPorch_now (s : State) (q : Nat) (f : Porch → Porch) : (s.modPorch q f).now = s.now := rfl
@[simp] theorem modPorch_free (s : State) (q : Nat) (f : Porch → Porch) : (s.modPorch q f).free = s.free := rfl
@[simp] theorem modPorch_plan (s : State) (q : Nat) (f : Porch → Porch) : (s.modPorch q f).plan = s.plan := rfl
@[simp] theorem modPorch_focus (s : State) (q : Nat) (f : Porch → Porch) : (s.modPorch q f).focus = s.focus := rfl
@[simp] theorem modPorch_porchFocus (s : State) (q : Nat) (f : Porch → Porch) : (s.modPorch q f).porchFocus = s.porchFocus := rfl
@[simp] theorem modPorch_order (s : State) (q : Nat) (f : Porch → Porch) : (s.modPorch q f).order = s.order := rfl
@[simp] theorem modPorch_issue (s : State) (q : Nat) (f : Porch → Porch) : (s.modPorch q f).issue = s.issue := rfl
@[simp] theorem modPorch_nextCid (s : State) (q : Nat) (f : Porch → Porch) : (s.modPorch q f).nextCid = s.nextCid := rfl
@[simp] theorem modPorch_nextOp (s : State) (q : Nat) (f : Porch → Porch) : (s.modPorch q f).nextOp = s.nextOp := rfl
@[simp] theorem modPorch_ctxs (s : State) (q : Nat) (f : Porch → Porch) : (s.modPorch q f).ctxs = s.ctxs := rfl
@[simp] theorem modPorch_engines (s : State) (q : Nat) (f : Porch → Porch) : (s.modPorch q f).engines = s.engines := rfl
@[simp] theorem modPorch_seqs (s : State) (q : Nat) (f : Porch → Porch) : (s.modPorch q f).seqs = s.seqs := rfl
@[simp] theorem modPorch_dies (s : State) (q : Nat) (f : Porch → Porch) : (s.modPorch q f).dies = s.dies := rfl
@[simp] theorem modPorch_mem (s : State) (q : Nat) (f : Porch → Porch) : (s.modPorch q f).mem = s.mem := rfl
@[simp] theorem modPorch_blockKeys (s : State) (q : Nat) (f : Porch → Porch) : (s.modPorch q f).blockKeys = s.blockKeys := rfl
@[simp] theorem modPorch_pantry (s : State) (q : Nat) (f : Porch → Porch) : (s.modPorch q f).pantry = s.pantry := rfl
@[simp] theorem modPorch_outbox (s : State) (q : Nat) (f : Porch → Porch) : (s.modPorch q f).outbox = s.outbox := rfl
@[simp] theorem modPorch_ops (s : State) (q : Nat) (f : Porch → Porch) : (s.modPorch q f).ops = s.ops := rfl
@[simp] theorem modPorch_groups (s : State) (q : Nat) (f : Porch → Porch) : (s.modPorch q f).groups = s.groups := rfl
@[simp] theorem modPorch_channels (s : State) (q : Nat) (f : Porch → Porch) : (s.modPorch q f).channels = s.channels := rfl
@[simp] theorem modPorch_porches (s : State) (q : Nat) (f : Porch → Porch) : (s.modPorch q f).porches = tableInsert s.porches q (f (s.porch q)) := rfl
@[simp] theorem modPorch_regions (s : State) (q : Nat) (f : Porch → Porch) : (s.modPorch q f).regions = s.regions := rfl
@[simp] theorem modPorch_bar (s : State) (q : Nat) (f : Porch → Porch) : (s.modPorch q f).bar = s.bar := rfl
@[simp] theorem modPorch_launching (s : State) (q : Nat) (f : Porch → Porch) : (s.modPorch q f).launching = s.launching := rfl
@[simp] theorem modPorch_cellar (s : State) (q : Nat) (f : Porch → Porch) : (s.modPorch q f).cellar = s.cellar := rfl
@[simp] theorem modPorch_fleet (s : State) (q : Nat) (f : Porch → Porch) : (s.modPorch q f).fleet = s.fleet := rfl

/-! ## State.setRegion -/

@[simp] theorem setRegion_now (s : State) (r : Nat) (x : Region) : (s.setRegion r x).now = s.now := rfl
@[simp] theorem setRegion_free (s : State) (r : Nat) (x : Region) : (s.setRegion r x).free = s.free := rfl
@[simp] theorem setRegion_plan (s : State) (r : Nat) (x : Region) : (s.setRegion r x).plan = s.plan := rfl
@[simp] theorem setRegion_focus (s : State) (r : Nat) (x : Region) : (s.setRegion r x).focus = s.focus := rfl
@[simp] theorem setRegion_porchFocus (s : State) (r : Nat) (x : Region) : (s.setRegion r x).porchFocus = s.porchFocus := rfl
@[simp] theorem setRegion_order (s : State) (r : Nat) (x : Region) : (s.setRegion r x).order = s.order := rfl
@[simp] theorem setRegion_issue (s : State) (r : Nat) (x : Region) : (s.setRegion r x).issue = s.issue := rfl
@[simp] theorem setRegion_nextCid (s : State) (r : Nat) (x : Region) : (s.setRegion r x).nextCid = s.nextCid := rfl
@[simp] theorem setRegion_nextOp (s : State) (r : Nat) (x : Region) : (s.setRegion r x).nextOp = s.nextOp := rfl
@[simp] theorem setRegion_ctxs (s : State) (r : Nat) (x : Region) : (s.setRegion r x).ctxs = s.ctxs := rfl
@[simp] theorem setRegion_engines (s : State) (r : Nat) (x : Region) : (s.setRegion r x).engines = s.engines := rfl
@[simp] theorem setRegion_seqs (s : State) (r : Nat) (x : Region) : (s.setRegion r x).seqs = s.seqs := rfl
@[simp] theorem setRegion_dies (s : State) (r : Nat) (x : Region) : (s.setRegion r x).dies = s.dies := rfl
@[simp] theorem setRegion_mem (s : State) (r : Nat) (x : Region) : (s.setRegion r x).mem = s.mem := rfl
@[simp] theorem setRegion_blockKeys (s : State) (r : Nat) (x : Region) : (s.setRegion r x).blockKeys = s.blockKeys := rfl
@[simp] theorem setRegion_pantry (s : State) (r : Nat) (x : Region) : (s.setRegion r x).pantry = s.pantry := rfl
@[simp] theorem setRegion_outbox (s : State) (r : Nat) (x : Region) : (s.setRegion r x).outbox = s.outbox := rfl
@[simp] theorem setRegion_ops (s : State) (r : Nat) (x : Region) : (s.setRegion r x).ops = s.ops := rfl
@[simp] theorem setRegion_groups (s : State) (r : Nat) (x : Region) : (s.setRegion r x).groups = s.groups := rfl
@[simp] theorem setRegion_channels (s : State) (r : Nat) (x : Region) : (s.setRegion r x).channels = s.channels := rfl
@[simp] theorem setRegion_porches (s : State) (r : Nat) (x : Region) : (s.setRegion r x).porches = s.porches := rfl
@[simp] theorem setRegion_regions (s : State) (r : Nat) (x : Region) : (s.setRegion r x).regions = tableInsert s.regions r x := rfl
@[simp] theorem setRegion_bar (s : State) (r : Nat) (x : Region) : (s.setRegion r x).bar = s.bar := rfl
@[simp] theorem setRegion_launching (s : State) (r : Nat) (x : Region) : (s.setRegion r x).launching = s.launching := rfl
@[simp] theorem setRegion_cellar (s : State) (r : Nat) (x : Region) : (s.setRegion r x).cellar = s.cellar := rfl
@[simp] theorem setRegion_fleet (s : State) (r : Nat) (x : Region) : (s.setRegion r x).fleet = s.fleet := rfl

/-! ## State.onCellar -/

@[simp] theorem onCellar_now (s : State) (f : Cellar → Cellar) : (s.onCellar f).now = s.now := rfl
@[simp] theorem onCellar_free (s : State) (f : Cellar → Cellar) : (s.onCellar f).free = s.free := rfl
@[simp] theorem onCellar_plan (s : State) (f : Cellar → Cellar) : (s.onCellar f).plan = s.plan := rfl
@[simp] theorem onCellar_focus (s : State) (f : Cellar → Cellar) : (s.onCellar f).focus = s.focus := rfl
@[simp] theorem onCellar_porchFocus (s : State) (f : Cellar → Cellar) : (s.onCellar f).porchFocus = s.porchFocus := rfl
@[simp] theorem onCellar_order (s : State) (f : Cellar → Cellar) : (s.onCellar f).order = s.order := rfl
@[simp] theorem onCellar_issue (s : State) (f : Cellar → Cellar) : (s.onCellar f).issue = s.issue := rfl
@[simp] theorem onCellar_nextCid (s : State) (f : Cellar → Cellar) : (s.onCellar f).nextCid = s.nextCid := rfl
@[simp] theorem onCellar_nextOp (s : State) (f : Cellar → Cellar) : (s.onCellar f).nextOp = s.nextOp := rfl
@[simp] theorem onCellar_ctxs (s : State) (f : Cellar → Cellar) : (s.onCellar f).ctxs = s.ctxs := rfl
@[simp] theorem onCellar_engines (s : State) (f : Cellar → Cellar) : (s.onCellar f).engines = s.engines := rfl
@[simp] theorem onCellar_seqs (s : State) (f : Cellar → Cellar) : (s.onCellar f).seqs = s.seqs := rfl
@[simp] theorem onCellar_dies (s : State) (f : Cellar → Cellar) : (s.onCellar f).dies = s.dies := rfl
@[simp] theorem onCellar_mem (s : State) (f : Cellar → Cellar) : (s.onCellar f).mem = s.mem := rfl
@[simp] theorem onCellar_blockKeys (s : State) (f : Cellar → Cellar) : (s.onCellar f).blockKeys = s.blockKeys := rfl
@[simp] theorem onCellar_pantry (s : State) (f : Cellar → Cellar) : (s.onCellar f).pantry = s.pantry := rfl
@[simp] theorem onCellar_outbox (s : State) (f : Cellar → Cellar) : (s.onCellar f).outbox = s.outbox := rfl
@[simp] theorem onCellar_ops (s : State) (f : Cellar → Cellar) : (s.onCellar f).ops = s.ops := rfl
@[simp] theorem onCellar_groups (s : State) (f : Cellar → Cellar) : (s.onCellar f).groups = s.groups := rfl
@[simp] theorem onCellar_channels (s : State) (f : Cellar → Cellar) : (s.onCellar f).channels = s.channels := rfl
@[simp] theorem onCellar_porches (s : State) (f : Cellar → Cellar) : (s.onCellar f).porches = s.porches := rfl
@[simp] theorem onCellar_regions (s : State) (f : Cellar → Cellar) : (s.onCellar f).regions = s.regions := rfl
@[simp] theorem onCellar_bar (s : State) (f : Cellar → Cellar) : (s.onCellar f).bar = s.bar := rfl
@[simp] theorem onCellar_launching (s : State) (f : Cellar → Cellar) : (s.onCellar f).launching = s.launching := rfl
@[simp] theorem onCellar_cellar (s : State) (f : Cellar → Cellar) : (s.onCellar f).cellar = f s.cellar := rfl
@[simp] theorem onCellar_fleet (s : State) (f : Cellar → Cellar) : (s.onCellar f).fleet = s.fleet := rfl

/-! ## State.onFleet -/

@[simp] theorem onFleet_now (s : State) (f : Fleet → Fleet) : (s.onFleet f).now = s.now := rfl
@[simp] theorem onFleet_free (s : State) (f : Fleet → Fleet) : (s.onFleet f).free = s.free := rfl
@[simp] theorem onFleet_plan (s : State) (f : Fleet → Fleet) : (s.onFleet f).plan = s.plan := rfl
@[simp] theorem onFleet_focus (s : State) (f : Fleet → Fleet) : (s.onFleet f).focus = s.focus := rfl
@[simp] theorem onFleet_porchFocus (s : State) (f : Fleet → Fleet) : (s.onFleet f).porchFocus = s.porchFocus := rfl
@[simp] theorem onFleet_order (s : State) (f : Fleet → Fleet) : (s.onFleet f).order = s.order := rfl
@[simp] theorem onFleet_issue (s : State) (f : Fleet → Fleet) : (s.onFleet f).issue = s.issue := rfl
@[simp] theorem onFleet_nextCid (s : State) (f : Fleet → Fleet) : (s.onFleet f).nextCid = s.nextCid := rfl
@[simp] theorem onFleet_nextOp (s : State) (f : Fleet → Fleet) : (s.onFleet f).nextOp = s.nextOp := rfl
@[simp] theorem onFleet_ctxs (s : State) (f : Fleet → Fleet) : (s.onFleet f).ctxs = s.ctxs := rfl
@[simp] theorem onFleet_engines (s : State) (f : Fleet → Fleet) : (s.onFleet f).engines = s.engines := rfl
@[simp] theorem onFleet_seqs (s : State) (f : Fleet → Fleet) : (s.onFleet f).seqs = s.seqs := rfl
@[simp] theorem onFleet_dies (s : State) (f : Fleet → Fleet) : (s.onFleet f).dies = s.dies := rfl
@[simp] theorem onFleet_mem (s : State) (f : Fleet → Fleet) : (s.onFleet f).mem = s.mem := rfl
@[simp] theorem onFleet_blockKeys (s : State) (f : Fleet → Fleet) : (s.onFleet f).blockKeys = s.blockKeys := rfl
@[simp] theorem onFleet_pantry (s : State) (f : Fleet → Fleet) : (s.onFleet f).pantry = s.pantry := rfl
@[simp] theorem onFleet_outbox (s : State) (f : Fleet → Fleet) : (s.onFleet f).outbox = s.outbox := rfl
@[simp] theorem onFleet_ops (s : State) (f : Fleet → Fleet) : (s.onFleet f).ops = s.ops := rfl
@[simp] theorem onFleet_groups (s : State) (f : Fleet → Fleet) : (s.onFleet f).groups = s.groups := rfl
@[simp] theorem onFleet_channels (s : State) (f : Fleet → Fleet) : (s.onFleet f).channels = s.channels := rfl
@[simp] theorem onFleet_porches (s : State) (f : Fleet → Fleet) : (s.onFleet f).porches = s.porches := rfl
@[simp] theorem onFleet_regions (s : State) (f : Fleet → Fleet) : (s.onFleet f).regions = s.regions := rfl
@[simp] theorem onFleet_bar (s : State) (f : Fleet → Fleet) : (s.onFleet f).bar = s.bar := rfl
@[simp] theorem onFleet_launching (s : State) (f : Fleet → Fleet) : (s.onFleet f).launching = s.launching := rfl
@[simp] theorem onFleet_cellar (s : State) (f : Fleet → Fleet) : (s.onFleet f).cellar = s.cellar := rfl
@[simp] theorem onFleet_fleet (s : State) (f : Fleet → Fleet) : (s.onFleet f).fleet = f s.fleet := rfl

/-! ## What is read after an update -/

@[simp] theorem ctxAt_setCtx (s : State) (cid : Nat) (c : Ctx) : (s.setCtx cid c).ctxAt cid = c := by simp [State.ctxAt]
@[simp] theorem ctxAt_modCtx (s : State) (cid : Nat) (f : Ctx → Ctx) : (s.modCtx cid f).ctxAt cid = f (s.ctxAt cid) := by simp [State.ctxAt]
theorem ctxAt_setCtx_ne (s : State) {cid k : Nat} (c : Ctx) (h : k ≠ cid) : (s.setCtx cid c).ctxAt k = s.ctxAt k := by
  simp [State.ctxAt, tableGet_insert_ne _ _ _ h]
theorem ctxAt_modCtx_ne (s : State) {cid k : Nat} (f : Ctx → Ctx) (h : k ≠ cid) : (s.modCtx cid f).ctxAt k = s.ctxAt k :=
  ctxAt_setCtx_ne s _ h
@[simp] theorem me_mod (s : State) (f : Ctx → Ctx) : (s.mod f).me = f s.me := by simp [State.me, State.ctxAt, State.mod, State.modCtx]
@[simp] theorem eng_setEng (s : State) (g e : Nat) (x : Engine) : (s.setEng g e x).eng g e = x := by simp [State.eng]
@[simp] theorem eng_modEng (s : State) (g e : Nat) (f : Engine → Engine) : (s.modEng g e f).eng g e = f (s.eng g e) := by simp [State.eng]
theorem eng_setEng_ne (s : State) {g e h d : Nat} (x : Engine) (k : engKey h d ≠ engKey g e) : (s.setEng g e x).eng h d = s.eng h d := by
  simp [State.eng, tableGet_insert_ne _ _ _ k]
@[simp] theorem die_setDie (s : State) (d : Nat) (x : Die) : (s.setDie d x).die d = x := by simp [State.die]
@[simp] theorem porch_setPorch (s : State) (q : Nat) (p : Porch) : (s.setPorch q p).porch q = p := by simp [State.porch]
@[simp] theorem barReg_setBar (s : State) (cap off : Nat) (v : Dword) : (s.setBar cap off v).barReg cap off = v := by
  simp [State.barReg, State.setBar]

/-! ## Parts of an engine and registers of a context -/

@[simp] theorem part_setPart (x : Engine) (k : Nat) (c : EngCtx) : (x.setPart k c).part k = c := by
  unfold Engine.setPart Engine.part; split <;> rfl
@[simp] theorem setPart_slots (x : Engine) (k : Nat) (c : EngCtx) : (x.setPart k c).slots = x.slots := by unfold Engine.setPart; split <;> rfl
@[simp] theorem setPart_spad (x : Engine) (k : Nat) (c : EngCtx) : (x.setPart k c).spad = x.spad := by unfold Engine.setPart; split <;> rfl
@[simp] theorem setPart_lost (x : Engine) (k : Nat) (c : EngCtx) : (x.setPart k c).lost = x.lost := by unfold Engine.setPart; split <;> rfl
@[simp] theorem sreg_zero (c : Ctx) : c.sreg 0 = 0 := rfl
@[simp] theorem putS_zero (c : Ctx) (v : Dword) : c.putS 0 v = c := rfl
@[simp] theorem sreg_putS (c : Ctx) {n : Nat} (v : Dword) (h : n ≠ 0) : (c.putS n v).sreg n = v := by simp [Ctx.sreg, Ctx.putS, h]
theorem sreg_putS_ne (c : Ctx) {n m : Nat} (v : Dword) (h : m ≠ n) : (c.putS n v).sreg m = c.sreg m := by
  unfold Ctx.putS Ctx.sreg
  split
  · rfl
  · split
    · rfl
    · exact tableGet_set_ne _ _ _ h
@[simp] theorem flag_zero (c : Ctx) : c.flag 0 = true := rfl
@[simp] theorem putF_zero (c : Ctx) (b : Bool) : c.putF 0 b = c := rfl
@[simp] theorem vreg_putV (x : EngCtx) (n : Nat) (v : Vec) : (x.putV n v).vreg n = v := by simp [EngCtx.vreg, EngCtx.putV]
theorem vreg_putV_ne (x : EngCtx) {n m : Nat} (v : Vec) (h : m ≠ n) : (x.putV n v).vreg m = x.vreg m := by
  simp [EngCtx.vreg, EngCtx.putV, tableGet_set_ne _ _ _ h]

/-! ## A write of s0, f0, p0 or q0 (R172) -/

@[simp] theorem wS_zero (s : State) (v : Dword) (L : Nat) : s.wS 0 v L = s := rfl
@[simp] theorem wSheld_zero (s : State) (v : Dword) : s.wSheld 0 v = s := rfl
@[simp] theorem wF_zero (s : State) (b : Bool) (L : Nat) : s.wF 0 b L = s := rfl

end Sys2Proof.Laws
end

