-- ==== Sys2Proof/Tests/Slice0.lean ====
section
/-!
SUPPORT. Tests of the model. The words of the decode tests are written out from the encodings of the spec; the values that the
other tests expect come from its rules. Each `witness_` theorem shows a state and operands that meet the hypotheses of the
statement of that name.
-/
namespace Sys2Proof.Tests
open Sys2Proof Sys2Proof.Machine
set_option maxRecDepth 20000
set_option exponentiation.threshold 3000

/-! ## States -/

/-- A word gated by f0, which acts always. -/
def g0 : Gate := ⟨0, false⟩
/-- A word gated by the negation of f0, which never acts. -/
def gOff : Gate := ⟨0, true⟩

/-- A region whose page table stands at 0x10000 and whose two save areas stand at 0x280000. -/
def region1 : Region := {
  parent := 0, root := true, depth := 0, cb := 0x300000, prio := 3, domain := 0, keyslot := 0, pol := false, gangs := 40, amps := 0
  mem := 16, timer := 1000, steal := 1000, cwthr := 0, estart := 0, esize := 0, hvec := 0x300000, ptroot := 0x10000, tbase := 0x200100
  tcount := 2, pool := 0x200200, sbase := 0x280000, sareas := 2, sowner := 1, ssize := 0x590000, used := [0, 0], gangsHeld := 0, pages := 0
  retired := false, held := false }

/-- A page table that maps flat addresses 0x200000 to 0x3FFFFF to physical 0x400000 on, readable, writable and executable. -/
def pageTable : Memory := [⟨0x10000, 1⟩, ⟨0x10002, 1⟩, ⟨0x10008, 0x1F⟩, ⟨0x1000A, 0x40⟩]

/-- Context 1 on gang 0 with engine 0 active, in region 1; s1 is a flat address, s2 a number, f1 true. -/
def demo : State :=
  let s : State := { State.reset with mem := pageTable, regions := [(1, region1)] }
  (s.modCtx 1 (fun c => { c with region := 1, scalars := [(1, 0x200000), (2, 3)], flags := 3, hvec := 0x300000 })).withFetchWord 32 0x20

/-- The demo state in supervisor mode. -/
def supervisor : State := demo.modCtx 1 (fun c => { c with sup := true })

/-- The demo state with some bytes written at a physical address. -/
def withBytes (s : State) (pa : Nat) (bs : List Byte) : State := s.hbmWrite noKey pa bs

/-- The demo state with some 64-bit words written at a physical address. -/
def withWords (s : State) (pa : Nat) (ws : List Nat) : State := s.hbmWrite noKey pa (ws.flatMap (leBytes 8))

/-- The state after a word. -/
def after (i : Instr) (s : State) : State :=
  match exec i s with
  | .next t => t
  | _ => s

/-- Whether a word acts: it answers a next state, and neither holds nor traps. -/
def runs (i : Instr) (s : State) : Bool :=
  match exec i s with
  | .next t => t.issue.status == .ok
  | _ => false

/-- Whether a word traps. -/
def traps (i : Instr) (s : State) : Bool :=
  match exec i s with
  | .next t => t.issue.status == .trapped
  | _ => false

/-! ## Decoding

One word of each constructor, its fields at distinct values, written out from the layouts of R165 and R166 (every word), R180 to R187 (the
opcodes), R201 and R217 (C), R226 (S), R234 (V), R253 (Q), R275 to R298 (T and K), R301 to R321 (M), R258 to R272 (X) and R328 to R336
(Kubor). -/

theorem test_decode_control_1 :
    let g : Gate := ⟨5, true⟩
    decodeTableWord 32 0x340 = some (.nop g) ∧
    decodeTableWord 32 0x94f90740 = some (.nopw g 38137) ∧
    decodeTableWord 32 0x94f90b40 = some (.br g 38137) ∧
    decodeTableWord 96 0x112233445566778800000b42 = some (.brLong g 0x1122334455667788) ∧
    decodeTableWord 32 0x8ef30f40 = some (.brf g 4 1 1779) ∧
    decodeTableWord 96 0x112233445566778888000f42 = some (.brfLong g 4 1 0x1122334455667788) ∧
    decodeTableWord 32 0x11941340 = some (.jmpi g 4 12 20) ∧
    decodeTableWord 32 0x94f91740 = some (.call g 38137) ∧
    decodeTableWord 96 0x112233445566778800001742 = some (.callLong g 0x1122334455667788) ∧
    decodeTableWord 32 0x41b40 = some (.ret g 4) ∧
    decodeTableWord 96 0x7ddf7aaf8e8ed8f39f2c1f41 = some (.loop g 1273 12 { incB := 32996842, incA := 49866989, fx := 4, len := 243 } none) ∧
    decodeTableWord 96 0x7ddf7aaf8e8ed8f39f2c2341 = some (.loopx g 1273 12 { incB := 32996842, incA := 49866989, fx := 4, len := 243 } none) := by
  decide

theorem test_decode_control_2 :
    let g : Gate := ⟨5, true⟩
    decodeTableWord 32 0x9ef32740 = some (.brp g 4 true 3827) ∧
    decodeTableWord 96 0x112233445566778890002742 = some (.brpLong g 4 true 0x1122334455667788) ∧
    decodeTableWord 32 0x2b40 = some (.join g) ∧
    decodeTableWord 32 0x112f40 = some (.jinit g 4 1) ∧
    decodeTableWord 96 0x112233445566778800012f42 = some (.jinitLiteral g 1 0x1122334455667788) ∧
    decodeTableWord 32 0x13340 = some (.jarv g 1) ∧
    decodeTableWord 32 0x13740 = some (.jwait g 1) ∧
    decodeTableWord 32 0x9ef33b40 = some (.split g 4 true 3827) ∧
    decodeTableWord 96 0x112233445566778890003b42 = some (.splitLong g 4 true 0x1122334455667788) ∧
    decodeTableWord 32 0x3f40 = some (.merge g) ∧
    decodeTableWord 32 0x44340 = some (.regrp g 4) ∧
    decodeTableWord 32 0x4740 = some (.pass g) := by
  decide

theorem test_decode_control_3 :
    let g : Gate := ⟨5, true⟩
    decodeTableWord 32 0x44b40 = some (.park g 4) ∧
    decodeTableWord 32 0x44f40 = some (.spawn g 4) ∧
    decodeTableWord 32 0x5340 = some (.exit g) ∧
    decodeTableWord 32 0x5740 = some (.done g) ∧
    decodeTableWord 32 0x5b40 = some (.idemb g) ∧
    decodeTableWord 32 0x5f40 = some (.ideme g) ∧
    decodeTableWord 32 0x4646340 = some (.gnew g 4 12 4) ∧
    decodeTableWord 32 0x246740 = some (.gjoin g 4 4) ∧
    decodeTableWord 32 0xc6b40 = some (.gleave g true 4) ∧
    decodeTableWord 32 0xc6f40 = some (.garv g true 4) ∧
    decodeTableWord 32 0x47340 = some (.gwait g 4) ∧
    decodeTableWord 32 0xc7740 = some (.gbar g true 4) := by
  decide

theorem test_decode_control_4 :
    let g : Gate := ⟨5, true⟩
    decodeTableWord 32 0xc9c7b40 = some (.gvote g true 4 4 28) ∧
    decodeTableWord 96 0x8c329c7f41 = some (.grdc g true 4 20 28 4 12) ∧
    decodeTableWord 32 0x48340 = some (.gwin g 4) ∧
    decodeTableWord 32 0x4948740 = some (.gqry g 4 4 20) ∧
    decodeTableWord 32 0x94f98b40 = some (.trap g 38137) ∧
    decodeTableWord 96 0x112233445566778800008b42 = some (.trapLiteral g 0x1122334455667788) ∧
    decodeTableWord 32 0x8f40 = some (.sysret g) ∧
    decodeTableWord 32 0x94f99340 = some (.brk g 38137) ∧
    decodeTableWord 32 0x9f2c9740 = some (.csrd g 1273 12) ∧
    decodeTableWord 32 0x9f2c9b40 = some (.cswr g 1273 12) ∧
    decodeTableWord 96 0x11223344556677889f209b42 = some (.cswrLiteral g 1273 0x1122334455667788) ∧
    decodeTableWord 32 0x9f2c9f40 = some (.brdl g 1273 12) := by
  decide

theorem test_decode_control_5 :
    let g : Gate := ⟨5, true⟩
    decodeTableWord 96 0x112233445566778800049f42 = some (.brdlLong g 4 0x1122334455667788) := by
  decide

theorem test_decode_scalar_1 :
    let g : Gate := ⟨5, true⟩
    decodeTableWord 32 0x11940744 = some (.add g 4 12 20) ∧
    decodeTableWord 96 0x1122334455667788008c0746 = some (.addLiteral g 4 12 0x1122334455667788) ∧
    decodeTableWord 32 0x11940b44 = some (.sub g 4 12 20) ∧
    decodeTableWord 96 0x1122334455667788008c0b46 = some (.subLiteral g 4 12 0x1122334455667788) ∧
    decodeTableWord 32 0x11940f44 = some (.mul g 4 12 20) ∧
    decodeTableWord 96 0x1122334455667788008c0f46 = some (.mulLiteral g 4 12 0x1122334455667788) ∧
    decodeTableWord 32 0x11941344 = some (.mulh g 4 12 20) ∧
    decodeTableWord 96 0x1122334455667788008c1346 = some (.mulhLiteral g 4 12 0x1122334455667788) ∧
    decodeTableWord 32 0x11941744 = some (.mulhu g 4 12 20) ∧
    decodeTableWord 96 0x1122334455667788008c1746 = some (.mulhuLiteral g 4 12 0x1122334455667788) ∧
    decodeTableWord 32 0x11941b44 = some (.divs g 4 12 20) ∧
    decodeTableWord 96 0x1122334455667788008c1b46 = some (.divsLiteral g 4 12 0x1122334455667788) := by
  decide

theorem test_decode_scalar_2 :
    let g : Gate := ⟨5, true⟩
    decodeTableWord 32 0x11941f44 = some (.divu g 4 12 20) ∧
    decodeTableWord 96 0x1122334455667788008c1f46 = some (.divuLiteral g 4 12 0x1122334455667788) ∧
    decodeTableWord 32 0x11942344 = some (.rems g 4 12 20) ∧
    decodeTableWord 96 0x1122334455667788008c2346 = some (.remsLiteral g 4 12 0x1122334455667788) ∧
    decodeTableWord 32 0x11942744 = some (.remu g 4 12 20) ∧
    decodeTableWord 96 0x1122334455667788008c2746 = some (.remuLiteral g 4 12 0x1122334455667788) ∧
    decodeTableWord 32 0x11942b44 = some (.and g 4 12 20) ∧
    decodeTableWord 96 0x1122334455667788008c2b46 = some (.andLiteral g 4 12 0x1122334455667788) ∧
    decodeTableWord 32 0x11942f44 = some (.or g 4 12 20) ∧
    decodeTableWord 96 0x1122334455667788008c2f46 = some (.orLiteral g 4 12 0x1122334455667788) ∧
    decodeTableWord 32 0x11943344 = some (.xor g 4 12 20) ∧
    decodeTableWord 96 0x1122334455667788008c3346 = some (.xorLiteral g 4 12 0x1122334455667788) := by
  decide

theorem test_decode_scalar_3 :
    let g : Gate := ⟨5, true⟩
    decodeTableWord 32 0x11943744 = some (.andn g 4 12 20) ∧
    decodeTableWord 96 0x1122334455667788008c3746 = some (.andnLiteral g 4 12 0x1122334455667788) ∧
    decodeTableWord 32 0x11943b44 = some (.shl g 4 12 20) ∧
    decodeTableWord 96 0x1122334455667788008c3b46 = some (.shlLiteral g 4 12 0x1122334455667788) ∧
    decodeTableWord 32 0x11943f44 = some (.shr g 4 12 20) ∧
    decodeTableWord 96 0x1122334455667788008c3f46 = some (.shrLiteral g 4 12 0x1122334455667788) ∧
    decodeTableWord 32 0x11944344 = some (.sar g 4 12 20) ∧
    decodeTableWord 96 0x1122334455667788008c4346 = some (.sarLiteral g 4 12 0x1122334455667788) ∧
    decodeTableWord 32 0x11944744 = some (.rotl g 4 12 20) ∧
    decodeTableWord 96 0x1122334455667788008c4746 = some (.rotlLiteral g 4 12 0x1122334455667788) ∧
    decodeTableWord 32 0x11944b44 = some (.mins g 4 12 20) ∧
    decodeTableWord 96 0x1122334455667788008c4b46 = some (.minsLiteral g 4 12 0x1122334455667788) := by
  decide

theorem test_decode_scalar_4 :
    let g : Gate := ⟨5, true⟩
    decodeTableWord 32 0x11944f44 = some (.minu g 4 12 20) ∧
    decodeTableWord 96 0x1122334455667788008c4f46 = some (.minuLiteral g 4 12 0x1122334455667788) ∧
    decodeTableWord 32 0x11945344 = some (.maxs g 4 12 20) ∧
    decodeTableWord 96 0x1122334455667788008c5346 = some (.maxsLiteral g 4 12 0x1122334455667788) ∧
    decodeTableWord 32 0x11945744 = some (.maxu g 4 12 20) ∧
    decodeTableWord 96 0x1122334455667788008c5746 = some (.maxuLiteral g 4 12 0x1122334455667788) ∧
    decodeTableWord 96 0x1c8ca45b45 = some (.cmp g 4 12 20 4 1 12 none) ∧
    decodeTableWord 32 0x9245f44 = some (.flop g 4 4 4 4) ∧
    decodeTableWord 96 0x411946345 = some (.sel g 4 12 20 4) ∧
    decodeTableWord 32 0x8c6744 = some (.mov g 4 12) ∧
    decodeTableWord 32 0x9f2c6b44 = some (.movi g 1273 12) ∧
    decodeTableWord 96 0x112233445566778800046b46 = some (.moviLiteral g 4 0x1122334455667788) := by
  decide

theorem test_decode_scalar_5 :
    let g : Gate := ⟨5, true⟩
    decodeTableWord 96 0xcbfa53f0411946f45 = some (.lea g 4 12 20 3422180336 4 none) ∧
    decodeTableWord 32 0x8c7344 = some (.clz g 4 12) ∧
    decodeTableWord 32 0x8c7744 = some (.ctz g 4 12) ∧
    decodeTableWord 32 0x8c7b44 = some (.popc g 4 12) ∧
    decodeTableWord 96 0x2724008c7f45 = some (.bfx g 4 12 true 28 36) ∧
    decodeTableWord 96 0x51c008c8345 = some (.bfi g 4 12 20 28) ∧
    decodeTableWord 32 0x48744 = some (.bcst g 4) ∧
    decodeTableWord 96 0x112233445566778800008746 = some (.bcstLiteral g 0x1122334455667788) := by
  decide

theorem test_decode_sort_1 :
    let g : Gate := ⟨5, true⟩
    decodeTableWord 96 0x934b34c3140749 = some (.cxs g { k := 4, j := 4, uns := true, desc := true, fmt := 4, pb := 44, pa := 52, ln := true, lq := 4, kb := 12, ka := 20 }) ∧
    decodeTableWord 96 0x934b34c3140b49 = some (.cxsi g { k := 4, j := 4, uns := true, desc := true, fmt := 4, pb := 44, pa := 52, ln := true, lq := 4, kb := 12, ka := 20 }) ∧
    decodeTableWord 96 0x934b34c3140f49 = some (.cxv g { k := 4, j := 4, uns := true, desc := true, fmt := 4, pb := 44, pa := 52, ln := true, lq := 4, kb := 12, ka := 20 }) ∧
    decodeTableWord 96 0x934b34c3141349 = some (.cxvi g { k := 4, j := 4, uns := true, desc := true, fmt := 4, pb := 44, pa := 52, ln := true, lq := 4, kb := 12, ka := 20 }) := by
  decide

theorem test_decode_vector_1 :
    let g : Gate := ⟨5, true⟩
    decodeTableWord 96 0x489e2410cc92c074d = some (.vadd g { imm := 4, qc := 4, sub := 4, z := true, sat := true, fmt2 := 12, fmt := 4, rm := 4, vc := 4, vb := 12, ln := true, lq := 4, va := 36, vd := 44 } none) ∧
    decodeTableWord 96 0x489e2410cc92c0b4d = some (.vsub g { imm := 4, qc := 4, sub := 4, z := true, sat := true, fmt2 := 12, fmt := 4, rm := 4, vc := 4, vb := 12, ln := true, lq := 4, va := 36, vd := 44 } none) ∧
    decodeTableWord 96 0x489e2410cc92c0f4d = some (.vmul g { imm := 4, qc := 4, sub := 4, z := true, sat := true, fmt2 := 12, fmt := 4, rm := 4, vc := 4, vb := 12, ln := true, lq := 4, va := 36, vd := 44 } none) ∧
    decodeTableWord 96 0x489e2410cc92c134d = some (.vfma g { imm := 4, qc := 4, sub := 4, z := true, sat := true, fmt2 := 12, fmt := 4, rm := 4, vc := 4, vb := 12, ln := true, lq := 4, va := 36, vd := 44 } none) ∧
    decodeTableWord 96 0x489e2410cc92c174d = some (.vmax g { imm := 4, qc := 4, sub := 4, z := true, sat := true, fmt2 := 12, fmt := 4, rm := 4, vc := 4, vb := 12, ln := true, lq := 4, va := 36, vd := 44 } none) ∧
    decodeTableWord 96 0x489e2410cc92c1b4d = some (.vmin g { imm := 4, qc := 4, sub := 4, z := true, sat := true, fmt2 := 12, fmt := 4, rm := 4, vc := 4, vb := 12, ln := true, lq := 4, va := 36, vd := 44 } none) ∧
    decodeTableWord 96 0x489e2410cc92c1f4d = some (.vabs g { imm := 4, qc := 4, sub := 4, z := true, sat := true, fmt2 := 12, fmt := 4, rm := 4, vc := 4, vb := 12, ln := true, lq := 4, va := 36, vd := 44 } none) ∧
    decodeTableWord 96 0x489e2410cc92c234d = some (.vneg g { imm := 4, qc := 4, sub := 4, z := true, sat := true, fmt2 := 12, fmt := 4, rm := 4, vc := 4, vb := 12, ln := true, lq := 4, va := 36, vd := 44 } none) ∧
    decodeTableWord 96 0x489e2410cc92c274d = some (.vrcp g { imm := 4, qc := 4, sub := 4, z := true, sat := true, fmt2 := 12, fmt := 4, rm := 4, vc := 4, vb := 12, ln := true, lq := 4, va := 36, vd := 44 } none) ∧
    decodeTableWord 96 0x489e2410cc92c2b4d = some (.vrsq g { imm := 4, qc := 4, sub := 4, z := true, sat := true, fmt2 := 12, fmt := 4, rm := 4, vc := 4, vb := 12, ln := true, lq := 4, va := 36, vd := 44 } none) ∧
    decodeTableWord 96 0x489e2410cc92c2f4d = some (.vexp g { imm := 4, qc := 4, sub := 4, z := true, sat := true, fmt2 := 12, fmt := 4, rm := 4, vc := 4, vb := 12, ln := true, lq := 4, va := 36, vd := 44 } none) ∧
    decodeTableWord 96 0x489e2410cc92c334d = some (.vlog g { imm := 4, qc := 4, sub := 4, z := true, sat := true, fmt2 := 12, fmt := 4, rm := 4, vc := 4, vb := 12, ln := true, lq := 4, va := 36, vd := 44 } none) := by
  decide

theorem test_decode_vector_2 :
    let g : Gate := ⟨5, true⟩
    decodeTableWord 96 0x489e2410cc92c374d = some (.vtanh g { imm := 4, qc := 4, sub := 4, z := true, sat := true, fmt2 := 12, fmt := 4, rm := 4, vc := 4, vb := 12, ln := true, lq := 4, va := 36, vd := 44 } none) ∧
    decodeTableWord 96 0x489e2410cc92c3b4d = some (.viadd g { imm := 4, qc := 4, sub := 4, z := true, sat := true, fmt2 := 12, fmt := 4, rm := 4, vc := 4, vb := 12, ln := true, lq := 4, va := 36, vd := 44 } none) ∧
    decodeTableWord 96 0x489e2410cc92c3f4d = some (.visub g { imm := 4, qc := 4, sub := 4, z := true, sat := true, fmt2 := 12, fmt := 4, rm := 4, vc := 4, vb := 12, ln := true, lq := 4, va := 36, vd := 44 } none) ∧
    decodeTableWord 96 0x489e2410cc92c434d = some (.vimul g { imm := 4, qc := 4, sub := 4, z := true, sat := true, fmt2 := 12, fmt := 4, rm := 4, vc := 4, vb := 12, ln := true, lq := 4, va := 36, vd := 44 } none) ∧
    decodeTableWord 96 0x489e2410cc92c474d = some (.vimad g { imm := 4, qc := 4, sub := 4, z := true, sat := true, fmt2 := 12, fmt := 4, rm := 4, vc := 4, vb := 12, ln := true, lq := 4, va := 36, vd := 44 } none) ∧
    decodeTableWord 96 0x489e2410cc92c4b4d = some (.vimin g { imm := 4, qc := 4, sub := 4, z := true, sat := true, fmt2 := 12, fmt := 4, rm := 4, vc := 4, vb := 12, ln := true, lq := 4, va := 36, vd := 44 } none) ∧
    decodeTableWord 96 0x489e2410cc92c4f4d = some (.vimax g { imm := 4, qc := 4, sub := 4, z := true, sat := true, fmt2 := 12, fmt := 4, rm := 4, vc := 4, vb := 12, ln := true, lq := 4, va := 36, vd := 44 } none) ∧
    decodeTableWord 96 0x489e2410cc92c534d = some (.vand g { imm := 4, qc := 4, sub := 4, z := true, sat := true, fmt2 := 12, fmt := 4, rm := 4, vc := 4, vb := 12, ln := true, lq := 4, va := 36, vd := 44 } none) ∧
    decodeTableWord 96 0x489e2410cc92c574d = some (.vor g { imm := 4, qc := 4, sub := 4, z := true, sat := true, fmt2 := 12, fmt := 4, rm := 4, vc := 4, vb := 12, ln := true, lq := 4, va := 36, vd := 44 } none) ∧
    decodeTableWord 96 0x489e2410cc92c5b4d = some (.vxor g { imm := 4, qc := 4, sub := 4, z := true, sat := true, fmt2 := 12, fmt := 4, rm := 4, vc := 4, vb := 12, ln := true, lq := 4, va := 36, vd := 44 } none) ∧
    decodeTableWord 96 0x489e2410cc92c5f4d = some (.vshl g { imm := 4, qc := 4, sub := 4, z := true, sat := true, fmt2 := 12, fmt := 4, rm := 4, vc := 4, vb := 12, ln := true, lq := 4, va := 36, vd := 44 } none) ∧
    decodeTableWord 96 0x489e2410cc92c634d = some (.vshr g { imm := 4, qc := 4, sub := 4, z := true, sat := true, fmt2 := 12, fmt := 4, rm := 4, vc := 4, vb := 12, ln := true, lq := 4, va := 36, vd := 44 } none) := by
  decide

theorem test_decode_vector_3 :
    let g : Gate := ⟨5, true⟩
    decodeTableWord 96 0x489e2410cc92c674d = some (.vsar g { imm := 4, qc := 4, sub := 4, z := true, sat := true, fmt2 := 12, fmt := 4, rm := 4, vc := 4, vb := 12, ln := true, lq := 4, va := 36, vd := 44 } none) ∧
    decodeTableWord 96 0x489e2410cc92c6b4d = some (.vcmp g { imm := 4, qc := 4, sub := 4, z := true, sat := true, fmt2 := 12, fmt := 4, rm := 4, vc := 4, vb := 12, ln := true, lq := 4, va := 36, vd := 44 } none) ∧
    decodeTableWord 96 0x489e2410cc92c6f4d = some (.vsel g { imm := 4, qc := 4, sub := 4, z := true, sat := true, fmt2 := 12, fmt := 4, rm := 4, vc := 4, vb := 12, ln := true, lq := 4, va := 36, vd := 44 } none) ∧
    decodeTableWord 96 0x489e2410cc92c734d = some (.vmov g { imm := 4, qc := 4, sub := 4, z := true, sat := true, fmt2 := 12, fmt := 4, rm := 4, vc := 4, vb := 12, ln := true, lq := 4, va := 36, vd := 44 } none) ∧
    decodeTableWord 96 0x489e2410cc92c774d = some (.vcvt g { imm := 4, qc := 4, sub := 4, z := true, sat := true, fmt2 := 12, fmt := 4, rm := 4, vc := 4, vb := 12, ln := true, lq := 4, va := 36, vd := 44 } none) ∧
    decodeTableWord 96 0x489e2410cc92c7b4d = some (.vpack g { imm := 4, qc := 4, sub := 4, z := true, sat := true, fmt2 := 12, fmt := 4, rm := 4, vc := 4, vb := 12, ln := true, lq := 4, va := 36, vd := 44 } none) ∧
    decodeTableWord 96 0x489e2410cc92c7f4d = some (.vunpk g { imm := 4, qc := 4, sub := 4, z := true, sat := true, fmt2 := 12, fmt := 4, rm := 4, vc := 4, vb := 12, ln := true, lq := 4, va := 36, vd := 44 } none) ∧
    decodeTableWord 96 0x489e2410cc92c834d = some (.vreds g { imm := 4, qc := 4, sub := 4, z := true, sat := true, fmt2 := 12, fmt := 4, rm := 4, vc := 4, vb := 12, ln := true, lq := 4, va := 36, vd := 44 } none) ∧
    decodeTableWord 96 0x489e2410cc92c874d = some (.vscan g { imm := 4, qc := 4, sub := 4, z := true, sat := true, fmt2 := 12, fmt := 4, rm := 4, vc := 4, vb := 12, ln := true, lq := 4, va := 36, vd := 44 } none) ∧
    decodeTableWord 96 0x489e2410cc92c8b4d = some (.vperm g { imm := 4, qc := 4, sub := 4, z := true, sat := true, fmt2 := 12, fmt := 4, rm := 4, vc := 4, vb := 12, ln := true, lq := 4, va := 36, vd := 44 } none) ∧
    decodeTableWord 96 0x489e2410cc92c8f4d = some (.vlane g { imm := 4, qc := 4, sub := 4, z := true, sat := true, fmt2 := 12, fmt := 4, rm := 4, vc := 4, vb := 12, ln := true, lq := 4, va := 36, vd := 44 } none) ∧
    decodeTableWord 96 0x489e2410cc92c934d = some (.vqcnt g { imm := 4, qc := 4, sub := 4, z := true, sat := true, fmt2 := 12, fmt := 4, rm := 4, vc := 4, vb := 12, ln := true, lq := 4, va := 36, vd := 44 } none) := by
  decide

theorem test_decode_vector_4 :
    let g : Gate := ⟨5, true⟩
    decodeTableWord 96 0x489e2410cc92c974d = some (.vcmps g { imm := 4, qc := 4, sub := 4, z := true, sat := true, fmt2 := 12, fmt := 4, rm := 4, vc := 4, vb := 12, ln := true, lq := 4, va := 36, vd := 44 } none) ∧
    decodeTableWord 96 0x489e2410cc92c9b4d = some (.vqop g { imm := 4, qc := 4, sub := 4, z := true, sat := true, fmt2 := 12, fmt := 4, rm := 4, vc := 4, vb := 12, ln := true, lq := 4, va := 36, vd := 44 } none) := by
  decide

theorem test_decode_tile_1 :
    let g : Gate := ⟨5, true⟩
    decodeTableWord 96 0x1ca710751 = some (.mma g 1 28 20 12 true) ∧
    decodeTableWord 96 0x114e110b51 = some (.mmsp g 1 4 28 4 true 4) ∧
    decodeTableWord 96 0x1c0a710f51 = some (.kvmm g 1 28 20 12 true) ∧
    decodeTableWord 96 0x340e111351 = some (.kvmv g 1 4 28 4 true 1) ∧
    decodeTableWord 96 0x119c12311751 = some (.gmma g 1 12 36 12 true 12 4) ∧
    decodeTableWord 32 0x8c1b50 = some (.oclm g 4 12) ∧
    decodeTableWord 32 0x8c1f50 = some (.orel g 4 12) ∧
    decodeTableWord 96 0x7dea4d1842351 = some (.old g 4 12 20 true 4 32234) ∧
    decodeTableWord 32 0xe3842750 = some (.otag g 28 true 12 4) ∧
    decodeTableWord 32 0xa4842750 = some (.otagQ g 20 4 4) ∧
    decodeTableWord 96 0x112233445566778807842752 = some (.otagLiteral g true true 12 4 0x1122334455667788) ∧
    decodeTableWord 32 0x12b50 = some (.azro g 1) := by
  decide

theorem test_decode_tile_2 :
    let g : Gate := ⟨5, true⟩
    decodeTableWord 32 0x1452f50 = some (.aadd g true 4 1 1) ∧
    decodeTableWord 96 0x94f97c4c253351 = some (.adrn g { pitch := 38137, part := 1, int := true, clr := true, ftz := true, rm := 4, zs := 4, fmt := 12, addr := 4, dst := true, acc := 1 }) ∧
    decodeTableWord 96 0x4714c3751 = some (.shp g 4 true 20 28 4 none) ∧
    decodeTableWord 32 0x28c3b50 = some (.dstq g true 4 1 4) := by
  decide

theorem test_decode_scale_1 :
    let g : Gate := ⟨5, true⟩
    decodeTableWord 96 0x100040755 = some (.scl g 4 1) ∧
    decodeTableWord 96 0x10c0400000b55 = some (.scli g 4 12 1 none) ∧
    decodeTableWord 32 0xf54 = some (.sclz g) := by
  decide

theorem test_decode_memory_1 :
    let g : Gate := ⟨5, true⟩
    decodeTableWord 32 0x15840758 = some (.lds g true 1 12 4) ∧
    decodeTableWord 96 0x11223344556677881584075a = some (.ldsLiteral g true 1 12 4 0x1122334455667788) ∧
    decodeTableWord 32 0x5840b58 = some (.sts g 1 12 4) ∧
    decodeTableWord 96 0x112233445566778805840b5a = some (.stsLiteral g 1 12 4 0x1122334455667788) ∧
    decodeTableWord 96 0x2665fd29f859b140f59 = some (.lda g { sE := 4, ln := true, lq := 4, disp := 3422180336, sgn := true, sz := 1, scope := 4, spc := true, vec := true, sA := 12, r := 20 } none) ∧
    decodeTableWord 96 0x2665fd29f859b141359 = some (.stl g { sE := 4, ln := true, lq := 4, disp := 3422180336, sgn := true, sz := 1, scope := 4, spc := true, vec := true, sA := 12, r := 20 } none) ∧
    decodeTableWord 96 0x2665fd29f859b141759 = some (.stx g { sE := 4, ln := true, lq := 4, disp := 3422180336, sgn := true, sz := 1, scope := 4, spc := true, vec := true, sA := 12, r := 20 } none) ∧
    decodeTableWord 96 0x12fe94fc94a451841b59 = some (.atom g { disp := 2549393380, sC := 20, sz := true, op := 4, scope := 4, sV := 20, sA := 12, sD := 4 } none) ∧
    decodeTableWord 96 0x12fe94fc94a451841f59 = some (.atcas g { disp := 2549393380, sC := 20, sz := true, op := 4, scope := 4, sV := 20, sA := 12, sD := 4 } none) ∧
    decodeTableWord 96 0xe5fd29f36e71949b342359 = some (.vld g { disp := 1929286905, nr := true, sh := 1, sgn := true, sz := 1, op := 12, z := true, ln := true, lq := 4, sE := 12, sA := 20, scope := 4, spc := true, vI := 44, vR := 52 } none) ∧
    decodeTableWord 96 0xe5fd29f36e71949b342759 = some (.vst g { disp := 1929286905, nr := true, sh := 1, sgn := true, sz := 1, op := 12, z := true, ln := true, lq := 4, sE := 12, sA := 20, scope := 4, spc := true, vI := 44, vR := 52 } none) ∧
    decodeTableWord 96 0xe5fd29f36e71949b342b59 = some (.vldp g { disp := 1929286905, nr := true, sh := 1, sgn := true, sz := 1, op := 12, z := true, ln := true, lq := 4, sE := 12, sA := 20, scope := 4, spc := true, vI := 44, vR := 52 } none) := by
  decide

theorem test_decode_memory_2 :
    let g : Gate := ⟨5, true⟩
    decodeTableWord 96 0xe5fd29f36e71949b342f59 = some (.vstp g { disp := 1929286905, nr := true, sh := 1, sgn := true, sz := 1, op := 12, z := true, ln := true, lq := 4, sE := 12, sA := 20, scope := 4, spc := true, vI := 44, vR := 52 } none) ∧
    decodeTableWord 96 0xe5fd29f36e71949b343359 = some (.vldg g { disp := 1929286905, nr := true, sh := 1, sgn := true, sz := 1, op := 12, z := true, ln := true, lq := 4, sE := 12, sA := 20, scope := 4, spc := true, vI := 44, vR := 52 } none) ∧
    decodeTableWord 96 0xe5fd29f36e71949b343759 = some (.vstg g { disp := 1929286905, nr := true, sh := 1, sgn := true, sz := 1, op := 12, z := true, ln := true, lq := 4, sE := 12, sA := 20, scope := 4, spc := true, vI := 44, vR := 52 } none) ∧
    decodeTableWord 96 0xe5fd29f36e71949b343b59 = some (.vatom g { disp := 1929286905, nr := true, sh := 1, sgn := true, sz := 1, op := 12, z := true, ln := true, lq := 4, sE := 12, sA := 20, scope := 4, spc := true, vI := 44, vR := 52 } none) ∧
    decodeTableWord 96 0xcbfa53f00a313f59 = some (.port g 1 12 20 3422180336 none) ∧
    decodeTableWord 32 0x1844358 = some (.cpy g 12 4) ∧
    decodeTableWord 96 0xaf33ce1e551844759 = some (.cpyl g { lbase := 183712993, comm := true, ln := true, lq := 4, dir := true, sz := 1, vO := 20, sB := 12, sT := 4 }) ∧
    decodeTableWord 96 0x4c44a7e412e7b24d1844b59 = some (.cpyw g { esy := 76, esx := 68, pitch := 42980, nch := 4839, wy := 44, wx := 36, comm := true, sB := 20, sA := 12, sT := 4 }) ∧
    decodeTableWord 96 0x11ca1844f59 = some (.cpyk g 4 12 20 28 true) ∧
    decodeTableWord 32 0x115358 = some (.fence g 4 1) ∧
    decodeTableWord 96 0xbef3e5fd29f600045759 = some (.pfx g 4 3858573814 48883 none) ∧
    decodeTableWord 96 0x1c05845b59 = some (.xpf g true 12 4 28) := by
  decide

theorem test_decode_memory_3 :
    let g : Gate := ⟨5, true⟩
    decodeTableWord 32 0x45f58 = some (.cwb g 4) ∧
    decodeTableWord 32 0x46358 = some (.cinv g 4) ∧
    decodeTableWord 32 0x46758 = some (.pbinv g 4) ∧
    decodeTableWord 96 0x1301846b59 = some (.pgmap g 12 4 true true 4) ∧
    decodeTableWord 32 0x5846f58 = some (.tinv g 1 12 4) ∧
    decodeTableWord 96 0x1bef301847359 = some (.btinv g 12 4 48883 true) ∧
    decodeTableWord 32 0xd1847758 = some (.kvseq g true 20 12 4) ∧
    decodeTableWord 96 0x11223344556677888184775a = some (.kvseqLiteral g true 12 4 0x1122334455667788) := by
  decide

theorem test_decode_exchange_1 :
    let g : Gate := ⟨5, true⟩
    decodeTableWord 96 0x4c4cb34075d = some (.xshf g { vb := 4, m := 12, pat := 4, ln := true, lq := 4, va := 44, vd := 52 }) ∧
    decodeTableWord 96 0x4cb340b5d = some (.xred g { vb := 0, m := 0, pat := 4, ln := true, lq := 4, va := 44, vd := 52 }) ∧
    decodeTableWord 96 0xc0cb340f5d = some (.xbc g { vb := 0, m := 12, pat := 0, ln := true, lq := 4, va := 44, vd := 52 }) ∧
    decodeTableWord 96 0x118c135d = some (.xvot g 4 12 true 4) ∧
    decodeTableWord 96 0x2ccc51c175d = some (.xpick g { hi := true, sD := 12, pn := true, ps := 4, ln := true, lq := 4, va := 20, vd := 28 }) ∧
    decodeTableWord 32 0x30f91b5c = some (.xsnd g 12 249) ∧
    decodeTableWord 32 0x30f91f5c = some (.xrcv g 12 249) ∧
    decodeTableWord 32 0x30f9235c = some (.xrca g 12 249) ∧
    decodeTableWord 32 0x30f9275c = some (.xchs g 12 249) ∧
    decodeTableWord 32 0x30f92b5c = some (.chld g 12 249) ∧
    decodeTableWord 32 0x5842f5c = some (.kld g 1 12 4) ∧
    decodeTableWord 96 0x112233445566778804042f5e = some (.kldLiteral g 1 4 0x1122334455667788) := by
  decide

theorem test_decode_exchange_2 :
    let g : Gate := ⟨5, true⟩
    decodeTableWord 32 0x184335c = some (.kgo g 12 4) ∧
    decodeTableWord 32 0x584375c = some (.kwt g true 12 4) := by
  decide

theorem test_decode_kubor :
    decodeTableWord 128 0x1cf1d2ab4f13570012345678009abcde = some (.send ⟨true, 9, true, 6⟩ { pe := 3, tag := 165, fin := 5, fout := 6, out := 2, pf := 7, ba := 8, xa := 9, bb := 10, xb := 11, rm := 4, stride := 0x12345678, n := 0x9abcde }) ∧
    decodeTableWord 128 0x2cf1d2ab4f13570012345678009abcde = some (.recv ⟨true, 9, true, 6⟩ { pe := 3, tag := 165, fin := 5, fout := 6, out := 2, pf := 7, ba := 8, xa := 9, bb := 10, xb := 11, rm := 4, stride := 0x12345678, n := 0x9abcde }) ∧
    decodeTableWord 128 0x3cf1d2ab4f13570012345678009abcde = some (.rdc ⟨true, 9, true, 6⟩ { pe := 3, tag := 165, fin := 5, fout := 6, out := 2, pf := 7, ba := 8, xa := 9, bb := 10, xb := 11, rm := 4, stride := 0x12345678, n := 0x9abcde }) ∧
    decodeTableWord 128 0x4cf1d2ab4f13570012345678009abcde = some (.copy ⟨true, 9, true, 6⟩ { pe := 3, tag := 165, fin := 5, fout := 6, out := 2, pf := 7, ba := 8, xa := 9, bb := 10, xb := 11, rm := 4, stride := 0x12345678, n := 0x9abcde }) ∧
    decodeTableWord 128 0x5c815800000000000000000000001234 = some (.waitCnt ⟨true, 9, false, 0⟩ 5 6 0x1234) ∧
    decodeTableWord 128 0x5c8219c0000000000000000000000000 = some (.waitGrp ⟨true, 9, false, 0⟩ 6 7) ∧
    decodeTableWord 128 0x5c840000000000000000000000000000 = some (.waitTs ⟨true, 9, false, 0⟩) ∧
    decodeTableWord 128 0x6c800600000000000000000000000000 = some (.sigArv ⟨true, 9, false, 0⟩ 6) ∧
    decodeTableWord 128 0x6c815600000000000000000000000000 = some (.sigJoin ⟨true, 9, false, 0⟩ 5 6) ∧
    decodeTableWord 128 0x6c820600000000000000000000000000 = some (.sigLeave ⟨true, 9, false, 0⟩ 6) ∧
    decodeTableWord 128 0x6c835670000000000000000000000000 = some (.sigNew ⟨true, 9, false, 0⟩ 5 6 7) ∧
    decodeTableWord 128 0x6c840670000000000000123456789abc = some (.sigStl ⟨true, 9, false, 0⟩ 6 7 0x123456789ABC) ∧
    decodeTableWord 128 0x7c809188889111199980015500000777 = some (.kuborLoop ⟨true, 9, false, 0⟩ ⟨1, 2, 3, 0x1111, 0x2222, 0x3333, 0x155, 0x777⟩) ∧
    decodeTableWord 128 0x8c82b3000000000000000000fffffffe = some (.brc ⟨true, 9, false, 0⟩ 5 6 3 0xFFFFFFFE) ∧
    decodeTableWord 128 0x9c800000000000000000000000000000 = some (.kend ⟨true, 9, false, 0⟩) := by
  decide

/-! ## Ill-formed terms that the checks refuse (R171, R188) -/

/-- Whether every term of a list is refused. -/
def refused (l : List Instr) : Bool := l.all (fun i => !i.wellFormed)

/-- The fields of a word on v1 and v2 to v3. -/
def vf : VFields := ⟨0, 0, 0, false, false, 0, 0, 0, 0, 2, false, 0, 1, 3⟩
/-- The fields of a word on v1 to v3. -/
def vf1 : VFields := { vf with vb := 0 }
/-- The fields of a word on two predicates to a predicate. -/
def qf : VFields := { vf with sub := 6, imm := 1, vd := 4 }
/-- The fields of a word on keys in v1 and v2. -/
def kf : QFields := ⟨0, 0, false, false, 0, 0, 0, false, 0, 2, 1⟩
/-- A vector access of engine 0 at s1. -/
def mf : MemFields := ⟨0, false, 0, false, 0, 0, false, false, 0, 0, 1, 0, false, 0, 3⟩
/-- A strong access of 8 bytes at s1, and one of a vector. -/
def sf (vec : Bool) : StrongFields := ⟨0, false, 0, 0, false, if vec then 2 else 3, 4, false, vec, 1, 3⟩

theorem smoke_targets : refused [.brLong g0 (2 ^ 56), .callLong g0 (2 ^ 56), .brfLong g0 0 0 (2 ^ 56), .brpLong g0 0 false (2 ^ 56),
    .splitLong g0 0 false (2 ^ 56), .brdlLong g0 0 (2 ^ 56), .jinitLiteral g0 0 (2 ^ 16)] = true := by decide

theorem smoke_loops : refused [.loop g0 1 0 ⟨0, 0, 1, 3⟩ none, .loop g0 1 0 ⟨0, 1, 0, 3⟩ none, .loop g0 0 0 ⟨0, 0, 0, 3⟩ (some (2 ^ 32)),
    .loop g0 1 0 ⟨0, 0, 0, 3⟩ (some 5), .loopx g0 1 0 ⟨0, 0x2000300, 0, 3⟩ none, .loopx g0 1 0 ⟨0x3100000, 0, 0, 3⟩ none] = true := by decide

theorem smoke_control : refused [.grdc g0 false 1 1 2 9 3, .gqry g0 5 1 2, .csrd g0 0x0B 1, .cswr g0 0x14 1, .cswrLiteral g0 0x2E 1] = true := by decide

theorem smoke_scalar : refused [.cmp g0 0 2 1 1 0 12 none, .cmp g0 1 2 1 1 0 0 none, .cmp g0 0 2 1 1 0 0 (some 5), .lea g0 2 1 3 8 0 (some 8),
    .bfx g0 1 3 false 0 0, .bfi g0 1 3 65 0] = true := by decide

theorem smoke_sort : refused [.cxs g0 { kf with pa := 1 }, .cxs g0 { kf with fmt := 1 }, .cxs g0 { kf with uns := true }, .cxs g0 { kf with ka := 32 },
    .cxsi g0 { kf with k := 1 }, .cxv g0 { kf with kb := 1, k := 1 }, .cxv g0 { kf with kb := 0, j := 1, k := 1 },
    .cxvi g0 { kf with kb := 0, k := 7 }] = true := by decide

theorem smoke_vector_fields : refused [.vadd g0 { vf with imm := 1 } none, .vadd g0 { vf with qc := 1 } none, .vadd g0 { vf with sub := 1 } none,
    .vadd g0 { vf with sat := true } none, .vadd g0 { vf with fmt := 1 } none, .vadd g0 { vf with fmt2 := 1 } none, .vadd g0 { vf with vc := 1 } none,
    .vadd g0 { vf with rm := 5 } none, .vadd g0 { vf with va := 0x25 } none, .vadd g0 { vf with vd := 0x24 } none, .vadd g0 vf (some 5),
    .vadd g0 { vf with vb := 0 } (some (2 ^ 32)), .vabs g0 { vf1 with vb := 1 } none, .vabs g0 vf1 (some 5), .vabs g0 { vf1 with rm := 1 } none,
    .vexp g0 { vf1 with sub := 2 } none] = true := by decide

theorem smoke_vector_ops : refused [.viadd g0 { vf with sub := 2 } none, .vimul g0 { vf with sub := 3 } none, .vimul g0 { vf with sub := 1, sat := true } none,
    .vimad g0 { vf with sub := 2 } none, .vimin g0 { vf with sat := true } none, .vcmp g0 { vf with sub := 8 } none,
    .vcmp g0 { vf with fmt := 8, sub := 6 } none, .vcmp g0 { vf with fmt := 1 } none, .vcmp g0 { vf with vd := 8 } none, .vcmps g0 { vf with imm := 4 } none,
    .vcvt g0 vf1 none, .vcvt g0 { vf1 with imm := 2 } none, .vcvt g0 { vf with imm := 1, fmt := 10 } none, .vcvt g0 { vf1 with fmt := 3, fmt2 := 4 } none,
    .vpack g0 vf1 none, .vpack g0 { vf1 with fmt := 1, imm := 2 } none, .vunpk g0 { vf1 with fmt := 1, sub := 1 } none,
    .vunpk g0 { vf1 with fmt := 5, imm := 4 } none, .vreds g0 { vf1 with sub := 11 } none, .vperm g0 { vf with vc := 1 } none,
    .vperm g0 { vf with sub := 2 } none, .vlane g0 { vf1 with sub := 5 } none, .vlane g0 { vf1 with sub := 3, imm := 64 } none,
    .vqcnt g0 { vf1 with va := 8 } none, .vqcnt g0 { vf1 with sub := 3 } none, .vqop g0 { qf with imm := 2 } none, .vqop g0 { qf with z := true } none,
    .vqop g0 { qf with va := 8 } none] = true := by decide

theorem smoke_tile : refused [.mma g0 0 1 2 9 false, .mmsp g0 0 1 31 8 false 2, .kvmm g0 0 1 32 8 false, .kvmv g0 0 1 32 8 false 0, .gmma g0 0 1 32 8 false 1 2,
    .oclm g0 7 25, .orel g0 1 31, .old g0 1 1 0 false 0 256, .old g0 1 1 0 false 1 2, .old g0 1 1 2 false 1 256, .old g0 1 1 0 true 9 256,
    .otag g0 1 false 1 2, .otag g0 1 true 7 2, .otagLiteral g0 true true 0 1 0, .otagLiteral g0 true false 8 1 0, .otagLiteral g0 false false 0 1 (2 ^ 16),
    .aadd g0 false 9 1 2, .shp g0 0 false 0 1 0 none, .shp g0 0 false 0 1 1 (some 3), .scl g0 1 0, .scl g0 0x25 1, .scli g0 1 0 1 (some 3),
    .scli g0 1 1 0 none, .scli g0 0 0 3 (some (2 ^ 16))] = true := by decide

theorem smoke_drain : refused [.adrn g0 ⟨2, 0, false, false, false, 0, 8, 1, 0, false, 0⟩, .adrn g0 ⟨0, 1, false, false, false, 0, 8, 1, 0, false, 0⟩,
    .adrn g0 ⟨4, 0, false, false, false, 0, 8, 1, 0, true, 0⟩, .adrn g0 ⟨0, 1, false, false, false, 0, 8, 1, 0, true, 0⟩,
    .adrn g0 ⟨0, 2, false, false, false, 0, 8, 3, 0, true, 0⟩, .adrn g0 ⟨0, 0, false, false, false, 5, 8, 1, 0, true, 0⟩,
    .adrn g0 ⟨0, 0, false, false, false, 0, 9, 1, 0, true, 0⟩, .adrn g0 ⟨0, 0, false, false, false, 0, 8, 9, 0, false, 0⟩] = true := by decide

theorem smoke_memory : refused [.lds g0 true 3 1 2, .ldsLiteral g0 true 3 1 2 0, .lda g0 { sf false with scope := 5 } none, .lda g0 { sf false with spc := true } none,
    .lda g0 { sf true with sz := 3 } none, .lda g0 { sf true with r := 0x24 } none, .lda g0 { sf false with disp := 4 } (some 4),
    .stl g0 { sf false with sgn := true } none, .stx g0 { sf true with sgn := true } none, .atom g0 ⟨0, 0, true, 9, 0, 1, 2, 3⟩ none,
    .atom g0 ⟨0, 1, true, 0, 0, 1, 2, 3⟩ none, .atom g0 ⟨0, 0, true, 0, 5, 1, 2, 3⟩ none, .atcas g0 ⟨0, 1, true, 1, 0, 1, 2, 3⟩ none,
    .vld g0 { mf with vR := 32 } none, .vld g0 { mf with vI := 1 } none, .vst g0 { mf with vR := 0x20 } none, .vst g0 { mf with z := true } none,
    .vldp g0 { mf with sz := 3, vR := 31, sA := 0 } none, .vldp g0 mf none, .vstp g0 { mf with sA := 0, sgn := true } none,
    .vldg g0 { mf with vR := 0x24 } none, .vstg g0 { mf with z := true } none, .vatom g0 { mf with op := 10 } none, .vatom g0 { mf with vR := 32 } none,
    .vatom g0 { mf with scope := 5 } none] = true := by decide

theorem smoke_transfers : refused [.port g0 0 30 1 0 none, .port g0 0 0 1 0 (some 4), .cpy g0 1 0, .cpyl g0 ⟨0, false, false, 0, false, 3, 1, 2, 4⟩,
    .cpyl g0 ⟨0, false, false, 0, false, 2, 1, 2, 0⟩, .cpyw g0 ⟨0, 0, 256, 0, 8, 7, false, 1, 2, 4⟩, .cpyw g0 ⟨0, 0, 2, 0, 0, 0, false, 1, 2, 4⟩,
    .cpyk g0 4 1 2 0 false, .cpyk g0 4 32 2 1 false, .fence g0 5 0, .pfx g0 1 4 1 (some 4), .tinv g0 3 1 4, .tinv g0 0 1 0, .btinv g0 1 4 0 false,
    .btinv g0 1 4 1 true] = true := by decide

theorem smoke_exchange : refused [.xshf g0 ⟨0, 1, 4, false, 0, 1, 3⟩, .xshf g0 ⟨0x25, 1, 2, false, 0, 1, 3⟩, .xred g0 ⟨1, 0, 0, false, 0, 1, 3⟩,
    .xred g0 ⟨0, 0, 11, false, 0, 1, 3⟩, .xbc g0 ⟨0, 1, 1, false, 0, 1, 3⟩, .xvot g0 0x24 0 false 0, .xpick g0 ⟨false, 0, false, 0, false, 0, 1, 0x24⟩,
    .kld g0 3 1 2, .kldLiteral g0 3 1 0] = true := by decide

theorem smoke_kubor : refused [.send ⟨false, 1, false, 0⟩ ⟨0, 1, 0, 0, 0, 0, 1, 0, 0, 0, 0, 0, 16⟩, .send ⟨false, 0, false, 1⟩ ⟨0, 1, 0, 0, 0, 0, 1, 0, 0, 0, 0, 0, 16⟩,
    .send ⟨false, 0, false, 0⟩ ⟨0, 1, 0, 0, 0, 0, 1, 0, 0, 0, 0, 0, 0⟩, .send ⟨false, 0, false, 0⟩ ⟨0, 1, 5, 0, 0, 0, 1, 0, 0, 0, 0, 0, 16⟩,
    .send ⟨false, 0, false, 0⟩ ⟨0, 1, 11, 0, 0, 0, 1, 0, 0, 0, 0, 0, 15⟩, .send ⟨false, 0, false, 0⟩ ⟨0, 1, 0, 0, 1, 0, 1, 0, 0, 0, 0, 0, 16⟩,
    .recv ⟨false, 0, false, 0⟩ ⟨0, 1, 0, 0, 0, 1, 1, 0, 0, 0, 0, 0, 16⟩, .rdc ⟨false, 0, false, 0⟩ ⟨0, 1, 8, 0, 0, 0, 1, 0, 0, 0, 0, 0, 16⟩,
    .copy ⟨false, 0, false, 0⟩ ⟨0, 1, 0, 0, 0, 0, 1, 0, 0, 0, 0, 0, 16⟩, .copy ⟨false, 0, false, 0⟩ ⟨0, 0, 0, 0, 0, 0, 1, 0, 0, 0, 5, 0, 16⟩,
    .waitCnt ⟨false, 0, true, 0⟩ 0 0 0, .waitTs ⟨false, 0, false, 0⟩, .kuborLoop ⟨false, 0, false, 0⟩ ⟨0, 0, 0, 0, 0, 0, 0, 1⟩,
    .brc ⟨false, 0, false, 0⟩ 0 0 6 0, .kend ⟨false, 0, true, 0⟩] = true := by decide

/-! ## Witnesses: words of class C -/

/-- The demo state with a branch that diverges: two active engines, p1 true in engine 1 only. -/
def twoEngines : State :=
  (demo.modCtx 1 (fun c => { c with active := 3, live := 3 })).modEng 0 1 (fun e => { e with c0 := { e.c0 with p := 3 } })
/-- The demo state with one entry on its stack. -/
def stacked : State := twoEngines.modCtx 1 (fun c => { c with active := 1, stack := [⟨16, 0, 0, 2, 3, 0⟩] })
/-- The demo state with a split entry whose landing has merged. -/
def splitDone : State := twoEngines.modCtx 1 (fun c => { c with active := 1, stack := [⟨0, 1, 0, 0, 3, 9⟩] })
/-- A landing context in focus, whose parent is context 1. -/
def landed : State :=
  let s := twoEngines.modCtx 1 (fun c => { c with active := 1, lent := 2, stack := [⟨0, 1, 0, 0, 3, 2⟩] })
  { s with focus := 2, ctxs := s.ctxs ++ [(2, { s.ctxAt 1 with active := 2, live := 2, lent := 0, stack := [], parent := 1, place := .landing 0 0 0 0 })] }
/-- The demo state with an item whose deadline has passed. -/
def withDeadline : State := demo.modCtx 1 (fun c => { c with items := [(0, ⟨0, 1, 0, 0, false, 0, 1⟩)] })

theorem witness_TransferWords :
    Acts demo 0 g0 [] ∧ Acts demo 0 g0 (useS [31]) ∧ Acts demo 0 g0 (useS [2]) ∧ Acts demo 0 g0 (useS [0, 1]) ∧
    ((0 : Dword).toNat < 2 ^ 56 ∧ (0 : Dword).toNat % 4 = 0) ∧
    ((0xFFFFFFFFFFFFFC : Dword).toNat < 2 ^ 56 ∧ (0xFFFFFFFFFFFFFC : Dword).toNat % 4 = 0) ∧
    ((demo.rS 1 + demo.rS 0 <<< 7).toNat < 2 ^ 56 ∧ (demo.rS 1 + demo.rS 0 <<< 7).toNat % 4 = 0) ∧
    demo.loopCheck ⟨0, 0, 0, 0⟩ = .ok ∧ Instr.wellFormed (.loop g0 2047 0 ⟨0, 0, 0, 0⟩ none) = true ∧
    Instr.wellFormed (.loopx g0 0 0 ⟨0, 0, 0, 0⟩ (some 0xFFFFFFFF)) = true ∧
    demo.loopCount 0 0 none = 0 ∧ demo.loopCount 2047 2 none = 2050 ∧
    Acts withDeadline 0 g0 (useS [0]) ∧ withDeadline.deadline = some 1 := by and_intros <;> decide

theorem witness_DivergenceWords :
    Acts twoEngines 0 g0 [] ∧ twoEngines.brpCheck 1 false (twoEngines.target 12 4) = .ok ∧ twoEngines.brpCheck 1 false 0 = .ok ∧
    (twoEngines.paths 1 false) = (2, 1) ∧ (twoEngines.paths 0 false).2 = 0 ∧
    Acts stacked 0 g0 [] ∧ stacked.joinCheck = .ok ∧ stacked.was.isLanding = false ∧ stacked.mergeCheck = .ok ∧
    splitDone.mergeCheck = .ok ∧ twoEngines.splitCheck 1 false (twoEngines.target 12 4) = .ok ∧ twoEngines.splitCheck 1 false 0 = .ok ∧
    (twoEngines.splitLanding 1 false).isSome = true ∧ twoEngines.splitLanding 0 false = none ∧
    Acts landed 0 g0 [] ∧ landed.was.isLanding = true ∧ landed.was.stack = [] ∧
    Acts demo 0 g0 (useS [2]) ∧ (demo.was.rejoin 3).waiting = 0 ∧ (0xFFFF : Dword).toNat < 2 ^ 16 ∧
    Acts demo 0 g0 [.f 1] ∧ demo.jwaitCheck 3 = .ok := by and_intros <;> decide

/-- The demo state with a FRESH item of region 1 at flat 0x200000. -/
def withItem : State := withWords demo 0x400000 [0x10000, 0x200800]
/-- A copy in flight: two engines' parts, token scalar s4. -/
def copying : Op := {
  cid := 1, who := 1, region := 1, gang := 0, seat := 0, ctxNo := 0, token := 4, bundle := 0, comm := false, issued := 0
  kind := .cpyl 0x200000 0 4 false [(0, 0), (1, 0)] [(0, 1), (1, 1)]
  parts := [{ eid := 0, state := .running, pos := 0, start := 0 }, { eid := 1, state := .running, pos := 0, start := 0 }] }
/-- A live group of name 7 whose only member is context 1, and its handle in h1. -/
def grouped : State :=
  let s := demo.modCtx 1 (fun c => { c with handles := [(1, 0x01000005)] })
  { s with groups := [(5, { state := .live, name := 7, region := 1, cap := 3, win := true, members := [⟨.ctx 1, 0, 0, 0, none, false, none, false, [], some 0, []⟩] })] }
/-- The member record of context 1 there. -/
def member : Member := ⟨.ctx 1, 0, 0, 0, none, false, none, false, [], some 0, []⟩

theorem witness_SequencerWords :
    Acts demo 0 g0 [] ∧ demo.issue.pre = none ∧ demo.me.dbgEn = false ∧ (demo.modCtx 1 (fun c => { c with dbgEn := true })).was.dbgEn = true ∧
    Acts supervisor 0 g0 [] ∧ supervisor.was.sup = true ∧ supervisor.rEpc.toNat % 4 = 0 ∧ supervisor.issue.pre = none ∧
    (let s := supervisor.modCtx 1 (fun c => { c with epc := 0xFFFFFFFFFFFFFFFE }); Acts s 0 g0 [] ∧ s.was.sup = true ∧ s.rEpc.toNat % 4 ≠ 0) ∧
    Acts withItem 0 g0 (.f 1 :: useS [1]) ∧ withItem.was.idem = none ∧ withItem.me.spawnOk = none ∧
    (withItem.spawnAt (withItem.rS 1)).map Prod.snd = some 0 ∧ (withItem.die 0).canFile [0x10000, 0x200800, 0, 0, 0, 0, 0, 0] = true ∧
    demo.spawnAt 8 = none ∧ Acts demo 0 g0 (useS [2]) ∧
    ({ demo with issue := { demo.issue with pre := some ⟨demo.me, []⟩ } } : State).issue.pre ≠ none ∧
    Acts ({ demo with issue := { demo.issue with pre := some ⟨demo.me, []⟩ } } : State) 0 g0 (useS [2]) ∧
    demo.doneCheck = .ok ∧ demo.opsHold = .ok ∧
    Acts grouped 0 g0 [.h 1, .f 1] ∧ grouped.was.idem = none ∧ grouped.splitOut = false ∧ grouped.handleMember 1 = some (5, member) ∧
    grouped.countedOn 5 = false ∧ grouped.me.regrpFails = false ∧ grouped.regrpPartner 5 = none := by and_intros <;> decide

/-- The same group with a second member, which has not arrived. -/
def paired : State :=
  { grouped with groups := [(5, { grouped.groupAt 5 with members := [member, ⟨.ctx 9, 1, 0, 0, none, false, none, false, [], none, []⟩] })] }

theorem witness_GroupWords :
    Acts grouped 0 g0 (.h 2 :: .f 1 :: useS [2, 1]) ∧ grouped.was.idem = none ∧ grouped.splitOut = false ∧ grouped.rH 2 = 0 ∧
    attrOk (grouped.rS 0).toNat = true ∧ Acts grouped 0 g0 [.h 1, .f 1] ∧ grouped.handleMember 1 = some (5, member) ∧
    grouped.countedOn 5 = false ∧ grouped.arrivalHold 5 member = .ok ∧
    (grouped.groupNamed (bits (grouped.rS 3).toNat 0 32)).any grouped.countedOn = false ∧ grouped.givenHere member = false ∧
    ((grouped.makeMet (barMeeting true 1)).metGot).isSome = true ∧ ((grouped.makeMet ⟨1, false, 16, 1, 4, 0⟩).metGot).isSome = true ∧
    ((grouped.makeMet ⟨1, false, 8, grouped.rS 2, 3, 4⟩).metGot).isSome = true ∧
    paired.issue.pre = none ∧ paired.handleMember 1 = some (5, member) ∧ paired.countedOn 5 = false ∧
    (paired.makeMet (barMeeting false 1)).metGot = none ∧ (paired.makeMet ⟨1, true, 16, 0, 0, 0⟩).metGot = none ∧
    (paired.makeMet ⟨1, false, 0, paired.rS 2, 3, 4⟩).metGot = none ∧ Acts paired 0 g0 (.h 1 :: .f 1 :: useS [4, 3, 2]) ∧
    Acts grouped 0 g0 (.h 1 :: .f 1 :: .f 2 :: useS [3]) ∧ Acts grouped 0 g0 (.h 1 :: .f 1 :: useS [4, 3, 2]) ∧ (8 : BitVec 4).toNat ≤ 8 ∧
    grouped.rH 1 ≠ 0 ∧ (grouped.groupAt 5).win = true ∧ (4 : BitVec 3).toNat ≤ 4 ∧ Acts grouped 0 g0 [.h 2] := by and_intros <;> decide

theorem witness_ControlRegisterWords :
    ctlRegOk 0 = true ∧ crSuper 0 = false ∧ ctlRegOk 0x2D = true ∧ (crSuper 0x2D = true → supervisor.was.sup = true) ∧
    Acts demo 0 g0 (useS [3]) ∧ Acts demo 0 g0 [] ∧ Acts supervisor 0 g0 (useS [31]) ∧ Issues supervisor 0 [] ∧ Issues demo 0 [] ∧
    ctlRegOk 0x0A = true ∧ ctlRegOk 0x0B = false ∧ ctlRegOk 0x10 = true ∧ ctlRegOk 0x13 = true ∧ ctlRegOk 0x20 = true ∧ ctlRegOk 0x25 = true ∧
    ctlRegOk 0x28 = true ∧ ctlRegOk 0x26 = false := by and_intros <;> decide

/-! ## Witnesses: words of classes S, V, Q, T and K -/

theorem witness_ScalarThreeRegister :
    Acts demo 1 g0 (useS [3, 1, 2]) ∧ Acts demo 1 g0 (useS [3, 1]) ∧ Acts demo 1 g0 (useS [0, 31, 31]) := by and_intros <;> decide
theorem witness_ScalarValueWords :
    Acts demo 1 g0 (.f 0 :: .f 2 :: useS [1, 2]) ∧ Instr.wellFormed (.cmp g0 0 2 1 2 0 11 none) = true ∧
    Instr.wellFormed (.cmp g0 7 0 1 2 3 11 (some 5)) = true ∧ Acts demo 1 g0 [.f 1, .f 2, .f 3] ∧
    Acts demo 1 g0 (.f 1 :: useS [2, 1, 3]) ∧ Acts demo 1 g0 (useS [3, 2, 1]) ∧ Instr.wellFormed (.lea g0 2 1 3 (-1) 3 none) = true ∧
    Instr.wellFormed (.lea g0 2 1 3 0 7 (some (-1))) = true ∧ Acts demo 1 g0 (useS [3, 1]) ∧
    (1 ≤ (1 : BitVec 7).toNat ∧ (1 : BitVec 7).toNat ≤ 64) ∧ (1 ≤ (64 : BitVec 7).toNat ∧ (64 : BitVec 7).toNat ≤ 64) ∧
    Acts demo 1 g0 [] := by and_intros <;> decide

theorem witness_VectorFloatWords :
    (∀ i ∈ ([.vadd g0 vf none, .vsub g0 vf none, .vmul g0 vf none, .vmax g0 vf none, .vmin g0 vf none, .vfma g0 { vf with vc := 31 } none,
        .vabs g0 vf1 none, .vneg g0 vf1 none, .vrcp g0 vf1 none, .vrsq g0 vf1 none, .vexp g0 { vf1 with sub := 1 } none,
        .vlog g0 { vf1 with sub := 1 } none, .vtanh g0 { vf1 with rm := 4 } none] : List Instr), demo.encodingOk i = true) ∧
    Issues demo 3 (demo.useV (3 :: vreads vf 2 none)) ∧ demo.portCheck 3 (vreads vf 2 none) [3] = .ok ∧
    Issues demo 3 (demo.useV (3 :: vreads vf1 1 none)) ∧ demo.portCheck 3 (vreads vf1 1 none) [3] = .ok ∧
    Issues demo 3 (demo.useV (3 :: vreads { vf with vc := 31 } 3 none)) ∧ demo.portCheck 3 (vreads { vf with vc := 31 } 3 none) [3] = .ok ∧
    demo.was.lastTrans ≤ demo.cycle := by and_intros <;> decide

theorem witness_VectorIntegerWords :
    (∀ i ∈ ([.viadd g0 { vf with sub := 1, sat := true } none, .visub g0 vf none, .vimul g0 { vf with sub := 2 } none,
        .vimad g0 { vf with vc := 4, sat := true } none, .vimin g0 vf none, .vimax g0 { vf with sub := 1 } none, .vand g0 vf none, .vor g0 vf none,
        .vxor g0 vf none, .vshl g0 vf none, .vshr g0 vf none, .vsar g0 { vf with vb := 0 } (some 0xFFFFFFFF)] : List Instr), demo.encodingOk i = true) ∧
    Issues demo 3 (demo.useV (3 :: vreads vf 2 none)) ∧ demo.portCheck 3 (vreads vf 2 none) [3] = .ok ∧
    Issues demo 3 (demo.useV (3 :: vreads vf 2 (some 0xFFFFFFFF))) ∧ demo.portCheck 3 (vreads vf 2 (some 0xFFFFFFFF)) [3] = .ok ∧
    Issues demo 3 (demo.useV (3 :: vreads { vf with vc := 4 } 3 none)) ∧ demo.portCheck 3 (vreads { vf with vc := 4 } 3 none) [3] = .ok := by
  and_intros <;> decide

theorem witness_VectorLaneWords :
    (∀ i ∈ ([.vsel g0 { vf with qc := 1 } none, .vmov g0 vf1 none, .vqcnt g0 { vf1 with sub := 2 } none, .vreds g0 { vf1 with sub := 10 } none,
        .vscan g0 vf1 none, .vperm g0 vf none, .vperm g0 { vf with sub := 1, vc := 4 } none, .vlane g0 { vf1 with va := 0, imm := 255 } none,
        .vlane g0 { vf1 with sub := 1, qc := 1 } none, .vlane g0 { vf1 with sub := 2, qc := 1 } none, .vlane g0 { vf1 with sub := 3, imm := 63 } none,
        .vlane g0 { vf1 with sub := 4, imm := 63 } none, .vcmp g0 { vf with sub := 7 } none, .vcmp g0 { vf with fmt := 8, sub := 11 } none,
        .vcmps g0 { vf with imm := 3 } none, .vqop g0 { qf with imm := 0 } none, .vqop g0 qf none] : List Instr), demo.encodingOk i = true) ∧
    (∀ reads ∈ ([[], vreads vf1 1 none, vreads vf 2 none, vreads { vf with vc := 4 } 3 none] : List (List Nat)),
      Issues demo 3 (demo.useV (3 :: reads)) ∧ demo.portCheck 3 reads [3] = .ok ∧ demo.portCheck 3 reads [] = .ok) := by
  and_intros <;> decide

theorem witness_VectorConversionWords :
    (∀ i ∈ ([.vcvt g0 { vf1 with fmt := 1, fmt2 := 0 } none, .vcvt g0 { vf with fmt := 5, fmt2 := 0, imm := 1 } none,
        .vcvt g0 { vf1 with fmt := 0, fmt2 := 10 } none, .vcvt g0 { vf1 with fmt := 0, fmt2 := 13 } none, .vcvt g0 { vf1 with fmt := 10 } none,
        .vcvt g0 { vf1 with fmt := 13 } none, .vunpk g0 { vf1 with fmt := 5, sub := 1, imm := 3 } none, .vpack g0 { vf1 with fmt := 9, imm := 7 } none,
        .vpack g0 { vf1 with fmt := 1 } none] : List Instr), demo.encodingOk i = true) ∧
    (demo.mod (fun c => c.putG 0 (portLoad 0 0 0 1 0))).encodingOk (.vpack g0 { vf1 with fmt := 1, vd := 0x20 } none) = true ∧
    packWidth 9 = some 4 ∧ Issues demo 3 (demo.useV (3 :: vreads vf1 1 none)) ∧ demo.portCheck 3 (vreads vf1 1 none) [3] = .ok ∧
    Issues demo 3 (demo.useV (0x20 :: vreads vf1 1 none)) ∧
    (demo.mod (fun c => c.putG 0 (portLoad 0 0 0 1 0))).portCheck 3 (vreads vf1 1 none) [0x20] = .ok := by and_intros <;> decide

theorem witness_SortWords :
    (∀ i ∈ ([.cxs g0 kf, .cxsi g0 { kf with pa := 3, pb := 4 }, .cxv g0 { kf with kb := 0, j := 5, k := 6 },
        .cxvi g0 { kf with kb := 0, pa := 3, fmt := 8, uns := true, k := 1 }] : List Instr), i.wellFormed = true) ∧
    Issues demo 2 (demo.useV [1, 2]) ∧ Issues demo 2 (demo.useV [1, 2, 3, 4]) ∧ Issues demo 2 (demo.useV [1]) ∧ Issues demo 2 (demo.useV [1, 3]) ∧
    demo.acting g0 ≠ [] := by and_intros <;> decide

/-- The demo state with slots 0 to 3 of engine 0 claimed by context 1 and tagged as the format. -/
def slotted (fmt : BitVec 4) : State := demo.modEng 0 0 (fun x => { x with
  slots := [(0, { owner := 1, fmt := fmt }), (1, { owner := 1, fmt := fmt }), (2, { owner := 1, fmt := fmt }), (3, { owner := 1, fmt := fmt })] })

theorem witness_SlotWords :
    demo.acting g0 ≠ [] ∧ Issues demo 4 [] ∧ ((7 : BitVec 3).toNat + (24 : BitVec 5).toNat ≤ 31) ∧
    (∀ e ∈ demo.actives, ∀ k ∈ slotRun 24 7, demo.slotHold e k = .no ∧ ((demo.rO e k).owner = 0 ∨ (demo.rO e k).owner = demo.owner)) ∧
    (∀ e ∈ (slotted 1).actives, ∀ k ∈ slotRun 0 3, (slotted 1).slotHold e k = .no ∧ ((slotted 1).rO e k).owner = (slotted 1).owner) ∧
    Issues (slotted 1) 4 (useS [0, 0]) ∧ Instr.wellFormed (.old g0 3 0 0 true 2 256) = true ∧ Instr.wellFormed (.old g0 3 0 2 false 10 256) = true ∧
    (∀ r ∈ oldRows 2 true 0 256 ++ oldRows 10 false 0 256 ++ [(0, 512)], ((slotted 1).localAt r.1 r.2).isSome = true) ∧ bits ((slotted 1).rS 0).toNat 0 32 % 4 = 0 ∧ slotFmtOk 11 = true ∧
    Issues (slotted 1) 4 (useS [2]) ∧ (0xFFFF : Dword).toNat < 2 ^ 16 ∧
    (slotted 1).acting g0 ≠ [] ∧ (∀ e ∈ (slotted 1).actives, (slotted 1).slotReadHold e 3 = .no) := by and_intros <;> decide

theorem witness_ArrayWords :
    (slotted 1).acting g0 ≠ [] ∧ Issues (slotted 1) 4 [] ∧ (8 : BitVec 4).toNat ≤ 8 ∧
    (∀ e ∈ (slotted 1).actives, (slotted 1).accBusy e 3 = .no ∧ (slotted 1).arrayBusy e = false ∧
      (∀ k ∈ [0, 1, 2, 3], (slotted 1).slotReadHold e k = .no ∧ (slotted 1).slotHold e k = .no ∧ ((slotted 1).rO e k).owner = (slotted 1).owner) ∧
      ((slotted 1).rO e 1).fmt = ((slotted 1).rO e 2).fmt ∧
      tagPair ((slotted 1).rO e 0).fmt.toNat ((slotted 1).rO e 1).fmt.toNat = some (1, false)) ∧
    (∀ e < 16, tableGet ((slotted 1).wasPart e).drainT 3 0 ≤ (slotted 1).cycle) ∧ (1 : BitVec 5) ≠ 31 ∧ (1 : Nat) ≠ 4 ∧
    Instr.wellFormed (.adrn g0 ⟨0, 1, false, false, false, 4, 8, 6, 3, true, 3⟩) = true ∧ ((slotted 6).rO 0 3).fmt = 6 ∧
    Instr.wellFormed (.adrn g0 ⟨256, 0, false, true, true, 0, 8, 13, 0, false, 3⟩) = true ∧ Issues (slotted 1) 4 (useS [0]) ∧
    (∀ e ∈ (slotted 1).acting g0, ∀ r ∈ drainRanges ⟨256, 0, false, true, true, 0, 8, 13, 0, false, 3⟩ 0 ((slotted 1).shape e 8 64),
      ((slotted 1).localAt r.1 r.2).isSome = true) := by and_intros <;> decide

theorem witness_ShapeAndScaleWords :
    Issues demo 4 (useS [2] ++ demo.useV []) ∧ demo.encodingOk (.shp g0 7 false 0 2 7 none) = true ∧ demo.portCheck 4 [] [] = .ok ∧
    Issues demo 4 (useS [0] ++ demo.useV [31]) ∧ demo.encodingOk (.shp g0 7 true 31 0 1 none) = true ∧ demo.portCheck 4 [31] [] = .ok ∧
    demo.encodingOk (.shp g0 0 false 0 0 7 (some (-1))) = true ∧ Issues demo 5 (demo.useV [1]) ∧ demo.encodingOk (.scl g0 1 3) = true ∧
    demo.portCheck 5 [1] [] = .ok ∧ demo.acting g0 ≠ [] ∧ Issues demo 5 [] ∧ Instr.wellFormed (.scli g0 127 0 1 none) = true ∧
    Instr.wellFormed (.scli g0 0 0 3 (some 0xFFFF)) = true := by and_intros <;> decide

/-! ## Witnesses: words of classes M and X, and of the background -/

/-- The page table and records of every kind: at flat 0x200000 a copy's parameter block, at 0x200080 an affinity record of one expert, at
0x200100 two tensor descriptors, at 0x200200 a pool of one frame, at 0x200300 a weight entry, at 0x200400 a tile table, at 0x200500 a
channel record; and a sequence card of one layer and one head of 64 FP16, whose block 0 is resident in both planes. -/
def richMemory : Memory := [
  (0x10000, 1), (0x10002, 1), (0x10008, 31), (0x1000A, 64), (0x400001, 32), (0x400002, 32), (0x400010, 8), (0x400018, 4), (0x40001C, 1),
  (0x40001E, 1), (0x400080, 1), (0x400089, 3), (0x40008A, 32), (0x400101, 4), (0x400102, 32), (0x400108, 64), (0x40010C, 1),
  (0x400110, 1), (0x400114, 1), (0x400118, 1), (0x400141, 4), (0x400142, 32), (0x400148, 64), (0x40014C, 1), (0x400150, 1),
  (0x400154, 1), (0x400158, 225), (0x400160, 1), (0x400161, 1), (0x400162, 1), (0x400163, 1), (0x400202, 72), (0x400208, 1),
  (0x400302, 80), (0x400308, 1), (0x400400, 3), (0x400402, 66), (0x400500, 2), (0x400508, 2), (0x400516, 16), (0x440001, 16),
  (0x440002, 68), (0x440008, 16), (0x44000B, 1), (0x44000E, 16), (0x441000, 1), (0x441001, 64), (0x441002, 68), (0x441008, 1),
  (0x441009, 64), (0x44100A, 68), (0x444000, 1), (0x444001, 128), (0x444002, 68), (0x448000, 1), (0x448001, 96), (0x448002, 4), (0x480002, 73)
]

/-- The demo state with that memory, and an expert pool of two buffers on die 0. -/
def rich : State :=
  let s : State := { demo with mem := richMemory }
  let s := s.modCtx 1 (fun c => { c with scalars := [(1, 0x200000), (2, 3), (5, 0x200080), (7, 1), (8, 0x200500), (10, 0x202000), (11, 0x103)] })
  ((((s.setBar 0 0x48 0x440000).setBar 0 0x50 1).setBar 3 0x40 0x600000).setBar 3 0x48 0x100010002).modEng 0 0 (fun x => { x with
    slots := [(0, { owner := 1, fmt := 1 }), (1, { owner := 1, fmt := 1 })] })

theorem witness_BackgroundWords :
    Issues rich 6 (useS [1, 4]) ∧ (4 : BitVec 5) ≠ 0 ∧ rich.cpyActs g0 1 = true ∧ rich.cpyCheck g0 1 = .ok ∧ rich.homeOf .read (rich.rS 1) = some 0x400000 ∧
    rich.acting g0 ≠ [] ∧ rich.encodingOk (.cpyl g0 ⟨0, true, false, 0, true, 2, 3, 1, 4⟩) = true ∧
    Issues rich 6 (useS [4, 1] ++ rich.useV [3]) ∧ rich.portCheck 6 [3] [] = .ok ∧
    (∀ e ∈ rich.acting g0, rich.cpylRec e ⟨0, true, false, 0, true, 2, 3, 1, 4⟩ = none) ∧
    Instr.wellFormed (.cpyw g0 ⟨0, 0, 128, 63, 63, 0, false, 0, 7, 4⟩) = true ∧ Issues rich 6 (useS [4, 7, 0]) ∧
    (∀ e ∈ rich.acting g0, rich.cpywRec e ⟨0, 0, 128, 63, 63, 0, false, 0, 7, 4⟩ = none) ∧
    Instr.wellFormed (.cpyk g0 4 3 0 1 false) = true ∧ Issues rich 6 (useS [4, 0] ++ rich.useV [3]) ∧
    (∀ e ∈ rich.acting g0, rich.cpykRec e 3 0 1 = none) := by and_intros <;> decide

theorem witness_BackgroundWords_multiplies :
    (8 : BitVec 4).toNat ≤ 8 ∧ (31 : BitVec 6).toNat < 32 ∧ Issues rich 4 (rich.useV [31]) ∧
    (∀ e ∈ rich.actives, rich.gatherBusy e 3 (rich.queryRun e 0 (rich.kvWordAt e 31 0)) = .no ∧ rich.arrayBusy e = false ∧
      rich.kvDescRec e 4 (rich.rV e 31) (rich.kvWordAt e 31 0) true = none ∧
      rich.kvSlotsRec e (rich.queryRun e 0 (rich.kvWordAt e 31 0)) (rich.kvWordAt e 31 0) = none) ∧
    (∀ e ∈ rich.actives, rich.gatherBusy e 3 [0] = .no ∧ rich.kvDescRec e 4 (rich.rV e 31) (rich.kvWordAt e 31 1) true = none ∧
      (rich.kvCard rich.party (rich.kvWordAt e 31 1)).map Card.d = some 64 ∧ rich.kvSlotsRec e [0] (rich.kvWordAt e 31 1) = none) ∧
    Issues rich 4 (useS [6, 0] ++ rich.useE (fun e => ((List.range (ceilDiv (rich.gmmaShape e 0 8).klen 64)).map (fun i => 31 + i)).map (fun n => .v e n))) ∧
    (∀ e ∈ rich.actives, rich.gatherBusy e 3 [0] = .no ∧ rich.gmmaRec e 0 31 8 (rich.rS 6) = none) := by and_intros <;> decide

theorem witness_ScalarMemoryWords :
    demo.gateM g0 = true ∧ Issues demo 6 (useS [1, 3]) ∧ demo.flatFault demo.party .read (demo.rS 1).toNat 8 = none ∧
    demo.flatFault demo.party .read (demo.rS 1 + 0x1FFFFF).toNat 1 = none ∧ demo.flatFault demo.party .write (demo.rS 1).toNat 8 = none ∧
    demo.flatFault demo.party .write (demo.rS 1 + 0x1FFFF8).toNat 8 = none ∧ (sf false).vec = false ∧ Issues demo 6 (useS [1, BitVec.ofNat 5 3]) ∧
    Instr.wellFormed (.lda g0 (sf false) none) = true ∧ Instr.wellFormed (.stl g0 (sf false) none) = true ∧
    Instr.wellFormed (.stx g0 (sf false) (some 8)) = true ∧
    demo.flatFault demo.party .read (demo.baseDisp 1 0 none).toNat 8 = none ∧ demo.flatFault demo.party .write (demo.baseDisp 1 0 (some 8)).toNat 8 = none ∧
    demo.isView .write (demo.baseDisp 1 0 (some 8)) = false ∧ demo.flatFault demo.party .atomic (demo.baseDisp 1 0 none).toNat 8 = none ∧
    demo.flatFault demo.party .atomic (demo.baseDisp 1 4 none).toNat 4 = none ∧ demo.atomFault 0 (demo.baseDisp 1 0 none) = false ∧
    demo.atomFault 4 (demo.baseDisp 1 4 none) = false ∧ Instr.wellFormed (.atom g0 ⟨0, 0, true, 8, 0, 2, 1, 3⟩ none) = true ∧
    Instr.wellFormed (.atom g0 ⟨4, 0, false, 9, 4, 2, 1, 3⟩ none) = true ∧ Instr.wellFormed (.atcas g0 ⟨0, 4, true, 0, 0, 2, 1, 3⟩ none) = true ∧
    Issues demo 6 (useS [1, 2, 3]) ∧ Issues demo 6 (useS [1, 2, 4, 3]) := by and_intros <;> decide

theorem witness_VectorMemoryWords :
    (∀ i ∈ ([.lda g0 (sf true) none, .stl g0 (sf true) none, .stx g0 (sf true) none, .vld g0 { mf with z := true } none, .vst g0 mf none,
        .vldg g0 { mf with sh := 2, vI := 31 } none, .vstg g0 { mf with sh := 3 } none, .vldp g0 { mf with sA := 0, sz := 3, vR := 30 } none,
        .vstp g0 { mf with sA := 0, sz := 3, vR := 30 } none, .vatom g0 { mf with op := 9, scope := 4 } none,
        .vatom g0 { mf with nr := true } none] : List Instr), demo.encodingOk i = true) ∧
    Issues demo 6 (useS [1, 0] ++ demo.useV [3]) ∧ demo.portCheck 6 [] [3] = .ok ∧ demo.portCheck 6 [3] [] = .ok ∧
    (∀ e ∈ demo.acting g0, (demo.vecRec e false false (demo.laneMask e 0 false) (demo.engBase e 1 0 0 none) = none ∧
      demo.vecRec e false true (demo.laneMask e 0 false) (demo.engBase e 1 0 0 none) = none) ∧
      demo.vecRec e true true (demo.laneMask e 0 false) (demo.engBase e 0 0 0 none) = none ∧
      demo.isView .write (demo.engBase e 1 0 0 none) = false) := by and_intros <;> decide

theorem witness_VectorMemoryWords_lanes :
    Issues demo 6 (useS [1, 0] ++ demo.useV [0, 3]) ∧ demo.portCheck 6 [0] [3] = .ok ∧ demo.portCheck 6 [0, 3] [] = .ok ∧
    (∀ e ∈ demo.acting g0, demo.gatherRec e { mf with sh := 2 } none .read false (fun _ _ => none) = none ∧
      demo.gatherRec e mf none .write true (fun _ _ => none) = none ∧
      demo.gatherRec e mf none .atomic true (fun _ va => if demo.atomFault 0 va then some (demo.engRec e rPROT 1 6 true va) else none) = none) ∧
    Issues demo 6 (demo.useV ([0] ++ ([30] ++ [31]))) ∧ demo.portCheck 6 [0] ([30] ++ [31]) = .ok ∧ demo.portCheck 6 ([0, 30] ++ [31]) [] = .ok ∧
    (∀ e ∈ demo.acting g0, demo.privRec e { mf with sA := 0, sz := 3, vR := 30 } none false = none ∧
      demo.privRec e { mf with sA := 0, sz := 0, disp := 0x1FFF } none true = none) ∧
    Issues demo 6 (useS [1, 0] ++ demo.useV ([0, 3] ++ [3])) ∧ Issues demo 6 (useS [1, 0] ++ demo.useV ([0, 3] ++ [])) ∧
    demo.portCheck 6 [0, 3] [3] = .ok := by and_intros <;> decide

theorem witness_PortAndWalkWords :
    demo.gateM g0 = true ∧ Instr.wellFormed (.port g0 3 0 2 0 none) = true ∧ Instr.wellFormed (.port g0 0 29 0 0 (some 1)) = true ∧
    Issues demo 6 (useS [2]) ∧ Issues demo 6 (useS [29, 29 + 1, 29 + 2, 0]) ∧ Instr.wellFormed (.fence g0 4 3) = true ∧ Issues demo 6 [] ∧
    Issues demo 6 (useS [1]) ∧ Instr.wellFormed (.pfx g0 1 8 1 none) = true ∧ demo.homeOf .read (demo.rS 1) = some 0x400000 ∧
    demo.homeOf .read (demo.rS 0) = none ∧ supervisor.was.sup = true ∧ Issues supervisor 6 (useS [1, 4]) ∧ supervisor.gateM g0 = true ∧
    (rich.cardFor rich.party (bits (rich.rS 6).toNat 0 20) 0).isSome = true ∧ Issues rich 6 (useS [2, 6, 3]) ∧ Issues rich 6 (useS [6, 3]) ∧
    Issues rich 6 (useS [6, 5]) ∧ rich.xpfWeights 6 5 0 = some (0x200300, ⟨0x400300, 0x500000, 1⟩) ∧ demo.xpfWeights 6 5 0 = none ∧
    ({ rich.die 0 with pool := [(1, ⟨2, 0x500000, 0x400300, 1, 0, 0, 1⟩)] } : Die).residentIn 0x500000 = some 1 := by and_intros <;> decide

/-- A channel of depth 1 whose endpoints are both context 1, with elements of a shape. -/
def channelOf (shape : Nat) : Channel := ⟨[2, 2, BitVec.ofNat 64 (0x0010000000000000 + shape), 0], 1, 1, shape, ⟨0, 0, 1, false⟩, ⟨0, 0, 1, false⟩, []⟩
/-- The demo state with channel 3 loaded. -/
def channelled (shape : Nat) : State := { demo with channels := [(3, channelOf shape)] }

theorem witness_ExchangeWords :
    (∀ i ∈ ([.xshf g0 ⟨0, 15, 0, false, 0, 1, 3⟩, .xshf g0 ⟨2, 15, 2, false, 0, 1, 3⟩, .xred g0 ⟨0, 0, 10, false, 0, 1, 3⟩,
        .xbc g0 ⟨0, 15, 0, false, 0, 1, 3⟩, .xvot g0 3 2 true 1, .xpick g0 ⟨true, 2, false, 0, false, 0, 1, 3⟩] : List Instr), demo.encodingOk i = true) ∧
    (∀ reads ∈ ([[], [1], [1, 2]] : List (List Nat)), ∀ sD ∈ ([0, 2] : List (BitVec 5)),
      Issues demo 7 (.f 0 :: useS [sD] ++ demo.useV (3 :: reads)) ∧ demo.portCheck 7 reads [3] = .ok) := by and_intros <;> decide

/-- A stream without room whose receiver has ended, which a send does not fill. -/
def closed : State :=
  { demo with channels := [(3, { channelOf 0 with rcv := ⟨0, 0, 1, true⟩, streams := [(0, [5])] })] }

theorem witness_ChannelWords_elements :
    (∀ x ∈ ([(channelled 0, .xsnd g0 31 3, channelOf 0, 31, true, false), (channelled 0, .xsnd g0 0x24 3, channelOf 0, 0x24, true, false),
        (channelled 1, .xsnd g0 3 3, channelOf 1, 3, true, false),
        (channelled 0, .xrcv g0 31 3, channelOf 0, 31, false, true), (channelled 1, .xrcv g0 3 3, channelOf 1, 3, false, true),
        (channelled 0, .xrca g0 31 3, channelOf 0, 31, false, true), (channelled 1, .xrca g0 3 3, channelOf 1, 3, false, true)] :
        List (State × Instr × Channel × BitVec 6 × Bool × Bool)),
      let s := x.1
      let c := x.2.2.1
      let o := x.2.2.2.1
      let vec := opndVec c.shape o
      Issues s 7 (.f 0 :: s.useV vec) ∧ s.gateF g0 = true ∧ s.channelFor 3 x.2.2.2.2.1 = some c ∧ s.encodingOk x.2.1 = true ∧
      s.portCheck 7 (if x.2.2.2.2.2 then [] else vec) (if x.2.2.2.2.2 then vec else []) = .ok ∧
      (∀ e ∈ s.actives, s.opndBusy e c.shape o x.2.2.2.2.2 = .no) ∧
      (x.2.2.2.2.1 = true → ∀ e ∈ s.actives, c.rcv.ended = true ∨ (c.stream e).length < c.depth)) := by decide

theorem witness_ChannelWords_slots :
    (let s : State := { slotted 1 with channels := [(3, channelOf 2)] };
      s.channelFor 3 true = some (channelOf 2) ∧ s.channelFor 3 false = some (channelOf 2) ∧ Issues s 7 (.f 0 :: s.useV []) ∧
      s.encodingOk (.xsnd g0 33 3) = true ∧ s.encodingOk (.xrcv g0 33 3) = true ∧ opndSlot 2 33 = some 1 ∧
      (∀ e ∈ s.actives, s.opndBusy e 2 33 false = .no ∧ s.opndBusy e 2 33 true = .no ∧ (s.rO e 1).owner = s.owner)) := by
  and_intros <;> decide

theorem witness_ChannelWords_table :
    Acts demo 7 g0 (useS [3]) ∧ tableFind demo.channels 3 = none ∧ tableFind (channelled 2).channels 3 = some (channelOf 2) ∧
    Acts (channelled 2) 7 g0 (useS [3]) ∧ Acts demo 7 g0 (.f 1 :: useS [0]) ∧ Acts closed 7 g0 (.f 1 :: useS [0]) ∧
    ((closed.channelFor 3 true).map (fun c => (c.shape, c.rcv.ended))) = some (0, true) ∧ closed.encodingOk (.xsnd g0 31 3) = true ∧
    (let s : State := { demo with channels := [(3, { channelOf 0 with snd := ⟨0, 0, 0, false⟩, rcv := ⟨0, 1, 0, false⟩ })] };
      Acts s 7 g0 (.f 1 :: useS [0]) ∧ s.channelUsed 3 = false) ∧
    (8 : BitVec 5) ≠ 0 ∧ Acts rich 7 g0 (.f 1 :: useS [8]) ∧ (∀ k < 4, rich.flatFault rich.party .read ((rich.rS 8).toNat + 8 * k) 8 = none) ∧
    rich.flatRecord rich.party (rich.rS 8).toNat 4 = some [2, 2, 0x0010000000000000, 0] ∧ (rich.channelOf rich.me.region [2, 2, 0x0010000000000000, 0]).isSome = true := by
  and_intros <;> decide

/-- The demo state with a Kubor image of one word at the flat address in s1. -/
def withImage : State := withWords demo 0x400000 [0x3142554B + 2 ^ 32, 5]
/-- A program of one word in porch slot 3, loaded by region 1 and not running. -/
def programmed : State := { rich with porches := [(3, { loaded := true, inc := 1, home := 1, region := 1, coll := 5, code := 4, image := [0] })] }

theorem witness_ProgramWords :
    (2 : BitVec 2) ≠ 3 ∧ rich.kldSlot 2 = some 0 ∧ rich.kldSlot 1 = some 16 ∧ Acts withImage 7 g0 (.f 1 :: useS [1, 3]) ∧
    (withImage.kuborImage withImage.party (withImage.rS 1).toNat).isSome = true ∧ rich.kuborImage rich.party (rich.rS 1).toNat = none ∧
    Acts programmed 7 g0 (.f 1 :: useS [10, 11]) ∧ Acts programmed 7 g0 (.f 1 :: useS [11, 3]) ∧
    programmed.progSlot (programmed.rS 11) programmed.me.region = some 3 ∧ (programmed.porch 3).running = false ∧
    (programmed.argBlock programmed.party (programmed.rS 10).toNat).isSome = true := by and_intros <;> decide

/-! ## Witnesses: Kubor words -/

/-- Porch slot 0 runs a program of four words in region 1, in the timed domain, with a route to its own package; w1 is a flat address, w2
the handle of the group of name 7, w3 a number. -/
def kubor : State := { demo.setBar 5 0x40 1 with
  porchFocus := 0
  porches := [(0, { loaded := true, running := true, home := 1, region := 1, coll := 5, image := [0, 0, 0, 0], routes := [0x8000000100010000]
                    w := [(1, 0x200000), (2, 0x01000006), (3, 8)] })]
  groups := [(6, { state := .live, name := 7, region := 1, cap := 3, members := [⟨.porch 0 1, 0, 0, 0, some 0, false, none, false, [], none, []⟩], gen := 1 })] }
/-- A Kubor word that neither counts nor carries a stamp, and one stamped with w0. -/
def kPlain : KHead := ⟨false, 0, false, 0⟩
def kStamped : KHead := ⟨true, 0, false, 0⟩
/-- Sixteen FP32 elements at w1 over route 0. -/
def kData : KData := ⟨0, 1, 0, 0, 0, 0, 1, 0, 0, 0, 0, 0, 16⟩
/-- The member record of slot 0. -/
def kMember : Member := ⟨.porch 0 1, 0, 0, 0, some 0, false, none, false, [], none, []⟩

theorem witness_KuborDataWords :
    KuborIssues kubor kPlain ∧ KuborIssues kubor kStamped ∧ (kubor.porch 0).ops.length < 16 ∧ (kubor.porch 0).rtrs.length < rtrLimit ∧
    (∀ i ∈ ([.send kPlain kData, .recv kPlain kData, .rdc kPlain kData, .copy kPlain { kData with tag := 0, bb := 1, xb := 3, stride := 8 }] : List Instr),
      i.wellFormed = true ∧ (stamped kubor kPlain).kuborFault ((stamped kubor kPlain).porch 0) i kData 0x200000 0x200040 = 0) ∧
    (∀ i ∈ ([.send kStamped { kData with n := 16777216 }, .recv kStamped kData, .rdc kStamped kData] : List Instr), i.wellFormed = true) := by
  and_intros <;> decide

theorem witness_KuborControlWords :
    KuborIssues kubor kPlain ∧ kPlain.ok false = true ∧ kStamped.ok false = true ∧ KuborIssues kubor kStamped ∧
    ((kubor.porch 0).reg 0 + BitVec.ofNat 64 (0 : BitVec 32).toNat).toNat ≤ ((kubor.porch 0).counter 7).toNat ∧
    kubor.kuborMember 0 ((kubor.porch 0).reg 2) = some (6, kMember) ∧ kMember.last = some 0 ∧ 0 < (kubor.groupAt 6).gen ∧
    kMember.arrGen ≤ (kubor.groupAt 6).gen + 1 ∧ (kubor.porch 0).ops = [] ∧ attrOk ((kubor.porch 0).reg 0).toNat = true ∧
    ((kubor.porch 0).reg 1 + 8).toNat % 8 = 0 ∧ kubor.reaches (kubor.porch 0).party .write ((kubor.porch 0).reg 1 + 8).toNat = true ∧
    ((kubor.porch 0).pc + (3 : BitVec 10).toNat < (kubor.porch 0).image.length) ∧ (kubor.porch 0).loops.length < 4 ∧
    brcHolds 0 ((kubor.porch 0).reg 0) ((kubor.porch 0).reg 0) = true ∧ brcHolds 5 ((kubor.porch 0).reg 0) ((kubor.porch 0).reg 3) = false ∧
    (0 ≤ ((kubor.porch 0).pc : Int) + (3 : BitVec 32).toInt ∧ ((kubor.porch 0).pc : Int) + (3 : BitVec 32).toInt < (kubor.porch 0).image.length) := by
  and_intros <;> decide

/-- A member that has entered no arrival yet. -/
theorem witness_KuborControlWords_fresh :
    (({ kubor with groups := [(6, { kubor.groupAt 6 with members := [{ kMember with last := none }] })] } : State).kuborMember 0
      ((kubor.porch 0).reg 2)).map (fun r => r.2.last) = some none := by decide

/-! ## Witnesses: operations and contexts -/

/-- A round of one fault record of engine 0. -/
def oneRound : Round := ⟨[demo.engRec 0 rPAGE 1 6 false 8], 1, 0⟩
/-- The demo state with that round waiting. -/
def faulted : State := demo.modCtx 1 (fun c => { c with rounds := [oneRound] })
/-- A copy of four bytes to flat memory under way, one that will stop (its flat side is not mapped), and a multiply of one element of KV
space. -/
def copies : State := { rich with ops := [(1, { copying with
  kind := .cpyl 0x200000 0 4 true [(0, 0)] [(0, 1)], parts := [{ eid := 0, state := .running, pos := 0, start := 0 }] })] }
def stops : State := after (.cpyl g0 ⟨0, true, false, 0, false, 0, 3, 0, 4⟩) rich
def multiplies : State := { after (.kvmm g0 3 0 31 0 true) rich with now := 13000 }
/-- An invalidation under way. -/
def invalidates : State := after (.tinv g0 2 7 4) supervisor
/-- A channel element and the receive that takes it. -/
def receives : State := { after (.xrcv g0 31 3) (channelled 0) with channels := [(3, { channelOf 0 with streams := [(0, [5])] })] }
/-- A context whose pc stands at the start of a stored segment of one word, in no half of the loop buffer. -/
def coded : State := (withWords demo 0x400000 [0, 0x200020, 0x40001, 0, 0x20]).modCtx 1 (fun c => { c with pc := 0x200000 })

/-- Operation 1 of a state. -/
def op1 (s : State) : Op := (tableFind s.ops 1).getD copying

theorem witness_BackgroundSteps :
    (tableFind faulted.ctxs 1).isSome = true ∧ (faulted.ctxAt 1).rounds = [oneRound] ∧ faulted.roundDue 1 = true ∧
    (oneRound.recs.filter (fun x => x.isSeq || (faulted.ctxAt 1).live.getLsbD x.eid)).isEmpty = false ∧
    tableFind stops.ops 1 = some (op1 stops) ∧ stops.opReady 1 (op1 stops) = true ∧ tableFind (stops.runToStop 1 (op1 stops)).ops 1 ≠ some (op1 stops) ∧
    tableFind invalidates.ops 1 = some (op1 invalidates) ∧ (op1 invalidates).kind.isInvalidation = true ∧
    invalidates.invalidationHeld (op1 invalidates) = false ∧
    (let u := (invalidates.invalidate 1 (op1 invalidates).kind).forgetOwn (op1 invalidates);
      tableFind u.ops 1 = some (op1 u) ∧ u.opReady 1 (op1 u) = true ∧ (∀ p ∈ (op1 u).parts, p.state ≠ .stopped) ∧
      ((tableFind (u.runToEnd 1 (op1 u)).ops 1).map (fun o => o.parts.any Part.open_)) = some false) ∧
    ((after (.old g0 1 6 0 false 1 0) rich).slotAt 0 0 1).loading = true ∧ (0 < ((after (.lds g0 false 3 1 3) demo).ctxAt 1).pending.length) ∧
    (coded.ctxAt 1).place.resident = true ∧ coded.mayFetch 1 0x200000 = true ∧
    (match coded.expand (coded.partyOf 1) 0x200000 with | .ok g => g.bytes == leBytes 4 0x20 && g.base == 0x200000 | .error _ => false) = true := by
  and_intros <;> decide

theorem witness_BackgroundSteps_receive :
    receives.recvOwner 3 0 = some 1 ∧ ((tableFind receives.channels 3).bind (fun c => c.nextElem 0)) = some (some 5) ∧
    ((receives.ctxAt 1).recvs.find? (fun r => r.ch == 3 && r.eid == 0)).map Receive.gone = some false ∧ (receives.ctxAt 1).isLanding = false := by
  and_intros <;> decide +kernel

theorem witness_BackgroundSteps_copy :
    tableFind copies.ops 1 = some (op1 copies) ∧ copies.opReady 1 (op1 copies) = true ∧ (∀ p ∈ (op1 copies).parts, p.state ≠ .stopped) ∧
    (op1 copies).kind.isCopy = true ∧
    ((tableFind (copies.runToEnd 1 (op1 copies)).ops 1).map (fun o => o.parts.any Part.open_)) = some false := by and_intros <;> decide

theorem witness_BackgroundSteps_multiply :
    tableFind multiplies.ops 1 = some (op1 multiplies) ∧ multiplies.opReady 1 (op1 multiplies) = true ∧
    (op1 multiplies).kind.accOf.isSome = true ∧ (∀ p ∈ (op1 multiplies).parts, p.state ≠ .stopped) ∧
    ((tableFind (multiplies.runToEnd 1 (op1 multiplies)).ops 1).map (fun o => o.parts.any Part.open_)) = some false := by
  and_intros <;> decide +kernel

theorem witness_WalkSteps :
    ((15 : Nat) < 4 * Config.dies) ∧ (8191 : Dword).toNat < 2 ^ 13 ∧ bits (9 : Dword).toNat 0 3 = 1 ∧ bits (4 : Dword).toNat 0 3 = 4 ∧
    bits (0xA : Dword).toNat 0 3 = 2 ∧ (rich.tensor ⟨1, 0⟩ 0).isSome = true ∧
    bits (3 : Dword).toNat 0 3 = 3 ∧ (let s := rich.walkReads (.record 1) ⟨1, 0⟩ 3 0;
      ((s.cardFor ⟨1, 0⟩ (kvSeq 0) (kvLayer 0)).map (fun c => s.kvWalk ⟨1, 0⟩ c 0 0 0)) = some (.frame 0x460000)) ∧
    (demo.walkReads (.record 1) ⟨1, 0⟩ 3 0).cardFor ⟨1, 0⟩ (kvSeq 0) (kvLayer 0) = none := by and_intros <;> decide

/-! ## Witnesses: the scheduler -/

/-- A bin of one item that has waited since time 5. -/
def oneBin : Bin := ⟨0x200800, 0, 1, 0, 0, [⟨0x200000, 5, false, false⟩], 0, 0, false, false, false, none, none⟩
/-- The demo state at 1 s, with an item at 0x200000 and a bin on die 0. -/
def binned (b : Bin) : State := { (withItem.setDie 0 { withItem.die 0 with bins := [(255, b)] }) with now := 13000000000 }
/-- A bin that is due and holds an item old enough to be stolen. -/
def dueBin : Bin := { oneBin with due := true, items := [⟨0x200000, 5, false, true⟩] }

theorem witness_BinSteps :
    (binned oneBin).binAt 0 255 = some oneBin ∧ oneBin.due = false ∧ oneBin.since + ((binned oneBin).region 1).timer ≤ (binned oneBin).time ∧
    (∃ i ∈ oneBin.items, i.old = false ∧ (binned oneBin).outwaited oneBin i = true) ∧
    (binned dueBin).binAt 0 255 = some dueBin ∧ (255 < Config.binsPerDie) ∧ dueBin.aged = false ∧ dueBin.since + 50000000 ≤ (binned dueBin).time ∧
    ((binned dueBin).firstFor 0 39 1).map (fun c => (c.isBin, c.id)) = some (true, 255) ∧ 39 / Config.gangsPerDie = 0 ∧
    (binned dueBin).placeFree 39 1 = true ∧ (binned dueBin).reserved 3 39 1 = false ∧ (3 < Config.dies) ∧
    (∀ e ∈ ((binned dueBin).die 3).bins, e.2.due = false) ∧ (binned dueBin).stealSeat 3 ((binned dueBin).effPrio 1 ((binned dueBin).withItems dueBin (dueBin.items.filter dueBin.stealable)).aged) = some (120, 0) ∧
    ((binned dueBin).die 3).freeBin = some 0 ∧
    (stealOrder 3 ((binned dueBin).die 3).lastSteal).find? (fun v => (((binned dueBin).die v).stealFrom).isSome) = some 0 ∧
    ((binned dueBin).die 0).stealFrom = some 255 ∧ (binned dueBin).admits 1 = true ∧ (binned dueBin).marked Region.held 1 = false ∧
    (binned dueBin).marked Region.retired 1 = false := by and_intros <;> decide

/-- An item that waits for a bin, of a launch and of a SPAWN. -/
def waiting (cid : Nat) : State := withItem.setDie 0 { withItem.die 0 with waiting := [⟨0x200000, cid, 1⟩] }
/-- Context 1 parked in the first save area of region 1, or held on s4 with its copy under way, at 1 s. -/
def parkedAt (f : Ctx → Ctx) : State := { demo.modCtx 1 (fun c => f { c with place := .parked 0 0x280000, reason := .parkWord }) with now := 13000000000 }
def heldAt : State := { demo.modCtx 1 (fun c => { c with heldOn := some 4, tokens := 16 }) with now := 13000000000, ops := [(1, copying)] }

theorem witness_WaitingSteps :
    ((waiting 0).die 0).waiting = [⟨0x200000, 0, 1⟩] ∧ (waiting 0).flatRecord ⟨1, 0⟩ 0x200000 8 = some [0x10000, 0x200800, 0, 0, 0, 0, 0, 0] ∧
    (((waiting 0).die 0).joinBin [0x10000, 0x200800, 0, 0, 0, 0, 0, 0]).or ((waiting 0).die 0).freeBin = some 0 ∧
    ((waiting 1).die 0).waiting = [⟨0x200000, 1, 1⟩] ∧ (waiting 1).partyOf 1 = ⟨1, 0⟩ ∧
    (let s := parkedAt (fun c => { c with readyAt := some 7 });
      (tableFind s.ctxs 1).map (fun c => (c.readyAt, c.place.die, c.aged)) = some (some 7, 0, false) ∧ 7 + 50000000 ≤ s.time) ∧
    (tableFind heldAt.ctxs 1).isSome = true ∧ (heldAt.ctxAt 1).heldOn = some 4 ∧ (heldAt.ctxAt 1).place.resident = true ∧
    heldAt.stoppedSide (heldAt.ownerOf 1) = false ∧ (heldAt.ctxAt 1).holdPark = false ∧ (heldAt.ctxAt 1).tokens.getLsbD 4 = true ∧
    heldAt.tokenOp 1 4 = some copying ∧ copying.issued + (heldAt.ctxAt 1).cwthr.toNat < heldAt.cycleOf (heldAt.ctxAt 1).place.die ∧
    (let s := demo.modCtx 1 (fun c => { c with holdPark := true, reason := .parkWord, wakeAt := 9 });
      (s.ctxAt 1).holdPark = true ∧ (s.ctxAt 1).place.resident = true ∧ s.stoppedSide 1 = false ∧ s.reasonClear 1 = false ∧ (s.freeAreaOf (s.ctxAt 1).region).isSome = true) ∧
    (let s := parkedAt (fun c => { c with wakeAt := 9 });
      (tableFind s.ctxs 1).isSome = true ∧ (s.ctxAt 1).reason = .parkWord ∧ (s.ctxAt 1).wakeAt ≠ 0 ∧ (s.ctxAt 1).wakeAt ≤ s.time) := by
  and_intros <;> decide

/-- Context 1 parked as a member of a co-resident group that resumes. -/
def coresParked : State := { parkedAt (fun c => { c with readyAt := some 7, reason := .cores }) with
  groups := [(5, { state := .resuming, name := 7, region := 1, cap := 1, cores := true, members := [member] })] }

theorem witness_ParkingSteps :
    (let s := parkedAt id;
      (tableFind s.ctxs 1).isSome = true ∧ (s.ctxAt 1).place.resident = false ∧ (s.ctxAt 1).isLanding = false ∧ (s.ctxAt 1).readyAt = none ∧
        s.opsRun 1 = false ∧ s.recvOpen 1 = false ∧ (∀ x ∈ s.sidesOf 1, s.reasonClear x = true)) ∧
    (let s := demo.modCtx 1 (fun c => { c with preempt := true });
      1 ∈ s.runningOn (s.ctxAt 1).place.die ∧ s.stoppedSide 1 = false ∧ (s.ctxAt 1).preempt = true ∧
      (s.freeAreaOf (s.ctxAt 1).region).isSome = true ∧ s.atPreemptPoint 1 = true ∧ supervisor.atPreemptPoint 1 = false) ∧
    (let s := parkedAt (fun c => { c with readyAt := some 7 });
      (s.firstFor (39 / Config.gangsPerDie) 39 1).map (fun c => (c.isBin, c.id, s.reserved c.prio 39 1)) = some (false, 1, false) ∧
        s.inCores 1 = false ∧ s.placeFree 39 1 = true) ∧
    (coresParked.groupAt 5).cores = true ∧ coresParked.coresLinked coresParked.groups.length [5] = [5] ∧ (coresParked.groupAt 5).state = .resuming ∧
    (State.placeAll [1] coresParked).isSome = true := by and_intros <;> decide

/-- The rich state with a fill under way in buffer 1 of die 0. -/
def filling : State := rich.setDie 0 { rich.die 0 with pool := [(1, ⟨1, 0x500000, 0x400300, 1, 0, 0, 1⟩)] }

theorem witness_RegionAndFillSteps :
    (let s : State := { demo with ctxs := [], regions := [(1, { region1 with retired := true })] };
      (tableFind s.regions 1).isSome = true ∧ (s.region 1).retired = true ∧ s.regionBusy 1 = false) ∧
    filling.poolOf 0 = some (0x600000, 65536, 2) ∧ ((filling.die 0).buf 1).state = 1 := by and_intros <;> decide

/-- Slot 0 with a data word outstanding since time 0, at 1 s; the word of a stamped wait is next. -/
def outstanding (i : Instr) (src dst : Option (Nat × BitVec 8)) : State :=
  { kubor.modPorch 0 (fun p => { p with ops := [⟨0, i, 0x200000, 0x200040, src, dst, false, none, none, 0, 0, false, none⟩], issued := 1 }) with now := 13000000000 }

theorem witness_PorchSteps :
    (kubor.porch 0).running = true ∧ kubor.programOf 5 = some 0 ∧ (kubor.porch 0).rtrs.length < rtrLimit ∧
    (let s := outstanding (.send kPlain kData) none (some (0, 1));
      ∃ o ∈ (s.porch 0).ops, s.overdue (s.porch 0) o = true) ∧
    (let s := outstanding (.recv kPlain kData) (some (1, 1)) none;
      s.programOf 5 = some 0 ∧
      ∃ o, (s.porch 0).ops.find? (fun o => o.n == 0) = some o ∧ kDataOf o.word = some kData ∧ o.src.isSome = true ∧ kData.n.toNat = 16 ∧ kData.fin = 0 ∧ o.dst = none ∧ o.stage = 0 ∧ s.fromSelf o = false ∧
        o.got = none ∧ kReceives o.word = true ∧ kBytes kData.fin.toNat kData.n.toNat = 64 ∧
        let u := (s.dataWakes (s.porch 0) o).count none 3 64
        u.operandOk (s.porch 0) kData (kReads o.word) .read o.addrA = true ∧ u.operandOk (s.porch 0) kData (kWritesA o.word) .write o.addrA = true ∧
        u.operandOk (s.porch 0) kData (kWritesB o.word) .write o.addrB = true) ∧
    (let s := kubor.modPorch 0 (fun p => { p with image := [BitVec.ofNat 128 ((encodeKubor (.waitTs kStamped)).getD 0)] });
      (s.porch 0).running = true ∧ ((s.porch 0).reg kStamped.tsr).toNat ≤ s.time ∧ (s.porch 0).nextWord = some (.waitTs kStamped) ∧ kHeadOf (.waitTs kStamped) = some kStamped ∧
        s.timed = true ∧ kStamped.ok false = true) := by
  refine ⟨by decide, by decide, by decide, by decide, ⟨by decide, _, rfl, ?_⟩, by decide⟩
  and_intros <;> decide

/-! ## Witnesses: host, cellar, fleet -/

/-- A control block of region 2, whose parent is region 1, of which it takes every value. -/
def blocked : State := withWords demo 0x500000 [0x1002]

theorem witness_LaunchSteps :
    (let s := blocked.touchBar;
      s.launching = none ∧ (s.chainFrom 4096 0x500000).2 = 0 ∧
      s.chainCode (s.registerAll (s.chainFrom 4096 0x500000).1) (s.chainFrom 4096 0x500000).1 (s.chainFrom 4096 0x500000).1 0 [] = 0 ∧
      (s.chainFrom 4096 0x500008).2 ≠ 0) ∧
    (let s : State := { demo with launching := some ⟨[], 0⟩ };
      s.launching = some ⟨[], 0⟩ ∧ s.launchWaits = false ∧ s.touchBar.launching.isSome = true) := by
  and_intros <;> decide

theorem witness_RegionControlSteps : (tableFind demo.touchBar.regions (1 : BitVec 12).toNat).isSome = true := by decide

theorem witness_RegisterWriteSteps :
    bits (0x5A5A0001 : Dword).toNat 16 16 = 0x5A5A ∧ (0x5A5A0001 : Dword).getLsbD 0 = true ∧ demo.window 15 = none ∧
    ((demo.setBar 1 0x1F8 1).window 15).isSome = true ∧ (demo.barReg 3 0x78).getLsbD 32 = false ∧
    ((demo.setBar 3 0x78 0x100000000).barReg 3 0x78).getLsbD 32 = true ∧ (demo.barReg 4 0).getLsbD 0 = false ∧
    ((demo.setBar 4 0 1).barReg 4 0).getLsbD 0 = true := by
  and_intros <;> decide

theorem witness_HostMemorySteps :
    (let s := (demo.setBar 3 0x2FF8 0x8000000000100001).touchBar;
      (s.barReg 3 (0x1000 + (1023 : BitVec 10).toNat * 8)).getLsbD 63 = true ∧ (0 : Dword).getLsbD 63 = false ∧ s.windowBusy 1023 = false ∧ (-1 : Dword).getLsbD 63 = true) ∧
    (let s := (({ kubor with porches := [(0, { kubor.porch 0 with
          routes := [0x8000000000000000], ops := [⟨0, .send kPlain kData, 0x200000, 0x200040, none, some (2, 1), true, none, none, 0, 0, false, none⟩] })] } : State).setBar 3
        0x1000 0x8000000000100001).touchBar;
      (s.barReg 3 0x1000).getLsbD 63 = true ∧ s.windowBusy 0 = true) ∧
    (let s := (rich.setDie 0 { rich.die 0 with pool := [(1, ⟨2, 0x500000, 0x400300, 1, 1, 0, 1⟩)] }).touchBar;
      (s.barReg 3 0x48).getLsbD 32 = true ∧ ∃ e ∈ (s.die 0).pool, 0 < e.2.pins) ∧
    (demo.touchBar.barReg 3 0x1000).getLsbD 63 = false ∧ demo.touchBar.window 15 = none ∧ ((demo.setBar 1 0x1F8 1).touchBar.window 15).isSome = true ∧
    (let s := rich.touchBar;
      (s.barReg 3 0x48).getLsbD 32 = true ∧ (∀ e ∈ (s.die 0).pool, e.2.pins = 0)) ∧ (demo.touchBar.barReg 3 0x78).getLsbD 32 = false ∧
    (demo.touchBar.barReg 4 0).getLsbD 0 = false ∧ (1 : Dword).getLsbD 0 = true ∧ ((demo.setBar 4 0 1).touchBar.barReg 4 0).getLsbD 0 = true ∧
    (let s := ({ demo with fleet := { demo.fleet with badWords := [0x40] } } : State).touchBar;
      ((s.touchHbm 0x5F).reads .barRead s.hostKey 0x5F 1).fleet.met ≠ s.fleet.met ∧ ((s.touchHbm 0x60).reads .barRead s.hostKey 0x60 1).fleet.met = s.fleet.met) ∧
    isHome 0xBFFFFFFFFF = true ∧ isHome (3 * 2 ^ 50) = true ∧ paKind 0xBFFFFFFFFF = .hbm ∧ isHome 0xC000000000 = false := by and_intros <;> decide

theorem witness_DebugSteps :
    State.reset.selected = none ∧
    demo.selected = some 1 ∧ (demo.touchBar.ctxAt 1).dbgStop = false ∧ ((demo.modCtx 1 (fun c => { c with dbgStop := true })).touchBar.ctxAt 1).dbgStop = true ∧
    (demo.modCtx 1 (fun c => { c with dbgStop := true })).selected = some 1 := by and_intros <;> decide

/-- A demotion of the resident block of plane 0 to slot 1, in a phase. -/
def demotion (phase tries : Nat) (mirror : Option Nat) : TierReq := ⟨some 0x470100, 2, 0, 0x448000, 1, 2048, mirror.isSome, 1, mirror, 0x460000, phase, tries, false⟩
/-- The rich state with a tier ring whose first entry has an OP, a controller of two slots and a request. -/
def cellared (op : Nat) (reqs : Table TierReq) : State :=
  { withWords (rich.setBar 4 0x28 0x470000) 0x470100 [0, 2 ^ 32 + op, 1] with cellar := { ctrls := [0], lbas := 32, ready := true, reqs := reqs } }

theorem witness_TierSteps :
    (let s := cellared 2 [(0, demotion 1 0 none)];
      s.ringPa ≠ 0 ∧ s.cellar.ckPhase ≠ 2 ∧ tableFind s.cellar.reqs 0 = some (demotion 1 0 none) ∧ (demotion 1 0 none).phase = 1 ∧
        (s.tierAct 0 (demotion 1 0 none)).cellar ≠ s.cellar) ∧
    (let s := cellared 2 [];
      tableFind s.cellar.reqs 0 = none ∧ s.entryReady 0 = true ∧ bits (s.ringWord 0 8) 0 4 = 2 ∧
        (((s.entryReads 0).onCellar (fun c => { c with next := c.next + 1 })).tierReq 0).map TierReq.op = some 2) ∧
    ((((cellared 5 []).entryReads 0).onCellar (fun c => { c with next := c.next + 1 })).tierReq 0) = none := by
  and_intros <;> decide

theorem witness_StorageSteps :
    (∀ r ∈ [demotion 2 0 none, demotion 2 2 none, demotion 2 0 (some 0), demotion 3 0 (some 0), { demotion 2 0 none with op := 1 }],
      let s := cellared 2 [(0, r)]
      tableFind s.cellar.reqs 0 = some r ∧ 2 ≤ r.phase ∧ s.cellar.ckPhase ≠ 2 ∧ r.op ≠ 4 ∧ (s.requestReads r).cellar.unserved r.target = false) ∧
    (let r : TierReq := { demotion 2 0 none with op := 4, leaf := 0x448008 };
      let s := cellared 2 [(0, r)];
      tableFind s.cellar.reqs 0 = some r ∧ leafTier ((s.requestReads r).leafWord r.region r.leaf) ≠ 2) ∧
    (cellared 2 []).cellar.unserved 2 = true := by and_intros <;> decide

theorem witness_CheckpointSteps :
    (let s := (cellared 2 []).touchBar;
      s.cellar.ckPhase ≠ 1 ∧ s.cellar.ckPhase ≠ 2 ∧ (∀ e ∈ s.porches, e.2.running = false) ∧ s.cellar.ready = true) ∧
    Config.checkpointSlots ≤ ((cellared 2 []).setBar 4 0x18 12583936).touchBar.ckres ∧
    (let s : State := { demo with ctxs := [], cellar := { ctrls := [0], lbas := 2 ^ 32, ready := true, ckPhase := 1 } };
      s.cellar.ckPhase = 1 ∧ s.quiet = true) ∧
    (∀ n ∈ [0, Config.checkpointHbm - 1, Config.checkpointHbm],
      let s : State := { demo with ctxs := [], cellar := { ctrls := [0], lbas := 2 ^ 32, ready := true, ckPhase := 2, ckSlots := n } };
      s.cellar.ckPhase = 2 ∧ Config.checkpointSlots ≤ s.cellar.slots ∧ (∀ c ∈ s.cellar.ctrls, c ∉ s.cellar.out)) ∧
    (¬ Config.checkpointSlots ≤ (cellared 2 []).cellar.slots) ∧
    (let s := ({ State.reset with cellar := { ready := true, image := some ⟨[], [], [], [], [], 1, 1⟩ } } : State).touchBar;
      s.cellar.launched = false ∧ s.ctxs = [] ∧ s.regions = [] ∧ s.cellar.ready = true ∧ s.cellar.image.isSome = true) := by
  and_intros <;> decide

/-- A tolerance to wake latency of 5 ms. -/
def tolerant : State := { State.reset.setBar 5 0 5000000 with now := 26000000 }
/-- Die 0 with every gang idle, and the package with every die in retention. -/
def idleDie : State := tolerant.setDie 0 { tolerant.die 0 with gangIdle := List.range 40 }
def asleep : State := (List.range 4).foldl (fun s d => s.setDie d { s.die d with power := 2 }) tolerant

theorem witness_PowerAndClockSteps :
    2000 ≤ tolerant.ltol ∧ 159 ∈ tolerant.gangsOn 3 ∧ (3 < Config.dies) ∧ tolerant.gangBusy 159 = false ∧ 159 ∉ (tolerant.die 3).gangIdle ∧
    tolerant.farWake 3 2000 = true ∧ 200000 ≤ idleDie.ltol ∧ (idleDie.die 0).power ≠ 2 ∧ (∀ g ∈ idleDie.gangsOn 0, g ∈ (idleDie.die 0).gangIdle) ∧
    (∀ e ∈ (idleDie.die 0).bins, e.2.items = []) ∧ idleDie.dieBusy 0 = false ∧ idleDie.farWake 0 200000 = true ∧
    5000000 ≤ asleep.ltol ∧ asleep.fleet.standby = false ∧ (∀ d < Config.dies, (asleep.die d).power = 2 ∧ asleep.farWake d 5000000 = true) ∧
    (∀ e ∈ asleep.porches, e.2.running = false) ∧ (∀ e ∈ asleep.channels, ∀ x ∈ e.2.streams, x.2 = []) ∧
    asleep.fleet.lastBar + 1000000 ≤ asleep.time ∧ asleep.launching = none ∧ (159 < Config.gangs) ∧ (linkPorts - 1 < linkPorts) := by
  and_intros <;> decide

theorem witness_ErrorSteps :
    bits (0xA503 : Dword).toNat 8 8 = 0xA5 ∧ (hbmStacks - 1 < hbmStacks) ∧ (31 < 32) ∧ tableGet demo.fleet.hbmSpare 0 0 < 2 ∧
    tableFind demo.fleet.copying 31 = none ∧ (demo.linkPort 0).down = false ∧ (demo.linkPort 0).spared = false ∧
    (({ demo with fleet := { demo.fleet with links := [(0, { spared := true })] } } : State).linkPort 0) = { spared := true } ∧
    (tableFind demo.ctxs 1).isSome = true ∧ (kubor.porch 0).running = true ∧ (tableFind demo.regions 1).isSome = true ∧
    tableFind demo.regions 9 = none ∧ paKind 0x5F = .hbm ∧ paKind 0x60 = .hbm ∧
    (∃ k ∈ [0x40], k < 0x5F + 1 ∧ 0x5F < k + 32) ∧ (∀ k ∈ [0x40], ¬ (k < 0x60 + 8 ∧ 0x60 < k + 32)) ∧
    (grouped.groupAt 5).state ≠ .free ∧ tableFind (channelled 0).channels 3 = some (channelOf 0) ∧ (programmed.porch 3).loaded = true := by
  and_intros <;> decide

theorem witness_BootAndKeySteps :
    State.reset.barReg 7 0 = 0 ∧ State.reset.fleet.verified = false ∧ (∃ e ∈ demo.regions, e.2.keyslot = bits (0 : Dword).toNat 0 7) ∧
    (¬ ∃ e ∈ demo.regions, e.2.keyslot = bits (0x40007F : Dword).toNat 0 7) ∧
    (∀ b ∈ ((demo.physRead noKey (bits (0x40007F : Dword).toNat 8 44 * 256) 256).drop 96).take 72, b = 0) ∧
    (¬ ∀ b ∈ (((withBytes demo 0x400060 [1]).physRead noKey (bits (0x40007F : Dword).toNat 8 44 * 256) 256).drop 96).take 72, b = 0) := by
  and_intros <;> decide

/-! ## Witnesses: issue, traps, frames, encodings -/

/-- What the step of the demo state does up to the issue of its word, a NOP. -/
def issue0 : State := { demo with plan := [], issue := {} }
def issue1 : State := ({ issue0 with focus := 1 } : State).settleGang (demo.ctxAt 1).place.gangNo
def issue2 : State := ((issue1.modCtx (issue1.ownerOf 1) (fun c => { c with holdPark := false })).loopArrive 1).1
def issue3 : State := (issue2.kernelArrive 1).1

theorem witness_StepRunsTheInstruction :
    demo.plan = [.issue 1] ∧ demo.fatal = false ∧ (tableFind demo.ctxs 1).isSome = true ∧ (demo.ctxAt 1).place.resident = true ∧
    (demo.ctxAt 1).dbgStop = false ∧ issue0.stepsLater 1 = false ∧ issue0.seqOrder (demo.ctxAt 1).place.seqKey = [1] ∧ issue0.due 1 = true ∧ issue0.yields 1 = false ∧ issue1.roundDue 1 = false ∧ issue1.ctxHeld 1 = false ∧ issue1.preemptStops 1 = false ∧
    ((issue1.modCtx (issue1.ownerOf 1) (fun c => { c with holdPark := false })).loopArrive 1).2 = false ∧ (issue2.kernelArrive 1).2.1 = false ∧
    (match issue3.segAt 1 (issue3.ctxAt 1).pc with
      | some g => match frameBundle 0 (g.bytes.drop 0) with
        | [.word b raw] => b == 0 && g.base == 0 && decide (0 < g.bytes.length) &&
            (decodeParts (issue3.stepped (issue3.ctxAt 1) 1 0 raw.parts)) == some (.nop g0)
        | _ => false
      | none => false) = true ∧
    issue3.encodingOk (.nop g0) = true ∧ (issue3.ctxAt 1).crosses 0 4 = false ∧ issue3.readsBc (.nop g0) = false ∧
    (let s := (State.reset.withFetchWord 128 0x90000000000000000000000000000000);
      s.plan = [.porch 0] ∧ s.fatal = false ∧ (s.porch 0).running = true ∧ (s.porch 0).nextWord.isSome = true) ∧
    isEvent .halt = true ∧ fatalAllows .halt = false ∧ fatalAllows (.rstctl 0) = true := by and_intros <;> decide

theorem witness_FalseFlagHasNoEffect :
    (∀ i ∈ ([.add gOff 2 1 3, .exit gOff] : List Instr), (encodeParts i).any (fun p => p.cls < 2 && p.gate == gOff) = true ∧ runs i demo = true ∧
      demo.encodingOk i = true) ∧
    demo.gateF gOff = false ∧ Issues demo 0 [] ∧ Issues demo 1 [] ∧ demo.issue.pre = none ∧ (∀ d, demo.pendingDest d = false) := by
  refine ⟨by decide, by decide, by decide, by decide, by decide, fun d => ?_⟩
  cases d <;> simp [State.pendingDest, show demo.me.pending = [] from rfl, show demo.me.isLanding = false from rfl, show demo.me.tokens = 0 from rfl]

theorem witness_MalformedWordsTrap :
    (encodeParts (.bfx g0 1 3 false 65 0)).isSome = true ∧ demo.encodingOk (.bfx g0 1 3 false 65 0) = false ∧
    (encodeParts (.vmov gOff { vf1 with vd := 0x20 } none)).isSome = true ∧ demo.encodingOk (.vmov gOff { vf1 with vd := 0x20 } none) = false ∧
    (encodeParts (.xrca gOff 33 3)).isSome = true ∧ (channelled 2).encodingOk (.xrca gOff 33 3) = false ∧
    (tableFind demo.ctxs demo.focus).isSome = true ∧ demo.me.place.resident = true ∧ demo.issue.pre = none ∧
    (tableFind State.reset.ctxs State.reset.focus).isNone = true ∧ (demo.modCtx 1 (fun c => { c with place := .parked 0 0 })).me.place.resident = false := by
  and_intros <;> decide

theorem witness_HandlerOnlyWords :
    demo.issue.pre = none ∧ demo.me.sup = false ∧ Acts demo 0 g0 [] ∧ demo.gateM g0 = true ∧ Issues demo 6 (useS [1, 4]) ∧
    Instr.wellFormed (.pgmap g0 1 4 true true 7) = true ∧ Instr.wellFormed (.tinv g0 2 1 4) = true ∧ Instr.wellFormed (.btinv g0 1 4 0 true) = true ∧
    Instr.wellFormed (.btinv g0 1 4 65535 false) = true := by and_intros <;> decide

theorem witness_TrapEntry :
    (demo.ctxAt 1).sup = false ∧ (demo.ctxAt 1).wait = .none ∧ (∀ e ∈ demo.ctxs, e.2.regrpWaitsFor 1 = false) ∧ (supervisor.ctxAt 1).sup = true ∧
    (demo.enterTrap 1 4 [demo.engRec 0 rPAGE 1 6 false 8]).me.epc = 4 ∧ (demo.enterTrap 1 4 [demo.engRec 0 rPAGE 1 6 false 8]).me.pc = 0x300000 := by
  and_intros <;> decide

theorem witness_TrapThenReturn :
    twoEngines.focus = 1 ∧ twoEngines.issue.pre = none ∧ (∀ e ∈ twoEngines.ctxs, e.2.regrpWaitsFor 1 = false) ∧
    (twoEngines.ctxAt 1).sup = false ∧ (twoEngines.ctxAt 1).wait = .none ∧ (twoEngines.ctxAt 1).active &&& (twoEngines.ctxAt 1).live ≠ 0 ∧
    ((4 : Nat) < 2 ^ 64) ∧ ((twoEngines.enterTrap 1 4 [twoEngines.engRec 1 rPAGE 1 6 false 8]).ctxAt 1).active = 2 := by and_intros <;> decide

theorem witness_Division : Acts demo 1 g0 (useS [3, 1, 2]) ∧ Acts demo 1 g0 (useS [3, 1]) := by and_intros <;> decide

theorem witness_DiscardedWrites :
    Acts demo 1 g0 (useS [0, 1, 2]) ∧ demo.gateM g0 = true ∧ Issues demo 6 (useS [1, 0]) ∧
    demo.flatFault demo.party .read (demo.rS 1).toNat 8 = none ∧ ({ vf with vd := 0 } : VFields).vd = 0 ∧ demo.encodingOk (.vcmp g0 { vf with vd := 0 } none) = true ∧
    Issues demo 3 (demo.useV (vreads vf 2 none)) ∧ demo.portCheck 3 (vreads vf 2 none) [] = .ok := by
  and_intros <;> decide

theorem witness_frames :
    scalarDest (.add g0 2 1 3) = some 3 ∧ runs (.add g0 2 1 3) demo = true ∧ (after (.add g0 2 1 3) demo).rS 3 = 0x200003 ∧
    flagDest (.flop g0 8 1 1 2) = some 2 ∧ runs (.flop g0 8 1 1 2) demo = true ∧ (after (.flop g0 8 1 1 2) demo).rF 2 = true ∧
    vectorFields (.vlane g0 { vf1 with va := 0 } none) = some { vf1 with va := 0 } ∧ runs (.vlane g0 { vf1 with va := 0 } none) demo = true ∧
    predicateDest (.vcmp g0 vf none) = some (true, BitVec.ofNat 3 vf.vd.toNat) ∧
    predicateDest (.vqop g0 { vf with imm := 1 } none) = some (false, BitVec.ofNat 3 vf.vd.toNat) := by and_intros <;> decide

/-- The translation that a store has cached reads the same whether or not the die still keeps it (log 11). -/
theorem witness_ScalarStoresFrame :
    (∃ t, exec (.sts g0 3 1 2) demo = .next t) ∧ demo.rS 1 = 0x200000 ∧ paKind 0x400000 = .hbm ∧
    (demo.cachePage demo.party .write (demo.rS 1).toNat).flat demo.party .write (demo.rS 1).toNat = .ok 0x400000 := by
  refine ⟨⟨_, rfl⟩, by decide, by decide, ?_⟩
  simp only [State.flat, State.flatPage, State.tlbHit]
  generalize Config.cacheKeeps (demo.cachePage demo.party .write (demo.rS 1).toNat).free ((demo.rS 1).toNat / 65536) = b
  revert b
  decide

theorem witness_DecodeOfEncode :
    Instr.wellFormed (.addLiteral g0 31 31 (-1)) = true ∧ (encodeWord true (.addLiteral g0 31 31 (-1))).isSome = true ∧
    (encodeWord false (.addLiteral g0 31 31 (-1))).isSome = true ∧ Instr.wellFormed (.kend kStamped) = true ∧ (encodeKubor (.kend kStamped)).isSome = true := by
  and_intros <;> decide

theorem witness_CanonicalIsKept : Canonical demo ∧ Canonical rich ∧ BlocksAligned demo ∧ BlocksAligned rich :=
  ⟨by constructor <;> decide, by constructor <;> decide, ⟨by decide, fun _ h => by cases h⟩, ⟨by decide, fun _ h => by cases h⟩⟩

/-- The demo state with a format window of 16-bit elements over blocks of format B, and one over blocks of format A. -/
def windowed : State :=
  let s := (((demo.setBar 1 0 0xC000000000000).setBar 1 8 1).setBar 1 0x10 0x600000).setBar 1 0x18 0xB301
  (((s.setBar 1 0x20 0xC000000010000).setBar 1 0x28 1).setBar 1 0x30 0x700000).setBar 1 0x38 0x780000A301

theorem witness_MemoryReadsBack :
    paKind (2 ^ 51) = .host ∧ paKind (2 ^ 50) = .link 0 ∧ paKind (3 * 2 ^ 50) = .view ∧ paKind Config.hbmBytes = .none ∧
    (∀ x ∈ ([(0, 0xB, 8), (0x10000, 0xA, 16)] : List (Nat × Nat × Nat)), ((windowed.windowAt (3 * 2 ^ 50 + x.1)).map (fun w =>
      w.sfmt == x.2.1 && decide (0 < w.elems * w.esize) && blockBytes w.sfmt == x.2.2 &&
        decide ((3 * 2 ^ 50 + x.1 + 8 - w.vbase) % (w.elems * w.esize) + 8 ≤ w.elems * w.esize) &&
        (w.sfmt != 0xA || decide (w.sbase + 16 ≤ w.scbase)))) = some true) ∧
    windowed.windowAt (3 * 2 ^ 50 + 0x20000) = none := by
  and_intros <;> decide

theorem witness_VectorWordsFrame :
    runs (.vlane g0 { vf1 with va := 0, vd := 32 } none) (demo.modCtx 1 (fun c => c.putG 0 ⟨2 ^ 192, 0, 0, 0, 0⟩)) = true ∧
    storesAtPort (.vlane g0 vf none) vf (-1) 255 = true ∧ storesAtPort (.vpack g0 vf none) vf (-1) 127 = true ∧
    storesAtPort (.vpack g0 vf none) vf (-1) 128 = false ∧ storesAtPort (.vcvt g0 { vf with fmt := 10 } none) { vf with fmt := 10 } 0 255 = true := by
  and_intros <;> decide

theorem witness_RegisterWritesFrame : (15 < 16) ∧ (1 : BitVec 5) ≠ 0 ∧ (7 : BitVec 3) ≠ 0 := by and_intros <;> decide

/-! ## Effects, from the spec's worked examples and rules -/

/-- Lane k of vector register n of engine e of gang 0 in context 0. -/
def laneAt (s : State) (e n k : Nat) : Nat := bits ((s.eng 0 e).c0.vreg n).toNat (32 * k) 32
/-- The state with vector registers of engine e set to lists of lanes. -/
def withV (s : State) (e : Nat) (l : List (Nat × List Nat)) : State :=
  s.modEng 0 e (fun x => { x with c0 := { x.c0 with v := l.map (fun p => (p.1, vecOf p.2)) } })
/-- Vector register 3 of engine 0, lanes 0 to n - 1, after a word on v1 and v2. -/
def onLanes (i : Instr) (n : Nat) (a b : List Nat) : List Nat :=
  let t := after i (withV demo 0 [(1, a), (2, b)])
  (List.range n).map (laneAt t 0 3)
/-- The demo state with scalars. -/
def withS (l : Table Dword) : State := demo.modCtx 1 (fun c => { c with scalars := l })
/-- s3 after a word with s1 and s2 set. -/
def onScalars (i : Instr) (a b : Dword) : Dword := ((after i (withS [(1, a), (2, b)])).ctxAt 1).sreg 3

-- R228: the corner cases of division, and truncation toward zero.
theorem test_division : onScalars (.divs g0 2 1 3) 0x8000000000000000 (-1) = 0x8000000000000000 ∧ onScalars (.rems g0 2 1 3) 0x8000000000000000 (-1) = 0 ∧
    onScalars (.divs g0 2 1 3) (-7) 2 = -3 ∧ onScalars (.rems g0 2 1 3) (-7) 2 = -1 ∧ onScalars (.divs g0 2 1 3) 5 0 = -1 ∧
    onScalars (.rems g0 2 1 3) 5 0 = 5 ∧ onScalars (.divu g0 2 1 3) (-7) 0 = -1 ∧ onScalars (.remu g0 2 1 3) 7 0 = 7 ∧
    onScalars (.divu g0 2 1 3) (-1) 2 = 0x7FFFFFFFFFFFFFFF ∧ onScalars (.remu g0 2 1 3) (-1) 2 = 1 := by and_intros <;> decide

-- R227: shifts take b[5:0], the high products differ in sign, the minima compare as their names say.
theorem test_scalar_arithmetic : onScalars (.shl g0 2 1 3) 3 65 = 6 ∧ onScalars (.shr g0 2 1 3) (-8) 64 = -8 ∧ onScalars (.sar g0 2 1 3) (-8) 1 = -4 ∧
    onScalars (.rotl g0 2 1 3) 0x8000000000000001 4 = 0x18 ∧ onScalars (.mulh g0 2 1 3) (-1) (-1) = 0 ∧ onScalars (.mulhu g0 2 1 3) (-1) (-1) = -2 ∧
    onScalars (.mul g0 2 1 3) (-1) 5 = -5 ∧ onScalars (.sub g0 2 1 3) 3 5 = -2 ∧ onScalars (.andn g0 2 1 3) 0xFF 0x0F = 0xF0 ∧
    onScalars (.mins g0 2 1 3) (-1) 1 = -1 ∧ onScalars (.minu g0 2 1 3) (-1) 1 = 1 ∧ onScalars (.maxs g0 2 1 3) (-1) 1 = 1 ∧
    onScalars (.maxu g0 2 1 3) (-1) 1 = -1 := by and_intros <;> decide

-- R232: the worked bit fields.
theorem test_bit_fields :
    (after (.bfx g0 6 5 true 12 8) (withS [(6, 0xABCDEF)])).rS 5 = 0xFFFFFFFFFFFFFBCD ∧
    (after (.bfi g0 7 5 8 4) (withS [(5, 0xFFFFFFFFFFFFFBCD), (7, 0x12)])).rS 5 = 0xFFFFFFFFFFFFF12D ∧
    (after (.clz g0 1 3) (withS [])).rS 3 = 64 ∧ (after (.ctz g0 1 3) (withS [])).rS 3 = 64 ∧ (after (.clz g0 1 3) (withS [(1, 1)])).rS 3 = 63 ∧
    (after (.popc g0 1 3) (withS [(1, 0xF0F)])).rS 3 = 8 ∧ (after (.movi g0 0x7FF 3) demo).rS 3 = -1 ∧
    (after (.lea g0 2 1 3 (-8) 3 none) demo).rS 3 = 0x200010 ∧ (after (.sel g0 2 1 3 2) demo).rS 3 = 3 := by and_intros <;> decide

-- R170: a false flag has no effect. R172: s0 keeps reading zero.
theorem test_gate : (after (.add gOff 2 1 3) demo).rS 3 = 0 ∧ (after (.add g0 2 1 0) demo).rS 0 = 0 ∧ (after (.movi ⟨1, true⟩ 5 3) demo).rS 3 = 0 := by
  and_intros <;> decide

-- R229, R230: signed and unsigned conditions, the combination with a flag, and a truth table.
theorem test_flags : (after (.cmp g0 0 2 1 4 0 2 none) (withS [(1, -1), (2, 1)])).rF 4 = true ∧
    (after (.flop g0 6 1 2 4) demo).rF 4 = true ∧ (after (.flop g0 8 1 2 4) demo).rF 4 = false := by and_intros <;> decide

-- R174: the words of a bundle read what stood before it, and the later write of s4 stands: s4 = 10 + 1.
theorem test_bundle_reads_before :
    (let bytes := ((encodeWord false (.mov ⟨1, false⟩ 2 4)).getD []) ++ ((encodeWord true (.addLiteral g0 4 4 1)).getD []);
      match step { withS [(2, 3), (4, 10)] with seqs := [(0, { lower := some ⟨1, 0, bytes ++ List.replicate 8 0, 0⟩ })] } with
      | .next t => ((t.ctxAt 1).sreg 4, (t.ctxAt 1).pc)
      | _ => (0, 0)) = (11, 16) := by decide

-- R189: a word whose class comes before that of its forerunner breaks the bundle: the context takes the trap, at the bundle.
theorem test_bundle_order :
    (let bytes := leBytes 12 0x2ECD ++ leBytes 4 0x04A4;
      match step { demo with seqs := [(0, { lower := some ⟨1, 0, bytes, 0⟩ })] } with
      | .next t => ((t.ctxAt 1).epc, (t.ctxAt 1).sup, (t.ctxAt 1).faults.map FaultRec.addr, (t.ctxAt 1).ecause.toNat)
      | _ => (1, false, [], 0)) = (0, true, [12], rILLEG) := by decide

-- R43: M is 0xFFFF and p3 is true in engines 0 to 4: the else-code runs in 0xFFE0, then the target in 0x001F, then all.
theorem test_divergence :
    (let s := (List.range 16).foldl (fun t e => t.modEng 0 e (fun x => { x with c0 := { x.c0 with p := if e < 5 then 9 else 1 } }))
        (demo.modCtx 1 (fun c => { c with active := 0xFFFF, live := 0xFFFF }));
      let a := after (.brp g0 3 false 16) s;
      let b := after (.join g0) a;
      let c := after (.join g0) b;
      ([a, b, c].map (fun t => ((t.ctxAt 1).active.toNat, (t.ctxAt 1).stack.length)), (b.ctxAt 1).pc, (a.ctxAt 1).stack.map StackEntry.entry)) =
      ([(0xFFE0, 1), (0x001F, 1), (0xFFFF, 0)], 64, [0xFFFF]) := by decide

-- R96: ring of 4 KiB at 0x40000, four steps of 0x100 and three of 0x700: the ninth to the thirteenth pop.
theorem test_port_steps :
    (let p := portLoad (4 * 2 ^ 32 + 0x100 + 0x700 * 2 ^ 48) (0x3 * 2 ^ 16) 0 (0x40000 * 2 ^ 32 + 16 * 2 ^ 16) 0;
      (List.range 13).map (fun n => (Nat.repeat PortSet.step n p).addr 0)).drop 8 = [0x40E00, 0x40F00, 0x40000, 0x40100, 0x40000] := by decide

-- R64: lane 5 at private offset 0x0104 is engine-local 0x4114.
theorem test_private_address : privAddr 0x104 5 = 0x4114 := by decide

-- R77: coordinate (700, 270) of the tiled BF16 tensor lies in tile 13 at offset 0x0E78.
theorem test_tile_place :
    (Tensor.place ⟨0, [1000, 300, 1, 1], 0, [7, 8, 0, 0], 2, 1, 2, 0, 0, 0, 0⟩ [700, 270, 0, 0]) = (13, 0xE78 * 8) := by decide

-- R134: SEED = 1 gives engine 0 the state 1; its draws are 0x0004 and 0x0408.
theorem test_draws : seedGen 1 0 = 1 ∧ xorshift 1 = 0x42021 ∧ xorshift 0x42021 = 0x4080601 ∧ (RStream.mk 1 0).draw = 4 ∧
    (RStream.mk 0x42021 0).draw = 0x408 := by and_intros <;> decide

-- R133: 1 + 2^-9 rounds to BF16 0x3F81 exactly when the draw is at least 49,152.
theorem test_stochastic : (roundF fBF16 4 (decodeF fFP32 0x3F804000) 49151).val = 0x3F80 ∧ (roundF fBF16 4 (decodeF fFP32 0x3F804000) 49152).val = 0x3F81 := by
  and_intros <;> decide

-- R129: the worked KB5 block decodes to 3.0 and 0.75.
theorem test_kb5_block :
    (roundF fFP32 0 (decodeKb 4 0x6CFE80 0) 0).val = 0x40400000 ∧ (roundF fFP32 0 (decodeKb 4 0x6CFE80 1) 0).val = 0x3F400000 ∧
    (roundF fFP32 0 (decodeKb 4 0x6CFE80 2) 0).val = 0 := by and_intros <;> decide

-- R246: 1.1, 500.0, -0.001 and a NaN as E4M3; R249: VPACK packs them, and FSTAT gains overflow, underflow and inexact.
theorem test_e4m3 : onLanes (.vcvt g0 { vf1 with fmt := 3 } none) 4 [0x3F8CCCCD, 0x43FA0000, 0xBA83126F, 0x7FC00000] [] = [0x39, 0x7E, 0x81, 0x7F] ∧
    ((after (.vcvt g0 { vf1 with fmt := 3 } none) (withV demo 0 [(1, [0x3F8CCCCD, 0x43FA0000, 0xBA83126F, 0x7FC00000])])).eng 0 0).c0.fstat = 0x1C ∧
    onLanes (.vpack g0 { vf1 with fmt := 3 } none) 1 [0x39, 0x7E, 0x81, 0x7F] [] = [0x7F817E39] := by and_intros <;> decide

-- R238, R131: sums round to nearest even, the sum of a number and its negation is +0, a NaN is quieted, VMAX prefers the number.
theorem test_float : onLanes (.vadd g0 vf none) 3 [0x4B800000, 0x3F800000, 0x7FA00000] [0x3F800000, 0xBF800000, 0] = [0x4B800000, 0, 0x7FC00000] ∧
    onLanes (.vmul g0 vf none) 1 [0x40400000] [0x3F400000] = [0x40100000] ∧
    onLanes (.vneg g0 vf1 none) 2 [0x3F800000, 0] [] = [0xBF800000, 0x80000000] ∧
    onLanes (.vmax g0 vf none) 1 [0x3F800000] [0x40000000] = [0x40000000] := by and_intros <;> decide

-- R240: saturation, wrapping, and shifts by b[4:0].
theorem test_integers : onLanes (.viadd g0 { vf with sat := true } none) 2 [0x7FFFFFFF, 0x80000000] [1, 0xFFFFFFFF] = [0x7FFFFFFF, 0x80000000] ∧
    onLanes (.viadd g0 vf none) 1 [0x7FFFFFFF] [1] = [0x80000000] ∧ onLanes (.visub g0 { vf with sub := 1, sat := true } none) 1 [3] [5] = [0] ∧
    onLanes (.vimul g0 { vf with sub := 2 } none) 1 [0xFFFFFFFF] [0xFFFFFFFF] = [0xFFFFFFFE] ∧
    onLanes (.vshl g0 vf none) 2 [3, 3] [33, 31] = [6, 0x80000000] ∧ onLanes (.vsar g0 vf none) 1 [0x80000000] [31] = [0xFFFFFFFF] := by
  and_intros <;> decide

-- R241, R244: a compare writes lanes of q; `vqop.p.andn p5, p3, p4`.
theorem test_predicates :
    ((((after (.vcmp g0 { vf with sub := 2, fmt := 8, vd := 2 } none) (withV demo 0 [(1, [1, 0xFFFFFFFF, 5]), (2, [2, 1, 5])])).eng 0 0).c0.qreg 2).toNat % 8) = 3 ∧
    ((after (.vqop g0 ⟨1, 0, 4, false, false, 0, 0, 0, 0, 4, false, 0, 3, 5⟩ none) (demo.modEng 0 0 (fun x => { x with c0 := { x.c0 with p := 9 } }))).eng 0 0).c0.pred 5 = true := by
  and_intros <;> decide

-- R251, R252: a permute by indices, and the lane numbers.
theorem test_lanes : onLanes (.vperm g0 vf none) 3 [10, 11, 12] [2, 0, 66] = [12, 10, 12] ∧
    onLanes (.vlane g0 { vf1 with va := 0, imm := 7 } none) 3 [] [] = [7, 8, 9] := by and_intros <;> decide

-- R254: the top-1 gate: lane 0 exchanges, the tie of lane 1 does not.
theorem test_exchange_keys :
    (let t := after (.cxsi g0 { kf with desc := true, pa := 11, pb := 12 }) (withV demo 0
        [(1, [0x3E800000, 0x3F000000]), (2, [0x3F400000, 0x3F000000]), (11, [0, 0]), (12, [1, 1])]);
      [laneAt t 0 1 0, laneAt t 0 11 0, laneAt t 0 1 1, laneAt t 0 11 1]) = [0x3F400000, 1, 0x3F000000, 0] := by decide

-- R259: 1.0, 2^24, 1.0, -2^24 and 1.0 over five engines sum to 2.0 along the tree.
theorem test_tree_sum :
    (let s := [0x3F800000, 0x4B800000, 0x3F800000, 0xCB800000, 0x3F800000].zipIdx.foldl (fun t p => withV t p.2 [(1, [p.1])])
        (demo.modCtx 1 (fun c => { c with active := 31, live := 31 }));
      (treeRed 0 4 ((List.range 16).map (fun e => if e < 5 then laneAt s e 1 0 else 0x80000000)))).1 = 0x40000000 := by decide

-- R301, R302: a scalar load of two bytes, extended and not.
theorem test_loads :
    (let s := withBytes demo 0x400000 [0xFE, 0xFF];
      [(after (.lds g0 true 1 1 3) s).rS 3, (after (.lds g0 false 1 1 3) s).rS 3, (after (.ldsLiteral g0 false 0 1 3 1) s).rS 3]) =
      [0xFFFFFFFFFFFFFFFE, 0xFFFE, 0xFF] := by decide

-- R72: an address that no page maps, a misaligned one and one beyond 2^56 fault, in that order of R301's checks.
theorem test_faults : demo.flatFault ⟨1, 0⟩ .read 0x600000 8 = some rPAGE ∧ demo.flatFault ⟨1, 0⟩ .read 0x200004 8 = some rALIGN ∧
    demo.flatFault ⟨1, 0⟩ .read (2 ^ 56) 8 = some rPROT ∧ traps (.lds g0 false 3 0 3) demo = true ∧ runs (.lds gOff false 3 0 3) demo = true := by
  and_intros <;> decide

-- R321: KVSEQ.add raises LEN from 16 to 17 and answers the old length.
theorem test_kvseq : (after (.kvseq g0 true 7 6 3) rich).rS 3 = 16 ∧ (rich.card 0).map Card.len = some 16 ∧
    ((after (.kvseq g0 true 7 6 3) rich).card 0).map Card.len = some 17 := by and_intros <;> decide

-- R381: region 2 has PRIO 6 and GANGS 8 of its own, and the timer and handler of its parent.
theorem test_region_inherits :
    (let r := (Block.mk 0x500000 [0x600001002, 0x11, 8]).region { region1 with timer := 20000 };
      (r.prio, r.gangs, r.timer, r.hvec, r.parent, r.depth)) = (6, 8, 20000, 0x300000, 1, 1) := by decide

-- R54, R178: TRAP enters the handler behind its bundle with its code in the record, and PGMAP outside the handler traps with STATE.
theorem test_traps :
    (let t := after (.trap g0 5) { demo with issue := { next := 4 } };
      ((t.ctxAt 1).pc, (t.ctxAt 1).epc, (t.ctxAt 1).sup, (t.ctxAt 1).ecause.toNat)) = (0x300000, 4, true, rTRAP) ∧
    ((after (.pgmap g0 1 4 false false 0) demo).ctxAt 1).ecause.toNat = rSTATE ∧
    ((after (.sysret g0) (after (.trap g0 5) { demo with issue := { next := 4 } })).ctxAt 1).pc = 4 := by and_intros <;> decide

-- R340: a stopped program leaves its code, and KWT reads it.
theorem test_program_code : (after (.kwt g0 false 11 3) programmed).rS 3 = 4 ∧ (after (.kwt g0 false 11 3) programmed).rF 1 = false := by
  and_intros <;> decide

-- R336: a loop of count 0 is skipped; R334: a branch that is taken.
theorem test_kubor_control :
    (match exec (.kuborLoop kPlain ⟨0, 0, 0, 0, 0, 0, 2, 0⟩) kubor with | .next t => (t.porch 0).pc | _ => 99) = 3 ∧
    (match exec (.brc kPlain 0 0 0 2) kubor with | .next t => (t.porch 0).pc | _ => 99) = 2 := by and_intros <;> decide

-- R376: INTCAUSE clears where 1 is written.
theorem test_intcause :
    (match exec (.registerWrite 0 0x70 (.whole 2)) (demo.setBar 0 0x70 7) with | .next t => (t.barReg 0 0x70).toNat | _ => 0) = 5 := by decide

-- R22, R60: of two ready contexts the token's holder goes first, until the other has been ready for 64 cycles without issuing.
theorem test_issue_order :
    (let s := { demo with now := 1000 }
     let t := s.setCtx 2 { s.ctxAt 1 with place := .gang 0 1 }
     (t.seqOrder 0, (t.modCtx 2 (fun c => { c with passed := 64, passedAt := 99 })).seqOrder 0,
      (t.modCtx 2 (fun c => { c with passed := 63, passedAt := 99 })).seqOrder 0)) = ([1, 2], [2, 1], [1, 2]) := by decide

end Sys2Proof.Tests
end

section
/-!
SUPPORT. HBM as a party with a key slot sees it (R70, R73, R442): what bringing in a line, storing a block under other keys and
writing bytes leave of what the party reads.
-/
namespace Sys2Proof.Proofs

open Machine Laws

/-! ## Blocks of 16 bytes (R442) -/

/-- A block of HBM as it is stored: the keys it is written under, and its bytes. -/
def blockAt (s : State) (n : Nat) : BitVec 512 × List Byte :=
  (tableGet s.blockKeys n 0, (List.range 16).map (fun i => tableGet s.mem (n * 16 + i) 0))

/-- Byte i of block n as it is seen under some keys. -/
def blockSeen (b : BitVec 512 × List Byte) (key : BitVec 512) (n i : Nat) : Byte :=
  if b.1 = key then b.2.getD i 0 else Config.garble b.1 key n b.2 i

/-- Block n after what is seen of it under some keys has been stored under others. -/
def rekeyed (b : BitVec 512 × List Byte) (seen key : BitVec 512) (n : Nat) : BitVec 512 × List Byte :=
  if b.1 = seen ∧ seen = key then b else (key, (List.range 16).map (blockSeen b seen n))

theorem seenUnder_eq (s : State) (key : BitVec 512) (pa : Nat) :
    s.seenUnder key pa = blockSeen (blockAt s (pa / 16)) key (pa / 16) (pa % 16) := by
  have hpa : pa / 16 * 16 + pa % 16 = pa := Nat.div_add_mod' pa 16
  have hb : (blockAt s (pa / 16)).2.getD (pa % 16) 0 = tableGet s.mem pa 0 := by
    simp [blockAt, List.getD_eq_getElem?_getD, Nat.mod_lt, hpa]
  rw [blockSeen, hb]
  rfl

theorem blockAt_congr {s t : State} {n : Nat} (hk : tableGet t.blockKeys n 0 = tableGet s.blockKeys n 0)
    (hm : ∀ a, a / 16 = n → tableGet t.mem a 0 = tableGet s.mem a 0) : blockAt t n = blockAt s n := by
  simp only [blockAt, hk, Prod.mk.injEq, List.map_inj_left, List.mem_range, true_and]
  intro i hi
  exact hm _ (by omega)

theorem rekeyed_keys (b : BitVec 512 × List Byte) (seen key : BitVec 512) (n : Nat) : (rekeyed b seen key n).1 = key := by
  unfold rekeyed
  split
  · next h => exact h.1.trans h.2
  · rfl

/-- What is seen of a block under some keys stays when it is stored under the same keys. -/
theorem blockSeen_rekeyed (b : BitVec 512 × List Byte) (key : BitVec 512) (n : Nat) {i : Nat} (hi : i < 16) :
    blockSeen (rekeyed b key key n) key n i = blockSeen b key n i := by
  unfold rekeyed
  split
  · rfl
  · simp [blockSeen, List.getD_eq_getElem?_getD, hi]

theorem blockAt_rekeyBlock (s : State) (seen key : BitVec 512) (n m : Nat) :
    blockAt (s.rekeyBlock seen key n) m = if m = n then rekeyed (blockAt s n) seen key n else blockAt s m := by
  by_cases hc : tableGet s.blockKeys n 0 = seen ∧ seen = key
  · have hb : rekeyed (blockAt s n) seen key n = blockAt s n := if_pos hc
    rw [State.rekeyBlock, if_pos hc, hb]
    split
    · next h => rw [h]
    · rfl
  · have hb : rekeyed (blockAt s n) seen key n = (key, (List.range 16).map (blockSeen (blockAt s n) seen n)) := if_neg hc
    rw [State.rekeyBlock, if_neg hc, hb]
    split
    · next h =>
      subst h
      simp only [blockAt, tableGet_set_self, Prod.mk.injEq, List.map_inj_left, List.mem_range, true_and]
      intro i hi
      rw [writeMem_get, if_pos (by simp [hi]), List.getD_eq_getElem?_getD, Nat.add_sub_cancel_left]
      have hd : (m * 16 + i) / 16 = m := by omega
      simp [hi, seenUnder_eq, hd, Nat.mod_eq_of_lt hi, blockAt]
    · next h =>
      refine blockAt_congr (tableGet_set_ne _ _ _ h) (fun a ha => ?_)
      exact (writeMem_get _ _ _ _).trans (if_neg (by simp; omega))

@[simp] theorem rekeyBlock_pantry (s : State) (seen key : BitVec 512) (n : Nat) : (s.rekeyBlock seen key n).pantry = s.pantry := by
  unfold State.rekeyBlock
  split <;> rfl

/-- Storing blocks base to base + k - 1 under other keys. -/
theorem blockAt_rekeyBlocks (s : State) (seen key : BitVec 512) (base k m : Nat) :
    blockAt ((List.range k).foldl (fun u i => u.rekeyBlock seen key (base + i)) s) m =
      if base ≤ m ∧ m < base + k then rekeyed (blockAt s m) seen key m else blockAt s m := by
  induction k with
  | zero => rw [if_neg (by omega)]; rfl
  | succ k ih =>
    rw [List.range_succ, List.foldl_append, List.foldl_cons, List.foldl_nil, blockAt_rekeyBlock]
    by_cases h : m = base + k
    · subst h
      have hold := ih
      rw [if_neg (by omega)] at hold
      rw [if_pos rfl, if_pos (by omega), hold]
    · rw [if_neg h, ih]
      congr 1
      exact propext ⟨fun h => by omega, fun h => by omega⟩

@[simp] theorem rekeyBlocks_pantry (s : State) (seen key : BitVec 512) (base k : Nat) :
    ((List.range k).foldl (fun u i => u.rekeyBlock seen key (base + i)) s).pantry = s.pantry :=
  foldl_keeps (P := fun u => u.pantry = s.pantry) (fun u i hu => (rekeyBlock_pantry u seen key (base + i)).trans hu) _ s rfl

end Sys2Proof.Proofs
end

section
/-!
SUPPORT. What uses of memory leave of the rest of the package: the registers but the counters, the translation buffers, and
everything that is no storage (R401, R435, R443).
-/
namespace Sys2Proof.Proofs

open Machine Laws

/-- The state apart from HBM and its pantries, the registers, the dies, and what an access meets of errors. -/
def apart (s : State) : State :=
  { s with mem := [], blockKeys := [], pantry := [], bar := [], dies := [], fleet := { keys := s.fleet.keys } }

/-- Two states that agree in every register below the counters' capability, in the translation buffers and apart from storage. -/
structure SameRest (s t : State) : Prop where
  regs : ∀ cap off, cap < 6 → off < 2 ^ 26 → t.barReg cap off = s.barReg cap off
  tlbs : ∀ d, (t.die d).tlb = (s.die d).tlb
  rest : apart t = apart s

namespace SameRest

variable {s t u : State}

theorem refl (s : State) : SameRest s s := ⟨fun _ _ _ _ => rfl, fun _ => rfl, rfl⟩

theorem trans (h : SameRest s t) (k : SameRest t u) : SameRest s u :=
  ⟨fun c o hc ho => (k.regs c o hc ho).trans (h.regs c o hc ho), fun d => (k.tlbs d).trans (h.tlbs d), k.rest.trans h.rest⟩

theorem symm (h : SameRest s t) : SameRest t s :=
  ⟨fun c o hc ho => (h.regs c o hc ho).symm, fun d => (h.tlbs d).symm, h.rest.symm⟩

/-- States that differ in HBM, its pantries and the errors met only. -/
theorem of_storage (hb : t.bar = s.bar) (hd : t.dies = s.dies) (hr : apart t = apart s) : SameRest s t :=
  ⟨fun c o _ _ => by simp only [State.barReg, hb], fun d => by simp only [State.die, hd], hr⟩

theorem ctxs (h : SameRest s t) : t.ctxs = s.ctxs := congrArg (fun x => x.ctxs) h.rest
theorem engines (h : SameRest s t) : t.engines = s.engines := congrArg (fun x => x.engines) h.rest
theorem ops (h : SameRest s t) : t.ops = s.ops := congrArg (fun x => x.ops) h.rest
theorem groups (h : SameRest s t) : t.groups = s.groups := congrArg (fun x => x.groups) h.rest
theorem regions (h : SameRest s t) : t.regions = s.regions := congrArg (fun x => x.regions) h.rest
theorem outbox (h : SameRest s t) : t.outbox = s.outbox := congrArg (fun x => x.outbox) h.rest
theorem free (h : SameRest s t) : t.free = s.free := congrArg (fun x => x.free) h.rest
theorem keys (h : SameRest s t) : t.fleet.keys = s.fleet.keys := congrArg (fun x => x.fleet.keys) h.rest

theorem keyOf (h : SameRest s t) : t.keyOf = s.keyOf := by funext slot; simp only [State.keyOf, h.keys]
theorem region (h : SameRest s t) (r : Nat) : t.region r = s.region r := by simp only [State.region, h.regions]
theorem regionKey (h : SameRest s t) (r : Nat) : t.regionKey r = s.regionKey r := by simp only [State.regionKey, h.region]

theorem unkeyed (h : SameRest s t) (pa : Nat) : t.unkeyed pa = s.unkeyed pa := by
  simp only [State.unkeyed, h.regs 0 0x48 (by decide) (by decide), h.regs 0 0x50 (by decide) (by decide),
    h.regs 4 0x28 (by decide) (by decide), h.regions]

theorem tagFor (h : SameRest s t) (slot line : Nat) : t.tagFor slot line = s.tagFor slot line := by
  simp only [State.tagFor, h.unkeyed]

/-- A fold over steps each of which keeps the rest. -/
theorem foldl {α : Type} {f : State → α → State} (h : ∀ u x, SameRest u (f u x)) (l : List α) (s : State) : SameRest s (l.foldl f s) :=
  foldl_keeps (P := SameRest s) (fun u x hu => hu.trans (h u x)) l s (refl s)

end SameRest

/-! ## Counters (R443) -/

theorem tableFind_set_ne {α : Type} [DecidableEq α] (t : Table α) {k j : Nat} (v d : α) (h : j ≠ k) :
    tableFind (tableSet t k v d) j = tableFind t j := by
  unfold tableSet
  split
  · exact tableFind_erase_ne t h
  · exact tableFind_insert_ne t v h

theorem barReg_setBar_ne (s : State) {cap off c o : Nat} (v : Dword) (h : barKey c o ≠ barKey cap off) :
    (s.setBar cap off v).barReg c o = s.barReg c o := by
  simp only [State.barReg, State.setBar, tableGet, tableFind_set_ne _ _ _ h]

theorem barReg_count (s : State) (die : Option Nat) (i n : Nat) {cap off : Nat} (hc : cap < 6) (ho : off < 2 ^ 26) :
    (s.count die i n).barReg cap off = s.barReg cap off := by
  have hk : barKey cap off ≠ barKey 6 (counterOff die i) := by simp only [barKey]; omega
  exact barReg_setBar_ne s _ hk

theorem sameRest_count (s : State) (die : Option Nat) (i n : Nat) : SameRest s (s.count die i n) :=
  ⟨fun _ _ hc ho => barReg_count s die i n hc ho, fun _ => by simp only [State.count, State.die, setBar_dies], by
    rw [State.count, State.setBar]; rfl⟩

/-! ## Blocks and lines -/

theorem sameRest_rekeyBlock (s : State) (seen key : BitVec 512) (n : Nat) : SameRest s (s.rekeyBlock seen key n) := by
  unfold State.rekeyBlock
  split
  · exact .refl s
  · exact .of_storage rfl rfl rfl

/-- The pantries are no part of the rest. -/
theorem sameRest_pantry (s : State) (p : Table PantryLine) : SameRest s { s with pantry := p } := .of_storage rfl rfl rfl

theorem sameRest_writeBack (s : State) (line : Nat) : SameRest s (s.writeBack line) := by
  unfold State.writeBack
  split
  · next x _ =>
    split
    · exact .refl s
    · refine .trans (.trans ?_ (sameRest_pantry _ _)) (sameRest_count _ _ _ _)
      split
      · exact .refl s
      · exact .foldl (fun u i => sameRest_rekeyBlock u _ _ _) _ s
  · exact .refl s

theorem sameRest_useLine (s : State) (slot line : Nat) (write : Bool) : SameRest s (s.useLine slot line write) := by
  unfold State.useLine
  dsimp only
  split
  · split
    · split
      · exact (sameRest_pantry s _).trans (sameRest_count _ _ _ _)
      · exact sameRest_count _ _ _ _
    · exact (sameRest_writeBack s line).trans ((sameRest_pantry _ _).trans ((sameRest_count _ _ _ _).trans (sameRest_count _ _ _ _)))
  · exact (sameRest_pantry s _).trans ((sameRest_count _ _ _ _).trans (sameRest_count _ _ _ _))

theorem sameRest_useLines (s : State) (slot pa n : Nat) (write : Bool) : SameRest s (s.useLines slot pa n write) := by
  unfold State.useLines
  split
  · exact .refl s
  · exact .foldl (fun u i => sameRest_useLine u slot (pa / 128 + i) write) _ s

theorem sameRest_mendWords (s : State) (pa n : Nat) : SameRest s (s.mendWords pa n) := by
  unfold State.mendWords
  split
  · exact .refl s
  · exact .of_storage rfl rfl rfl

/-! ## Accesses of HBM, of views, and at a physical address -/

theorem sameRest_readsHbm (s : State) (v : EccVictim) (slot pa n : Nat) : SameRest s (s.readsHbm v slot pa n) := by
  unfold State.readsHbm
  split
  · exact .refl s
  · refine (sameRest_useLines s slot pa n false).trans ?_
    dsimp only
    split
    · exact .of_storage rfl rfl rfl
    · exact .refl _

theorem sameRest_hbmWrite (s : State) (slot pa : Nat) (bs : List Byte) : SameRest s (s.hbmWrite slot pa bs) := by
  unfold State.hbmWrite
  split
  · exact .refl s
  · refine (sameRest_useLines s slot pa bs.length true).trans (.trans ?_ (sameRest_mendWords _ _ _))
    exact .trans (.foldl (fun u i => sameRest_rekeyBlock u _ _ _) _ _) (.of_storage rfl rfl rfl)

theorem sameRest_viewStoreBlock (s : State) (key : Nat) (w : Window) (b : Nat) (bytes : List Byte) :
    SameRest s (s.viewStoreBlock key w b bytes) := by
  unfold State.viewStoreBlock
  dsimp only
  split
  · exact (sameRest_hbmWrite _ _ _ _).trans (sameRest_hbmWrite _ _ _ _)
  · exact sameRest_hbmWrite _ _ _ _

theorem sameRest_viewWrite (s : State) (key : Nat) (w : Window) (pa : Nat) (bs : List Byte) : SameRest s (s.viewWrite key w pa bs) := by
  unfold State.viewWrite
  exact .foldl (fun u k => sameRest_viewStoreBlock u key w _ _) _ s

theorem sameRest_reads (s : State) (v : EccVictim) (slot pa n : Nat) : SameRest s (s.reads v slot pa n) := by
  unfold State.reads
  split
  · exact .refl s
  · split
    · exact sameRest_readsHbm s v slot pa n
    · split
      · dsimp only
        split
        · exact (sameRest_readsHbm _ _ _ _ _).trans (sameRest_readsHbm _ _ _ _ _)
        · exact sameRest_readsHbm _ _ _ _ _
      · exact .refl s
    · exact .refl s

/-- A write at a physical address changes storage, counters and what goes out. -/
theorem sameRest_physWrite (s : State) (key pa : Nat) (bs : List Byte) :
    SameRest { s with outbox := (s.physWrite key pa bs).outbox } (s.physWrite key pa bs) := by
  have inside {t : State} (h : SameRest s t) : SameRest { s with outbox := t.outbox } t := by
    rw [h.outbox]; exact h
  unfold State.physWrite
  split
  · exact inside (sameRest_hbmWrite s key pa bs)
  · split
    · exact inside (sameRest_viewWrite s key _ pa bs)
    · exact .refl s
  · exact .refl s
  · exact sameRest_count _ _ _ _
  · exact .refl _

end Sys2Proof.Proofs
end

section
/-!
SUPPORT. The bytes that a party with a key slot reads, after any use of a line and after a write (R70, R71, R73, R442).
-/
namespace Sys2Proof.Proofs

open Machine Laws

/-! ## What is seen of a block through its pantry line -/

/-- Block n once its line, if it stands dirty in the pantry, has been written back under its tag. -/
def written (x : Option PantryLine) (keys : Nat → BitVec 512) (b : BitVec 512 × List Byte) (n : Nat) : BitVec 512 × List Byte :=
  match x with
  | some y => if y.dirty = true ∧ y.key ≠ keys y.tag then rekeyed b y.key (keys y.tag) n else b
  | none => b

/-- Byte i of block n as an access under a tag sees it, where the pantry holds x of its line. -/
def seenAs (x : Option PantryLine) (keys : Nat → BitVec 512) (tag : Nat) (b : BitVec 512 × List Byte) (n i : Nat) : Byte :=
  match x with
  | some y => if y.tag = tag then blockSeen b y.key n i else blockSeen (written x keys b n) (keys tag) n i
  | none => blockSeen b (keys tag) n i

/-- The state with the blocks of a line stored under the keys that the slot of its pantry line holds now. -/
def lineStored (s : State) (line : Nat) (y : PantryLine) : State :=
  if y.key = s.keyOf y.tag then s else (List.range 8).foldl (fun u i => u.rekeyBlock y.key (s.keyOf y.tag) (line * 8 + i)) s

theorem lineStored_pantry (s : State) (line : Nat) (y : PantryLine) : (lineStored s line y).pantry = s.pantry := by
  unfold lineStored
  split
  · rfl
  · exact rekeyBlocks_pantry _ _ _ _ _

theorem blockAt_lineStored (s : State) (line m : Nat) (y : PantryLine) :
    blockAt (lineStored s line y) m =
      if m / 8 = line ∧ y.key ≠ s.keyOf y.tag then rekeyed (blockAt s m) y.key (s.keyOf y.tag) m else blockAt s m := by
  unfold lineStored
  by_cases hk : y.key = s.keyOf y.tag
  · rw [if_pos hk, if_neg (fun h => h.2 hk)]
  · rw [if_neg hk, blockAt_rekeyBlocks]
    congr 1
    exact propext ⟨fun h => ⟨by omega, hk⟩, fun h => by omega⟩

/-- A line that is not dirty has nothing to write back. -/
theorem writeBack_clean {s : State} {line : Nat} (h : ∀ y, tableFind s.pantry line = some y → y.dirty = false) : s.writeBack line = s := by
  unfold State.writeBack
  split
  · next y hy => rw [h y hy]; rfl
  · rfl

theorem writeBack_dirty {s : State} {line : Nat} {y : PantryLine} (hy : tableFind s.pantry line = some y) (hd : y.dirty = true) :
    s.writeBack line = ({ lineStored s line y with pantry := tableInsert s.pantry line ⟨y.tag, s.keyOf y.tag, false⟩ } : State).count
      (some (dieOfPa (line * 128))) 5 128 := by
  rw [← lineStored_pantry s line y]
  simp only [State.writeBack, hy, hd, Bool.not_true, Bool.false_eq_true, if_false, lineStored]

/-- A counter is no part of a block. -/
theorem blockAt_count (s : State) (die : Option Nat) (i n m : Nat) : blockAt (s.count die i n) m = blockAt s m := by
  simp only [blockAt, State.count, setBar_mem, setBar_blockKeys]

/-- A pantry is no part of a block as it is stored. -/
theorem blockAt_pantry (s : State) (p : Table PantryLine) (m : Nat) : blockAt { s with pantry := p } m = blockAt s m := rfl

theorem pantry_count (s : State) (die : Option Nat) (i n : Nat) : (s.count die i n).pantry = s.pantry := by
  rw [State.count, setBar_pantry]

theorem blockAt_writeBack (s : State) (line m : Nat) :
    blockAt (s.writeBack line) m = if m / 8 = line then written (tableFind s.pantry line) s.keyOf (blockAt s m) m else blockAt s m := by
  by_cases h : ∃ y, tableFind s.pantry line = some y ∧ y.dirty = true
  · obtain ⟨y, hy, hd⟩ := h
    rw [writeBack_dirty hy hd, blockAt_count, blockAt_pantry, blockAt_lineStored, hy]
    by_cases hm : m / 8 = line
    · simp only [hm, written, hd, true_and, if_true]
    · rw [if_neg hm, if_neg (fun h => hm h.1)]
  · have hclean : ∀ y, tableFind s.pantry line = some y → y.dirty = false := fun y hy => by simpa using fun hd => h ⟨y, hy, hd⟩
    have hw : written (tableFind s.pantry line) s.keyOf (blockAt s m) m = blockAt s m := by
      cases hx : tableFind s.pantry line with
      | none => rfl
      | some y => simp [written, hclean y hx]
    rw [writeBack_clean hclean, hw, ite_self]

theorem writeBack_pantry_ne (s : State) {line l : Nat} (h : l ≠ line) : tableFind (s.writeBack line).pantry l = tableFind s.pantry l := by
  by_cases hx : ∃ y, tableFind s.pantry line = some y ∧ y.dirty = true
  · obtain ⟨y, hy, hd⟩ := hx
    rw [writeBack_dirty hy hd, pantry_count]
    exact tableFind_insert_ne _ _ h
  · rw [writeBack_clean (fun y hy => by simpa using fun hd => hx ⟨y, hy, hd⟩)]

/-- An HBM byte, by the block and the pantry line that it lies in (R442). -/
theorem hbmByte_eq (s : State) (slot pa : Nat) :
    s.hbmByte slot pa = seenAs (tableFind s.pantry (pa / 128)) s.keyOf (s.tagFor slot (pa / 128)) (blockAt s (pa / 16)) (pa / 16) (pa % 16) := by
  have hl : pa / 16 / 8 = pa / 128 := by omega
  unfold State.hbmByte State.underTag State.keysAt
  dsimp only
  cases hx : tableFind s.pantry (pa / 128) with
  | none => exact seenUnder_eq _ _ _
  | some y =>
    by_cases ht : y.tag = s.tagFor slot (pa / 128)
    · simp only [ht, if_true, seenUnder_eq, seenAs]
    · simp only [ht, if_false, seenUnder_eq, seenAs, blockAt_writeBack, hl, if_true, hx]

/-- A byte reads alike where its block, its pantry line and the rest are the same. -/
theorem hbmByte_congr {s t : State} (h : SameRest s t) {slot pa : Nat} (hp : tableFind t.pantry (pa / 128) = tableFind s.pantry (pa / 128))
    (hb : blockAt t (pa / 16) = blockAt s (pa / 16)) : t.hbmByte slot pa = s.hbmByte slot pa := by
  rw [hbmByte_eq, hbmByte_eq, hp, hb, h.keyOf, h.tagFor]

/-! ## States that a party reads alike -/

/-- Two states in which a party with a key slot reads the same bytes of HBM, and that agree in the rest. -/
structure ReadsAlike (slot : Nat) (s t : State) : Prop extends SameRest s t where
  bytes : ∀ a, t.hbmByte slot a = s.hbmByte slot a

namespace ReadsAlike

variable {slot : Nat} {s t u : State}

theorem refl (slot : Nat) (s : State) : ReadsAlike slot s s := ⟨.refl s, fun _ => rfl⟩

theorem trans (h : ReadsAlike slot s t) (k : ReadsAlike slot t u) : ReadsAlike slot s u :=
  ⟨h.toSameRest.trans k.toSameRest, fun a => (k.bytes a).trans (h.bytes a)⟩

theorem symm (h : ReadsAlike slot s t) : ReadsAlike slot t s := ⟨h.toSameRest.symm, fun a => (h.bytes a).symm⟩

/-- A fold over steps each of which the party does not see. -/
theorem foldl {α : Type} {f : State → α → State} (h : ∀ u x, ReadsAlike slot u (f u x)) (l : List α) (s : State) :
    ReadsAlike slot s (l.foldl f s) :=
  foldl_keeps (P := ReadsAlike slot s) (fun u x hu => hu.trans (h u x)) l s (refl slot s)

end ReadsAlike

/-! ## Using a line -/

/-- The pantry holds a line under the tag with which a slot reaches it. -/
def Tagged (s : State) (slot line : Nat) (y : PantryLine) : Prop :=
  tableFind s.pantry line = some y ∧ y.tag = s.tagFor slot line

theorem hbmByte_tagged {s : State} {slot pa : Nat} {y : PantryLine} (h : Tagged s slot (pa / 128) y) :
    s.hbmByte slot pa = blockSeen (blockAt s (pa / 16)) y.key (pa / 16) (pa % 16) := by
  obtain ⟨hy, ht⟩ := h
  rw [hbmByte_eq, hy, seenAs, if_pos ht]

/-- What a use leaves: the line stands in its pantry under the user's tag, its blocks are seen as they were, and every other line stays. -/
theorem useLine_leaves (s : State) (slot line : Nat) (write : Bool) :
    ∃ y : PantryLine, y.tag = s.tagFor slot line ∧
      (∀ l, tableFind (s.useLine slot line write).pantry l = if l = line then some y else tableFind s.pantry l) ∧
      (∀ m, m / 8 ≠ line → blockAt (s.useLine slot line write) m = blockAt s m) ∧
      ∀ m i, m / 8 = line → blockSeen (blockAt (s.useLine slot line write) m) y.key m i =
        seenAs (tableFind s.pantry line) s.keyOf (s.tagFor slot line) (blockAt s m) m i := by
  have insert (t : Table PantryLine) (y : PantryLine) (h : ∀ l, l ≠ line → tableFind t l = tableFind s.pantry l) (l : Nat) :
      tableFind (tableInsert t line y) l = if l = line then some y else tableFind s.pantry l := by
    by_cases hl : l = line
    · rw [if_pos hl, hl, tableFind_insert_self]
    · rw [if_neg hl, tableFind_insert_ne _ _ hl, h l hl]
  unfold State.useLine
  dsimp only
  cases hx : tableFind s.pantry line with
  | none =>
    refine ⟨⟨s.tagFor slot line, s.keyOf (s.tagFor slot line), write⟩, rfl, ?_⟩
    simp only [pantry_count, blockAt_count, blockAt_pantry, seenAs]
    exact ⟨insert _ _ (fun _ _ => rfl), fun _ _ => trivial, fun _ _ _ => trivial⟩
  | some x =>
    by_cases ht : x.tag = s.tagFor slot line
    · by_cases hw : (write && !x.dirty) = true
      · refine ⟨⟨s.tagFor slot line, x.key, true⟩, rfl, ?_⟩
        simp only [ht, hw, if_true, pantry_count, blockAt_count, blockAt_pantry, seenAs]
        exact ⟨insert _ _ (fun _ _ => rfl), fun _ _ => trivial, fun _ _ _ => trivial⟩
      · refine ⟨x, ht, ?_⟩
        simp only [ht, hw, Bool.false_eq_true, if_true, if_false, pantry_count, blockAt_count, seenAs]
        refine ⟨fun l => ?_, fun _ _ => trivial, fun _ _ _ => trivial⟩
        split
        · next hl => rw [hl, hx]
        · rfl
    · refine ⟨⟨s.tagFor slot line, (s.writeBack line).keyOf (s.tagFor slot line), write⟩, rfl, ?_⟩
      simp only [ht, if_false, pantry_count, blockAt_count, blockAt_pantry, blockAt_writeBack, seenAs, hx, (sameRest_writeBack s line).keyOf]
      exact ⟨insert _ _ (fun l hl => writeBack_pantry_ne s hl), fun _ hm => if_neg hm, fun _ _ hm => by rw [if_pos hm]⟩

/-- Using a line changes no byte that its user reads (R70, R442). -/
theorem readsAlike_useLine (s : State) (slot line : Nat) (write : Bool) : ReadsAlike slot s (s.useLine slot line write) := by
  have hrest := sameRest_useLine s slot line write
  obtain ⟨y, ht, hp, hne, hseen⟩ := useLine_leaves s slot line write
  refine ⟨hrest, fun a => ?_⟩
  by_cases hl : a / 128 = line
  · subst hl
    have htagged : Tagged (s.useLine slot (a / 128) write) slot (a / 128) y := ⟨(hp _).trans (if_pos rfl), ht.trans (hrest.tagFor _ _).symm⟩
    rw [hbmByte_tagged htagged, hbmByte_eq, hseen _ _ (by omega)]
  · exact hbmByte_congr hrest ((hp _).trans (if_neg hl)) (hne _ (by omega))

theorem readsAlike_useLines (s : State) (slot pa n : Nat) (write : Bool) : ReadsAlike slot s (s.useLines slot pa n write) := by
  unfold State.useLines
  split
  · exact .refl slot s
  · exact .foldl (fun u i => readsAlike_useLine u slot (pa / 128 + i) write) _ s

/-- A use brings its line under the user's tag, and keeps every other line that stands under it. -/
theorem useLine_tagged {s : State} {slot line l : Nat} (write : Bool) (h : l ≠ line → ∃ y, Tagged s slot l y) :
    ∃ y, Tagged (s.useLine slot line write) slot l y := by
  obtain ⟨y, ht, hp, -, -⟩ := useLine_leaves s slot line write
  have htag := (sameRest_useLine s slot line write).tagFor slot l
  simp only [Tagged, htag, hp]
  by_cases hl : l = line
  · exact ⟨y, if_pos hl, hl ▸ ht⟩
  · obtain ⟨z, hz, hzt⟩ := h hl
    exact ⟨z, (if_neg hl).trans hz, hzt⟩

/-- Each line of the bytes that were used stands in its pantry under the user's tag. -/
theorem useLines_tagged (s : State) (slot pa n : Nat) (write : Bool) {l : Nat} (h0 : pa / 128 ≤ l) (h1 : l ≤ (pa + n - 1) / 128) (hn : n ≠ 0) :
    ∃ y, Tagged (s.useLines slot pa n write) slot l y := by
  have fold (k : Nat) (hk : l < pa / 128 + k) :
      ∃ y, Tagged ((List.range k).foldl (fun t i => t.useLine slot (pa / 128 + i) write) s) slot l y := by
    induction k with
    | zero => omega
    | succ k ih =>
      rw [List.range_succ, List.foldl_append, List.foldl_cons, List.foldl_nil]
      exact useLine_tagged write fun hl => ih (by omega)
  unfold State.useLines
  rw [if_neg hn]
  exact fold _ (by omega)

/-- The errors met are no part of what is read. -/
theorem readsAlike_fleet (slot : Nat) (s : State) {f : Fleet} (hk : f.keys = s.fleet.keys) : ReadsAlike slot s { s with fleet := f } := by
  have hrest : SameRest s { s with fleet := f } := .of_storage rfl rfl (by simp only [apart, hk])
  exact ⟨hrest, fun a => hbmByte_congr hrest rfl rfl⟩

theorem readsAlike_readsHbm (s : State) (v : EccVictim) (slot pa n : Nat) : ReadsAlike slot s (s.readsHbm v slot pa n) := by
  unfold State.readsHbm
  split
  · exact .refl slot s
  · refine (readsAlike_useLines s slot pa n false).trans ?_
    dsimp only
    split
    · exact readsAlike_fleet slot _ rfl
    · exact .refl slot _

/-! ## Writing bytes -/

/-- A block that is stored under the keys with which a slot sees its line. -/
def Settled (s : State) (slot n : Nat) : Prop := ∃ y, Tagged s slot (n / 8) y ∧ tableGet s.blockKeys n 0 = y.key

theorem hbmByte_settled {s : State} {slot pa : Nat} (h : Settled s slot (pa / 16)) : s.hbmByte slot pa = tableGet s.mem pa 0 := by
  obtain ⟨y, hy, hk⟩ := h
  have hl : pa / 16 / 8 = pa / 128 := by omega
  rw [hl] at hy
  rw [hbmByte_tagged hy, ← hk, ← seenUnder_eq]
  exact if_pos rfl

/-- The keys with which a write sees block n (R442). -/
def writeKeys (s : State) (slot n : Nat) : BitVec 512 := s.keysAt (s.tagFor slot (n / 8)) (n / 8)

theorem writeKeys_tagged {s : State} {slot n : Nat} {y : PantryLine} (h : Tagged s slot (n / 8) y) : writeKeys s slot n = y.key := by
  obtain ⟨hy, ht⟩ := h
  simp [writeKeys, State.keysAt, hy, ht]

/-- A write's first pass over a block of a line in use: no byte reads otherwise, and the block is settled, as are those that were. -/
theorem readsAlike_settle {s : State} {slot n : Nat} (h : ∃ y, Tagged s slot (n / 8) y) :
    let t := s.rekeyBlock (writeKeys s slot n) (writeKeys s slot n) n
    ReadsAlike slot s t ∧ Settled t slot n ∧ (∀ l y, Tagged s slot l y → Tagged t slot l y) ∧ ∀ m, Settled s slot m → Settled t slot m := by
  intro t
  obtain ⟨y, hy⟩ := h
  have hrest : SameRest s t := sameRest_rekeyBlock _ _ _ _
  have hp : t.pantry = s.pantry := rekeyBlock_pantry _ _ _ _
  have hb (m : Nat) : blockAt t m = if m = n then rekeyed (blockAt s n) y.key y.key n else blockAt s m := by
    rw [← writeKeys_tagged hy]
    exact blockAt_rekeyBlock _ _ _ _ _
  have htag (l : Nat) (z : PantryLine) (hz : Tagged s slot l z) : Tagged t slot l z :=
    ⟨by rw [hp]; exact hz.1, hz.2.trans (hrest.tagFor slot l).symm⟩
  have hself : Settled t slot n := by
    have := congrArg Prod.fst (hb n)
    rw [if_pos rfl, rekeyed_keys] at this
    exact ⟨y, htag _ y hy, this⟩
  refine ⟨⟨hrest, fun a => ?_⟩, hself, htag, fun m hm => ?_⟩
  · by_cases ha : a / 16 = n
    · have hl : n / 8 = a / 128 := by omega
      rw [hl] at hy
      rw [hbmByte_tagged hy, hbmByte_tagged (htag _ y hy), ha, hb, if_pos rfl, blockSeen_rekeyed _ _ _ (by omega)]
    · exact hbmByte_congr hrest (by rw [hp]) (by rw [hb, if_neg ha])
  · by_cases hmn : m = n
    · rw [hmn]; exact hself
    · obtain ⟨z, hz, hk⟩ := hm
      have := congrArg Prod.fst (hb m)
      rw [if_neg hmn] at this
      exact ⟨z, htag _ z hz, this.trans hk⟩

/-- A write's first pass over k blocks: each is stored under the keys with which the writer sees it. -/
def settleBlocks (s : State) (slot first k : Nat) : State :=
  (List.range k).foldl (fun t i => t.rekeyBlock (writeKeys t slot (first + i)) (writeKeys t slot (first + i)) (first + i)) s

/-- The first pass over blocks of lines in use. -/
theorem readsAlike_settleBlocks {s : State} {slot first : Nat} (k : Nat) (h : ∀ i < k, ∃ y, Tagged s slot ((first + i) / 8) y) :
    ReadsAlike slot s (settleBlocks s slot first k) ∧ (∀ l y, Tagged s slot l y → Tagged (settleBlocks s slot first k) slot l y) ∧
      ∀ i < k, Settled (settleBlocks s slot first k) slot (first + i) := by
  induction k with
  | zero => exact ⟨.refl slot s, fun _ _ hy => hy, fun i hi => absurd hi (by omega)⟩
  | succ k ih =>
    obtain ⟨halike, htag, hset⟩ := ih (fun i hi => h i (by omega))
    obtain ⟨y, hy⟩ := h k (by omega)
    obtain ⟨hstep, hself, hkeep, hold⟩ := readsAlike_settle ⟨y, htag _ y hy⟩
    have hsucc : settleBlocks s slot first (k + 1) = (settleBlocks s slot first k).rekeyBlock
        (writeKeys (settleBlocks s slot first k) slot (first + k)) (writeKeys (settleBlocks s slot first k) slot (first + k)) (first + k) := by
      simp only [settleBlocks, List.range_succ, List.foldl_append, List.foldl_cons, List.foldl_nil]
    rw [hsucc]
    refine ⟨halike.trans hstep, fun l z hz => hkeep l z (htag l z hz), fun i hi => ?_⟩
    by_cases hik : i = k
    · rw [hik]; exact hself
    · exact hold _ (hset i (by omega))

/-- The state that a write of at least one byte stores its bytes in. -/
def readied (s : State) (slot pa n : Nat) : State :=
  settleBlocks (s.useLines slot pa n true) slot (pa / 16) ((pa + n - 1) / 16 - pa / 16 + 1)

theorem hbmWrite_eq (s : State) (slot pa : Nat) {bs : List Byte} (h : bs ≠ []) :
    s.hbmWrite slot pa bs =
      ({ readied s slot pa bs.length with mem := writeMem (readied s slot pa bs.length).mem pa bs } : State).mendWords pa bs.length := by
  cases bs with
  | nil => exact absurd rfl h
  | cons b bs => simp only [State.hbmWrite, readied, settleBlocks, writeKeys]

theorem readsAlike_mendWords (s : State) (slot pa n : Nat) : ReadsAlike slot s (s.mendWords pa n) := by
  unfold State.mendWords
  split
  · exact .refl slot s
  · exact readsAlike_fleet slot s rfl

/-- Storing bytes in blocks that are settled for a party. -/
theorem hbmByte_writeMem {s : State} {slot pa : Nat} {bs : List Byte}
    (h : ∀ n, pa / 16 ≤ n → n ≤ (pa + bs.length - 1) / 16 → Settled s slot n) (hbs : bs ≠ []) (a : Nat) :
    ({ s with mem := writeMem s.mem pa bs } : State).hbmByte slot a =
      if pa ≤ a ∧ a < pa + bs.length then bs.getD (a - pa) 0 else s.hbmByte slot a := by
  have hlen : bs.length ≠ 0 := fun h => hbs (List.length_eq_zero_iff.mp h)
  by_cases ha : pa / 16 ≤ a / 16 ∧ a / 16 ≤ (pa + bs.length - 1) / 16
  · have hs := h _ ha.1 ha.2
    have ht : Settled { s with mem := writeMem s.mem pa bs } slot (a / 16) := hs
    rw [hbmByte_settled ht, hbmByte_settled hs]
    exact writeMem_get bs s.mem pa a
  · rw [if_neg (by omega)]
    have hrest : SameRest s { s with mem := writeMem s.mem pa bs } := .of_storage rfl rfl rfl
    refine hbmByte_congr hrest rfl (blockAt_congr rfl fun b hb => ?_)
    exact (writeMem_get bs s.mem pa b).trans (if_neg (by omega))

/-- What a party reads after a write under its key slot: the bytes written, and every other byte as before (R73, R442). -/
theorem hbmByte_hbmWrite (s : State) (slot pa : Nat) (bs : List Byte) (a : Nat) :
    (s.hbmWrite slot pa bs).hbmByte slot a = if pa ≤ a ∧ a < pa + bs.length then bs.getD (a - pa) 0 else s.hbmByte slot a := by
  by_cases hbs : bs = []
  · subst hbs
    rw [if_neg (by simp)]
    rfl
  · have hlen : bs.length ≠ 0 := fun h => hbs (List.length_eq_zero_iff.mp h)
    obtain ⟨hpass, -, hset⟩ := readsAlike_settleBlocks (s := s.useLines slot pa bs.length true) (slot := slot) (first := pa / 16)
      ((pa + bs.length - 1) / 16 - pa / 16 + 1) (fun i hi => useLines_tagged s slot pa bs.length true (by omega) (by omega) hlen)
    have halike : ReadsAlike slot s (readied s slot pa bs.length) := (readsAlike_useLines s slot pa bs.length true).trans hpass
    have hsettled (n : Nat) (h0 : pa / 16 ≤ n) (h1 : n ≤ (pa + bs.length - 1) / 16) : Settled (readied s slot pa bs.length) slot n := by
      obtain ⟨i, rfl⟩ := Nat.exists_eq_add_of_le h0
      exact hset i (by omega)
    rw [hbmWrite_eq s slot pa hbs, (readsAlike_mendWords _ slot _ _).bytes, hbmByte_writeMem hsettled hbs, halike.bytes]

end Sys2Proof.Proofs
end

section
/-!
SUPPORT. Views, translations and stores in states that a party reads alike (R85 to R87, R301, R399 to R404).
-/
namespace Sys2Proof.Proofs

open Machine Laws

/-! ## Views (R85 to R87) -/

namespace SameRest

variable {s t : State}

theorem window (h : SameRest s t) {n : Nat} (hn : n < 16) : t.window n = s.window n := by
  have hreg (k : Nat) (hk : k < 32) : t.barReg 1 (n * 0x20 + k) = s.barReg 1 (n * 0x20 + k) := h.regs 1 _ (by decide) (by omega)
  simp only [State.window, hreg 0x18 (by decide), hreg 8 (by decide), hreg 16 (by decide), show t.barReg 1 (n * 0x20) = _ from hreg 0 (by decide),
    Nat.add_zero]

theorem windowAt (h : SameRest s t) (pa : Nat) : t.windowAt pa = s.windowAt pa := by
  unfold State.windowAt
  have hl : ∀ n ∈ List.range 16, t.window n = s.window n := fun n hn => h.window (List.mem_range.mp hn)
  generalize List.range 16 = l at hl
  induction l with
  | nil => rfl
  | cons n l ih => simp only [List.findSome?_cons, hl n (by simp), ih (fun m hm => hl m (by simp [hm]))]

end SameRest

theorem viewBytes_congr {s t : State} {key : Nat} (h : ∀ a, t.hbmByte key a = s.hbmByte key a) (w : Window) (b : Nat) :
    t.viewBytes key w b = s.viewBytes key w b := by
  simp only [State.viewBytes, State.viewBlock, State.hbmValue, h]

theorem hbmWrite_bytes_congr {s t : State} {key : Nat} (h : ∀ a, t.hbmByte key a = s.hbmByte key a) (pa : Nat) (bs : List Byte) (a : Nat) :
    (t.hbmWrite key pa bs).hbmByte key a = (s.hbmWrite key pa bs).hbmByte key a := by
  rw [hbmByte_hbmWrite, hbmByte_hbmWrite, h]

theorem viewStoreBlock_bytes_congr {s t : State} {key : Nat} (h : ∀ a, t.hbmByte key a = s.hbmByte key a) (w : Window) (b : Nat)
    (bytes : List Byte) (a : Nat) : (t.viewStoreBlock key w b bytes).hbmByte key a = (s.viewStoreBlock key w b bytes).hbmByte key a := by
  unfold State.viewStoreBlock
  dsimp only
  split
  · exact hbmWrite_bytes_congr (hbmWrite_bytes_congr h _ _) _ _ a
  · exact hbmWrite_bytes_congr h _ _ a

/-- A write into a view stores the same bytes in states whose bytes its writer reads alike (R87). -/
theorem viewWrite_bytes_congr {s t : State} {key : Nat} (h : ∀ a, t.hbmByte key a = s.hbmByte key a) (w : Window) (pa : Nat)
    (bs : List Byte) (a : Nat) : (t.viewWrite key w pa bs).hbmByte key a = (s.viewWrite key w pa bs).hbmByte key a := by
  unfold State.viewWrite
  refine List.foldl_rel (r := fun (u x : State) => ∀ b, u.hbmByte key b = x.hbmByte key b) h (fun k _ u x hux => ?_) a
  dsimp only
  rw [viewBytes_congr hux]
  exact viewStoreBlock_bytes_congr hux _ _ _

theorem readsAlike_reads (s : State) (v : EccVictim) (slot pa n : Nat) : ReadsAlike slot s (s.reads v slot pa n) := by
  unfold State.reads
  split
  · exact .refl slot s
  · split
    · exact readsAlike_readsHbm s v slot pa n
    · split
      · dsimp only
        split
        · exact (readsAlike_readsHbm _ _ _ _ _).trans (readsAlike_readsHbm _ _ _ _ _)
        · exact readsAlike_readsHbm _ _ _ _ _
      · exact .refl slot s
    · exact .refl slot s

/-! ## Translation (R402 to R404) -/

theorem paKind_link_lt {pa w : Nat} (h : paKind pa = .link w) : w < 2 ^ 10 := by
  unfold paKind at h
  split at h
  · split at h <;> cases h
  · cases h; exact Nat.mod_lt _ (by decide)
  · cases h
  · cases h
  · cases h

namespace ReadsAlike

variable {slot : Nat} {s t : State}

theorem physRead (h : ReadsAlike slot s t) (pa n : Nat) : t.physRead slot pa n = s.physRead slot pa n := by
  simp only [State.physRead, State.viewRead, h.windowAt, h.free, h.bytes, viewBytes_congr h.bytes]

theorem physValue (h : ReadsAlike slot s t) (pa n : Nat) : t.physValue slot pa n = s.physValue slot pa n := by
  simp only [State.physValue, h.physRead]

theorem walkTables (h : ReadsAlike slot s t) (va : Nat) (l : List (Nat × Nat × Nat)) :
    ∀ base, t.walkTables slot va l base = s.walkTables slot va l base := by
  induction l with
  | nil => intro base; rfl
  | cons x l ih =>
    intro base
    obtain ⟨sh, w, al⟩ := x
    simp only [State.walkTables, h.physValue, ih]

theorem walkPage (h : ReadsAlike slot s t) (root va : Nat) : t.walkPage slot root va = s.walkPage slot root va := by
  simp only [State.walkPage, h.walkTables, h.physValue]

end ReadsAlike

namespace SameRest

variable {s t : State}

theorem tlbHit (h : SameRest s t) (p : Party) (a : Acc4) (va : Nat) : t.tlbHit p a va = s.tlbHit p a va := by
  simp only [State.tlbHit, h.tlbs, h.free]

theorem pageAllows (h : SameRest s t) (a : Acc4) (x : PageHit) : t.pageAllows a x = s.pageAllows a x := by
  unfold State.pageAllows
  cases hk : paKind x.base with
  | link w =>
    have hw := paKind_link_lt hk
    simp only [h.regs 3 (0x1000 + w * 8) (by decide) (by omega)]
  | hbm => rfl
  | none => rfl
  | host => rfl
  | view => rfl

end SameRest

section

variable {s t : State} {p : Party} (h : ReadsAlike (s.regionKey p.region) s t)
include h

theorem flatPage_congr (a : Acc4) (va : Nat) : t.flatPage p a va = s.flatPage p a va := by
  simp only [State.flatPage, h.tlbHit, h.pageAllows, h.regionKey, h.region, h.walkPage]

/-- A party translates alike in states that it reads alike. -/
theorem flat_congr (a : Acc4) (va : Nat) : t.flat p a va = s.flat p a va := by
  simp only [State.flat, flatPage_congr h, h.windowAt]

end

/-! ## Translation buffers and cores (R399, R401) -/

/-- The dies' records are no part of the bytes of HBM. -/
theorem hbmByte_dies (s : State) (dies : Table Die) (slot a : Nat) : ({ s with dies := dies } : State).hbmByte slot a = s.hbmByte slot a := by
  rw [hbmByte_eq, hbmByte_eq]
  rfl

theorem hbmByte_setDie (s : State) (d : Nat) (x : Die) (slot a : Nat) : (s.setDie d x).hbmByte slot a = s.hbmByte slot a :=
  hbmByte_dies s _ slot a

/-- A die's record but its translation buffer is no part of what a party reads. -/
theorem readsAlike_setDie (slot : Nat) (s : State) {d : Nat} {x : Die} (hx : x.tlb = (s.die d).tlb) : ReadsAlike slot s (s.setDie d x) := by
  have hrest : SameRest s (s.setDie d x) := by
    refine ⟨fun _ _ _ _ => rfl, fun k => ?_, rfl⟩
    by_cases hk : k = d
    · rw [hk, die_setDie, hx]
    · simp only [State.die, State.setDie, tableGet_insert_ne _ _ _ hk]
  exact ⟨hrest, fun a => hbmByte_setDie s d x slot a⟩

theorem readsAlike_putCore (slot : Nat) (s : State) (core : Nat) (r : WalkRegs) : ReadsAlike slot s (s.putCore core r) :=
  readsAlike_setDie slot s rfl

theorem readsAlike_missAt (slot : Nat) (s : State) (v : EccVictim) (p : Party) (a : Acc4) (va : Nat) :
    ReadsAlike slot s (s.missAt v p a va) := by
  unfold State.missAt
  split
  · exact readsAlike_putCore slot s _ _
  · exact .refl slot s

theorem readsAlike_pbStore (slot : Nat) (s : State) (d pa : Nat) (bs : List Byte) : ReadsAlike slot s (s.pbStore d pa bs) := by
  unfold State.pbStore
  dsimp only
  split
  · exact .refl slot s
  · exact readsAlike_setDie slot s rfl

theorem readsAlike_readsWalk (s : State) (v : EccVictim) (p : Party) (a : Acc4) (va : Nat) :
    ReadsAlike (s.regionKey p.region) s (s.readsWalk v p a va) := by
  unfold State.readsWalk
  split
  · exact .refl _ s
  · exact .foldl (fun u e => readsAlike_reads u v _ e 8) _ s

/-- Change one die alike in two states. -/
theorem setDie_congr {slot : Nat} {s t : State} (h : ReadsAlike slot s t) {d : Nat} {x y : Die} (hxy : y.tlb = x.tlb) :
    ReadsAlike slot (s.setDie d x) (t.setDie d y) := by
  have hrest : SameRest (s.setDie d x) (t.setDie d y) := by
    refine ⟨h.regs, fun k => ?_, h.rest⟩
    by_cases hk : k = d
    · rw [hk, die_setDie, die_setDie, hxy]
    · have := h.tlbs k
      simp only [State.die, State.setDie, tableGet_insert_ne _ _ _ hk] at this ⊢
      exact this
  exact ⟨hrest, fun a => by rw [hbmByte_setDie, hbmByte_setDie, h.bytes]⟩

theorem keepPage_congr {s t : State} {p : Party} (h : ReadsAlike (s.regionKey p.region) s t) (a : Acc4) (va : Nat) :
    ReadsAlike (s.regionKey p.region) (s.keepPage p a va) (t.keepPage p a va) := by
  unfold State.keepPage
  rw [flatPage_congr h]
  split
  · exact h
  · simp only [h.tlbs]
    split
    · exact h
    · exact setDie_congr h rfl

/-- A miss leaves the same page in the translation buffer in states that its party reads alike. -/
theorem cachePage_congr {s t : State} {p : Party} (h : ReadsAlike (s.regionKey p.region) s t) (a : Acc4) (va : Nat) :
    ReadsAlike (s.regionKey p.region) (s.cachePage p a va) (t.cachePage p a va) := by
  unfold State.cachePage
  rw [h.tlbHit, flatPage_congr h]
  split
  · exact keepPage_congr ((readsAlike_putCore _ s _ _).symm.trans (h.trans (readsAlike_putCore _ t _ _))) a va
  · exact h

theorem putCore_eq (s : State) (core : Nat) (r : WalkRegs) : ∃ dies, s.putCore core r = { s with dies := dies } := ⟨_, rfl⟩

theorem keepPage_eq (s : State) (p : Party) (a : Acc4) (va : Nat) : ∃ dies, s.keepPage p a va = { s with dies := dies } := by
  unfold State.keepPage
  split
  · exact ⟨s.dies, rfl⟩
  · dsimp only
    split
    · exact ⟨s.dies, rfl⟩
    · exact ⟨_, rfl⟩

/-- A miss changes the dies only. -/
theorem cachePage_eq (s : State) (p : Party) (a : Acc4) (va : Nat) : ∃ dies, s.cachePage p a va = { s with dies := dies } := by
  unfold State.cachePage
  split
  · next x _ _ =>
    obtain ⟨d, hd⟩ := putCore_eq s (missCore p.die) (walkResult (BitVec.ofNat 64 va) 0 (BitVec.ofNat 64 p.region) (.ok (x.base, x.perm)))
    obtain ⟨e, he⟩ := keepPage_eq { s with dies := d } p a va
    exact ⟨e, by rw [hd, he]⟩
  · exact ⟨s.dies, rfl⟩

/-- An access leaves, besides its data, what the cached page leaves, and nothing else that its party reads (R70, R401). -/
theorem readsAlike_touch (s : State) (v : EccVictim) (p : Party) (a : Acc4) (va n : Nat) :
    ReadsAlike (s.regionKey p.region) (s.cachePage p a va) (s.touch v p a va n) := by
  have hwalk := (readsAlike_readsWalk s v p a va).trans (readsAlike_missAt _ _ v p a va)
  have hpage := cachePage_congr hwalk a va
  unfold State.touch
  dsimp only
  split
  · split
    · exact hpage
    · exact hpage.trans (readsAlike_reads _ _ _ _ _)
  · exact hpage

end Sys2Proof.Proofs
end

section
/-!
PROOF. What a scalar store changes (R3, R72, R74, R85, R87, R301, R302, R443).
-/
namespace Sys2Proof.Proofs

open Machine Laws

/-! ## Stores at a physical address (R73) -/

theorem leBytes_getD (n x : Nat) : ∀ k, k < n → (leBytes n x).getD k 0 = BitVec.ofNat 8 (x / 2 ^ (8 * k)) := by
  induction n generalizing x with
  | zero => intro k hk; omega
  | succ n ih =>
    intro k hk
    cases k with
    | zero => simp [leBytes]
    | succ k =>
      have hx : x / 256 / 2 ^ (8 * k) = x / 2 ^ (8 * (k + 1)) := by
        rw [Nat.div_div_eq_div_mul, show 8 * (k + 1) = 8 + 8 * k by omega, Nat.pow_add]
      rw [leBytes, List.getD_cons_succ, ih _ k (by omega), hx]

/-- What goes out is no part of HBM. -/
theorem hbmByte_outbox (s : State) (o : List Outgoing) (slot a : Nat) : ({ s with outbox := o } : State).hbmByte slot a = s.hbmByte slot a := by
  rw [hbmByte_eq, hbmByte_eq]
  rfl

theorem hbmByte_count (s : State) (die : Option Nat) (i n slot a : Nat) : (s.count die i n).hbmByte slot a = s.hbmByte slot a :=
  hbmByte_congr (sameRest_count s die i n) (by rw [pantry_count]) (blockAt_count s die i n _)

theorem physWrite_hbm {pa : Nat} (h : paKind pa = .hbm) (s : State) (key : Nat) (bs : List Byte) :
    s.physWrite key pa bs = s.hbmWrite key pa bs := by
  simp only [State.physWrite, h]

theorem physWrite_view {s : State} {pa : Nat} {w : Window} (h : paKind pa = .view) (hw : s.windowAt pa = some w) (key : Nat)
    (bs : List Byte) : s.physWrite key pa bs = s.viewWrite key w pa bs := by
  simp only [State.physWrite, h, hw]

/-- A write to an address that is nobody's, or to a view without a window, is none. -/
theorem physWrite_nowhere {s : State} {pa : Nat} (h : paKind pa = .none ∨ (paKind pa = .view ∧ s.windowAt pa = none)) (key : Nat)
    (bs : List Byte) : s.physWrite key pa bs = s := by
  rcases h with h | ⟨h, hw⟩
  · simp only [State.physWrite, h]
  · simp only [State.physWrite, h, hw]

/-- A write to the host or through a link window goes out. -/
theorem physWrite_out {pa : Nat} (h : paKind pa = .host ∨ ∃ w, paKind pa = .link w) (s : State) (key : Nat) (bs : List Byte) :
    (s.physWrite key pa bs).outbox = s.outbox ++ [.write pa bs] ∧ ∀ slot a, (s.physWrite key pa bs).hbmByte slot a = s.hbmByte slot a := by
  rcases h with h | ⟨w, h⟩
  · simp only [State.physWrite, h]
    exact ⟨trivial, fun slot a => hbmByte_outbox s _ slot a⟩
  · simp only [State.physWrite, h]
    exact ⟨(sameRest_count _ _ _ _).outbox, fun slot a => (hbmByte_count _ _ _ _ slot a).trans (hbmByte_outbox s _ slot a)⟩

/-- A write of HBM or of a view sends nothing out. -/
theorem physWrite_stays {pa : Nat} (h : paKind pa = .hbm ∨ paKind pa = .view) (s : State) (key : Nat) (bs : List Byte) :
    (s.physWrite key pa bs).outbox = s.outbox := by
  rcases h with h | h
  · rw [physWrite_hbm h]
    exact (sameRest_hbmWrite s key pa bs).outbox
  · cases hw : s.windowAt pa with
    | none => rw [physWrite_nowhere (.inr ⟨h, hw⟩)]
    | some w =>
      rw [physWrite_view h hw]
      exact (sameRest_viewWrite s key w pa bs).outbox

/-- A write has the same effect in states whose bytes its writer reads alike. -/
theorem physWrite_congr {s t : State} {key pa : Nat} (hb : ∀ a, t.hbmByte key a = s.hbmByte key a) (hw : t.windowAt pa = s.windowAt pa)
    (ho : t.outbox = s.outbox) (bs : List Byte) :
    (t.physWrite key pa bs).outbox = (s.physWrite key pa bs).outbox ∧
      ∀ a, (t.physWrite key pa bs).hbmByte key a = (s.physWrite key pa bs).hbmByte key a := by
  have out (h : paKind pa = .host ∨ ∃ w, paKind pa = .link w) : (t.physWrite key pa bs).outbox = (s.physWrite key pa bs).outbox ∧
      ∀ a, (t.physWrite key pa bs).hbmByte key a = (s.physWrite key pa bs).hbmByte key a := by
    obtain ⟨h1, h2⟩ := physWrite_out h t key bs
    obtain ⟨k1, k2⟩ := physWrite_out h s key bs
    exact ⟨by rw [h1, k1, ho], fun a => by rw [h2, k2, hb]⟩
  cases hk : paKind pa with
  | hbm =>
    rw [physWrite_stays (.inl hk), physWrite_stays (.inl hk), physWrite_hbm hk, physWrite_hbm hk]
    exact ⟨ho, hbmWrite_bytes_congr hb pa bs⟩
  | none =>
    rw [physWrite_nowhere (.inl hk), physWrite_nowhere (.inl hk)]
    exact ⟨ho, hb⟩
  | link w => exact out (.inr ⟨w, hk⟩)
  | host => exact out (.inl hk)
  | view =>
    refine ⟨by rw [physWrite_stays (.inr hk), physWrite_stays (.inr hk), ho], ?_⟩
    cases hx : s.windowAt pa with
    | none =>
      rw [physWrite_nowhere (.inr ⟨hk, hx⟩), physWrite_nowhere (.inr ⟨hk, hw.trans hx⟩)]
      exact hb
    | some w =>
      rw [physWrite_view hk hx, physWrite_view hk (hw.trans hx)]
      exact viewWrite_bytes_congr hb w pa bs

/-! ## Stores at a flat address (R301) -/

theorem flatStore_ok {s : State} {p : Party} {va pa : Nat} (h : s.flat p .write va = .ok pa) (bs : List Byte) :
    s.flatStore p va bs = (s.physWrite (s.regionKey p.region) pa bs).pbStore p.die pa bs := by
  simp only [State.flatStore, h]

/-- A store at a flat address changes storage, counters, what goes out, and the parameter blocks that its die has cached. -/
theorem sameRest_flatStore (s : State) (p : Party) (va : Nat) (bs : List Byte) :
    SameRest { s with outbox := (s.flatStore p va bs).outbox } (s.flatStore p va bs) := by
  cases h : s.flat p .write va with
  | error r =>
    have hs : s.flatStore p va bs = s := by simp only [State.flatStore, h]
    rw [hs]
    exact .refl s
  | ok pa =>
    rw [flatStore_ok h]
    have hpb := (readsAlike_pbStore 0 (s.physWrite (s.regionKey p.region) pa bs) p.die pa bs).toSameRest
    rw [hpb.outbox]
    exact (sameRest_physWrite s (s.regionKey p.region) pa bs).trans hpb

theorem SameRest.withOutbox {s t : State} (h : SameRest s t) (o : List Outgoing) : SameRest { s with outbox := o } { t with outbox := o } :=
  ⟨h.regs, h.tlbs, congrArg (fun x : State => { x with outbox := o }) h.rest⟩

/-- The state in which a scalar store stores its bytes: its address has been translated, with what a miss leaves (R399, R401). -/
def beforeStore (s : State) (sz : Nat) (va : Dword) : State := s.touch (.context s.focus) s.party .write va.toNat (2 ^ sz)

theorem storeS_eq (s : State) (sz : Nat) (va v : Dword) :
    s.storeS sz va v = (beforeStore s sz va).flatStore s.party va.toNat (leBytes (2 ^ sz) v.toNat) := rfl

/-- The translation of a store's address changes the dies, and nothing else that its region reads. -/
theorem readsAlike_beforeStore (s : State) (sz : Nat) (va : Dword) :
    ∃ dies, s.cachePage s.party .write va.toNat = { s with dies := dies } ∧
      ReadsAlike (s.regionKey s.party.region) { s with dies := dies } (beforeStore s sz va) := by
  obtain ⟨dies, hc⟩ := cachePage_eq s s.party .write va.toNat
  have htouch : ReadsAlike _ _ (beforeStore s sz va) := readsAlike_touch s (.context s.focus) s.party .write va.toNat (2 ^ sz)
  rw [hc] at htouch
  exact ⟨dies, hc, htouch⟩

/-- What a scalar store leaves but for the dies, storage, counters and what goes out. -/
theorem sameRest_storeS (s : State) (sz : Nat) (va v : Dword) :
    ∃ dies, SameRest { s with dies := dies, outbox := (s.storeS sz va v).outbox } (s.storeS sz va v) := by
  obtain ⟨dies, -, hbefore⟩ := readsAlike_beforeStore s sz va
  exact ⟨dies, (hbefore.toSameRest.withOutbox _).trans (sameRest_flatStore (beforeStore s sz va) _ _ _)⟩

/-- A scalar store whose address translates has the effect of a write at its physical address, under the key of its region. -/
theorem storeS_eq_physWrite {s : State} {va : Dword} {pa : Nat}
    (h : (s.cachePage s.party .write va.toNat).flat s.party .write va.toNat = .ok pa) (sz : Nat) (v : Dword) :
    (s.storeS sz va v).outbox = (s.physWrite (s.regionKey s.party.region) pa (leBytes (2 ^ sz) v.toNat)).outbox ∧
      ∀ a, (s.storeS sz va v).hbmByte (s.regionKey s.party.region) a =
        (s.physWrite (s.regionKey s.party.region) pa (leBytes (2 ^ sz) v.toNat)).hbmByte (s.regionKey s.party.region) a := by
  obtain ⟨dies, hc, hbefore⟩ := readsAlike_beforeStore s sz va
  have hflat : (beforeStore s sz va).flat s.party .write va.toNat = .ok pa := by
    rw [hc] at h
    exact (flat_congr hbefore .write va.toNat).trans h
  have hkey : (beforeStore s sz va).regionKey s.party.region = s.regionKey s.party.region := hbefore.regionKey _
  obtain ⟨hout, hbytes⟩ := physWrite_congr (pa := pa) (fun a => (hbefore.bytes a).trans (hbmByte_dies s dies _ a)) (hbefore.windowAt pa)
    hbefore.outbox (leBytes (2 ^ sz) v.toNat)
  rw [storeS_eq, flatStore_ok hflat, hkey]
  have hpb := readsAlike_pbStore (s.regionKey s.party.region)
    ((beforeStore s sz va).physWrite (s.regionKey s.party.region) pa (leBytes (2 ^ sz) v.toNat)) s.party.die pa (leBytes (2 ^ sz) v.toNat)
  exact ⟨hpb.outbox.trans hout, fun a => (hpb.bytes a).trans (hbytes a)⟩

/-- The bytes of a store to HBM, and every other byte (R3, R301). -/
theorem hbmByte_physWrite_leBytes {s : State} {key pa : Nat} (hk : paKind pa = .hbm) (n x : Nat) :
    (∀ k, k < n → (s.physWrite key pa (leBytes n x)).hbmByte key (pa + k) = BitVec.ofNat 8 (x / 2 ^ (8 * k))) ∧
      ∀ a, a < pa ∨ pa + n ≤ a → (s.physWrite key pa (leBytes n x)).hbmByte key a = s.hbmByte key a := by
  have hlen : (leBytes n x).length = n := RoundTrip.leBytes_length n x
  refine ⟨fun k hn => ?_, fun a ha => ?_⟩
  · rw [physWrite_hbm hk, hbmByte_hbmWrite, hlen, if_pos (by omega), Nat.add_sub_cancel_left, leBytes_getD n x k hn]
  · rw [physWrite_hbm hk, hbmByte_hbmWrite, hlen, if_neg (by omega)]

/-! ## Issuing a scalar store -/

/-- A sequencer-side M word that leaves a next state holds, traps, does nothing, or has its effect. -/
theorem runSeqM_cases {i : Instr} {g : Gate} {uses : List Dest} {check : State → Verdict} {eff : State → State} {s t : State}
    (h : runSeqM i g uses check eff s = .next t) : Held s t ∨ Trapped s t ∨ t = s ∨ t = eff s := by
  have acted : ∀ b : Bool, (Host.Outcome.next (if b then eff s else s) : Answer) = .next t → t = s ∨ t = eff s := by
    intro b hb
    cases b
    · exact .inl (Host.Outcome.next.inj hb).symm
    · exact .inr (Host.Outcome.next.inj hb).symm
  unfold runSeqM runWord at h
  split at h
  · cases h
  · split at h
    · exact .inr (.inr (acted _ h))
    · split at h
      · exact .inr (.inl ⟨_, _, (Host.Outcome.next.inj h).symm⟩)
      · split at h
        · exact .inr (.inr (acted _ h))
        · exact .inl ⟨_, _, (Host.Outcome.next.inj h).symm⟩
        · exact .inr (.inl ⟨_, _, (Host.Outcome.next.inj h).symm⟩)

/-- Each scalar store, where it has an effect, is State.storeS at its address. -/
theorem scalarStore_cases {s t : State} {i : Instr} {g : Gate} {sz : BitVec 2} {va : Dword} {sV : BitVec 5}
    (hi : (∃ sA, i = .sts g sz sA sV ∧ va = s.rS sA) ∨ (∃ sA lit, i = .stsLiteral g sz sA sV lit ∧ va = s.rS sA + lit) ∨
      (∃ f l, (i = .stl g f l ∨ i = .stx g f l) ∧ f.vec = false ∧ f.sz = sz ∧ sV = BitVec.ofNat 5 f.r.toNat ∧ va = s.baseDisp f.sA f.disp l))
    (h : exec i s = .next t) : Held s t ∨ Trapped s t ∨ t = s ∨ t = s.storeS sz.toNat va (s.rS sV) := by
  rcases hi with ⟨sA, rfl, rfl⟩ | ⟨sA, lit, rfl, rfl⟩ | ⟨f, l, hfl, hvec, rfl, rfl, rfl⟩
  · change execSts g sz sA sV s = .next t at h
    exact runSeqM_cases h
  · change execStsLiteral g sz sA sV lit s = .next t at h
    exact runSeqM_cases h
  · rcases hfl with rfl | rfl
    · change execStl g f l s = .next t at h
      simp only [execStl, hvec, Bool.false_eq_true, if_false] at h
      exact runSeqM_cases h
    · change execStx g f l s = .next t at h
      simp only [execStx, hvec, Bool.false_eq_true, if_false] at h
      exact runSeqM_cases h

/-- Settles O53: a scalar store that has its effect is a write at its physical address in a state that its region reads alike. -/
theorem scalarStoresFrame : Obligations.ScalarStoresFrame := by
  unfold Obligations.ScalarStoresFrame
  intro s t i g sz va sV hi hexec
  rcases scalarStore_cases hi hexec with hheld | htrap | hsame | rfl
  · exact .inl hheld
  · exact .inr (.inl htrap)
  · exact .inr (.inr (.inl hsame))
  refine .inr (.inr (.inr ?_))
  obtain ⟨dies, hrest⟩ := sameRest_storeS s sz.toNat va (s.rS sV)
  refine ⟨hrest.regs, hrest.ctxs, hrest.engines, hrest.ops, hrest.groups, hrest.regions, fun pa hpa => ?_⟩
  obtain ⟨hout, hbytes⟩ := storeS_eq_physWrite hpa sz.toNat (s.rS sV)
  simp only [hout, hbytes]
  refine ⟨fun hk => ?_, fun hk => ?_, fun hk => ?_, fun w hk hw => ?_⟩
  · exact ⟨physWrite_stays (.inl hk) s _ _, hbmByte_physWrite_leBytes hk _ _⟩
  · obtain ⟨hwrite, hkeep⟩ := physWrite_out hk s (s.regionKey s.party.region) (leBytes (2 ^ sz.toNat) (s.rS sV).toNat)
    exact ⟨hwrite, hkeep _⟩
  · rw [physWrite_nowhere hk]
    exact ⟨rfl, fun _ => rfl⟩
  · refine ⟨physWrite_stays (.inr hk) s _ _, fun a => ?_⟩
    rw [physWrite_view hk hw]

end Sys2Proof.Proofs
end

section
/-!
PROOF. Host writes of registers and the reset of the package (R5, R6, R86, R375 to R378, R411, R417, R431, R437, R439).
-/
namespace Sys2Proof.Proofs

open Machine Laws

/-! ## Which register an access reaches (R375) -/

/-- An offset of a capability's block, or below the blocks in BAR0, that a 64-bit access may name. -/
abbrev Reaches (cap off : Nat) : Prop := cap < 8 ∧ off < 2 ^ 26 ∧ off % 8 = 0 ∧ (cap = 0 → off < 0x1000)

theorem hostWrite_whole (s : State) (cap : Nat) {off : Nat} (h : off % 8 = 0) (v : Dword) :
    s.hostWrite cap off (.whole v) = s.touchBar.writeReg cap off v := by
  simp only [State.hostWrite, h, if_true]

/-- A 64-bit write acts on the register that it names. -/
theorem registerWrite_whole {cap off : Nat} (h : Reaches cap off) (s : State) (v : Dword) :
    exec (.registerWrite (BitVec.ofNat 16 cap) (BitVec.ofNat 26 off) (.whole v)) s = s.touchBar.writeReg cap off v := by
  obtain ⟨hcap, hoff, h8, hglobal⟩ := h
  have ho : (BitVec.ofNat 26 off).toNat = off := Nat.mod_eq_of_lt hoff
  change execRegisterWrite _ _ _ s = _
  by_cases hc : cap = 0
  · subst hc
    rw [execRegisterWrite, if_pos (show (0#16) = 0 from rfl)]
    simp only [ho, barBlock, hglobal rfl, if_true, hostWrite_whole s 0 h8]
  · have hn : (BitVec.ofNat 16 cap).toNat = cap := Nat.mod_eq_of_lt (by omega)
    have hz : BitVec.ofNat 16 cap ≠ 0 := fun h => hc (by rw [← hn, h]; rfl)
    simp only [execRegisterWrite, hz, if_false, ho, hn, hostWrite_whole s cap h8]

/-- What a 64-bit write leaves is what the register's write leaves in the package that the access has woken. -/
theorem registerWrite_next {cap off : Nat} (h : Reaches cap off) {s t : State} {v : Dword} (hw : s.touchBar.writeReg cap off v = .next t) :
    exec (.registerWrite (BitVec.ofNat 16 cap) (BitVec.ofNat 26 off) (.whole v)) s = .next t :=
  (registerWrite_whole h s v).trans hw

/-- A host access changes no register of itself. -/
theorem barReg_touchBar (s : State) (cap off : Nat) : s.touchBar.barReg cap off = s.barReg cap off := rfl

theorem window_touchBar (s : State) (n : Nat) : s.touchBar.window n = s.window n := rfl

/-! ## Format windows, expert pools, the cellar (R86, R411, R417) -/

/-- The settings of an open window stay. -/
theorem writeWindow_open {s : State} {n c : Nat} (hn : n < 16) (hc : c < 0x18) (h : (s.window n).isSome = true) (v : Dword) :
    s.writeWindow (n * 0x20 + c) v = .next s := by
  have hdiv : (n * 0x20 + c) / 0x20 = n := by omega
  have hmod : (n * 0x20 + c) % 0x20 = c := by omega
  simp only [State.writeWindow, hdiv, hmod, h, if_neg (Nat.not_le.mpr hn), if_neg (show ¬c = 0x18 by omega), if_true]

/-- A closed window takes its settings. -/
theorem writeWindow_closed {s : State} {n : Nat} (hn : n < 16) (h : s.window n = none) (v : Dword) :
    s.writeWindow (n * 0x20) v = .next (s.storeBits 1 (n * 0x20) 16 36 v) ∧
    s.writeWindow (n * 0x20 + 8) v = .next (s.setBar 1 (n * 0x20 + 8) v) ∧
    s.writeWindow (n * 0x20 + 0x10) v = .next (s.storeBits 1 (n * 0x20 + 0x10) 6 46 v) := by
  have hdiv {c : Nat} (hc : c < 0x20) : (n * 0x20 + c) / 0x20 = n := by omega
  have hmod {c : Nat} (hc : c < 0x20) : (n * 0x20 + c) % 0x20 = c := by omega
  have hmod0 : n * 0x20 % 0x20 = 0 := hmod (c := 0) (by decide)
  have hdiv0 : n * 0x20 / 0x20 = n := hdiv (c := 0) (by decide)
  simp [State.writeWindow, hdiv, hmod, h, hn, hdiv0]

/-- A pool's slab is set while the pool is off. -/
theorem writeTranslation_pool (s : State) {d : Nat} (hd : d < 4) (v : Dword) :
    s.writeTranslation (0x40 + d * 0x10) v =
      if (s.barReg 3 (0x48 + d * 0x10)).getLsbD 32 then .next s else .next (s.storeBits 3 (0x40 + d * 0x10) 16 36 v) := by
  have hon : 0x40 + d * 0x10 + 8 = 0x48 + d * 0x10 := by omega
  have hmod : (0x40 + d * 0x10) % 0x10 = 0 := by omega
  have hin : 0x40 ≤ 0x40 + d * 0x10 ∧ 0x40 + d * 0x10 < 0x80 := by omega
  simp only [State.writeTranslation, if_neg (show ¬0x40 + d * 0x10 = 0 by omega), if_pos hin, hmod, hon]
  cases (s.barReg 3 (0x48 + d * 0x10)).getLsbD 32 <;> rfl

/-- While the cellar is on, its settings stay. -/
theorem writeCellar_on {s : State} {off : Nat} (h : (s.barReg 4 0).getLsbD 0 = true) (h0 : off ≠ 0) (h80 : off ≠ 0x80) (v : Dword) :
    s.writeCellar off v = .next s := by
  simp only [State.writeCellar, if_neg h0, if_neg h80, h, if_true]

/-- While the cellar is off, it takes its settings, and a write of the tier ring's base starts the ring anew. -/
theorem writeCellar_off {s : State} (h : (s.barReg 4 0).getLsbD 0 = false) (v : Dword) :
    s.writeCellar 0x18 v = .next (s.storeBits 4 0x18 0 36 v) ∧ s.writeCellar 0x20 v = .next (s.storeBits 4 0x20 12 40 v) ∧
    (∀ k < 8, s.writeCellar (0x40 + k * 8) v = .next (s.storeBits 4 (0x40 + k * 8) 0 32 v)) ∧
    s.writeCellar 0x28 v = .next ((s.storeBits 4 0x28 12 40 v).onCellar (fun c => { c with next := 0 })) := by
  have hoff : (s.barReg 4 0)[0] = false := h
  refine ⟨?_, ?_, fun k hk => ?_, ?_⟩
  · simp [State.writeCellar, hoff]
  · simp [State.writeCellar, hoff]
  · interval_cases k <;> simp [State.writeCellar, hoff]
  · simp [State.writeCellar, hoff]

/-- What the cellar shows is read-only. -/
theorem writeCellar_readOnly (s : State) (v : Dword) : ∀ off ∈ ([0x08, 0x10, 0x88] : List Nat), s.writeCellar off v = .next s := by
  intro off hoff
  cases h : (s.barReg 4 0).getLsbD 0 with
  | true => exact writeCellar_on h (by rintro rfl; simp at hoff) (by rintro rfl; simp at hoff) v
  | false => fin_cases hoff <;> simp [State.writeCellar]

/-! ## 32-bit writes (R375) -/

theorem bits_eq (x lo w : Nat) : bits x lo w = x / 2 ^ lo % 2 ^ w := by rw [bits, Nat.shiftRight_eq_div_pow]

theorem putBits_low (x : Nat) {y : Nat} (hy : y < 2 ^ 32) : putBits x 0 32 y = x / 2 ^ 32 * 2 ^ 32 + y := by
  simp only [putBits, bits_eq]
  omega

theorem putBits_high {x y : Nat} (hx : x < 2 ^ 64) (hy : y < 2 ^ 32) : putBits x 32 32 y = x % 2 ^ 32 + y * 2 ^ 32 := by
  simp only [putBits, bits_eq]
  omega

/-- The card array's base reads as it is stored. -/
theorem barRead_cards (s : State) : s.barRead 0 0x48 = s.barReg 0 0x48 := rfl

/-- A 32-bit write stands for a 64-bit one that keeps the other half (log 43). -/
theorem halfValue_cards (s : State) (w : Word) :
    (s.halfValue 0 0x48 false w).toNat = (s.barReg 0 0x48).toNat / 2 ^ 32 * 2 ^ 32 + w.toNat ∧
    (s.halfValue 0 0x48 true w).toNat = (s.barReg 0 0x48).toNat % 2 ^ 32 + w.toNat * 2 ^ 32 := by
  have hw : w.toNat < 2 ^ 32 := w.isLt
  have hr : (s.barReg 0 0x48).toNat < 2 ^ 64 := (s.barReg 0 0x48).isLt
  have hlow : s.halfValue 0 0x48 false w = BitVec.ofNat 64 (putBits (s.barReg 0 0x48).toNat 0 32 w.toNat) := rfl
  have hhigh : s.halfValue 0 0x48 true w = BitVec.ofNat 64 (putBits (s.barReg 0 0x48).toNat 32 32 w.toNat) := rfl
  rw [hlow, hhigh, putBits_low _ hw, putBits_high hr hw, BitVec.toNat_ofNat, BitVec.toNat_ofNat]
  omega

/-- A 32-bit write of a half of the card array's base. -/
theorem registerWrite_cards_half (s : State) (w : Word) :
    exec (.registerWrite 0 0x48 (.half w)) s = .next (s.touchBar.storeBits 0 0x48 12 40 (s.halfValue 0 0x48 false w)) ∧
    exec (.registerWrite 0 0x4C (.half w)) s = .next (s.touchBar.storeBits 0 0x48 12 40 (s.halfValue 0 0x48 true w)) := ⟨rfl, rfl⟩

/-! ## The reset -/

/-- RSTCTL with its key (R376). -/
theorem rstctl_keyed (s : State) {v : Dword} (hk : bits v.toNat 16 16 = 0x5A5A) (h0 : v.getLsbD 0 = true) :
    exec (.rstctl v) s = .next s.packageReset :=
  congrArg Host.Outcome.next (if_pos ⟨hk, h0⟩)

/-- Settles O34, register by register: which register the access reaches, then what its write does. -/
theorem registerWriteSteps : Obligations.RegisterWriteSteps := by
  unfold Obligations.RegisterWriteSteps
  intro s v write put kept
  have windows {n c : Nat} (hn : n < 16) (hc : c < 0x20) (h8 : c % 8 = 0) : Reaches 1 (n * 0x20 + c) := ⟨by decide, by omega, by omega, nofun⟩
  have quotas {k : Nat} (hk : k < 8) : Reaches 4 (0x40 + k * 8) := ⟨by decide, by omega, by omega, nofun⟩
  have pools {d : Nat} (hd : d < 4) : Reaches 3 (0x40 + d * 0x10) := ⟨by decide, by omega, by omega, nofun⟩
  refine ⟨rstctl_keyed s, ?fields, ?wholes, ?closed, ?opened, ?pools, ?cellarOff, ?cellarOn, ?ltol, ?limit, ?ring, ?readOnly, ?cause,
    ?launch, ?globalReadOnly, ?window, ?debug, ?halves⟩
  case fields => intro x hx; fin_cases hx <;> exact registerWrite_next (by decide) rfl
  case wholes => intro x hx; fin_cases hx <;> exact registerWrite_next (by decide) rfl
  case closed =>
    intro n hn hw
    obtain ⟨hbase, hsize, hstored⟩ := writeWindow_closed (s := s.touchBar) hn hw v
    exact ⟨registerWrite_next (windows hn (c := 0) (by decide) rfl) hbase, registerWrite_next (windows hn (by decide) rfl) hsize,
      registerWrite_next (windows hn (by decide) rfl) hstored⟩
  case opened =>
    intro n hn c hc hw
    have hlt : c < 0x18 ∧ c % 8 = 0 := by revert c; decide
    exact registerWrite_next (windows hn (by omega) hlt.2) (writeWindow_open (s := s.touchBar) hn hlt.1 hw v)
  case pools =>
    intro d hd
    have hpool := writeTranslation_pool s.touchBar hd v
    rw [barReg_touchBar] at hpool
    exact ⟨fun h => registerWrite_next (pools hd) (by rw [h] at hpool; exact hpool),
      fun h => registerWrite_next (pools hd) (by rw [h] at hpool; exact hpool)⟩
  case cellarOff =>
    intro h
    obtain ⟨hslots, hcards, hquota, htrq⟩ := writeCellar_off (s := s.touchBar) h v
    exact ⟨registerWrite_next (by decide) hslots, registerWrite_next (by decide) hcards,
      fun k hk => registerWrite_next (quotas hk) (hquota k hk), registerWrite_next (by decide) htrq⟩
  case cellarOn =>
    intro h off hoff
    have hreach : Reaches 4 off ∧ off ≠ 0 ∧ off ≠ 0x80 := by revert off; decide
    exact registerWrite_next hreach.1 (writeCellar_on (s := s.touchBar) h hreach.2.1 hreach.2.2 v)
  case ltol => exact registerWrite_next (by decide) rfl
  case limit => exact registerWrite_next (by decide) rfl
  case ring => exact registerWrite_next (by decide) rfl
  case readOnly =>
    intro x hx
    have hcases : (x.1 = 4 ∧ x.2 ∈ ([0x08, 0x10, 0x88] : List Nat)) ∨
        x ∈ ([(2, 0x10), (2, 0x18), (5, 0x08), (5, 0x18), (6, 0x18), (6, 0x28), (7, 0x00), (7, 0x48), (7, 0x88)] : List (Nat × Nat)) := by
      revert x; decide
    rcases hcases with ⟨hcap, hoff⟩ | hother
    · have hreach : Reaches x.1 x.2 := by revert x; decide
      exact registerWrite_next hreach (by rw [hcap]; exact writeCellar_readOnly s.touchBar v x.2 hoff)
    · fin_cases hother <;> exact registerWrite_next (by decide) rfl
  case cause => exact registerWrite_next (cap := 0) (off := 0x70) (by decide) rfl
  case launch => exact registerWrite_whole (cap := 0) (off := 0x58) (by decide) s v
  case globalReadOnly => intro off hoff; fin_cases hoff <;> rfl
  case window => rfl
  case debug => rfl
  case halves =>
    intro w
    obtain ⟨hlow, hhigh⟩ := halfValue_cards s w
    obtain ⟨h48, h4C⟩ := registerWrite_cards_half s w
    rw [h48, h4C, State.storeBits, State.storeBits, hlow, hhigh]
    exact ⟨rfl, rfl⟩

end Sys2Proof.Proofs
end

section
/-!
PROOF. What is under way for a context comes to its end (R24, R25, R55, R83, R84, R88, R89, R177, R264, R265, R276, R290, R319, R320).
-/
namespace Sys2Proof.Proofs

open Machine Laws

/-! ## Rounds and operations (R55, R83, R84, R88, R290) -/

/-- A round that is due enters, with the records of the engines that still live. -/
theorem roundEntry_due {s : State} {cid : Nat} {r : Round} {l : List Round} (hr : (s.ctxAt cid).rounds = r :: l)
    (hd : s.roundDue cid = true) :
    s.roundEntry cid =
      let recs := r.recs.filter (fun x => x.isSeq || (s.ctxAt cid).live.getLsbD x.eid)
      let t := (s.setCtx cid { s.ctxAt cid with rounds := l }).markTold r
      if recs.isEmpty then t else { t.enterTrap cid (s.ctxAt cid).pc recs with issue := s.issue } := by
  simp only [State.roundEntry, hd, hr, Bool.not_true, Bool.false_eq_true, if_false]

/-- An operation that may go on runs up to where its parts stop, where that changes it. -/
theorem opStop_ready {s : State} {id : Nat} {o : Op} (ho : tableFind s.ops id = some o) (hready : s.opReady id o = true)
    (hstops : tableFind (s.runToStop id o).ops id ≠ some o) : s.opStop id = s.runToStop id o := by
  simp only [State.opStop, ho, hready, Bool.not_true, Bool.false_eq_true, if_false, if_neg hstops]

theorem parts_any_stopped_false {o : Op} (h : ∀ p ∈ o.parts, p.state ≠ .stopped) : o.parts.any (fun p => p.state == .stopped) = false := by
  simpa only [List.any_eq_false, beq_iff_eq] using h

/-- An operation that may go on, of which no part has stopped, ends once its parts have run to their end and none is open. -/
theorem opComplete_ready {s : State} {id : Nat} {o o2 : Op} (ho : tableFind s.ops id = some o) (hready : s.opReady id o = true)
    (hparts : ∀ p ∈ o.parts, p.state ≠ .stopped) (ho2 : tableFind (s.runToEnd id o).ops id = some o2)
    (hclosed : ∀ p ∈ o2.parts, p.open_ = false) : s.opComplete id = (s.runToEnd id o).endOp id o2 := by
  have hopen : o2.parts.any Part.open_ = false := by simpa only [List.any_eq_false, Bool.not_eq_true] using hclosed
  simp only [State.opComplete, ho, ho2, hready, parts_any_stopped_false hparts, hopen, Bool.not_true, Bool.or_self, Bool.false_eq_true,
    if_false]

theorem completeIf_kind {s : State} {id : Nat} {o : Op} {f : OpKind → Bool} (ho : tableFind s.ops id = some o) (hf : f o.kind = true) :
    s.completeIf id f = s.opComplete id := by
  simp only [State.completeIf, ho, hf, if_true]

/-- An invalidation that nothing holds has left no cached copy before it completes (R319, R320). -/
theorem invalidationComplete_free {s : State} {id : Nat} {o : Op} (ho : tableFind s.ops id = some o)
    (hkind : o.kind.isInvalidation = true) (hheld : s.invalidationHeld o = false) :
    execInvalidationComplete id s = .next (((s.invalidate o.region o.kind).forgetOwn o).opComplete id) := by
  simp only [execInvalidationComplete, ho, hkind, hheld, Bool.not_false, Bool.and_self, if_true]

/-! ## Slots, loads, channel elements and segments (R24, R25, R177, R264, R265, R276) -/

/-- The next element of a stream lands in the destination of its first receive (R264). -/
theorem elementLands_receive {s : State} {ch e cid : Nat} {c : Channel} {x : Option Acc} {r : Receive}
    (howner : s.recvOwner ch e = some cid) (hch : tableFind s.channels ch = some c) (helem : c.nextElem e = some x)
    (hrecv : (s.ctxAt cid).recvs.find? (fun r => r.ch == ch && r.eid == e) = some r) (hgone : r.gone = false) :
    s.elementLands ch e =
      let s1 := s.modChannel ch (fun c => c.putStream e ((c.stream e).drop 1))
      let s2 := s1.modCtx cid (fun c => { c with recvs := dropRecv ch e c.recvs })
      let place := if (s.ctxAt cid).isLanding && !(s.ctxAt cid).place.resident then s.ownerOf cid else cid
      s2.withArea (s2.ownerOf cid) (fun t => t.asCtx place (fun u =>
        u.landElement r x ((s.ctxAt cid).recvs.takeWhile (fun y => !(y.ch == ch && y.eid == e))))) := by
  simp only [State.elementLands, howner, hch, helem, hrecv, hgone, Bool.false_eq_true, if_false]

/-- A segment that the prefetcher may fetch, and that expands, takes its place in the loop buffer (R24). -/
theorem fetchSegment_ok {s : State} {cid w : Nat} {g : Segment} (hmay : s.mayFetch cid w = true)
    (hg : s.expand (s.partyOf cid) w = .ok g) :
    s.fetchSegment cid w = (s.codeTouch (.context cid) (s.partyOf cid) w).putSegment cid g := by
  simp only [State.fetchSegment, hmay, hg, Bool.not_true, Bool.false_eq_true, if_false]

/-- Settles O25, step by step: what each event's meaning gives when the event is enabled. -/
theorem backgroundSteps : Obligations.BackgroundSteps := by
  unfold Obligations.BackgroundSteps
  intro s
  refine ⟨?round, ?operation, ?invalidation, ?slot, ?load, ?element, ?segment⟩
  case round =>
    intro cid r l hctx hr hd
    change execAsyncRoundEntry cid s = _
    rw [execAsyncRoundEntry, if_pos hctx, roundEntry_due hr hd]
  case operation =>
    intro id o ho hready
    refine ⟨fun hstops => congrArg Host.Outcome.next (opStop_ready ho hready hstops), fun o2 hparts ho2 hclosed => ?_⟩
    have hend := opComplete_ready ho hready hparts ho2 hclosed
    exact ⟨fun hcopy => congrArg Host.Outcome.next ((completeIf_kind ho hcopy).trans hend),
      fun hmul => congrArg Host.Outcome.next ((completeIf_kind (f := fun k => k.accOf.isSome) ho hmul).trans hend)⟩
  case invalidation =>
    intro id o ho hkind hheld u o1 ho1 hready hparts o2 ho2 hclosed
    exact (invalidationComplete_free ho hkind hheld).trans (congrArg Host.Outcome.next (opComplete_ready ho1 hready hparts ho2 hclosed))
  case slot =>
    intro eng slot o hloading
    change execOldLoadComplete eng slot s = _
    simp only [execOldLoadComplete, show (s.slotAt (eng / 16) (eng % 16) slot.toNat).loading = true from hloading, Bool.not_true,
      Bool.false_eq_true, if_false, o]
  case load =>
    intro cid n hctx _
    change execLoadDataReturn cid n s = _
    rw [execLoadDataReturn, if_pos hctx]
  case element =>
    intro ch eid cid c x r howner hch helem hrecv hgone
    exact congrArg Host.Outcome.next (elementLands_receive howner hch helem hrecv hgone)
  case segment =>
    intro cid w g hctx hplace hmay hg
    change execSegmentFetch cid w s = _
    rw [execSegmentFetch, if_pos (by rw [hctx, hplace]; rfl), fetchSegment_ok hmay hg]

end Sys2Proof.Proofs
end

section
/-!
PROOF. Regions are freed and expert fills complete (R24, R386, R426, R428).
-/
namespace Sys2Proof.Proofs

open Machine Laws

/-- A retired region whose subtree has no work left is freed with its subtree (R386). -/
theorem regionFree_idle {s : State} {r : Nat} (hr : (tableFind s.regions r).isSome = true) (hretired : (s.region r).retired = true)
    (hidle : s.regionBusy r = false) :
    execRegionFree r s = .next { (s.subtree r).foldl (fun t a => t.cbPut a 160 (2 ^ 64 - 1)) s with
      regions := s.regions.filter (fun e => !(s.subtree r).contains e.1)
      seqs := s.seqs.map (fun e => (e.1, e.2.forget (s.subtree r).contains)) } := by
  rw [execRegionFree, if_pos (by rw [hr, hretired, hidle]; rfl)]

/-- Settles O30: both events are enabled, so each has the whole of its effect. -/
theorem regionAndFillSteps : Obligations.RegionAndFillSteps := by
  unfold Obligations.RegionAndFillSteps
  intro s
  refine ⟨fun r hr hretired hidle => regionFree_idle hr hretired hidle, ?fill⟩
  case fill =>
    intro die buf base size count hpool b hfilling
    change execXpFillComplete die buf s = _
    simp only [execXpFillComplete, show ((s.die die).buf buf).state = 1 from hfilling, ne_eq, not_true_eq_false, if_false, hpool, b]

end Sys2Proof.Proofs
end

section
/-!
PROOF. A step runs the decoded instruction (R22, R24, R168, R174, R348).
-/
namespace Sys2Proof.Proofs

open Machine Laws

/-! ## The turns of a plan -/

theorem step_plan {s : State} {t : Turn} {rest : List Turn} (h : s.plan = t :: rest) :
    step s = .next (({ s with plan := rest, issue := {} } : State).turn t).endTurn := by
  simp only [step, State.next, h]

theorem runInstr_next {s r : State} {i : Instr} (h : exec i s = .next r) : s.runInstr i = r := by
  simp only [State.runInstr, h]

/-- The turn of a porch slot whose program runs is its next word. -/
theorem turn_porch {s r : State} {q : Nat} {i : Instr} (hf : s.fatal = false) (hrun : (s.porch q).running = true)
    (hword : (s.porch q).nextWord = some i) (h : exec i { s with porchFocus := q } = .next r) : s.turn (.porch q) = r := by
  simp only [State.turn, hf, Bool.false_eq_true, if_false, State.porchTurn, hrun, Bool.not_true, hword, runInstr_next h]

/-- The turn of an event is the event; a package stopped by an error still takes some (R435). -/
theorem turn_event {s r : State} {i : Instr} (hi : isEvent i = true) (hf : s.fatal = false ∨ fatalAllows i = true)
    (h : exec i s = .next r) : s.turn (.event i) = r := by
  have hallowed : (isEvent i && (!s.fatal || fatalAllows i)) = true := by
    rcases hf with hf | hf <;> simp only [hi, hf, Bool.not_false, Bool.true_or, Bool.or_true, Bool.and_self]
  simp only [State.turn, hallowed, if_true, runInstr_next h]

/-- In a cycle that has come for the first context of a sequencer, its contexts take their turns in order (R22). -/
theorem turn_issue {s : State} {cid : Nat} {others : List Nat} (hf : s.fatal = false) (hplace : (s.ctxAt cid).place.resident = true)
    (horder : s.seqOrder (s.ctxAt cid).place.seqKey = cid :: others) (hdue : s.due cid = true) :
    s.turn (.issue cid) = (State.issueOne (cid :: others) s).1 := by
  simp only [State.turn, hf, Bool.false_eq_true, if_false, State.issueTurn, hplace, horder, List.any_cons, hdue, Bool.true_or, if_true]

/-- A context whose cycle has come and that yields to nobody issues, and others may have been passed over (R47, R60). -/
theorem issueOne_issued {s u : State} {cid : Nat} (others : List Nat) (hdue : s.due cid = true) (hyields : s.yields cid = false)
    (htry : s.tryIssue cid = (u, true)) : State.issueOne (cid :: others) s = (s.passOver u cid, true) := by
  simp only [State.issueOne, hdue, hyields, htry, Bool.not_true, Bool.false_eq_true, if_false, if_true]

/-- A context for which nothing happens leaves the cycle to the others. -/
theorem issueOne_held {s u : State} {cid : Nat} (others : List Nat) (hdue : s.due cid = true) (hyields : s.yields cid = false)
    (htry : s.tryIssue cid = (u, false)) : State.issueOne (cid :: others) s = State.issueOne others u := by
  simp only [State.issueOne, hdue, hyields, htry, Bool.not_true, Bool.false_eq_true, if_false]

/-! ## The way to a context's bundle (R22, R40, R168) -/

theorem tryIssue_resident {s : State} {cid : Nat} (hctx : (tableFind s.ctxs cid).isSome = true)
    (hplace : (s.ctxAt cid).place.resident = true) (hdbg : (s.ctxAt cid).dbgStop = true → (s.ctxAt cid).dbgStep = true)
    (hlater : s.stepsLater cid = false) :
    s.tryIssue cid = (({ s with focus := cid, issue := {} } : State).settleGang (s.ctxAt cid).place.gangNo).boundary cid := by
  have hnone : (tableFind s.ctxs cid).isNone = false := by rw [← Option.not_isSome, hctx]; rfl
  have hstop : ((s.ctxAt cid).dbgStop && !(s.ctxAt cid).dbgStep) = false := by
    cases hb : (s.ctxAt cid).dbgStop
    · rfl
    · rw [hdbg hb]; rfl
  simp only [State.tryIssue, hnone, hplace, hstop, hlater, Bool.not_true, Bool.or_self, Bool.false_eq_true, if_false]

/-- At a boundary where nothing stops or traps the context, it issues the bundle at its pc. -/
theorem boundary_issueAt {s s2 s3 : State} {cid : Nat} {run : Option Mask} {g : Segment} (hround : s.roundDue cid = false)
    (hheld : s.ctxHeld cid = false) (hpreempt : s.preemptStops cid = false)
    (hloop : (s.modCtx (s.ownerOf cid) (fun c => { c with holdPark := false })).loopArrive cid = (s2, false))
    (hkernel : s2.kernelArrive cid = (s3, false, run)) (hseg : s3.segAt cid (s3.ctxAt cid).pc = some g)
    (halign : (s3.ctxAt cid).pc % 4 = 0) : s.boundary cid = s3.issueAt cid g run := by
  simp only [State.boundary, hpreempt, hround, hheld, hloop, hkernel, hseg, halign, Bool.false_eq_true, if_false, ne_eq, not_true_eq_false]

/-- A bundle of one word that decodes and passes the encoding checks; it reads no bc, for no BCST stands before it (R173, R188). -/
theorem bundleWords_single {s : State} {cid b : Nat} {raw : RawWord} {i : Instr}
    (hdecode : decodeParts (s.stepped (s.ctxAt cid) cid b raw.parts) = some i) (hok : s.encodingOk i = true)
    (hbc : s.readsBc i = false) : s.bundleWords cid false [.word b raw] = .ok [⟨b, raw.parts.cls, i⟩] := by
  simp only [State.bundleWords, hdecode, hok, hbc, Bool.not_true, Bool.not_false, Bool.and_true, Bool.and_false, Bool.or_self,
    Bool.false_eq_true, if_false]

/-- The state in which the words of a bundle at address b issue: the pc is at the next bundle. -/
def atBundle (s : State) (cid b n : Nat) : State :=
  ({ s with issue := { bundle := b, next := n } } : State).modCtx cid (fun c => { c with pc := n })

/-- A bundle of one word issues that word; what follows a bundle follows it when it has issued or trapped. -/
theorem issueAt_single {s x : State} {cid b : Nat} {g : Segment} {raw : RawWord} {i : Instr} {run : Option Mask} {ok : Bool}
    (hpc : (s.ctxAt cid).pc = b) (hin : b - g.base < g.bytes.length)
    (hframe : frameBundle b (g.bytes.drop (b - g.base)) = [.word b raw])
    (hwords : s.bundleWords cid false [.word b raw] = .ok [⟨b, raw.parts.cls, i⟩]) (hcross : (s.ctxAt cid).crosses b (b + raw.len) = false)
    (hissue : (atBundle s cid b (b + raw.len)).issueWords cid b (b + raw.len) [⟨b, raw.parts.cls, i⟩] run = (x, ok)) :
    s.issueAt cid g run = (if ok then x.afterBundle cid (s.ctxAt cid).place else x, ok) := by
  have hbytes : framedBytes [.word b raw] = raw.len := Nat.zero_add _
  rw [atBundle] at hissue
  simp only [State.issueAt, hpc, if_neg (Nat.not_le.mpr hin), hframe, hwords, hbytes, hcross, Bool.false_eq_true, if_false, hissue]

/-! ## The word of a bundle of one word (R174, R177, R348) -/

/-- A state in which no word of its bundle has issued yet: its record of the issue names the bundle alone. -/
def BundleFresh (u : State) : Prop := u.issue = { bundle := u.issue.bundle, next := u.issue.next }

theorem bundleFresh_atBundle (s : State) (cid b n : Nat) : BundleFresh (atBundle s cid b n) := rfl

theorem bundleFresh_countRuns {u : State} (h : BundleFresh u) (cid : Nat) (m : Mask) : BundleFresh (u.countRuns cid m) := h

/-- The state in which the word at an address issues by itself. -/
def atWord (u : State) (b : Nat) : State := { u with issue := { u.issue with word := b } }

theorem probe_fresh {u r : State} {w : BWord} (hu : BundleFresh u) (h : exec w.i (atWord u w.addr) = .next r) : u.probe w = r := by
  have hissue : ({ u with issue := { u.issue with word := w.addr, status := .ok, recs := [], heldOn := none, heldGid := none } } : State) =
      atWord u w.addr := by
    rw [atWord, hu]
  rw [State.probe, hissue, runInstr_next h]

section
variable {u r : State} {w : BWord} (cid b n : Nat)

/-- A word that issues holds its context for the banks that it reaches (R348). -/
theorem issueWords_ok (hu : BundleFresh u) (h : exec w.i (atWord u w.addr) = .next r) (hok : r.issue.status = .ok) :
    u.issueWords cid b n [w] none = (r.holdBanks cid (u.bankUses w.i), true) := by
  simp only [State.issueWords, probe_fresh hu h, hok, Option.isSome_none, Bool.false_eq_true, if_false]

/-- A word that issues at a kernel's start has its effect once the iteration is counted (R40). -/
theorem issueWords_counted {r' : State} {m : Mask} (hu : BundleFresh u) (h : exec w.i (atWord u w.addr) = .next r)
    (hok : r.issue.status = .ok) (h' : exec w.i (atWord (u.countRuns cid m) w.addr) = .next r') :
    u.issueWords cid b n [w] (some m) = (r'.holdBanks cid (u.bankUses w.i), true) := by
  simp only [State.issueWords, probe_fresh hu h, hok, Option.isSome_some, if_true, probe_fresh (bundleFresh_countRuns hu cid m) h']

/-- A word that traps ends its bundle. -/
theorem issueWords_trapped (run : Option Mask) (hu : BundleFresh u) (h : exec w.i (atWord u w.addr) = .next r)
    (htrap : r.issue.status = .trapped) : u.issueWords cid b n [w] run = (r, true) := by
  simp only [State.issueWords, probe_fresh hu h, htrap]

/-- A word that holds leaves pc at its bundle (R177). -/
theorem issueWords_held (run : Option Mask) (hu : BundleFresh u) (h : exec w.i (atWord u w.addr) = .next r)
    (hheld : r.issue.status = .held) (hctx : (tableFind r.ctxs cid).isSome = true) (hplace : (r.ctxAt cid).place.resident = true) :
    u.issueWords cid b n [w] run =
      (r.modCtx cid (fun c => { c with pc := b, heldOn := r.issue.heldOn, heldGid := r.issue.heldGid }), false) := by
  simp only [State.issueWords, probe_fresh hu h, hheld, hctx, hplace, Bool.and_self, if_true]

end

/-- Settles O43: a turn of the plan is its agent's word or event; a context's turn goes through its boundary to its one word. -/
theorem stepRunsTheInstruction : Obligations.StepRunsTheInstruction := by
  unfold Obligations.StepRunsTheInstruction
  intro s rest
  refine ⟨?context, fun q i r hplan hf hrun hword h => ?porch, fun i r hplan hi hf h => ?event⟩
  case porch => rw [step_plan hplan, turn_porch (s := { s with plan := rest, issue := {} }) hf hrun hword h]
  case event => rw [step_plan hplan, turn_event (s := { s with plan := rest, issue := {} }) hi hf h]
  case context =>
    intro cid others i s2 s3 run g raw s0 hlater hplan hf hctx hplace hdbg horder hdue hyields s1 hround hheld hpreempt hloop hkernel hseg
      b halign hin hframe hdecode hok hbc hcross u v done r hexec
    let w : BWord := ⟨b, raw.parts.cls, i⟩
    have hfresh : BundleFresh u := bundleFresh_atBundle s3 cid b (b + raw.len)
    have htry : ∀ x ok, u.issueWords cid b (b + raw.len) [w] run = (x, ok) →
        s0.tryIssue cid = (if ok then x.afterBundle cid (s3.ctxAt cid).place else x, ok) := fun x ok hissue =>
      (tryIssue_resident (s := s0) hctx hplace hdbg hlater).trans
        ((boundary_issueAt hround hheld hpreempt hloop hkernel hseg halign).trans
          (issueAt_single rfl hin hframe (bundleWords_single hdecode hok hbc) hcross hissue))
    have hturn : step s = .next (State.issueOne (cid :: others) s0).1.endTurn := by
      rw [step_plan hplan, turn_issue (s := s0) hf hplace horder hdue]
    have hissued : ∀ x, u.issueWords cid b (b + raw.len) [w] run = (x, true) → step s = .next (done x) := fun x hissue => by
      rw [hturn, issueOne_issued others hdue hyields (htry x true hissue), if_pos rfl]
    refine ⟨fun hstatus hrun => ?issued, fun hstatus => ?trapped, fun hstatus hthere hresident => ?held,
      fun m r' hstatus hrun hexec' => ?counted⟩
    case issued =>
      subst hrun
      exact hissued _ (issueWords_ok cid b _ hfresh hexec hstatus)
    case trapped => exact hissued _ (issueWords_trapped cid b _ run hfresh hexec hstatus)
    case held =>
      have hissue := htry _ false (issueWords_held cid b _ run hfresh hexec hstatus hthere hresident)
      rw [if_neg Bool.false_ne_true] at hissue
      rw [hturn, issueOne_held others hdue hyields hissue]
    case counted =>
      subst hrun
      exact hissued _ (issueWords_counted cid b _ hfresh hexec hstatus hexec')

end Sys2Proof.Proofs
end

section
/-!
PROOF. Taking a trap or fault, and returning from the handler (R54, R57, R177, R220).
-/
namespace Sys2Proof.Proofs

open Machine Laws

/-! ## What the parts of trap entry leave -/

theorem tableFind_mem {α : Type} {t : Table α} {k : Nat} {v : α} (h : tableFind t k = some v) : (k, v) ∈ t := by
  induction t with
  | nil => cases h
  | cons e t ih =>
    obtain ⟨j, w⟩ := e
    simp only [tableFind] at h
    split at h
    · next hj => rw [← hj, ← Option.some.inj h]; exact List.mem_cons_self
    · exact List.mem_cons_of_mem _ (ih h)

/-- What holds of every listed context, and of one that is not there, holds of each. -/
theorem ctxAt_of_listed {s : State} {P : Ctx → Prop} (h : ∀ e ∈ s.ctxs, P e.2) (h0 : P {}) (k : Nat) : P (s.ctxAt k) := by
  unfold State.ctxAt tableGet
  cases hk : tableFind s.ctxs k with
  | none => exact h0
  | some c => exact h _ (tableFind_mem hk)

/-- The walks that a round tells of change the stair cores alone (R399). -/
theorem missFailed_eq (s : State) (cid : Nat) (recs : List FaultRec) : ∃ dies, s.missFailed cid recs = { s with dies := dies } := by
  unfold State.missFailed
  refine foldl_keeps (P := fun t => ∃ dies, t = { s with dies := dies }) ?_ _ s ⟨s.dies, rfl⟩
  rintro t r ⟨dies, rfl⟩
  exact ⟨_, rfl⟩

/-- A context that is in no REGRP leaves none (R48, R211). -/
theorem regrpLeave_alone {s : State} {o : Nat} (hothers : ∀ k, (s.ctxAt k).regrpWaitsFor o = false)
    (hown : ∀ gid p owes live, (s.ctxAt o).wait ≠ .regrp gid p owes live) : s.regrpLeave o = s := by
  have hfold : (s.ctxs.map Prod.fst).foldl (fun t c => if (t.ctxAt c).regrpWaitsFor o then t.regrpDrop c else t) s = s := by
    refine foldl_keeps (P := fun t => t = s) ?_ _ s rfl
    rintro t c rfl
    rw [hothers c, if_neg Bool.false_ne_true]
  unfold State.regrpLeave
  dsimp only
  rw [hfold]
  split
  · next hw => exact absurd hw (hown _ _ _ _)
  · rfl

/-- A change of a gang's engines that leaves a part of an engine leaves it of every engine. -/
theorem eng_mapGang {α : Type} (π : Engine → α) {f : Engine → Engine} (hf : ∀ x, π (f x) = π x) (s : State) (gang g e : Nat) :
    π ((s.mapGang gang f).eng g e) = π (s.eng g e) := by
  simp only [State.eng, State.mapGang, tableGet]
  induction s.engines with
  | nil => rfl
  | cons x t ih =>
    obtain ⟨j, w⟩ := x
    by_cases hj : j = engKey g e
    · subst hj
      by_cases hg : engKey g e / 16 = gang <;> simp only [List.map_cons, hg, if_true, if_false, tableFind, Option.getD_some, hf]
    · by_cases hg : j / 16 = gang <;> simpa only [List.map_cons, hg, if_true, if_false, tableFind, hj] using ih

theorem foldl_max_le_iff {α : Type} (f : α → Nat) (l : List α) (a n : Nat) :
    l.foldl (fun b e => max b (f e)) a ≤ n ↔ a ≤ n ∧ ∀ e ∈ l, f e ≤ n := by
  induction l generalizing a with
  | nil => simp
  | cons x l ih => simp [ih, and_assoc]

/-! ## What has been issued lands (R177) -/

/-- The engines whose seeds and latches a context waits for: those of its gang that are its own. -/
def landingEngines (s : State) (cid : Nat) : List (Nat × Engine) :=
  let c := s.ctxAt cid
  s.engines.filter (fun e => e.1 / 16 == c.place.gangNo && (c.live.getLsbD (e.1 % 16) || c.active.getLsbD (e.1 % 16)))

/-- The cycle at which the last bound of what a context has issued is over. -/
def lastBound (s : State) (cid : Nat) : Nat :=
  (s.ctxAt cid).inflight.foldl (fun a e => max a e.seqDue) ((landingEngines s cid).foldl (fun a e => max a e.2.landed) 0)

/-- A context of which all has landed. -/
def landedCtx (s : State) (cid : Nat) : Ctx :=
  { s.ctxAt cid with inflight := [], pending := [], linked := [], nextIssue := max (s.ctxAt cid).nextIssue (lastBound s cid) }

theorem land_eq (s : State) (cid : Nat) :
    s.land cid = (s.mapGang (s.ctxAt cid).place.gangNo (fun x => x.loadSlots (s.ownerOf cid))).setCtx cid (landedCtx s cid) := rfl

theorem lastBound_le {s : State} {cid n : Nat} (h : lastBound s cid ≤ n) :
    (∀ w ∈ (s.ctxAt cid).inflight, w.seqDue ≤ n) ∧ ∀ e ∈ landingEngines s cid, e.2.landed ≤ n := by
  obtain ⟨hengines, hwrites⟩ := (foldl_max_le_iff _ _ _ _).mp h
  exact ⟨hwrites, ((foldl_max_le_iff _ _ _ _).mp hengines).2⟩

/-! ## Trap entry (R54, R57) -/

/-- A trap or fault in the handler aborts the gang context (R57). -/
theorem enterTrap_handler {s : State} {cid : Nat} (hsup : (s.ctxAt cid).sup = true) (epc : Nat) (recs : List FaultRec) :
    s.enterTrap cid epc recs =
      (({ s with issue := { s.issue with status := .trapped, recs := recs } } : State).missFailed cid recs).abortContext (s.ownerOf cid) rDBLFLT :=
  if_pos hsup

/-- A context that runs outside its handler and is in no REGRP (R48). -/
structure Entering (s : State) (cid : Nat) : Prop where
  outside : (s.ctxAt cid).sup = false
  own : ∀ gid p owes live, (s.ctxAt cid).wait ≠ .regrp gid p owes live
  others : ∀ e ∈ s.ctxs, e.2.regrpWaitsFor cid = false

/-- Outside the handler what has been issued lands, and the context enters its handler (R54). -/
theorem enterTrap_outside {s : State} {cid : Nat} (h : Entering s cid) (epc : Nat) (recs : List FaultRec) :
    ∃ dies, s.enterTrap cid epc recs =
      (({ s with issue := { s.issue with status := .trapped, recs := recs }, dies := dies } : State).land cid).modCtx cid
        (fun c => (c.enter epc recs).awaitRecvs) := by
  obtain ⟨dies, hmiss⟩ := missFailed_eq { s with issue := { s.issue with status := .trapped, recs := recs } } cid recs
  refine ⟨dies, ?_⟩
  unfold State.enterTrap
  dsimp only
  rw [hmiss, h.outside, if_neg Bool.false_ne_true, regrpLeave_alone]
  · intro k
    by_cases hk : k = cid
    · subst hk
      rw [land_eq, ctxAt_setCtx]
      exact ctxAt_of_listed (s := s) (P := fun c => c.regrpWaitsFor k = false) h.others rfl k
    · rw [land_eq, ctxAt_setCtx_ne _ _ hk]
      exact ctxAt_of_listed (s := s) (P := fun c => c.regrpWaitsFor cid = false) h.others rfl k
  · rw [land_eq, ctxAt_setCtx]
    exact h.own

/-- The context of a trap, once it has entered its handler. -/
theorem enterTrap_ctx {s : State} {cid : Nat} (h : Entering s cid) (epc : Nat) (recs : List FaultRec) :
    (s.enterTrap cid epc recs).ctxAt cid = ((landedCtx s cid).enter epc recs).awaitRecvs := by
  obtain ⟨dies, ht⟩ := enterTrap_outside h epc recs
  rw [ht, ctxAt_modCtx, land_eq, ctxAt_setCtx]
  rfl

theorem enterTrap_ctx_ne {s : State} {cid k : Nat} (h : Entering s cid) (epc : Nat) (recs : List FaultRec) (hk : k ≠ cid) :
    (s.enterTrap cid epc recs).ctxAt k = s.ctxAt k := by
  obtain ⟨dies, ht⟩ := enterTrap_outside h epc recs
  rw [ht, ctxAt_modCtx_ne _ _ hk, land_eq, ctxAt_setCtx_ne _ _ hk]
  rfl

/-- Trap entry completes loads of operand slots, and changes nothing else of an engine (R67). -/
theorem enterTrap_eng {α : Type} (π : Engine → α) (hπ : ∀ x o, π (Engine.loadSlots x o) = π x) {s : State} {cid : Nat}
    (h : Entering s cid) (epc : Nat) (recs : List FaultRec) (g e : Nat) :
    π ((s.enterTrap cid epc recs).eng g e) = π (s.eng g e) := by
  obtain ⟨dies, ht⟩ := enterTrap_outside h epc recs
  rw [ht, land_eq]
  exact eng_mapGang π (fun x => hπ x _) { s with issue := _, dies := _ } _ g e

theorem enterTrap_hbmByte {s : State} {cid : Nat} (h : Entering s cid) (epc : Nat) (recs : List FaultRec) (key pa : Nat) :
    (s.enterTrap cid epc recs).hbmByte key pa = s.hbmByte key pa := by
  obtain ⟨dies, ht⟩ := enterTrap_outside h epc recs
  rw [ht, land_eq, hbmByte_eq, hbmByte_eq]
  rfl

/-- Settles O47: the registers as trap entry leaves them, then what it does not touch. -/
theorem trapEntry : Obligations.TrapEntry := by
  unfold Obligations.TrapEntry
  intro s cid epc recs c t d
  refine ⟨fun hsup hown hothers => ?outside, fun hsup => enterTrap_handler hsup epc recs⟩
  have h : Entering s cid := ⟨hsup, hown, hothers⟩
  rw [show d = ((landedCtx s cid).enter epc recs).awaitRecvs from enterTrap_ctx h epc recs]
  have hrecvs : ∀ r ∈ (((landedCtx s cid).enter epc recs).awaitRecvs).recvs, r.due = 0 := fun r hr => by
    obtain ⟨x, -, rfl⟩ := List.mem_map.mp hr
    rfl
  obtain ⟨hwrites, hengines⟩ := lastBound_le (Nat.le_max_right c.nextIssue (lastBound s cid))
  refine ⟨rfl, rfl, rfl, rfl, rfl, rfl, rfl, rfl, rfl, rfl, rfl, rfl, rfl, rfl, rfl, rfl, rfl, rfl, rfl, rfl, rfl, hrecvs,
    fun k hk => enterTrap_ctx_ne h epc recs hk, Nat.le_max_left _ _, hwrites, ?engines, ?parts, ?bytes, enterTrap_hbmByte h epc recs⟩
  case engines =>
    intro e he hgang hactive
    exact hengines e (List.mem_filter.mpr ⟨he, by simp only [hgang, hactive, c, beq_self_eq_true, Bool.or_true, Bool.and_self]⟩)
  case parts => exact fun g e k => enterTrap_eng (fun x => x.part k) (fun _ _ => rfl) h epc recs g e
  case bytes => exact fun g e a => enterTrap_eng (fun x => x.byte a) (fun _ _ => rfl) h epc recs g e

/-! ## Returning at once (R220) -/

/-- The continuation of stopped operations changes the operations alone (R89, R291). -/
theorem continueOp_eq (s : State) (id : Nat) : ∃ ops, s.continueOp id = { s with ops := ops } := by
  unfold State.continueOp
  split
  · exact ⟨s.ops, rfl⟩
  · refine foldl_keeps (P := fun t => ∃ ops, t = { s with ops := ops }) ?_ _ s ⟨s.ops, rfl⟩
    rintro t p ⟨ops, rfl⟩
    dsimp only
    split
    · split
      · exact ⟨_, rfl⟩
      · exact ⟨_, rfl⟩
    · exact ⟨_, rfl⟩

theorem continueOps_eq (s : State) (o : Nat) : ∃ ops, s.continueOps o = { s with ops := ops } := by
  unfold State.continueOps
  refine foldl_keeps (P := fun t => ∃ ops, t = { s with ops := ops }) ?_ _ s ⟨s.ops, rfl⟩
  rintro t e ⟨ops, rfl⟩
  obtain ⟨ops', h⟩ := continueOp_eq { s with ops := ops } e.1
  exact ⟨ops', h⟩

/-- A context that SYSRET takes out of its handler. -/
def returnedCtx (s : State) (c : Ctx) : Ctx :=
  { c with
    faults := [], stack := c.stack.drop (c.depth - c.trapDepth), active := s.rEmask &&& c.live, sup := false, pc := s.rEpc.toNat
    loop := c.loop.map (fun l => { l with sup := false })
    wait := .none, met := c.outerMet.filter (fun m => m.bundle == s.rEpc.toNat), outerMet := none }

/-- A SYSRET that leaves an engine active makes no search (R220). -/
theorem sysret_ctx {s : State} {cid : Nat} (h : s.rEmask &&& (s.ctxAt cid).live ≠ 0) :
    (s.sysret cid).ctxAt cid = returnedCtx s (s.ctxAt cid) := by
  obtain ⟨ops, hops⟩ := continueOps_eq (s.setCtx cid (returnedCtx s (s.ctxAt cid))) (s.ownerOf cid)
  have hret : s.sysret cid = (s.setCtx cid (returnedCtx s (s.ctxAt cid))).continueOps (s.ownerOf cid) := if_neg h
  rw [hret, hops]
  exact ctxAt_setCtx s cid _

/-- A register inside no bound reads as it stands (R175). -/
theorem inBound_settled {s : State} (h : s.was.inflight = []) (d : Dest) (seq : Bool) (w n cur : Nat) : s.inBound d seq w n cur = cur := by
  simp only [State.inBound, h, List.filter_nil]

theorem rEmask_settled {s : State} (h : s.was.inflight = []) : s.rEmask = s.was.emask := by
  simp only [State.rEmask, inBound_settled h, BitVec.ofNat_toNat, BitVec.setWidth_eq]

theorem rEpc_settled {s : State} (h : s.was.inflight = []) : s.rEpc = s.was.epc := by
  simp only [State.rEpc, inBound_settled h, BitVec.ofNat_toNat, BitVec.setWidth_eq]

theorem was_alone {s : State} (h : s.issue.pre = none) : s.was = s.me := by
  simp only [State.was, h]

/-- A trap moves nothing of the bundle's bookkeeping that its reads go by. -/
theorem enterTrap_was {s : State} {cid : Nat} (h : Entering s cid) (hfocus : s.focus = cid) (hpre : s.issue.pre = none) (epc : Nat)
    (recs : List FaultRec) : (s.enterTrap cid epc recs).was = ((landedCtx s cid).enter epc recs).awaitRecvs := by
  obtain ⟨dies, ht⟩ := enterTrap_outside h epc recs
  have hf : (s.enterTrap cid epc recs).focus = cid := by rw [ht]; exact hfocus
  have hp : (s.enterTrap cid epc recs).issue.pre = none := by rw [ht]; exact hpre
  rw [was_alone hp, State.me, hf, enterTrap_ctx h]

/-- Settles O48: nothing is inside a bound after a trap, so SYSRET reads what the trap has saved. -/
theorem trapThenReturn : Obligations.TrapThenReturn := by
  unfold Obligations.TrapThenReturn
  intro s cid epc recs c d hfocus hpre hsup hown hothers hlive hepc
  have h : Entering s cid := ⟨hsup, hown, hothers⟩
  let t := s.enterTrap cid epc recs
  have hctx : t.ctxAt cid = ((landedCtx s cid).enter epc recs).awaitRecvs := enterTrap_ctx h epc recs
  have hwas : t.was = ((landedCtx s cid).enter epc recs).awaitRecvs := enterTrap_was h hfocus hpre epc recs
  have hsettled : t.was.inflight = [] := by rw [hwas]; rfl
  have hmask : t.rEmask = c.active := by rw [rEmask_settled hsettled, hwas]; rfl
  have hpc : t.rEpc.toNat = epc := by
    rw [rEpc_settled hsettled, hwas]
    exact Nat.mod_eq_of_lt hepc
  have hactive : t.rEmask &&& (t.ctxAt cid).live = c.active &&& c.live := by rw [hmask, hctx]; rfl
  have hd : d = returnedCtx t (t.ctxAt cid) := sysret_ctx (by rw [hactive]; exact hlive)
  have hstack : (t.ctxAt cid).stack.drop ((t.ctxAt cid).depth - (t.ctxAt cid).trapDepth) = c.stack := by
    rw [hctx]
    exact congrArg (List.drop · c.stack) (Nat.sub_self c.depth)
  rw [hd]
  refine ⟨hactive, hpc, rfl, hstack, rfl, rfl, ?_, ?_⟩ <;> (rw [hctx]; rfl)

end Sys2Proof.Proofs
end

section
/-!
PROOF. The words of divergence and rejoin (R43 to R46, R210).
-/
namespace Sys2Proof.Proofs

open Machine Laws

/-! ## Checks of words of class C -/

/-- A well-formed word that names no port and no channel passes the encoding checks (R188). -/
theorem encodingOk_of_plain {i : Instr} (hw : i.wellFormed = true) (hc : channelUse i = none) (hs : sourceCodes i = []) (hd : destCodes i = [])
    (s : State) : s.encodingOk i = true :=
  (encodingOk_plain hc hs hd s).trans hw

/-- An aligned target passes where its word does not check it for PROT (R200, R204). -/
theorem targetCheck_aligned (s : State) {t : Dword} (h : t.toNat % 4 = 0) : s.targetCheck t false = .ok := by
  simp only [State.targetCheck, Bool.false_and, Bool.false_eq_true, if_false, h, ne_eq, not_true_eq_false]

theorem targetCheck_misaligned (s : State) {t : Dword} (h : t.toNat % 4 ≠ 0) :
    s.targetCheck t false = .trap false [s.seqRec rALIGN 4 0 t] := by
  simp only [State.targetCheck, Bool.false_and, Bool.false_eq_true, if_false, ne_eq, h, not_false_eq_true, if_true]

/-! ## What each word does (R43 to R46, R210) -/

section

variable {s : State} {g : Gate}

theorem execBrp_next {p : BitVec 3} {neg : Bool} {off : BitVec 12} (h : Acts s 0 g [])
    (hc : s.brpCheck p neg (s.target 12 off.toNat) = .ok) : execBrp g p neg off s = .next (s.brp p neg (s.target 12 off.toNat)) :=
  ctl_next h (encodingOk_of_plain rfl rfl rfl rfl s) hc

theorem execBrpLong_next {p : BitVec 3} {neg : Bool} {t : Dword} (h : Acts s 0 g []) (hlt : t.toNat < 2 ^ 56) (halign : t.toNat % 4 = 0)
    (hc : s.brpCheck p neg t.toNat = .ok) : execBrpLong g p neg t s = .next (s.brp p neg t.toNat) :=
  ctl_next h (encodingOk_of_plain (i := .brpLong g p neg t) (decide_eq_true hlt) rfl rfl rfl s)
    ((verdict_and_ok_iff _ _).mpr ⟨targetCheck_aligned s halign, hc⟩)

theorem execJoin_next (h : Acts s 0 g []) (hc : s.joinCheck = .ok) :
    execJoin g s = .next ((s.mod (fun c => c.join s.issue.next)).delay 2) :=
  ctl_next h (encodingOk_of_plain rfl rfl rfl rfl s) hc

theorem execSplit_next {p : BitVec 3} {neg : Bool} {off : BitVec 12} (h : Acts s 0 g [])
    (hc : s.splitCheck p neg (s.target 12 off.toNat) = .ok) : execSplit g p neg off s = .next (s.split p neg (s.target 12 off.toNat)) :=
  ctl_next h (encodingOk_of_plain rfl rfl rfl rfl s) hc

theorem execSplitLong_next {p : BitVec 3} {neg : Bool} {t : Dword} (h : Acts s 0 g []) (hlt : t.toNat < 2 ^ 56) (halign : t.toNat % 4 = 0)
    (hc : s.splitCheck p neg t.toNat = .ok) : execSplitLong g p neg t s = .next (s.split p neg t.toNat) :=
  ctl_next h (encodingOk_of_plain (i := .splitLong g p neg t) (decide_eq_true hlt) rfl rfl rfl s)
    ((verdict_and_ok_iff _ _).mpr ⟨targetCheck_aligned s halign, hc⟩)

/-- MERGE with an empty stack ends a landing's run (R46). -/
theorem execMerge_landing (h : Acts s 0 g []) (hl : s.was.isLanding = true) (hs : s.was.stack = []) :
    execMerge g s = .next (s.mergeLanding s.focus) := by
  have hc : s.mergeCheck = .ok := by simp only [State.mergeCheck, hl, if_true, hs, List.isEmpty_nil, need_true]
  rw [execMerge, ctl_next h (encodingOk_of_plain rfl rfl rfl rfl s) hc, if_pos hl]

/-- MERGE of a gang context acts as JOIN (R46). -/
theorem execMerge_join (h : Acts s 0 g []) (hl : s.was.isLanding = false) (hc : s.mergeCheck = .ok) :
    execMerge g s = .next ((s.mod (fun c => c.join s.issue.next)).delay 2) := by
  rw [execMerge, ctl_next h (encodingOk_of_plain rfl rfl rfl rfl s) hc, hl, if_neg Bool.false_ne_true]

/-- JINIT of a rejoin mask on which no engine waits (R210). -/
theorem execJinit_next {sM : BitVec 5} {j : BitVec 2} (h : Acts s 0 g (useS [sM])) (hfree : (s.was.rejoin j.toNat).waiting = 0) :
    execJinit g sM j s = .next (s.jinit j (s.rS sM)) :=
  ctl_next h (encodingOk_of_plain rfl rfl rfl rfl s) ((need_ok_iff s 0 _).mpr (beq_iff_eq.mpr hfree))

theorem execJinitLiteral_next {j : BitVec 2} {lit : Dword} (h : Acts s 0 g []) (hlt : lit.toNat < 2 ^ 16)
    (hfree : (s.was.rejoin j.toNat).waiting = 0) : execJinitLiteral g j lit s = .next (s.jinit j lit) :=
  ctl_next h (encodingOk_of_plain (i := .jinitLiteral g j lit) (decide_eq_true hlt) rfl rfl rfl s) ((need_ok_iff s 0 _).mpr (beq_iff_eq.mpr hfree))

theorem execJarv_next {j : BitVec 2} (h : Acts s 0 g []) :
    execJarv g j s = .next (s.mod (fun c => c.putJ j.toNat { c.rejoin j.toNat with mask := Mask.less (c.rejoin j.toNat).mask c.active })) :=
  ctl_next h (encodingOk_of_plain rfl rfl rfl rfl s) rfl

theorem execJwait_next {j : BitVec 2} (h : Acts s 0 g [.f 1]) (hc : s.jwaitCheck j = .ok) :
    execJwait g j s = .next ((s.mod (fun c => (c.jwait j.toNat s.issue.next).1)).delay 2) :=
  ctl_next h (encodingOk_of_plain rfl rfl rfl rfl s) hc

end

/-- Settles O2: each word passes its checks and has its effect, which the statement writes out. -/
theorem divergenceWords : Obligations.DivergenceWords := by
  unfold Obligations.DivergenceWords
  intro s g brp split
  exact ⟨fun _ _ _ h hc => execBrp_next h hc, fun _ _ _ h hlt halign hc => execBrpLong_next h hlt halign hc, fun h hc => execJoin_next h hc,
    fun _ _ _ h hc => execSplit_next h hc, fun _ _ _ h hlt halign hc => execSplitLong_next h hlt halign hc,
    fun h hl hs => execMerge_landing h hl hs, fun h hl hc => execMerge_join h hl hc, fun _ _ h hfree => execJinit_next h hfree,
    fun _ _ h hlt hfree => execJinitLiteral_next h hlt hfree, fun _ h => execJarv_next h, fun _ h hc => execJwait_next h hc⟩

end Sys2Proof.Proofs
end

section
/-!
PROOF. Token, restart regions, traps, debugger stops, filing, parking, ending and fusing (R49, R52, R54, R169, R211 to R216, R219, R220).
-/
namespace Sys2Proof.Proofs

open Machine Laws

/-! ## What the checks of a word say (R170, R177) -/

/-- A C word whose check raises a round enters the handler. -/
theorem ctl_trap {i : Instr} {g : Gate} {uses : List Dest} {check : State → Verdict} {eff : State → State} {s : State} {n : Bool}
    {l : List FaultRec} (h : Acts s 0 g uses) (hp : s.issue.pre = none) (hw : s.encodingOk i = true) (hc : check s = .trap n l) :
    ctl i g uses check eff s = .next (s.enterTrap s.focus (if n then s.issue.next else s.issue.bundle) l) :=
  runFlag_trap h hp hw hc

/-- A word of the sequencer that acts and passes its check does not hold. -/
theorem verdict_acts {s : State} {g : Gate} {uses : List Dest} {check : State → Verdict} (h : Acts s 0 g uses) (hc : check s = .ok) :
    s.verdict 0 (s.gateF g) (.f g.pred.toNat :: uses) (fun _ => .ok) check = .ok := by
  obtain ⟨⟨-, -, huses, hlanding⟩, hgate⟩ := h
  simp only [State.verdict, scoreboard_ok huses, landing_runs hlanding, hgate, hc, verdict_ok_and, Bool.false_eq_true, if_false, if_true]

/-! ## SPAWN (R214) -/

/-- Outside restart regions a SPAWN whose item has room in a bin, or is refused, passes its check (R36, R216). -/
theorem spawnCheck_ok {s : State} {addr : Dword} (hidem : s.was.idem = none) (hfresh : s.me.spawnOk = none)
    (hroom : ∀ r d, s.spawnAt addr = some (r, d) → (s.die d).canFile r = true) : s.spawnCheck addr = .ok := by
  unfold State.spawnCheck
  rw [hidem, hfresh, if_neg nofun]
  cases hat : s.spawnAt addr with
  | none => rfl
  | some x =>
    obtain ⟨r, d⟩ := x
    simp only [hroom r d hat, Option.isNone_none, need_true, verdict_ok_and, if_true]

theorem execSpawn_next {s : State} {g : Gate} {sA : BitVec 5} (h : Acts s 0 g (.f 1 :: useS [sA])) (hc : s.spawnCheck (s.rS sA) = .ok) :
    execSpawn g sA s = .next (s.spawn (s.rS sA)) := by
  have hholds : s.spawnHolds g sA = false := by
    rw [State.spawnHolds, verdict_acts h hc]
    exact Bool.and_false _
  rw [execSpawn, ctl_next h (encodingOk_of_plain rfl rfl rfl rfl s) hc]
  dsimp only
  rw [hholds, if_neg Bool.false_ne_true]

/-! ## REGRP (R48, R49, R211) -/

/-- The membership that a handle names goes by four fields of the context. -/
theorem handleMember_mod {s : State} {f : Ctx → Ctx} (hinflight : (f s.me).inflight = s.me.inflight)
    (hhandles : (f s.me).handles = s.me.handles) (hplace : (f s.me).place = s.me.place) (hparent : (f s.me).parent = s.me.parent)
    (h : BitVec 3) : (s.mod f).handleMember h = s.handleMember h := by
  have hme : (s.mod f).me = f s.me := me_mod s f
  have hwas : (s.mod f).was.inflight = s.was.inflight ∧ (s.mod f).was.handles = s.was.handles := by
    cases hp : s.issue.pre with
    | some p => simp only [State.was, mod_issue, hp, and_self]
    | none => simp only [State.was, mod_issue, hp, hme, hinflight, hhandles, and_self]
  have hcycle : (s.mod f).cycle = s.cycle := by
    rw [State.cycle, hme, hplace]
    rfl
  have howner : (s.mod f).owner = s.owner := by
    change (if (s.mod f).me.isLanding then (s.mod f).me.parent else s.focus) = _
    rw [Ctx.isLanding, hme, hparent]
    rfl
  have hhandle : (s.mod f).rH h = s.rH h := by
    simp only [State.rH, State.inBound, Ctx.handle, hwas, hcycle, mod_free]
  rw [State.handleMember, hhandle, howner]
  rfl

/-- A context whose REGRP issues. -/
def pastRegrp (c : Ctx) : Ctx := { c with heldRegrp := none, regrpFails := false }

theorem handleMember_pastRegrp (s : State) (h : BitVec 3) : (s.mod pastRegrp).handleMember h = s.handleMember h :=
  handleMember_mod rfl rfl rfl rfl h

/-- A REGRP that fails needs no partner (R48, R211). -/
theorem regrpGate_failing {s : State} (hf : s.me.regrpFails = true) (h : BitVec 3) : s.regrpGate h = .ok := if_pos hf

/-- A REGRP whose partner has come, or has gone, passes its check (R211). -/
theorem regrpGate_met {s : State} {h : BitVec 3} {gid : Nat} {m : Member} (hf : s.me.regrpFails = false) (hidem : s.was.idem = none)
    (hsplit : s.splitOut = false) (hm : s.handleMember h = some (gid, m)) (hcounted : s.countedOn gid = false)
    (hcame : ∀ p, s.regrpPartner gid = some p → s.regrpCame gid p = true) : s.regrpGate h = .ok := by
  have hcheck : s.regrpCheck gid = .ok := by
    unfold State.regrpCheck
    split
    · next p hp => rw [hcame p hp, if_pos rfl]
    · rfl
  simp only [State.regrpGate, State.groupCheck, hf, hidem, hsplit, hm, hcounted, hcheck, Option.isSome_none, Bool.and_false, Bool.or_self,
    Bool.false_eq_true, if_false]

theorem execRegrp_next {s : State} {g : Gate} {h : BitVec 3} (ha : Acts s 0 g [.h h.toNat, .f 1]) (hc : s.regrpGate h = .ok) :
    execRegrp g h s = .next (s.regrpWord h) := by
  have hholds : s.regrpHolds g h = false := by
    rw [State.regrpHolds, verdict_acts (check := fun t => t.regrpGate h) ha hc]
    exact Bool.and_false _
  rw [execRegrp, ctl_next ha (encodingOk_of_plain rfl rfl rfl rfl s) hc]
  dsimp only
  rw [hholds, if_neg Bool.false_ne_true]

theorem regrpWord_failing {s : State} (hf : s.me.regrpFails = true) (h : BitVec 3) :
    s.regrpWord h = ((s.mod pastRegrp).regrpF1 false).regrpLeave s.focus := if_pos hf

theorem regrpWord_met {s : State} {h : BitVec 3} {gid : Nat} {m : Member} (hf : s.me.regrpFails = false)
    (hm : s.handleMember h = some (gid, m)) : s.regrpWord h = (s.mod pastRegrp).regrp gid := by
  have hword : s.regrpWord h = (s.mod pastRegrp).onMember h (fun u gid _ => u.regrp gid) :=
    if_neg (by rw [hf]; exact Bool.false_ne_true)
  rw [hword, State.onMember, handleMember_pastRegrp, hm]

/-! ## What each word does -/

section

variable {s : State} {g : Gate}

theorem execPass_next (h : Acts s 0 g []) : execPass g s = .next s.pass := ctl_next h (encodingOk_of_plain rfl rfl rfl rfl s) rfl

theorem execIdemb_next (h : Acts s 0 g []) :
    execIdemb g s = .next ((s.mod (fun c => { c with idem := some { s.snapshot s.focus with pc := s.issue.next } })).delay 2) :=
  ctl_next h (encodingOk_of_plain rfl rfl rfl rfl s) rfl

theorem execIdeme_next (h : Acts s 0 g []) : execIdeme g s = .next (s.mod (fun c => { c with idem := none })) :=
  ctl_next h (encodingOk_of_plain rfl rfl rfl rfl s) rfl

theorem execTrap_traps {code : BitVec 16} (h : Acts s 0 g []) (hp : s.issue.pre = none) :
    execTrap g code s = .next (s.enterTrap s.focus s.issue.next [s.seqRec rTRAP 0 0 (BitVec.ofNat 64 code.toNat)]) :=
  ctl_trap h hp (encodingOk_of_plain rfl rfl rfl rfl s) (n := true) rfl

theorem execTrapLiteral_traps {code : Dword} (h : Acts s 0 g []) (hp : s.issue.pre = none) :
    execTrapLiteral g code s = .next (s.enterTrap s.focus s.issue.next [s.seqRec rTRAP 0 0 code]) :=
  ctl_trap h hp (encodingOk_of_plain rfl rfl rfl rfl s) (n := true) rfl

theorem execBrk_stops {code : BitVec 16} (h : Acts s 0 g []) (hd : s.was.dbgEn = true) : execBrk g code s = .next s.brkStop :=
  ctl_next h (encodingOk_of_plain rfl rfl rfl rfl s) (if_pos hd)

theorem execBrk_traps {code : BitVec 16} (h : Acts s 0 g []) (hp : s.issue.pre = none) (hd : s.me.dbgEn = false) :
    execBrk g code s = .next (s.enterTrap s.focus s.issue.next [s.seqRec rBRK 0 0 (BitVec.ofNat 64 code.toNat)]) :=
  ctl_trap h hp (encodingOk_of_plain rfl rfl rfl rfl s) (n := true) (by rw [was_alone hp, hd]; rfl)

theorem execSysret_next (h : Acts s 0 g []) (hsup : s.was.sup = true) (halign : s.rEpc.toNat % 4 = 0) :
    execSysret g s = .next (s.sysret s.focus) :=
  ctl_next h (encodingOk_of_plain rfl rfl rfl rfl s)
    ((verdict_and_ok_iff _ _).mpr ⟨(need_ok_iff s 0 _).mpr hsup, targetCheck_aligned s halign⟩)

theorem execSysret_outside (h : Acts s 0 g []) (hp : s.issue.pre = none) (hsup : s.me.sup = false) :
    execSysret g s = .next (s.enterTrap s.focus s.issue.bundle [s.seqRec rSTATE 0 0 0]) :=
  ctl_trap h hp (encodingOk_of_plain rfl rfl rfl rfl s) (n := false) (by rw [was_alone hp, hsup]; rfl)

theorem execSysret_misaligned (h : Acts s 0 g []) (hp : s.issue.pre = none) (hsup : s.was.sup = true) (halign : s.rEpc.toNat % 4 ≠ 0) :
    execSysret g s = .next (s.enterTrap s.focus s.issue.bundle [s.seqRec rALIGN 4 0 s.rEpc]) :=
  ctl_trap h hp (encodingOk_of_plain rfl rfl rfl rfl s) (n := false)
    (by rw [hsup, need_true, verdict_ok_and, targetCheck_misaligned s halign])

theorem execPark_next {sT : BitVec 5} (h : Acts s 0 g (useS [sT])) : execPark g sT s = .next (s.parkWord (s.rS sT)) :=
  ctl_next h (encodingOk_of_plain rfl rfl rfl rfl s) rfl

/-- PARK by itself in its bundle parks at once (R213). -/
theorem parkWord_alone (hp : s.issue.pre = none) (wake : Dword) :
    s.parkWord wake = (s.mod (fun c => { c with pc := s.issue.next }.backEdge)).parkNow s.owner .parkWord wake.toNat := by
  simp only [State.parkWord, hp]

/-- PARK among other words is noted for the end of its bundle (R174, R213). -/
theorem parkWord_among (hp : s.issue.pre ≠ none) (wake : Dword) :
    s.parkWord wake = { s.mod (fun c => { c with wakeAt := wake.toNat }) with issue := { s.issue with park := true } } := by
  obtain ⟨p, hpre⟩ := Option.ne_none_iff_exists'.mp hp
  simp only [State.parkWord, hpre]

theorem execDone_next (h : Acts s 0 g []) (hc : s.doneCheck = .ok) : execDone g s = .next s.done :=
  ctl_next h (encodingOk_of_plain rfl rfl rfl rfl s) hc

theorem execExit_next (h : Acts s 0 g []) (hc : s.opsHold = .ok) : execExit g s = .next (s.exitContext s.owner) :=
  ctl_next h (encodingOk_of_plain rfl rfl rfl rfl s) hc

end

/-- Settles O3, word by word. -/
theorem sequencerWords : Obligations.SequencerWords := by
  unfold Obligations.SequencerWords
  intro s g
  refine ⟨fun h => execPass_next h, fun h => execIdemb_next h, fun h => execIdeme_next h, fun _ h hp => execTrap_traps h hp,
    fun _ h hp => execTrapLiteral_traps h hp, fun _ h hd => execBrk_stops h hd, fun _ h hp hd => execBrk_traps h hp hd,
    fun h hsup halign => execSysret_next h hsup halign, fun h hp hsup => execSysret_outside h hp hsup,
    fun h hp hsup halign => execSysret_misaligned h hp hsup halign, ?spawn, ?parkAlone, ?parkAmong, fun h hc => execDone_next h hc,
    fun h hc => execExit_next h hc, ?regrp⟩
  case spawn =>
    intro sA h hidem hfresh hroom
    refine (execSpawn_next h (spawnCheck_ok hidem hfresh hroom)).trans (congrArg Host.Outcome.next (if_neg ?_))
    rw [hfresh]
    exact nofun
  case parkAlone => exact fun _ h hp => (execPark_next h).trans (congrArg Host.Outcome.next (parkWord_alone hp _))
  case parkAmong => exact fun _ h hp => (execPark_next h).trans (congrArg Host.Outcome.next (parkWord_among hp _))
  case regrp =>
    intro h ha t
    refine ⟨fun hf => ?failing, fun gid m hf hidem hsplit hm hcounted hcame => ?met⟩
    case failing => exact (execRegrp_next ha (regrpGate_failing hf h)).trans (congrArg Host.Outcome.next (regrpWord_failing hf h))
    case met =>
      exact (execRegrp_next ha (regrpGate_met hf hidem hsplit hm hcounted hcame)).trans (congrArg Host.Outcome.next (regrpWord_met hf hm))

end Sys2Proof.Proofs
end

section
/-!
PROOF. The scheduler's events: bins, waiting items and contexts, pre-emption, parking and resuming (R31, R36 to R40, R50, R52, R53, R163,
R213, R384, R388 to R390, R394).
-/
namespace Sys2Proof.Proofs

open Machine Laws

/-! ## Bins (R36 to R40, R388) -/

section

variable {s : State} {die bin : Nat} {b : Bin}

/-- A bin whose oldest item has waited the bin timer becomes due (R37). -/
theorem binTimer_expired (hb : s.binAt die bin = some b) (hdue : b.due = false) (htime : b.since + (s.region b.region).timer ≤ s.time) :
    execBinTimer die bin s = .next (s.putBin die bin (some { b with due := true })) := by
  simp only [execBinTimer, hb, hdue, htime, Bool.not_false, decide_true, Bool.and_self, if_true]

/-- Items that have outwaited the steal age become stealable (R38). -/
theorem stealAge_outwaited (hb : s.binAt die bin = some b) (hold : ∃ i ∈ b.items, i.old = false ∧ s.outwaited b i = true) :
    execStealAge die bin s = .next (s.putBin die bin (some { b with
      items := b.items.map (fun i => { i with old := i.old || s.outwaited b i }) })) := by
  obtain ⟨i, hi, hyoung, hout⟩ := hold
  have hany : b.items.any (fun i => !i.old && s.outwaited b i) = true := List.any_eq_true.mpr ⟨i, hi, by rw [hyoung, hout]; rfl⟩
  simp only [execStealAge, hb, hany, if_true]

/-- A due bin that has waited 50 ms takes priority 256 (R388). -/
theorem candidateAge_bin (hb : s.binAt die bin = some b) (hbin : bin < Config.binsPerDie) (hdue : b.due = true) (haged : b.aged = false)
    (htime : b.since + agedAfter ≤ s.time) :
    execCandidateAge die bin s = .next (s.putBin die bin (some { b with aged := true })) := by
  simp only [execCandidateAge, hbin, hb, hdue, haged, htime, Bool.not_false, decide_true, Bool.and_self, if_true]

/-- A due bin that is the first candidate for a free place which is not reserved launches there (R37, R163, R388). -/
theorem binLaunch_first {gang ctx : Nat} {c : Cand} (hb : s.binAt die bin = some b) (hfirst : s.firstFor die gang ctx = some c)
    (hbin : c.isBin = true) (hid : c.id = bin) (hdie : gang / Config.gangsPerDie = die) (hfree : s.placeFree gang ctx = true)
    (hres : s.reserved c.prio gang ctx = false) : execBinLaunch die bin gang ctx s = .next (s.launchBin die bin b gang ctx) := by
  simp only [execBinLaunch, hb, hfirst, hbin, hid, hdie, hfree, hres, beq_self_eq_true, Bool.not_false, Bool.and_self, if_true]

/-- The die in turn that holds a stealable item, and its bin, are what a die steals from (R38). -/
theorem stealChoice_of_turn {thief : Nat} (hb : s.binAt die bin = some b)
    (hturn : (stealOrder thief (s.die thief).lastSteal).find? (fun v => ((s.die v).stealFrom).isSome) = some die)
    (hfrom : (s.die die).stealFrom = some bin) : s.stealChoice thief = some (die, bin, b) := by
  simp only [State.stealChoice, hturn, hfrom, Option.bind_some, hb, Option.map_some]

/-- A die with a free bin, a seat and no due bin steals, where the region of the items admits it (R38, R386). -/
theorem steal_idle {thief nb g k : Nat} (hthief : thief < Config.dies) (hidle : ∀ e ∈ (s.die thief).bins, e.2.due = false)
    (hfree : (s.die thief).freeBin = some nb) (hchoice : s.stealChoice thief = some (die, bin, b))
    (hseat : s.stealSeat thief (s.effPrio b.region (s.withItems b (b.items.filter b.stealable)).aged) = some (g, k))
    (hadmits : s.admits b.region = true) (hheld : s.marked Region.held b.region = false)
    (hretired : s.marked Region.retired b.region = false) : execSteal thief s = .next (s.stealInto thief die bin nb g k b) := by
  have hdue : (s.die thief).bins.any (fun e => e.2.due) = false := by
    simpa only [List.any_eq_false, Bool.not_eq_true] using hidle
  simp only [execSteal, Nat.not_le.mpr hthief, hdue, hfree, hchoice, hseat, hadmits, hheld, hretired, decide_false, Bool.or_self,
    Bool.not_false, Bool.and_self, Bool.false_eq_true, if_false, if_true]

end

/-- Settles O27: each event is enabled, so it has the whole of its effect. -/
theorem binSteps : Obligations.BinSteps := by
  unfold Obligations.BinSteps
  intro s die bin b hb
  refine ⟨fun hdue htime => binTimer_expired hb hdue htime, fun hold => stealAge_outwaited hb hold,
    fun hbin hdue haged htime => candidateAge_bin hb hbin hdue haged htime,
    fun gang ctx c hfirst hbin hid hdie hfree hres => binLaunch_first hb hfirst hbin hid hdie hfree hres, ?steal⟩
  case steal =>
    intro thief nb g k hthief hidle hfree hseat hturn hfrom hadmits hheld hretired
    exact steal_idle hthief hidle hfree (stealChoice_of_turn hb hturn hfrom) hseat hadmits hheld hretired

/-! ## What waits (R36, R50, R213, R384, R388, R390) -/

section

variable {s : State}

/-- The item that has waited longest opens or joins a bin, for the launch or the context that waits with it (R36, R384). -/
theorem waitingItemFile_filed {die bn : Nat} {w : WaitItem} {t : List WaitItem} {r : List Dword} (hwaiting : (s.die die).waiting = w :: t)
    (hrec : s.flatRecord (if w.cid = 0 then ⟨w.region, die⟩ else s.partyOf w.cid) w.addr.toNat 8 = some r)
    (hbin : ((s.die die).joinBin r).or (s.die die).freeBin = some bn) :
    let s1 := (s.setDie die { s.die die with waiting := t }).putInBin die bn w.addr.toNat r
    execWaitingItemFile die s = .next (if w.cid = 0 then s1.fileOn else s1.modCtx w.cid (fun c => { c with spawnOk := some w.addr })) := by
  simp only [execWaitingItemFile, hwaiting, hrec, hbin]

/-- A READY context that has waited 50 ms takes priority 256 (R388); contexts are numbered after the bins. -/
theorem candidateAge_ready {die cid since : Nat} {c : Ctx} (hc : tableFind s.ctxs cid = some c) (hready : c.readyAt = some since)
    (hdie : c.place.die = die) (haged : c.aged = false) (htime : since + agedAfter ≤ s.time) :
    execCandidateAge die (Config.binsPerDie + cid) s = .next (s.setCtx cid { c with aged := true }) := by
  simp only [execCandidateAge, Nat.not_lt.mpr (Nat.le_add_right Config.binsPerDie cid), Nat.add_sub_cancel_left, hc, hready, hdie, haged,
    htime, beq_self_eq_true, Bool.not_false, decide_true, Bool.and_self, if_true, if_false]

/-- A context whose token has been outstanding longer than CWTHR parks (R50). -/
theorem cwthrExpiry_outstanding {cid n : Nat} {o : Op} (hctx : (tableFind s.ctxs cid).isSome = true) (hheld : (s.ctxAt cid).heldOn = some n)
    (hplace : (s.ctxAt cid).place.resident = true) (hgo : s.stoppedSide (s.ownerOf cid) = false) (hpark : (s.ctxAt cid).holdPark = false)
    (htoken : (s.ctxAt cid).tokens.getLsbD n = true) (hop : s.tokenOp cid n = some o)
    (hlong : o.issued + (s.ctxAt cid).cwthr.toNat < s.cycleOf (s.ctxAt cid).place.die) :
    execCwthrExpiry cid s = .next (s.parkNow (s.ownerOf cid) .copyWait 0) := by
  obtain ⟨c, hc⟩ := Option.isSome_iff_exists.mp hctx
  simp only [execCwthrExpiry, hc, hheld, hplace, hgo, hpark, htoken, hop, Option.any_some, hlong, decide_true, Bool.not_false, Bool.and_self,
    if_true]

/-- A park that waits for an area takes one that has become free before its reason has cleared (R390). -/
theorem deferredPark_area {cid : Nat} (hctx : (tableFind s.ctxs cid).isSome = true) (hpark : (s.ctxAt cid).holdPark = true)
    (hplace : (s.ctxAt cid).place.resident = true) (hgo : s.stoppedSide cid = false) (hreason : s.reasonClear cid = false)
    (harea : (s.freeAreaOf (s.ctxAt cid).region).isSome = true) :
    execDeferredPark cid s = .next (s.parkNow cid (s.ctxAt cid).reason (s.ctxAt cid).wakeAt) := by
  simp only [execDeferredPark, hctx, hpark, hplace, hgo, hreason, harea, Bool.not_false, Bool.and_self, if_true]

/-- The wake time of a PARK, once it has come, clears the reason (R213). -/
theorem parkWake_due {cid : Nat} (hctx : (tableFind s.ctxs cid).isSome = true) (hreason : (s.ctxAt cid).reason = .parkWord)
    (hwake : (s.ctxAt cid).wakeAt ≠ 0) (htime : (s.ctxAt cid).wakeAt ≤ s.time) :
    execParkWake cid s = .next (s.setCtx cid { s.ctxAt cid with wakeAt := 0 }) := by
  simp only [execParkWake, hctx, hreason, beq_self_eq_true, decide_eq_true hwake, htime, decide_true, Bool.and_self, if_true]

end

/-- Settles O28: each event is enabled, so it has the whole of its effect. -/
theorem waitingSteps : Obligations.WaitingSteps := by
  unfold Obligations.WaitingSteps
  intro s
  refine ⟨fun _ _ _ _ _ hwaiting hrec hbin => waitingItemFile_filed hwaiting hrec hbin,
    fun _ _ _ _ hc hready hdie haged htime => candidateAge_ready hc hready hdie haged htime, ?cwthr,
    fun _ hctx hpark hplace hgo hreason harea => deferredPark_area hctx hpark hplace hgo hreason harea,
    fun _ hctx hreason hwake htime => parkWake_due hctx hreason hwake htime⟩
  case cwthr =>
    rintro cid n hctx hheld hplace hgo hpark htoken ⟨o, hop, hlong⟩
    exact cwthrExpiry_outstanding hctx hheld hplace hgo hpark htoken hop hlong

/-! ## Pre-emption, parked contexts, co-resident groups (R31, R50, R52, R53, R163, R389, R394) -/

section

variable {s : State} {cid : Nat}

/-- A parked context whose operations and receives have ended and whose reason has cleared becomes READY (R31, R50). -/
theorem itemReady_clear (hctx : (tableFind s.ctxs cid).isSome = true) (hplace : (s.ctxAt cid).place.resident = false)
    (hgang : (s.ctxAt cid).isLanding = false) (hfirst : (s.ctxAt cid).readyAt = none) (hops : s.opsRun cid = false)
    (hrecvs : s.recvOpen cid = false) (hreasons : ∀ x ∈ s.sidesOf cid, s.reasonClear x = true) :
    execItemReady cid s = .next (((s.ctxAt cid).items.foldl (fun t e =>
      t.itemState (schedParty e.2.region (s.ctxAt cid).place.die) e.2.addr.toNat stREADY) s).modCtx cid (fun x => { x with
        readyAt := some s.time })).coresUpdate := by
  have hall : (s.sidesOf cid).all (fun x => s.reasonClear x) = true := List.all_eq_true.mpr hreasons
  simp only [execItemReady, hctx, hplace, hgang, hfirst, hops, hrecvs, hall, Option.isNone_none, Bool.not_false, Bool.and_self, if_true]

/-- A context that the scheduler has chosen parks at a pre-emption point, and is marked before it comes to one (R52, R389). -/
theorem preempt_chosen (hctx : (tableFind s.ctxs cid).isSome = true) (hrun : cid ∈ s.runningOn (s.ctxAt cid).place.die)
    (hgo : s.stoppedSide cid = false) (hchosen : (s.ctxAt cid).preempt = true ∨ (s.victimFor cid).isSome = true)
    (harea : (s.freeAreaOf (s.ctxAt cid).region).isSome = true) :
    execPreempt cid s = .next (if s.atPreemptPoint cid then s.preemptNow cid else s.setCtx cid { s.ctxAt cid with
      preempt := true, victimOf := ((s.victimFor cid).map (fun x => x.mark (s.ctxAt cid).place.die)).or (s.ctxAt cid).victimOf }) := by
  have hcontains : (s.runningOn (s.ctxAt cid).place.die).contains cid = true := List.contains_iff_mem.mpr hrun
  have hmarked : ((s.ctxAt cid).preempt || (s.victimFor cid).isSome) = true := Bool.or_eq_true_iff.mpr hchosen
  simp only [execPreempt, hctx, hcontains, hgo, hmarked, harea, Bool.not_false, Bool.and_self, if_true]

/-- A READY context outside co-resident groups that is the first candidate for a free place which is not reserved resumes there (R388, R394). -/
theorem resume_first {gang ctx : Nat} {c : Cand} (hfirst : s.firstFor (gang / Config.gangsPerDie) gang ctx = some c) (hbin : c.isBin = false)
    (hid : c.id = cid) (hcores : s.inCores cid = false) (hres : s.reserved c.prio gang ctx = false) (hfree : s.placeFree gang ctx = true) :
    execResume cid gang ctx s = .next ((s.wakeGang gang).resumeAt cid gang ctx) := by
  simp only [execResume, hfirst, hbin, hid, hcores, hres, hfree, beq_self_eq_true, Bool.not_false, Bool.and_self, if_true]

/-- Co-resident groups that all resume have their members placed in one step, and are LIVE (R163). -/
theorem coresGroupResume_placed {gid : Nat} {gs cs : List Nat} {t0 : State} (hcores : (s.groupAt gid).cores = true)
    (hgs : gs = s.coresLinked s.groups.length [gid]) (hresuming : ∀ g ∈ gs, (s.groupAt g).state = .resuming)
    (hcs : cs = (s.ctxs.map Prod.fst).filter (fun c => gs.any (fun g => (s.groupAt g).contexts.contains c)))
    (hplaced : State.placeAll cs s = some t0) :
    execCoresGroupResume gid s = .next { cs.foldl State.resumeCheck t0 with groups := (cs.foldl State.resumeCheck t0).groups.map (fun e =>
      if gs.contains e.1 && e.2.state == .resuming then (e.1, { e.2 with state := .live }) else e) } := by
  have hall : gs.all (fun g => (s.groupAt g).state == .resuming) = true :=
    List.all_eq_true.mpr (fun g hg => beq_iff_eq.mpr (hresuming g hg))
  simp only [execCoresGroupResume, ← hgs, ← hcs, hcores, hall, hplaced, Option.map_some, Bool.and_self, if_true]

end

/-- Settles O29: each event is enabled, so it has the whole of its effect. -/
theorem parkingSteps : Obligations.ParkingSteps := by
  unfold Obligations.ParkingSteps
  intro s cid hctx
  refine ⟨fun hplace hgang hfirst hops hrecvs hreasons => itemReady_clear hctx hplace hgang hfirst hops hrecvs hreasons, ?preempt,
    fun _ _ _ hfirst hbin hid hcores hres hfree => resume_first hfirst hbin hid hcores hres hfree,
    fun _ hcores hresuming _ hplaced => coresGroupResume_placed hcores rfl hresuming rfl hplaced⟩
  case preempt =>
    intro hrun hgo hchosen harea
    have hchoice := preempt_chosen hctx hrun hgo hchosen harea
    exact ⟨fun hpoint => hchoice.trans (congrArg Host.Outcome.next (if_pos hpoint)),
      fun hpoint => hchoice.trans (congrArg Host.Outcome.next (if_neg (by rw [hpoint]; exact Bool.false_ne_true)))⟩

end Sys2Proof.Proofs
end

section
/-!
PROOF. The commands of the debug block (R61, R356, R396, R397).
-/
namespace Sys2Proof.Proofs

open Machine Laws

section

variable {s : State} {cid : Nat}

theorem selected_touchBar (s : State) : s.touchBar.selected = s.selected := rfl

/-- A command acts on the selected context, and DBGSTAT shows no bit 3 (R397). -/
theorem debugCommand_selected (h : s.selected = some cid) (f : State → Nat → State) : s.debugCommand f = f (s.setBar 2 0x10 0) cid := by
  simp only [State.debugCommand, h]

/-- A command without a selected context only shows bit 3 of DBGSTAT (R397). -/
theorem debugCommand_none (h : s.selected = none) (f : State → Nat → State) : s.debugCommand f = s.setBar 2 0x10 8 := by
  simp only [State.debugCommand, h]

theorem onSelected_selected (h : s.selected = some cid) (f : State → Nat → State) : s.onSelected f = f s cid := by
  simp only [State.onSelected, h]

/-- HALT stops a context that runs (R397). -/
theorem debugHalt_running (h : s.selected = some cid) (hgo : (s.ctxAt cid).dbgStop = false) :
    s.debugHalt = (((s.setBar 2 0x10 0).modCtx cid (fun c => { c with dbgStop := true, dbgBrk := false })).cause 1) :=
  (debugCommand_selected h _).trans (if_neg (by rw [show ((s.setBar 2 0x10 0).ctxAt cid).dbgStop = false from hgo]; exact Bool.false_ne_true))

/-- A step lets a stopped context issue one bundle, and with `all` its landings after it (R61, R397). -/
theorem debugStep_stopped (h : s.selected = some cid) (hstop : (s.ctxAt cid).dbgStop = true) (all : Bool) :
    s.debugStep all = (s.setBar 2 0x10 0).stepThese (cid :: (if all then (s.setBar 2 0x10 0).landOrder cid else [])) all :=
  (debugCommand_selected h _).trans (if_pos hstop)

/-- DBGDATA writes a unit of a register of a stopped context, at its sequencer or in an engine (R356, R396). -/
theorem execDbgdata_stopped (h : s.touchBar.selected = some cid) (hstop : (s.touchBar.ctxAt cid).dbgStop = true) (v : Dword) :
    execDbgdata v s = .next ((s.touchBar.modCtx cid (fun x => x.putUnit s.touchBar.debugAt.1 s.touchBar.debugAt.2.2 v)).modEng
      (s.touchBar.ctxAt cid).place.gangNo s.touchBar.debugAt.2.1 (fun x => x.setPart (s.touchBar.ctxAt cid).place.engCtx
        ((x.part (s.touchBar.ctxAt cid).place.engCtx).putUnit s.touchBar.debugAt.1 s.touchBar.debugAt.2.2 v))) :=
  congrArg Host.Outcome.next ((onSelected_selected h _).trans (if_pos hstop))

end

/-- Settles O36: a command goes by the context that DBGSEL names. -/
theorem debugSteps : Obligations.DebugSteps := by
  unfold Obligations.DebugSteps
  refine ⟨?none, ?selected⟩
  case none =>
    intro s0 hnone i hi
    have hshown (f : State → Nat → State) : Host.Outcome.next (s0.touchBar.debugCommand f) = (.next (s0.touchBar.setBar 2 0x10 8) : Answer) :=
      congrArg Host.Outcome.next (debugCommand_none ((selected_touchBar s0).trans hnone) f)
    fin_cases hi <;> exact hshown _
  case selected =>
    intro s0 cid hsel s t
    have h : s.selected = some cid := (selected_touchBar s0).trans hsel
    have hacts (f : State → Nat → State) : Host.Outcome.next (s.debugCommand f) = (.next (f t cid) : Answer) :=
      congrArg Host.Outcome.next (debugCommand_selected h f)
    exact ⟨fun hgo => congrArg Host.Outcome.next (debugHalt_running h hgo), hacts _, hacts _, hacts _,
      fun hstop => ⟨congrArg Host.Outcome.next (debugStep_stopped h hstop false), congrArg Host.Outcome.next (debugStep_stopped h hstop true),
        execDbgdata_stopped h hstop⟩⟩

end Sys2Proof.Proofs
end

section
/-!
PROOF. Retirement, sparing, lane failure and uncorrectable errors (R57, R435 to R437).
-/
namespace Sys2Proof.Proofs

open Machine Laws

/-! ## Words that stay uncorrectable (R434, R435) -/

@[simp] theorem count_fleet (s : State) (die : Option Nat) (i n : Nat) : (s.count die i n).fleet = s.fleet := setBar_fleet _ _ _ _

@[simp] theorem rekeyBlock_fleet (s : State) (seen key : BitVec 512) (n : Nat) : (s.rekeyBlock seen key n).fleet = s.fleet := by
  unfold State.rekeyBlock
  split <;> rfl

theorem writeBack_fleet (s : State) (line : Nat) : (s.writeBack line).fleet = s.fleet := by
  unfold State.writeBack
  split
  · next x _ =>
    split
    · rfl
    · rw [count_fleet]
      change (if x.key = s.keyOf x.tag then s else _).fleet = s.fleet
      split
      · rfl
      · exact foldl_keeps (P := fun u => u.fleet = s.fleet) (fun u i hu => (rekeyBlock_fleet u _ _ _).trans hu) _ s rfl
  · rfl

/-- A use of a line is no part of the fleet's record. -/
theorem useLine_fleet (s : State) (slot line : Nat) (write : Bool) : (s.useLine slot line write).fleet = s.fleet := by
  unfold State.useLine
  dsimp only
  split
  · split
    · rw [count_fleet]
      split <;> rfl
    · rw [count_fleet, count_fleet]
      exact writeBack_fleet s line
  · rw [count_fleet, count_fleet]

theorem useLines_fleet (s : State) (slot pa n : Nat) (write : Bool) : (s.useLines slot pa n write).fleet = s.fleet := by
  unfold State.useLines
  split
  · rfl
  · exact foldl_keeps (P := fun u => u.fleet = s.fleet) (fun u i hu => (useLine_fleet u slot _ write).trans hu) _ s rfl

/-- Whether a read of n bytes meets the HBM word of 32 bytes at an address. -/
def meetsWord (pa n w : Nat) : Bool := decide (w < pa + n) && decide (pa < w + 32)

theorem meetsWord_iff (pa n w : Nat) : meetsWord pa n w = true ↔ w < pa + n ∧ pa < w + 32 := by
  simp only [meetsWord, Bool.and_eq_true, decide_eq_true_eq]

section

variable {s : State} {v : EccVictim} {slot pa n : Nat}

theorem reads_hbm (hn : 0 < n) (hk : paKind pa = .hbm) : s.reads v slot pa n = s.readsHbm v slot pa n := by
  simp only [State.reads, if_neg (Nat.ne_of_gt hn), hk]

/-- A read that meets such a word is noted, to raise the error again (R435). -/
theorem readsHbm_meets {k : Nat} (hn : 0 < n) (hf : s.fleet.badWords.find? (meetsWord pa n) = some k) :
    s.readsHbm v slot pa n = (s.useLines slot pa n false).onFleet (fun f => { f with met := f.met ++ [(v, k)] }) := by
  have hfind : (s.useLines slot pa n false).fleet.badWords.find? (fun w => decide (w < pa + n) && decide (pa < w + 32)) = some k := by
    rw [useLines_fleet]
    exact hf
  simp only [State.readsHbm, if_neg (Nat.ne_of_gt hn), hfind, State.onFleet]

/-- A read that meets none brings in its lines. -/
theorem readsHbm_misses (hn : 0 < n) (hf : s.fleet.badWords.find? (meetsWord pa n) = none) :
    s.readsHbm v slot pa n = s.useLines slot pa n false := by
  have hfind : (s.useLines slot pa n false).fleet.badWords.find? (fun w => decide (w < pa + n) && decide (pa < w + 32)) = none := by
    rw [useLines_fleet]
    exact hf
  simp only [State.readsHbm, if_neg (Nat.ne_of_gt hn), hfind]

end

/-- A write makes the words that it replaces whole good again (R435). -/
theorem mendWords_mends (s : State) {pa n k : Nat} (hlow : pa ≤ k) (hhigh : k + 32 ≤ pa + n) : k ∉ (s.mendWords pa n).fleet.badWords := by
  unfold State.mendWords
  split
  · next hempty => rw [List.isEmpty_iff.mp hempty]; exact List.not_mem_nil
  · intro hk
    have hkept := (List.mem_filter.mp hk).2
    simp only [hlow, hhigh, decide_true, Bool.and_self, Bool.not_true, Bool.false_eq_true] at hkept

theorem hbmWrite_mends (s : State) (slot : Nat) {pa k : Nat} {bs : List Byte} (hlow : pa ≤ k) (hhigh : k + 32 ≤ pa + bs.length) :
    k ∉ (s.hbmWrite slot pa bs).fleet.badWords := by
  cases bs with
  | nil => exact absurd hhigh (by simp only [List.length_nil]; omega)
  | cons b bs => exact mendWords_mends _ hlow hhigh

/-! ## Retirement, sparing, lanes (R436) -/

section

variable {s : State}

/-- GRET with its key retires the gang that it names (R436). -/
theorem execGret_keyed {v : Dword} (hkey : bits v.toNat 8 8 = 0xA5) :
    execGret v s = .next (s.touchBar.retireGang (bits v.toNat 0 8)) := congrArg Host.Outcome.next (if_pos hkey)

/-- A channel whose stack has a spare left is copied to it (R436). -/
theorem hbmChannelSpare_copies {stack channel : Nat} (hstack : stack < hbmStacks) (hchannel : channel < 32)
    (hused : tableGet s.fleet.hbmSpare stack 0 < 2) (hidle : tableFind s.fleet.copying (stack * 32 + channel) = none) :
    execHbmChannelSpare stack channel s = .next (((s.count none 7 256).onFleet (fun f => { f with
      hbmSpare := tableInsert f.hbmSpare stack (tableGet s.fleet.hbmSpare stack 0 + 1)
      copying := tableInsert f.copying (stack * 32 + channel) 1 })).errorRecord (stack * 32 + channel) 4 3 (stack / 3) 0xFF 256) := by
  simp only [execHbmChannelSpare, Nat.not_le.mpr hstack, Nat.not_le.mpr hchannel, Nat.not_le.mpr hused, hidle, Option.isSome_none,
    decide_false, Bool.or_self, Bool.false_eq_true, if_false]

variable {port : Nat} (hport : port < linkPorts) (hup : (s.linkPort port).down = false)

include hport hup

/-- The spare lane of a port takes over (R436). -/
theorem laneFailure_spare (hspared : (s.linkPort port).spared = false) :
    execLaneFailure port s = .next ((s.onFleet (fun f => { f with
      links := tableInsert f.links port { s.linkPort port with spared := true } })).errorRecord port 6 3 0xFF 0xFF 1) := by
  simp only [execLaneFailure, Nat.not_le.mpr hport, hup, hspared, decide_false, Bool.or_self, Bool.false_eq_true, if_false]

/-- A port whose spare lane is in use goes down, and the programs routed over it stop (R339, R436). -/
theorem laneFailure_down (hspared : (s.linkPort port).spared = true) :
    execLaneFailure port s = .next (((s.porches.filter (fun e => e.2.running && e.2.routes.any (fun r => s.routeUses r port))).map
      Prod.fst).foldl (fun u q => u.stopPorch q 6) ((s.onFleet (fun f => { f with
        links := tableInsert f.links port { s.linkPort port with down := true } })).errorRecord port 6 5 0xFF 0xFF 1)) := by
  simp only [execLaneFailure, Nat.not_le.mpr hport, hup, hspared, decide_false, Bool.or_self, Bool.false_eq_true, if_false, if_true]

end

/-! ## What an uncorrectable error ends (R57, R435) -/

section

variable {s : State} (x : ErrorAt)

theorem uncorrectable_context {cid : Nat} (h : (tableFind s.ctxs cid).isSome = true) :
    s.uncorrectable (.context cid) x = s.eccRegion x (s.ctxAt cid).region := if_pos h

/-- An error in a memory of a gang retires the gang too (R436). -/
theorem uncorrectable_engine {cid : Nat} (h : (tableFind s.ctxs cid).isSome = true) :
    s.uncorrectable (.engine cid) x = (s.eccRegion x (s.ctxAt cid).region).retireGang (s.ctxAt cid).place.gangNo := if_pos h

theorem uncorrectable_porch {q : Nat} (h : (s.porch q).running = true) :
    s.uncorrectable (.porch q) x = (s.stopPorch q 0x0A).eccRegion x (s.porch q).region := if_pos h

theorem uncorrectable_record {r : Nat} (h : (tableFind s.regions r).isSome = true) : s.uncorrectable (.record r) x = s.eccRegion x r := if_pos h

/-- An error in the record of no live region ends no work. -/
theorem uncorrectable_noRecord {r : Nat} (h : tableFind s.regions r = none) : s.uncorrectable (.record r) x = s.eccRecord x 0xFF := by
  simp only [State.uncorrectable, h, Option.isSome_none, Bool.false_eq_true, if_false]

theorem uncorrectable_group {gid : Nat} (h : (s.groupAt gid).state ≠ .free) :
    s.uncorrectable (.group gid) x =
      let t := s.eccRegion x (s.groupAt gid).region
      if (t.groupAt gid).state = .free then t else t.setGroup gid { inc := nextInc (t.groupAt gid).inc } := if_neg h

theorem uncorrectable_channel {ch : Nat} {c : Channel} (h : tableFind s.channels ch = some c) :
    s.uncorrectable (.channel ch) x =
      let t := s.eccRegion x c.region
      { t with channels := tableErase t.channels ch } := by
  simp only [State.uncorrectable, h]

theorem uncorrectable_porchSlot {q : Nat} (h : (s.porch q).loaded = true) :
    s.uncorrectable (.porchSlot q) x =
      ((s.eccRegion x (s.porch q).home).stopPorch q 0x0A).setPorch q { inc := nextInc (s.porch q).inc } := if_pos h

theorem uncorrectable_word {pa : Nat} (h : pa < Config.hbmBytes) : s.uncorrectable (.word pa) x = (s.spoil pa).eccRecord x 0xFF := if_pos h

/-- The event raises its error where R437 and its victim say that it lies. -/
theorem execEccUncorrectable_next {v : EccVictim} {t : State} (h : s.uncorrectable v (s.errorAt v) = t) :
    execEccUncorrectable v s = .next t := congrArg Host.Outcome.next h

/-- A scrub finds its error in some source of R437, on some die. -/
theorem errorAt_scrub (s : State) : 1 ≤ (s.errorAt .scrub).src ∧ (s.errorAt .scrub).src ≤ 7 ∧ (s.errorAt .scrub).die < 4 := by
  refine ⟨Nat.le_add_right _ _, ?_, Nat.mod_lt _ (by decide)⟩
  have := Nat.mod_lt (Config.freeBits s.free (2 ^ 55 + 1)) (show 0 < 7 by decide)
  change 1 + Config.freeBits s.free (2 ^ 55 + 1) % 7 ≤ 7
  omega

end

/-- Settles O41: what each event retires, spares or ends. -/
theorem errorSteps : Obligations.ErrorSteps := by
  unfold Obligations.ErrorSteps
  intro s
  refine ⟨fun v hkey => execGret_keyed hkey, fun _ => rfl, ?spare, ?lane, ?context, ?porch, ?record, ?noRecord, rfl, ⟨_, rfl⟩, ?group, ?channel,
    ?porchSlot, ?scrub, ?word, ?reads, fun slot _ _ _ hlow hhigh => hbmWrite_mends s slot hlow hhigh⟩
  case spare =>
    exact fun stack channel => ⟨fun hstack hchannel hused hidle => hbmChannelSpare_copies hstack hchannel hused hidle, rfl⟩
  case lane =>
    exact fun port hport hup => ⟨laneFailure_spare hport hup, laneFailure_down hport hup⟩
  case context =>
    intro cid h
    exact ⟨execEccUncorrectable_next (uncorrectable_context _ h), rfl, execEccUncorrectable_next (uncorrectable_engine _ h)⟩
  case porch => exact fun q h => execEccUncorrectable_next (uncorrectable_porch _ h)
  case record => exact fun r h => execEccUncorrectable_next (uncorrectable_record _ h)
  case noRecord => exact fun r h => execEccUncorrectable_next (uncorrectable_noRecord _ h)
  case group => exact fun gid h => execEccUncorrectable_next (uncorrectable_group _ h)
  case channel => exact fun ch c h => execEccUncorrectable_next (uncorrectable_channel _ h)
  case porchSlot => exact fun q h => execEccUncorrectable_next (uncorrectable_porchSlot _ h)
  case scrub =>
    obtain ⟨hlow, hhigh, hdie⟩ := errorAt_scrub s
    exact ⟨s.errorAt .scrub, hlow, hhigh, hdie, rfl⟩
  case word => exact fun pa h => execEccUncorrectable_next (uncorrectable_word _ h)
  case reads =>
    intro w slot pa n hn hk hit t
    rw [reads_hbm hn hk]
    cases hf : s.fleet.badWords.find? (meetsWord pa n) with
    | none =>
      have hnone : ∀ k ∈ s.fleet.badWords, ¬ hit k := fun k hbad hhit =>
        List.find?_eq_none.mp hf k hbad ((meetsWord_iff pa n k).mpr hhit)
      exact ⟨fun ⟨k, hbad, hhit⟩ => absurd hhit (hnone k hbad), fun _ => readsHbm_misses hn hf⟩
    | some k =>
      have hbad : k ∈ s.fleet.badWords := List.mem_of_find?_eq_some hf
      have hhit : hit k := (meetsWord_iff pa n k).mp (List.find?_some hf)
      exact ⟨fun _ => ⟨k, hbad, hhit, readsHbm_meets hn hf⟩, fun hnone => absurd hhit (hnone k hbad)⟩

end Sys2Proof.Proofs
end

section
/-!
PROOF. A malformed word raises ILLEG and does not execute (R171, R188, R189).
-/
namespace Sys2Proof.Proofs

open Machine Laws

/-- An answer to a word of a class, where nobody is there to run it and where it is malformed. -/
structure TrapsMalformed (i : Instr) (cls : Nat) (s : State) (a : Answer) : Prop where
  nobody : (tableFind s.ctxs s.focus).isNone = true ∨ s.me.place.resident = false → a = .fault .noContext
  illegal : (tableFind s.ctxs s.focus).isSome = true → s.me.place.resident = true → s.issue.pre = none → s.encodingOk i = false →
    a = .next (s.enterTrap s.focus s.issue.bundle [s.illegRec cls])

/-- The issue of a word looks at its context and its encoding before anything else. -/
theorem runWord_trapsMalformed {i : Instr} {cls : Nat} (uses : State → List Dest) (holds check : State → Verdict) (acts : State → Bool)
    (eff : State → State) (s : State) : TrapsMalformed i cls s (runWord i ⟨cls, uses, holds, acts, check⟩ eff s) where
  nobody h := runWord_noContext (by rcases h with h | h <;> simp [h])
  illegal := runWord_illegal

/-- An answer that differs from another only where the word is well formed. -/
theorem TrapsMalformed.of_same {i : Instr} {cls : Nat} {s : State} {a b : Answer} (h : TrapsMalformed i cls s a)
    (hfault : ∀ r, a = .fault r → b = .fault r) (hnext : s.encodingOk i = false → ∀ t, a = .next t → b = .next t) :
    TrapsMalformed i cls s b where
  nobody hn := hfault _ (h.nobody hn)
  illegal hc hr hp hw := hnext hw _ (h.illegal hc hr hp hw)

/-- A word that arrives and waits makes its arrival only where it is well formed. -/
theorem meetWord_trapsMalformed (i : Instr) (g : Gate) (uses : List Dest) (x : State → Meeting) (s : State) :
    TrapsMalformed i 0 s (meetWord i g uses x s) := by
  have hctl : TrapsMalformed i 0 s (ctl i g uses (fun t => t.meetGate (x t)) (fun t => t.takeMet (x t)) s) := by
    apply runWord_trapsMalformed
  refine hctl.of_same (fun r hr => ?_) (fun hw t ht => ?_)
  · rw [meetWord, hr]
  · have hholds : s.meetHolds i g uses x = false := by simp only [State.meetHolds, hw, Bool.and_false, Bool.false_and]
    rw [meetWord, ht, hholds]
    rfl

/-- What REGRP, SPAWN and XPF add while they hold is added to words that no encoding check refuses. -/
theorem TrapsMalformed.of_wellFormed {i : Instr} {cls : Nat} {s : State} {a b : Answer} (h : TrapsMalformed i cls s a)
    (hok : s.encodingOk i = true) (hfault : ∀ r, a = .fault r → b = .fault r) : TrapsMalformed i cls s b :=
  h.of_same hfault (fun hw => absurd (hok.symm.trans hw) (by decide))

theorem execRegrp_trapsMalformed (g : Gate) (h : BitVec 3) (s : State) : TrapsMalformed (.regrp g h) 0 s (execRegrp g h s) :=
  (runWord_trapsMalformed ..).of_wellFormed (encodingOk_of_plain rfl rfl rfl rfl s) (fun r hr => by
    unfold execRegrp ctl runFlag
    rw [hr])

theorem execSpawn_trapsMalformed (g : Gate) (sA : BitVec 5) (s : State) : TrapsMalformed (.spawn g sA) 0 s (execSpawn g sA s) :=
  (runWord_trapsMalformed ..).of_wellFormed (encodingOk_of_plain rfl rfl rfl rfl s) (fun r hr => by
    unfold execSpawn ctl runFlag
    rw [hr])

theorem execXpf_trapsMalformed (g : Gate) (w : Bool) (sE sR : BitVec 5) (layer : BitVec 8) (s : State) :
    TrapsMalformed (.xpf g w sE sR layer) 6 s (execXpf g w sE sR layer s) :=
  (runWord_trapsMalformed ..).of_wellFormed (encodingOk_of_plain rfl rfl rfl rfl s) (fun r hr => by
    unfold execXpf runSeqM
    rw [hr])

/-- A word of two forms is issued in either. -/
theorem TrapsMalformed.ite {i : Instr} {cls : Nat} {s : State} {c : Prop} [Decidable c] {a b : Answer} (ha : TrapsMalformed i cls s a)
    (hb : TrapsMalformed i cls s b) : TrapsMalformed i cls s (if c then a else b) := by
  split
  · exact ha
  · exact hb

/-- Every word of a bundle is issued, in whichever of its forms. -/
theorem exec_trapsMalformed {i : Instr} {p : Parts} (h : encodeParts i = some p) (s : State) : TrapsMalformed i p.cls s (exec i s) := by
  cases i <;> cases h
  case regrp => exact execRegrp_trapsMalformed ..
  case spawn => exact execSpawn_trapsMalformed ..
  case xpf => exact execXpf_trapsMalformed ..
  case gbar | gvote | grdc => exact meetWord_trapsMalformed ..
  case lda | stl | stx => refine .ite ?_ ?_ <;> apply runWord_trapsMalformed
  case vcvt | vlane => refine .ite ?_ (.ite ?_ ?_) <;> apply runWord_trapsMalformed
  all_goals apply runWord_trapsMalformed

/-- Settles O45: the encoding checks come before all others, whatever the word. -/
theorem malformedWordsTrap : Obligations.MalformedWordsTrap := by
  unfold Obligations.MalformedWordsTrap
  intro s i p hp
  have h := exec_trapsMalformed hp s
  exact ⟨h.nobody, h.illegal⟩

end Sys2Proof.Proofs
end

section
/-!
PROOF. What is written to HBM or a view reads back or goes out (R71, R73, R74, R85, R87, R442).
-/
namespace Sys2Proof.Proofs

open Machine Laws

/-! ## A write into one block of a view (R87) -/

/-- The bytes of block b of a view after some of it, from offset o of the view on, has been written: the others stay as the view
shows them. -/
def viewUpdated (s : State) (key : Nat) (w : Window) (b o : Nat) (bs : List Byte) : List Byte :=
  let per := w.elems * w.esize
  (List.range per).map (fun i =>
    if o ≤ b * per + i ∧ b * per + i < o + bs.length then bs.getD (b * per + i - o) 0 else (s.viewBytes key w b).getD i 0)

/-- The elements that the bytes of a block of a view stand for. -/
def viewElems (w : Window) (bytes : List Byte) : List Machine.Num :=
  (List.range w.elems).map (fun i => decodeElem w.xfmt (leValue ((List.range w.esize).map (fun j => bytes.getD (i * w.esize + j) 0))))

/-- A write inside one block of a view stores that block alone. -/
theorem viewWrite_block {w : Window} {pa : Nat} {bs : List Byte} (hlen : 0 < bs.length) (hper : 0 < w.elems * w.esize)
    (hin : (pa - w.vbase) % (w.elems * w.esize) + bs.length ≤ w.elems * w.esize) (s : State) (key : Nat) :
    s.viewWrite key w pa bs = s.viewStoreBlock key w ((pa - w.vbase) / (w.elems * w.esize))
      (viewUpdated s key w ((pa - w.vbase) / (w.elems * w.esize)) (pa - w.vbase) bs) := by
  have hlast : (pa - w.vbase + bs.length - 1) / (w.elems * w.esize) = (pa - w.vbase) / (w.elems * w.esize) := by
    have hdiv := Nat.div_add_mod (pa - w.vbase) (w.elems * w.esize)
    rw [Nat.div_eq_iff hper]
    constructor
    · rw [Nat.mul_comm]; omega
    · rw [Nat.mul_comm]; omega
  unfold State.viewWrite
  dsimp only
  rw [hlast, Nat.sub_self]
  rfl

/-- A block stored in a format other than A is its encoding, written whole. -/
theorem viewStoreBlock_kb {w : Window} (hf : w.sfmt ≠ 0xA) (s : State) (key b : Nat) (bytes : List Byte) :
    s.viewStoreBlock key w b bytes = s.hbmWrite key (w.sbase + b * blockBytes w.sfmt)
      (leBytes (blockBytes w.sfmt) (encodeKb ((kbM w.sfmt).getD 2) 0 (viewElems w bytes) ⟨0, 0⟩).1) := by
  simp only [State.viewStoreBlock, if_neg hf, viewElems]

/-- A block of format A is its elements, and its scale apart from them. -/
theorem viewStoreBlock_mx {w : Window} (hf : w.sfmt = 0xA) (s : State) (key b : Nat) (bytes : List Byte) :
    s.viewStoreBlock key w b bytes = (s.hbmWrite key (w.sbase + b * blockBytes w.sfmt)
      (leBytes (blockBytes w.sfmt) (encodeMx 0 (viewElems w bytes) ⟨0, 0⟩).1)).hbmWrite key (w.scbase + b)
        [BitVec.ofNat 8 (encodeMx 0 (viewElems w bytes) ⟨0, 0⟩).2.1] := by
  simp only [State.viewStoreBlock, hf, if_true, viewElems, show blockBytes 0xA = 16 from rfl]

section
variable (s : State) (key : Nat) {w : Window} (b : Nat) (bytes : List Byte)

/-- Storing a block changes its bytes, and for format A its scale, and no other byte. -/
theorem hbmByte_viewStoreBlock_outside {a : Nat} (ha : a < w.sbase + b * blockBytes w.sfmt ∨ w.sbase + (b + 1) * blockBytes w.sfmt ≤ a)
    (hsc : w.sfmt = 0xA → a ≠ w.scbase + b) : (s.viewStoreBlock key w b bytes).hbmByte key a = s.hbmByte key a := by
  have hsucc : (b + 1) * blockBytes w.sfmt = b * blockBytes w.sfmt + blockBytes w.sfmt := Nat.succ_mul ..
  by_cases hf : w.sfmt = 0xA
  · have hne := hsc hf
    rw [viewStoreBlock_mx hf, hbmByte_hbmWrite, hbmByte_hbmWrite, RoundTrip.leBytes_length, List.length_singleton, if_neg (by omega),
      if_neg (by omega)]
  · rw [viewStoreBlock_kb hf, hbmByte_hbmWrite, RoundTrip.leBytes_length, if_neg (by omega)]

/-- A stored block reads back as the encoding of its elements. -/
theorem hbmByte_viewStoreBlock_kb (hf : w.sfmt ≠ 0xA) {k : Nat} (hk : k < blockBytes w.sfmt) :
    (s.viewStoreBlock key w b bytes).hbmByte key (w.sbase + b * blockBytes w.sfmt + k) =
      (leBytes (blockBytes w.sfmt) (encodeKb ((kbM w.sfmt).getD 2) 0 (viewElems w bytes) ⟨0, 0⟩).1).getD k 0 := by
  rw [viewStoreBlock_kb hf, hbmByte_hbmWrite, RoundTrip.leBytes_length, if_pos (by omega), Nat.add_sub_cancel_left]

/-- So do the elements of a block of format A, whose scale lies outside them. -/
theorem hbmByte_viewStoreBlock_mx (hf : w.sfmt = 0xA)
    (hsc : w.scbase + b < w.sbase + b * blockBytes w.sfmt ∨ w.sbase + (b + 1) * blockBytes w.sfmt ≤ w.scbase + b) {k : Nat}
    (hk : k < blockBytes w.sfmt) : (s.viewStoreBlock key w b bytes).hbmByte key (w.sbase + b * blockBytes w.sfmt + k) =
      (leBytes (blockBytes w.sfmt) (encodeMx 0 (viewElems w bytes) ⟨0, 0⟩).1).getD k 0 := by
  have hsucc : (b + 1) * blockBytes w.sfmt = b * blockBytes w.sfmt + blockBytes w.sfmt := Nat.succ_mul ..
  rw [viewStoreBlock_mx hf, hbmByte_hbmWrite, List.length_singleton, if_neg (by omega), hbmByte_hbmWrite, RoundTrip.leBytes_length,
    if_pos (by omega), Nat.add_sub_cancel_left]

/-- The scale of a block of format A reads back. -/
theorem hbmByte_viewStoreBlock_scale (hf : w.sfmt = 0xA) :
    (s.viewStoreBlock key w b bytes).hbmByte key (w.scbase + b) = BitVec.ofNat 8 (encodeMx 0 (viewElems w bytes) ⟨0, 0⟩).2.1 := by
  rw [viewStoreBlock_mx hf, hbmByte_hbmWrite, List.length_singleton, if_pos (by omega), Nat.sub_self]
  rfl

end

/-- Settles O54: HBM by the bytes of a write, a view by the one block that it stores. -/
theorem memoryReadsBack : Obligations.MemoryReadsBack := by
  unfold Obligations.MemoryReadsBack
  intro s key pa bs
  refine ⟨fun v n a => (readsAlike_readsHbm s v key pa n).bytes a, hbmByte_hbmWrite s key pa bs, fun hk => ?host, fun w hk => ?link, fun w hk hw => ?view⟩
  case host => simp only [State.physWrite, hk]
  case link => exact ⟨by simp only [State.physWrite, hk], fun a => (physWrite_out (.inr ⟨w, hk⟩) s key bs).2 key a⟩
  case view =>
    intro per o b size t new elems hlen hper hin
    have ht : t = s.viewStoreBlock key w b new := (physWrite_view hk hw key bs).trans (viewWrite_block hlen hper hin s key)
    rw [ht]
    exact ⟨fun a ha hsc => hbmByte_viewStoreBlock_outside s key b new ha hsc, fun hf k hkb => hbmByte_viewStoreBlock_kb s key b new hf hkb,
      fun hf hsc => ⟨fun k hkb => hbmByte_viewStoreBlock_mx s key b new hf hsc hkb, hbmByte_viewStoreBlock_scale s key b new hf⟩⟩

end Sys2Proof.Proofs
end

section
/-!
PROOF. The words that claim, release, load and tag operand slots (R67, R68, R276 to R278).
-/
namespace Sys2Proof.Proofs

open Machine Laws

section

variable {s : State} {g : Gate} {o : BitVec 5}

/-- A T word that no active engine holds, and of which no acting engine records a fault, has its effect. -/
theorem tWord_next {i : Instr} {uses : List Dest} {busy : State → Nat → Busy} {bad : State → Nat → Option FaultRec} {eff : State → State}
    (h : Issues s 4 uses) (hact : s.acting g ≠ []) (hw : s.encodingOk i = true) (hbusy : ∀ e ∈ s.actives, busy s e = .no)
    (hbad : ∀ e ∈ s.acting g, bad s e = none) : runUnit i 4 g (fun _ => uses) (tHolds busy) (tRecs g bad) eff s = .next (eff s) :=
  runUnit_next h hact hw (unitHolds_ok hbusy) (engineRecs_ok hbad)

/-- A condition that holds records nothing. -/
theorem engState_true {e cls : Nat} {ok : Bool} (h : ok = true) : s.engState e cls ok = none := if_pos h

theorem mine_iff {x : OSlot} : s.mine x = true ↔ x.owner = s.owner := beq_iff_eq

/-- A run of slots none of which holds the word. -/
theorem runHold_no {e : Nat} {n : BitVec 3} (h : ∀ k ∈ slotRun o n, s.slotHold e k = .no) : s.runHold e o n = .no := busy_fold_no rfl h

/-! ## OCLM and OREL (R276) -/

theorem execOclm_next {n : BitVec 3} (h : Issues s 4 []) (hact : s.acting g ≠ []) (hrun : n.toNat + o.toNat ≤ 31)
    (hbusy : ∀ e ∈ s.actives, ∀ k ∈ slotRun o n, s.slotHold e k = .no)
    (hown : ∀ e ∈ s.acting g, ∀ k ∈ slotRun o n, (s.rO e k).owner = 0 ∨ (s.rO e k).owner = s.owner) :
    execOclm g n o s = .next (s.each (s.acting g) (fun u e => (slotRun o n).foldl (fun v k =>
      v.wO e k (((v.myEng e).slot k).claimed v.owner) 2) u)) := by
  have hwf : Instr.wellFormed (.oclm g n o) = true := decide_eq_true (Nat.add_comm .. ▸ hrun)
  refine tWord_next h hact (encodingOk_of_plain hwf rfl rfl rfl s) (fun e he => runHold_no (hbusy e he)) (fun e he => engState_true ?_)
  simpa only [List.all_eq_true, Bool.or_eq_true, beq_iff_eq, mine_iff] using hown e he

theorem execOrel_next {n : BitVec 3} (h : Issues s 4 []) (hact : s.acting g ≠ []) (hrun : n.toNat + o.toNat ≤ 31)
    (hbusy : ∀ e ∈ s.actives, ∀ k ∈ slotRun o n, s.slotHold e k = .no)
    (hown : ∀ e ∈ s.acting g, ∀ k ∈ slotRun o n, (s.rO e k).owner = s.owner) :
    execOrel g n o s = .next (s.each (s.acting g) (fun u e =>
      (slotRun o n).foldl (fun v k => v.wTags e k (fun x => { x with owner := 0 }) false 1) u)) := by
  have hwf : Instr.wellFormed (.orel g n o) = true := decide_eq_true (Nat.add_comm .. ▸ hrun)
  refine tWord_next h hact (encodingOk_of_plain hwf rfl rfl rfl s) (fun e he => runHold_no (hbusy e he)) (fun e he => engState_true ?_)
  simpa only [List.all_eq_true, mine_iff] using hown e he

/-! ## OLD (R277) -/

/-- Ranges that engine-local addresses all reach are recorded in no engine. -/
theorem localRec_none {e : Nat} {write : Bool} {ranges : List (Nat × Nat)} (h : ∀ r ∈ ranges, (s.localAt r.1 r.2).isSome = true) :
    s.localRec e write ranges = none := by
  have hfind : ranges.find? (fun r => (s.localAt r.1 r.2).isNone) = none := by
    simpa only [List.find?_eq_none, Option.isNone_iff_eq_none, ← Option.isSome_iff_ne_none] using h
  rw [State.localRec, hfind]
  rfl

theorem execOld_next {sA sS : BitVec 5} {tr : Bool} {fmt : BitVec 4} {pitch : BitVec 16} (h : Issues s 4 (useS [sA, sS]))
    (hact : s.acting g ≠ []) (hwf : Instr.wellFormed (.old g o sA sS tr fmt pitch) = true)
    (hbusy : ∀ e ∈ s.actives, s.slotHold e o.toNat = .no) (hown : ∀ e ∈ s.acting g, (s.rO e o.toNat).owner = s.owner)
    (hbase : bits (s.rS sA).toNat 0 32 % 4 = 0) (hscale : fmt = 10 → bits (s.rS sS).toNat 0 32 % 4 = 0)
    (hranges : ∀ r ∈ oldRows fmt.toNat tr (bits (s.rS sA).toNat 0 32) pitch.toNat ++
      (if fmt = 10 then [(bits (s.rS sS).toNat 0 32, 512)] else []), (s.localAt r.1 r.2).isSome = true) :
    execOld g o sA sS tr fmt pitch s = .next (s.each (s.acting g) (fun u e =>
      let x := (u.myEng e).slot o.toNat
      let (d, y) := u.oldData e x fmt.toNat tr (bits (s.rS sA).toNat 0 32) (bits (s.rS sS).toNat 0 32) pitch.toNat
      u.wO e o.toNat { x with data := d, scale := y, loading := true, fmt := fmt } 1)) := by
  refine tWord_next h hact (encodingOk_of_plain hwf rfl rfl rfl s) hbusy (fun e he => ?_)
  dsimp only
  rw [mine_iff.mpr (hown e he), if_neg (by decide), if_neg (fun hn => hn hbase), if_neg (fun hn => hn.2 (hscale hn.1)),
    localRec_none hranges]

/-! ## OTAG (R278) -/

/-- A form that sets the tags of a slot of the context. -/
theorem otagWord_set {i : Instr} {uses : List Dest} {eff : State → State} (h : Issues s 4 uses) (hact : s.acting g ≠ [])
    (hw : s.encodingOk i = true) (hbusy : ∀ e ∈ s.actives, s.slotHold e o.toNat = .no)
    (hown : ∀ e ∈ s.acting g, (s.rO e o.toNat).owner = s.owner) : otagWord i g uses false o eff s = .next (eff s) :=
  tWord_next h hact hw hbusy (fun e he => engState_true (mine_iff.mpr (hown e he)))

/-- A form that tests the tags of a slot, whoever owns it. -/
theorem otagWord_test {i : Instr} {uses : List Dest} {eff : State → State} (h : Issues s 4 uses) (hact : s.acting g ≠ [])
    (hw : s.encodingOk i = true) (hbusy : ∀ e ∈ s.actives, s.slotReadHold e o.toNat = .no) :
    otagWord i g uses true o eff s = .next (eff s) :=
  tWord_next h hact hw hbusy (fun _ _ => rfl)

/-- A format that OTAG sets is one of a slot, and one that it does not set is zero. -/
abbrev TagFormat (setf : Bool) (fmt : BitVec 4) : Prop := if setf then slotFmtOk fmt = true else fmt = 0

theorem tagFormat_ok {setf : Bool} {fmt : BitVec 4} (h : TagFormat setf fmt) : (if setf then slotFmtOk fmt else fmt == 0) = true := by
  cases setf
  · exact beq_iff_eq.mpr h
  · exact h

theorem execOtag_next {sU : BitVec 5} {setf : Bool} {fmt : BitVec 4} (h : Issues s 4 (useS [sU])) (hact : s.acting g ≠ [])
    (hfmt : TagFormat setf fmt) (hbusy : ∀ e ∈ s.actives, s.slotHold e o.toNat = .no)
    (hown : ∀ e ∈ s.acting g, (s.rO e o.toNat).owner = s.owner) :
    execOtag g sU setf fmt o s = .next (s.otag g o (s.rS sU) setf fmt) := by
  have hwf : Instr.wellFormed (.otag g sU setf fmt o) = true := tagFormat_ok hfmt
  exact otagWord_set h hact (encodingOk_of_plain hwf rfl rfl rfl s) hbusy hown

theorem execOtagLiteral_next {setf : Bool} {fmt : BitVec 4} {l : Dword} (h : Issues s 4 []) (hact : s.acting g ≠ [])
    (hfmt : TagFormat setf fmt) (hl : l.toNat < 2 ^ 16) (hbusy : ∀ e ∈ s.actives, s.slotHold e o.toNat = .no)
    (hown : ∀ e ∈ s.acting g, (s.rO e o.toNat).owner = s.owner) :
    execOtagLiteral g false setf fmt o l s = .next (s.otag g o l setf fmt) := by
  have hwf : Instr.wellFormed (.otagLiteral g false setf fmt o l) = true := Bool.and_eq_true_iff.mpr ⟨decide_eq_true hl, tagFormat_ok hfmt⟩
  exact otagWord_set h hact (encodingOk_of_plain hwf rfl rfl rfl s) hbusy hown

theorem execOtagQ_next {sU : BitVec 5} {pd : BitVec 3} (h : Issues s 4 (useS [sU])) (hact : s.acting g ≠ [])
    (hbusy : ∀ e ∈ s.actives, s.slotReadHold e o.toNat = .no) : execOtagQ g sU pd o s = .next (s.otagQ g o pd (s.rS sU)) :=
  otagWord_test h hact (encodingOk_of_plain rfl rfl rfl rfl s) hbusy

/-- With a literal the FMT field names the predicate. -/
theorem execOtagLiteral_test {pd : BitVec 3} {l : Dword} (h : Issues s 4 []) (hact : s.acting g ≠ []) (hl : l.toNat < 2 ^ 16)
    (hbusy : ∀ e ∈ s.actives, s.slotReadHold e o.toNat = .no) :
    execOtagLiteral g true false (pd.zeroExtend 4) o l s = .next (s.otagQ g o pd l) := by
  have hfmt : (!false && !(pd.zeroExtend 4).getLsbD 3) = true := by revert pd; decide
  have hpd : BitVec.ofNat 3 (pd.zeroExtend 4).toNat = pd := by revert pd; decide
  have hwf : Instr.wellFormed (.otagLiteral g true false (pd.zeroExtend 4) o l) = true := Bool.and_eq_true_iff.mpr ⟨decide_eq_true hl, hfmt⟩
  have hnext : execOtagLiteral g true false (pd.zeroExtend 4) o l s = .next (s.otagQ g o (BitVec.ofNat 3 (pd.zeroExtend 4).toNat) l) :=
    otagWord_test h hact (encodingOk_of_plain hwf rfl rfl rfl s) hbusy
  rw [hnext, hpd]

end

/-- Settles O13, word by word: no engine holds it, and none records a fault. -/
theorem slotWords : Obligations.SlotWords := by
  unfold Obligations.SlotWords
  intro s g n o hact
  refine ⟨fun h hrun hbusy => ⟨execOclm_next h hact hrun hbusy, execOrel_next h hact hrun hbusy⟩, ?old, ?set, ?test⟩
  case old =>
    intro sA sS tr fmt pitch h hwf base sb ranges hbusy hown hbase hscale hranges
    exact execOld_next h hact hwf hbusy hown hbase hscale hranges
  case set =>
    intro setf fmt hfmt hbusy hown tagged
    exact ⟨fun sU h => execOtag_next h hact hfmt hbusy hown, fun l h hl => execOtagLiteral_next h hact hfmt hl hbusy hown⟩
  case test =>
    intro pd hbusy tested
    exact ⟨fun sU h => execOtagQ_next h hact hbusy, fun l h hl => execOtagLiteral_test h hact hl hbusy⟩

end Sys2Proof.Proofs
end

section
/-!
PROOF. The words of the background start their operations (R84, R88 to R94, R285 to R291, R310 to R313).
-/
namespace Sys2Proof.Proofs

open Machine Laws

section

variable {s : State} {g : Gate}

/-! ## Copies (R310 to R313) -/

theorem tokenOk_of_ne {sT : BitVec 5} (h : sT ≠ 0) : tokenOk sT = true := decide_eq_true h

/-- A CPY that acts starts the copy of the block at its home. -/
theorem execCpy_next {sP sT : BitVec 5} {pa : Nat} (h : Issues s 6 (useS [sP, sT])) (hT : sT ≠ 0) (hact : s.cpyActs g sP = true)
    (hc : s.cpyCheck g sP = .ok) (hpa : s.homeOf .read (s.rS sP) = some pa) :
    execCpy g sP sT s = .next (((s.pbTouch s.party (s.rS sP).toNat pa).pbKeep s.party pa).startOp sT.toNat
      ((cpyBlock (s.pbRead s.party pa)).ctl.testBit 31) (.cpy (s.pbRead s.party pa))
      ((s.cpyEngines g (cpyBlock (s.pbRead s.party pa))).map (fun e => (e, 0)))) := by
  have hwf : Instr.wellFormed (.cpy g sP sT) = true := tokenOk_of_ne hT
  have hrun : execCpy g sP sT s = .next (if s.cpyActs g sP then s.cpyStart g sP sT else s) :=
    runWord_next h (encodingOk_of_plain hwf rfl rfl rfl s) rfl (fun _ => hc)
  rw [hrun, if_pos hact, State.cpyStart, hpa]

theorem acting_isEmpty_false (h : s.acting g ≠ []) : (s.acting g).isEmpty = false := List.isEmpty_eq_false_iff.mpr h

theorem execCpyl_next {f : CpylFields} (hact : s.acting g ≠ []) (hw : s.encodingOk (.cpyl g f) = true)
    (h : Issues s 6 (useS [f.sT, f.sB] ++ s.useV [f.vO.toNat])) (hp : s.portCheck 6 [f.vO.toNat] [] = .ok)
    (hrec : ∀ e ∈ s.acting g, s.cpylRec e f = none) :
    execCpyl g f s = .next ((s.startOp f.sT.toNat f.comm (.cpyl (s.rS f.sB) f.lbase.toNat (4 * 2 ^ f.sz.toNat) f.dir
      ((s.acting g).map (fun e => (e, s.rVec e f.vO.toNat))) ((s.acting g).map (fun e => (e, s.laneMask e f.lq f.ln))))
      ((s.acting g).map (fun e => (e, 0)))).popAll [f.vO.toNat]) := by
  have hany := acting_isEmpty_false hact
  unfold execCpyl
  rw [engineM_next hw h hp]
  · simp only [hany, Bool.false_eq_true, if_false, List.append_nil]
  · simp only [hany, Bool.false_eq_true, if_false, engineRecs_ok hrec]

theorem execCpyw_next {f : CpywFields} (hact : s.acting g ≠ []) (hwf : Instr.wellFormed (.cpyw g f) = true)
    (h : Issues s 6 (useS [f.sT, f.sA, f.sB])) (hrec : ∀ e ∈ s.acting g, s.cpywRec e f = none) :
    execCpyw g f s = .next (s.startOp f.sT.toNat f.comm (.cpyw (s.rS f.sA) (s.rS f.sB) f) ((s.acting g).map (fun e => (e, 0)))) :=
  runEng_next h hact (encodingOk_of_plain hwf rfl rfl rfl s) (engineRecs_ok hrec)

theorem execCpyk_next {sT : BitVec 5} {vK : BitVec 6} {sD : BitVec 5} {nblk : BitVec 8} {comm : Bool} (hact : s.acting g ≠ [])
    (hwf : Instr.wellFormed (.cpyk g sT vK sD nblk comm) = true) (h : Issues s 6 (useS [sT, sD] ++ s.useV [vK.toNat]))
    (hrec : ∀ e ∈ s.acting g, s.cpykRec e vK (bits (s.rS sD).toNat 0 32) nblk.toNat = none) :
    execCpyk g sT vK sD nblk comm s = .next (s.startOp sT.toNat comm
      (.cpyk ((s.acting g).map (fun e => (e, kvDesc (s.rV e vK.toNat)))) (bits (s.rS sD).toNat 0 32) nblk.toNat)
      ((s.acting g).map (fun e => (e, kvPos (kvDesc (s.rV e vK.toNat)))))) :=
  runEng_next h hact (encodingOk_of_plain hwf rfl rfl rfl s) (engineRecs_ok hrec)

/-! ## Multiplies of the background (R285 to R289) -/

/-- A multiply that waits for no unit, with a free array in every acting engine, and that records no fault, has its effect. -/
theorem multiply_next {i : Instr} {uses : State → List Dest} {busy : State → Nat → Busy} {bad : State → Nat → Option FaultRec}
    {eff : State → State} (h : Issues s 4 (uses s)) (hact : s.acting g ≠ []) (hw : s.encodingOk i = true)
    (hbusy : ∀ e ∈ s.actives, busy s e = .no) (harray : ∀ e ∈ s.acting g, s.arrayBusy e = false) (hbad : ∀ e ∈ s.acting g, bad s e = none) :
    runUnit i 4 g uses (fun t => t.multiplyHolds g (busy t)) (tRecs g bad) eff s = .next (eff s) := by
  have hengines : s.arrayEngines g = s.acting g := if_neg (by rw [acting_isEmpty_false hact]; decide)
  exact runUnit_next h hact hw (multiplyHolds_ok hbusy (hengines ▸ harray)) (engineRecs_ok hbad)

/-- The shape of a multiply and its vector register are in range. -/
theorem shapeAndReg_ok {zs : BitVec 4} {v : BitVec 6} (hz : zs.toNat ≤ 8) (hv : v.toNat < 32) : (shapeOk zs && vecRegOk v) = true :=
  Bool.and_eq_true_iff.mpr ⟨decide_eq_true hz, decide_eq_true hv⟩

theorem execKvmm_next {ad : BitVec 2} {oq : BitVec 5} {vk : BitVec 6} {zs : BitVec 4} {za : Bool} (hact : s.acting g ≠ [])
    (hz : zs.toNat ≤ 8) (hv : vk.toNat < 32) (h : Issues s 4 (s.useV [vk.toNat]))
    (hbusy : ∀ e ∈ s.actives, s.gatherBusy e ad (s.queryRun e oq.toNat (s.kvWordAt e vk 0)) = .no)
    (hrec : ∀ e ∈ s.acting g, s.arrayBusy e = false ∧ s.kvDescRec e 4 (s.rV e vk.toNat) (s.kvWordAt e vk 0) true = none ∧
      s.kvSlotsRec e (s.queryRun e oq.toNat (s.kvWordAt e vk 0)) (s.kvWordAt e vk 0) = none) :
    execKvmm g ad oq vk zs za s = .next ((s.each (s.acting g) (fun u e => u.opStart e ad za)).startOp 0 false
      (.kvmm ad.toNat oq.toNat ((s.acting g).map (fun e => (e, (s.queryRun e oq.toNat (s.kvWordAt e vk 0)).map (s.rO e))))
        ((s.acting g).map (fun e => (e, s.kvWordAt e vk 0))) ((s.acting g).map (fun e => (e, s.kvHead e vk)))
        ((s.acting g).map (fun e => (e, (s.shape e zs 64).rows))) ((s.acting g).map (fun e => (e, (s.shape e zs 64).cols))))
      ((s.acting g).map (fun e => (e, kvPos (s.kvWordAt e vk 0)))) (s.opBase ad za)) := by
  have hwf : Instr.wellFormed (.kvmm g ad oq vk zs za) = true := shapeAndReg_ok hz hv
  refine multiply_next h hact (encodingOk_of_plain hwf rfl rfl rfl s) hbusy (fun e he => (hrec e he).1) (fun e he => ?_)
  obtain ⟨-, hdesc, hslots⟩ := hrec e he
  simp only [hdesc, hslots]

theorem execKvmv_next {ad : BitVec 2} {oq : BitVec 5} {vk : BitVec 6} {zs : BitVec 4} {za : Bool} {dsel : BitVec 2}
    (hact : s.acting g ≠ []) (hz : zs.toNat ≤ 8) (hv : vk.toNat < 32) (h : Issues s 4 (s.useV [vk.toNat]))
    (hbusy : ∀ e ∈ s.actives, s.gatherBusy e ad [oq.toNat] = .no)
    (hrec : ∀ e ∈ s.acting g, s.arrayBusy e = false ∧ s.kvDescRec e 4 (s.rV e vk.toNat) (s.kvWordAt e vk 1) true = none ∧
      (∀ c, s.kvCard s.party (s.kvWordAt e vk 1) = some c → dsel.toNat * 64 < c.d) ∧ s.kvSlotsRec e [oq.toNat] (s.kvWordAt e vk 1) = none) :
    let shp (e : Nat) := s.shape e zs ((slotCap (s.rO e oq.toNat).fmt.toNat).getD 64)
    execKvmv g ad oq vk zs za dsel s = .next ((s.each (s.acting g) (fun u e => u.opStart e ad za)).startOp 0 false
      (.kvmv ad.toNat oq.toNat ((s.acting g).map (fun e => (e, [s.rO e oq.toNat])))
        ((s.acting g).map (fun e => (e, s.kvWordAt e vk 1))) ((s.acting g).map (fun e => (e, s.kvHead e vk)))
        ((s.acting g).map (fun e => (e, (shp e).rows))) ((s.acting g).map (fun e => (e, (shp e).cols)))
        ((s.acting g).map (fun e => (e, (shp e).klen))) (dsel.toNat * 64))
      ((s.acting g).map (fun e => (e, kvPos (s.kvWordAt e vk 1)))) (s.opBase ad za)) := by
  have hwf : Instr.wellFormed (.kvmv g ad oq vk zs za dsel) = true := shapeAndReg_ok hz hv
  refine multiply_next h hact (encodingOk_of_plain hwf rfl rfl rfl s) hbusy (fun e he => (hrec e he).1) (fun e he => ?_)
  obtain ⟨-, hdesc, hrows, hslots⟩ := hrec e he
  simp only [hdesc, hslots]
  cases hcard : s.kvCard s.party (s.kvWordAt e vk 1) with
  | none => rfl
  | some c => simp only [decide_eq_false (Nat.not_le.mpr (hrows c hcard)), Bool.false_eq_true, if_false]

/-- The registers that hold the row numbers of a GMMA in engine e (R289). -/
def gmmaRegs (s : State) (oa : BitVec 5) (vi : BitVec 6) (zs : BitVec 4) (e : Nat) : List Nat :=
  (List.range (ceilDiv (s.gmmaShape e oa zs).klen 64)).map (fun i => vi.toNat + i)

theorem execGmma_next {ad : BitVec 2} {oa : BitVec 5} {vi : BitVec 6} {zs : BitVec 4} {za : Bool} {sT sC : BitVec 5}
    (hact : s.acting g ≠ []) (hz : zs.toNat ≤ 8) (hv : vi.toNat < 32)
    (h : Issues s 4 (useS [sT, sC] ++ s.useE (fun e => (gmmaRegs s oa vi zs e).map (fun n => .v e n))))
    (hbusy : ∀ e ∈ s.actives, s.gatherBusy e ad [oa.toNat] = .no)
    (hrec : ∀ e ∈ s.acting g, s.arrayBusy e = false ∧ s.gmmaRec e oa vi zs (s.rS sT) = none) :
    execGmma g ad oa vi zs za sT sC s = .next ((s.each (s.acting g) (fun u e => u.opStart e ad za)).startOp 0 false
      (.gmma ad.toNat oa.toNat ((s.acting g).map (fun e => (e, [s.rO e oa.toNat]))) (bits (s.rS sT).toNat 0 16)
        (toSigned 32 (bits (s.rS sC).toNat 0 32)) (toSigned 32 (bits (s.rS sC).toNat 32 32))
        ((s.acting g).map (fun e => (e, (gmmaRegs s oa vi zs e).map (s.rV e))))
        ((s.acting g).map (fun e => (e, (s.gmmaShape e oa zs).rows))) ((s.acting g).map (fun e => (e, (s.gmmaShape e oa zs).cols)))
        ((s.acting g).map (fun e => (e, (s.gmmaShape e oa zs).klen))))
      ((s.acting g).map (fun e => (e, 0))) (s.opBase ad za)) := by
  have hwf : Instr.wellFormed (.gmma g ad oa vi zs za sT sC) = true := shapeAndReg_ok hz hv
  exact multiply_next h hact (encodingOk_of_plain hwf rfl rfl rfl s) hbusy (fun e he => (hrec e he).1) (fun e he => (hrec e he).2)

end

/-- Settles O16, word by word. -/
theorem backgroundWords : Obligations.BackgroundWords := by
  unfold Obligations.BackgroundWords
  intro s g
  refine ⟨fun sP sT pa h hT hact hc hpa => execCpy_next h hT hact hc hpa, fun hact => ?_⟩
  intro all
  refine ⟨fun f hw h hp hrec => execCpyl_next hact hw h hp hrec, fun f hwf h hrec => execCpyw_next hact hwf h hrec,
    fun sT vK sD nblk comm hwf h hrec => execCpyk_next hact hwf h hrec,
    fun ad oq vk zs za hz hv h hbusy hrec => execKvmm_next hact hz hv h hbusy hrec, ?kvmv, ?gmma⟩
  case kvmv =>
    intro ad oq vk zs za dsel hz hv h shp hbusy hrec
    exact execKvmv_next hact hz hv h hbusy hrec
  case gmma =>
    intro ad oa vi zs za sT sC hz hv regs c h hbusy hrec
    exact execGmma_next hact hz hv h hbusy hrec

end Sys2Proof.Proofs
end

section
/-!
PROOF. The vector words of class M act engine by engine and lane by lane (R64, R87, R302 to R306, R308).
-/
namespace Sys2Proof.Proofs

open Machine Laws

section

variable {s : State} {g : Gate} {lit : Option Dword}

/-- An engine word of class M of which no acting engine records a fault has its effect, and pops its ports. -/
theorem engineM_recs_next {i : Instr} {reads writes : List Nat} {uses : List Dest} {bad : State → Nat → Option FaultRec}
    {eff : State → State} (hw : s.encodingOk i = true) (h : Issues s 6 (uses ++ s.useV (reads ++ writes)))
    (hp : s.portCheck 6 reads writes = .ok) (hbad : ∀ e ∈ s.acting g, bad s e = none) :
    engineM i reads writes uses (fun t => State.engineRecs (t.acting g) (bad t)) eff s = .next ((eff s).popAll (reads ++ writes)) :=
  engineM_next hw h hp (engineRecs_ok hbad)

/-! ## LDA, STL and STX of vectors (R302) -/

section

variable {f : StrongFields} (hvec : f.vec = true)
include hvec

/-- A vector LDA. -/
theorem execLda_vec (hw : s.encodingOk (.lda g f lit) = true) (h : Issues s 6 (useS [f.sA, f.sE] ++ s.useV [f.r.toNat]))
    (hp : s.portCheck 6 [] [f.r.toNat] = .ok)
    (hrec : ∀ e ∈ s.acting g, s.vecRec e f.spc false (s.laneMask e f.lq f.ln) (s.engBase e f.sA f.sE f.disp lit) = none) :
    execLda g f lit s = .next ((s.each (s.acting g) (fun u e =>
      let va := s.engBase e f.sA f.sE f.disp lit
      let m := s.laneMask e f.lq f.ln
      (if m = 0 then u else u.vecTouch e f.r.toNat f.spc va 256).putHeld e f.r.toNat (s.portAddr (f.r.toNat - 32)) m false
        (u.vecLoad e f.spc va))).popAll [f.r.toNat]) := by
  rw [execLda, if_pos hvec]
  exact engineM_recs_next (reads := []) hw h hp hrec

omit hvec in
/-- A vector STL or STX, whose acting engines reach no view with STX. -/
theorem strongVec_next {i : Instr} {strong : Bool} (hw : s.encodingOk i = true)
    (h : Issues s 6 (useS [f.sA, f.sE] ++ s.useV [f.r.toNat])) (hp : s.portCheck 6 [f.r.toNat] [] = .ok)
    (hrec : ∀ e ∈ s.acting g, s.vecRec e f.spc true (s.laneMask e f.lq f.ln) (s.engBase e f.sA f.sE f.disp lit) = none)
    (hview : strong = true → ∀ e ∈ s.acting g, f.spc = false → s.laneMask e f.lq f.ln ≠ 0 →
      s.isView .write (s.engBase e f.sA f.sE f.disp lit) = false) :
    strongVec i g f lit strong s = .next ((s.each (s.acting g) (fun u e =>
      u.vecStore e f.spc (s.engBase e f.sA f.sE f.disp lit) (lanes (s.rVec e f.r.toNat)) (s.laneMask e f.lq f.ln))).popAll [f.r.toNat]) := by
  refine engineM_recs_next (writes := []) hw h hp (fun e he => ?_)
  simp only [hrec e he]
  split
  · next hs =>
    simp only [Bool.and_eq_true, Bool.not_eq_true', decide_eq_true_eq] at hs
    obtain ⟨⟨hstrong, hspc⟩, hm⟩ := hs
    simp only [State.viewRec, hview hstrong e he hspc hm, Bool.false_eq_true, if_false]
  · rfl

theorem execStl_vec : execStl g f lit s = strongVec (.stl g f lit) g f lit false s := if_pos hvec

theorem execStx_vec : execStx g f lit s = strongVec (.stx g f lit) g f lit true s := if_pos hvec

end

/-! ## VLD and VST (R304), VLDG and VSTG (R305) -/

variable {f : MemFields}

theorem execVld_next (hw : s.encodingOk (.vld g f lit) = true) (h : Issues s 6 (useS [f.sA, f.sE] ++ s.useV [f.vR.toNat]))
    (hp : s.portCheck 6 [] [f.vR.toNat] = .ok)
    (hrec : ∀ e ∈ s.acting g, s.vecRec e f.spc false (s.laneMask e f.lq f.ln) (s.engBase e f.sA f.sE f.disp lit) = none) :
    execVld g f lit s = .next ((s.each (s.acting g) (fun u e =>
      let va := s.engBase e f.sA f.sE f.disp lit
      let m := s.laneMask e f.lq f.ln
      (if m = 0 then u else u.vecTouch e f.vR.toNat f.spc va 256).putHeld e f.vR.toNat 0 m f.z (u.vecLoad e f.spc va))).popAll [f.vR.toNat]) :=
  engineM_recs_next (reads := []) hw h hp hrec

theorem execVst_next (hw : s.encodingOk (.vst g f lit) = true) (h : Issues s 6 (useS [f.sA, f.sE] ++ s.useV [f.vR.toNat]))
    (hp : s.portCheck 6 [f.vR.toNat] [] = .ok)
    (hrec : ∀ e ∈ s.acting g, s.vecRec e f.spc true (s.laneMask e f.lq f.ln) (s.engBase e f.sA f.sE f.disp lit) = none) :
    execVst g f lit s = .next ((s.each (s.acting g) (fun u e =>
      u.vecStore e f.spc (s.engBase e f.sA f.sE f.disp lit) (lanes (s.rVec e f.vR.toNat)) (s.laneMask e f.lq f.ln))).popAll [f.vR.toNat]) :=
  engineM_recs_next (writes := []) hw h hp hrec

theorem execVldg_next (hw : s.encodingOk (.vldg g f lit) = true)
    (h : Issues s 6 (useS [f.sA, f.sE] ++ s.useV [f.vI.toNat, f.vR.toNat])) (hp : s.portCheck 6 [f.vI.toNat] [f.vR.toNat] = .ok)
    (hrec : ∀ e ∈ s.acting g, s.gatherRec e f lit .read false (fun _ _ => none) = none) :
    execVldg g f lit s = .next ((s.each (s.acting g) (fun u e =>
      let base := s.engBase e f.sA f.sE f.disp lit
      let idx := s.rVec e f.vI.toNat
      let m := s.laneMask e f.lq f.ln
      ((laneList m).foldl (fun w k => w.vecTouch e f.vR.toNat f.spc (gatherAt base idx f.sh k) 4) u).putHeld e f.vR.toNat
        (s.portAddr (f.vR.toNat - 32)) m f.z
        ((List.range 64).map (fun k => if m.getLsbD k then u.load4 e f.spc (gatherAt base idx f.sh k) else 0)))).popAll
          [f.vI.toNat, f.vR.toNat]) :=
  engineM_recs_next (reads := [f.vI.toNat]) hw h hp hrec

theorem execVstg_next (hw : s.encodingOk (.vstg g f lit) = true)
    (h : Issues s 6 (useS [f.sA, f.sE] ++ s.useV [f.vI.toNat, f.vR.toNat])) (hp : s.portCheck 6 [f.vI.toNat, f.vR.toNat] [] = .ok)
    (hrec : ∀ e ∈ s.acting g, s.gatherRec e f lit .write true (fun _ _ => none) = none) :
    execVstg g f lit s = .next ((s.each (s.acting g) (fun u e =>
      let base := s.engBase e f.sA f.sE f.disp lit
      let idx := s.rVec e f.vI.toNat
      (laneList (s.laneMask e f.lq f.ln)).foldl (fun w k =>
        w.store4 e f.spc (gatherAt base idx f.sh k) (bits (s.rVec e f.vR.toNat).toNat (32 * k) 32)) u)).popAll [f.vI.toNat, f.vR.toNat]) :=
  engineM_recs_next (writes := []) hw h hp hrec

/-! ## VLDP and VSTP (R306) -/

/-- The register of the high halves of 8-byte lanes. -/
def highReg (f : MemFields) : List Nat := if f.sz = 3 then [f.vR.toNat + 1] else []

/-- What VLDP loads of lane k of engine e: n bytes at an offset of its private word. -/
def privLoad (s u : State) (f : MemFields) (lit : Option Dword) (e n o k : Nat) : Nat :=
  if (s.laneMask e f.lq f.ln).getLsbD k then leValue (u.localRead e (privAddr (privOff f lit (s.rVec e f.vI.toNat) k + o) k) n) else 0

theorem execVldp_next (hw : s.encodingOk (.vldp g f lit) = true) (h : Issues s 6 (s.useV ([f.vI.toNat] ++ ([f.vR.toNat] ++ highReg f))))
    (hp : s.portCheck 6 [f.vI.toNat] ([f.vR.toNat] ++ highReg f) = .ok) (hrec : ∀ e ∈ s.acting g, s.privRec e f lit false = none) :
    execVldp g f lit s = .next ((s.each (s.acting g) (fun u e =>
      let n := min 4 (2 ^ f.sz.toNat)
      let u1 := u.putVec e f.vR.toNat 0 (s.laneMask e f.lq f.ln) f.z ((List.range 64).map (fun k =>
        if f.sgn then wrapInt 32 (toSigned (8 * n) (privLoad s u f lit e n 0 k)) else privLoad s u f lit e n 0 k)) 6
      if f.sz = 3 then u1.putVec e (f.vR.toNat + 1) 0 (s.laneMask e f.lq f.ln) f.z ((List.range 64).map (privLoad s u f lit e 4 4)) 6
      else u1)).popAll ([f.vI.toNat] ++ ([f.vR.toNat] ++ highReg f))) :=
  engineM_recs_next (uses := []) hw h hp hrec

theorem execVstp_next (hw : s.encodingOk (.vstp g f lit) = true) (h : Issues s 6 (s.useV ([f.vI.toNat, f.vR.toNat] ++ highReg f)))
    (hp : s.portCheck 6 ([f.vI.toNat, f.vR.toNat] ++ highReg f) [] = .ok) (hrec : ∀ e ∈ s.acting g, s.privRec e f lit true = none) :
    execVstp g f lit s = .next ((s.each (s.acting g) (fun u e => (laneList (s.laneMask e f.lq f.ln)).foldl (fun w k =>
      let p := privOff f lit (s.rVec e f.vI.toNat) k
      let w1 := w.localWrite e (privAddr p k) (leBytes (min 4 (2 ^ f.sz.toNat)) (bits (s.rVec e f.vR.toNat).toNat (32 * k) 32))
      if f.sz = 3 then w1.localWrite e (privAddr (p + 4) k) (leBytes 4 (bits (s.rVec e (f.vR.toNat + 1)).toNat (32 * k) 32)) else w1)
        u)).popAll ([f.vI.toNat, f.vR.toNat] ++ highReg f)) := by
  have huses : Issues s 6 ([] ++ s.useV (([f.vI.toNat, f.vR.toNat] ++ highReg f) ++ [])) := by rwa [List.append_nil, List.nil_append]
  refine (engineM_recs_next hw huses hp hrec).trans ?_
  rw [List.append_nil]
  by_cases hsz : f.sz = 3 <;> simp only [hsz, if_true, if_false]

/-! ## VATOM (R308) -/

theorem execVatom_next (hw : s.encodingOk (.vatom g f lit) = true)
    (h : Issues s 6 (useS [f.sA, f.sE] ++ s.useV ([f.vI.toNat, f.vR.toNat] ++ (if f.nr then [] else [f.vR.toNat]))))
    (hp : s.portCheck 6 [f.vI.toNat, f.vR.toNat] (if f.nr then [] else [f.vR.toNat]) = .ok)
    (hrec : ∀ e ∈ s.acting g, s.gatherRec e f lit .atomic true (fun _ va =>
      if !f.spc && s.atomFault f.scope va then some (s.engRec e rPROT 1 6 true va) else none) = none) :
    execVatom g f lit s = .next ((s.each (s.acting g) (fun u e =>
      let m := s.laneMask e f.lq f.ln
      let base := s.engBase e f.sA f.sE f.disp lit
      let idx := s.rVec e f.vI.toNat
      let r := (u.vatomThrough e f base idx (laneList m)).vatomEng e f base idx (s.rVec e f.vR.toNat).toNat (laneList m) []
      if f.nr then r.2
      else r.2.putHeld e f.vR.toNat 0 m false ((List.range 64).map (fun k => ((r.1.find? (fun p => p.1 == k)).map Prod.snd).getD 0)))).popAll
        ([f.vI.toNat, f.vR.toNat] ++ (if f.nr then [] else [f.vR.toNat]))) :=
  engineM_recs_next hw h hp hrec

end

/-- Settles O18, word by word. -/
theorem vectorMemoryWords : Obligations.VectorMemoryWords := by
  unfold Obligations.VectorMemoryWords
  intro s g lit
  refine ⟨fun f hvec => ?strong, fun f => ?plain⟩
  case strong =>
    intro addr m
    refine ⟨fun hw h hp hrec => execLda_vec hvec hw h hp hrec, fun h hp hrec => ?_⟩
    intro stored
    exact ⟨fun hw => (execStl_vec hvec).trans (strongVec_next hw h hp hrec nofun),
      fun hw hview => (execStx_vec hvec).trans (strongVec_next hw h hp hrec (fun _ => hview))⟩
  case plain =>
    intro addr m vI high
    exact ⟨execVld_next, execVst_next, execVldg_next, execVstg_next, execVldp_next, execVstp_next, execVatom_next⟩

end Sys2Proof.Proofs
end

section
/-!
PROOF. The memory BAR, windows, pools, the cellar's switch and memory operations of other packages (R86, R99, R102, R374, R411, R412,
R417, R430, R435).
-/
namespace Sys2Proof.Proofs

open Machine Laws

section

variable (s : State)

/-! ## The memory BAR (R374, R430, R435) -/

theorem touchHbm_touchBar (off : Nat) : s.touchBar.touchHbm off = s.touchHbm off := rfl

theorem hostKey_touchBar : s.touchBar.hostKey = s.hostKey := rfl

theorem fleetMet_touchBar : s.touchBar.fleet.met = s.fleet.met := rfl

theorem hbmByte_touchBar (slot a : Nat) : s.touchBar.hbmByte slot a = s.hbmByte slot a := by
  rw [hbmByte_eq, hbmByte_eq]
  rfl

/-- What a read of the memory BAR leaves: its reads, made in the package and on the die that the access has woken. -/
def barReads (off width : Nat) : State := (s.touchBar.touchHbm off).reads .barRead s.touchBar.hostKey off (min width (Config.hbmBytes - off))

/-- What it answers, all ones beyond HBM. -/
def barAnswer (off width : Nat) : List Byte :=
  (List.range width).map (fun i => if off + i < Config.hbmBytes then s.touchBar.hbmByte s.touchBar.hostKey (off + i) else 0xFF)

theorem memBarData_eq (off width : Nat) : s.memBarData off width = barAnswer s off width := by
  simp only [State.memBarData, barAnswer, hostKey_touchBar, hbmByte_touchBar]

theorem execMemoryBarRead_eq (off : BitVec 40) (width : Nat) : execMemoryBarRead off width s =
    .next (if (barReads s off.toNat width).fleet.met = s.touchBar.fleet.met then { barReads s off.toNat width with
      outbox := (barReads s off.toNat width).outbox ++ [.barData (barAnswer s off.toNat width)] } else barReads s off.toNat width) := by
  rw [← memBarData_eq, fleetMet_touchBar, barReads, touchHbm_touchBar, hostKey_touchBar]
  rfl

/-- A read that meets no word whose error stays answers its data. -/
theorem execMemoryBarRead_data {off : BitVec 40} {width : Nat} (h : (barReads s off.toNat width).fleet.met = s.touchBar.fleet.met) :
    execMemoryBarRead off width s = .next { barReads s off.toNat width with
      outbox := (barReads s off.toNat width).outbox ++ [.barData (barAnswer s off.toNat width)] } := by
  rw [execMemoryBarRead_eq, if_pos h]

theorem execMemoryBarRead_noData {off : BitVec 40} {width : Nat} (h : (barReads s off.toNat width).fleet.met ≠ s.touchBar.fleet.met) :
    execMemoryBarRead off width s = .next (barReads s off.toNat width) := by
  rw [execMemoryBarRead_eq, if_neg h]

theorem execMemoryBarWrite_eq (off : BitVec 40) (data : List Byte) : execMemoryBarWrite off data s =
    .next ((s.touchBar.touchHbm off.toNat).hbmWrite s.touchBar.hostKey off.toNat (data.take (Config.hbmBytes - off.toNat))) := by
  rw [touchHbm_touchBar, hostKey_touchBar]
  rfl

/-! ## Format windows (R86) -/

theorem putWindow_on (n : Nat) (v : Dword) : s.putWindow n v true =
    s.setBar 1 (n * 0x20 + 0x18) (BitVec.ofNat 64 (v.toNat / 256 * 256 + bit (s.windowOk n (v.toNat / 256 * 256)))) := by
  rw [State.putWindow, Bool.true_and]

theorem putWindow_off (n : Nat) (v : Dword) :
    s.putWindow n v false = s.setBar 1 (n * 0x20 + 0x18) (BitVec.ofNat 64 (v.toNat / 256 * 256)) := by
  rw [State.putWindow, Bool.false_and, show bit false = 0 from rfl, Nat.add_zero (v.toNat / 256 * 256)]

theorem execFwDisable_closed {n : BitVec 4} (h : s.touchBar.window n.toNat = none) (v : Dword) :
    execFwDisable n v s = .next (s.touchBar.putWindow n.toNat v false) := by
  simp only [execFwDisable, h]

theorem execFwDisable_open {n : BitVec 4} {w : Window} (h : s.touchBar.window n.toNat = some w) (v : Dword) :
    execFwDisable n v s = .next ((s.touchBar.dropView w).putWindow n.toNat v false) := by
  simp only [execFwDisable, h]

/-! ## Link windows and expert pools (R411, R412) -/

section

variable {n : BitVec 10} {v : Dword}

theorem execLwin_close (hon : (s.touchBar.barReg 3 (0x1000 + n.toNat * 8)).getLsbD 63 = true) (hv : v.getLsbD 63 = false)
    (hbusy : s.touchBar.windowBusy n.toNat = false) : execLwin n v s = .next (s.touchBar.closeWindow n.toNat) := by
  simp only [execLwin, hon, hv, hbusy, if_true, Bool.false_eq_true, if_false]

/-- A window through which data move waits to be closed. -/
theorem execLwin_wait (hon : (s.touchBar.barReg 3 (0x1000 + n.toNat * 8)).getLsbD 63 = true) (hv : v.getLsbD 63 = false)
    (hbusy : s.touchBar.windowBusy n.toNat = true) : execLwin n v s = .next (s.touchBar.onFleet (fun f => { f with
      closingWindows := n.toNat :: f.closingWindows.filter (· ≠ n.toNat) })) := by
  simp only [execLwin, hon, hv, hbusy, if_true, Bool.false_eq_true, if_false]

theorem execLwin_keep (hon : (s.touchBar.barReg 3 (0x1000 + n.toNat * 8)).getLsbD 63 = true) (hv : v.getLsbD 63 = true) :
    execLwin n v s = .next s.touchBar := by
  simp only [execLwin, hon, hv, if_true]

/-- A closed window takes its settings, and opens where they allow it. -/
theorem execLwin_set (hoff : (s.touchBar.barReg 3 (0x1000 + n.toNat * 8)).getLsbD 63 = false) :
    execLwin n v s = .next (s.touchBar.setBar 3 (0x1000 + n.toNat * 8) (BitVec.ofNat 64 (bits v.toNat 0 19 + bits v.toNat 20 36 * 2 ^ 20 +
      bit (v.getLsbD 63 && bits v.toNat 0 19 ≠ s.touchBar.pkgId && bits v.toNat 20 36 ≠ 0) * 2 ^ 63))) := by
  simp only [execLwin, hoff, Bool.false_eq_true, if_false]

end

section

variable {die : BitVec 2} {v : Dword}

theorem poolBusy_false {d : Nat} (h : ∀ e ∈ (s.die d).pool, e.2.pins = 0) : s.poolBusy d = false := by
  simp only [State.poolBusy, List.any_eq_false, decide_eq_true_eq, Nat.not_lt, Nat.le_zero]
  exact h

theorem poolBusy_true {d : Nat} (h : ∃ e ∈ (s.die d).pool, 0 < e.2.pins) : s.poolBusy d = true := by
  simpa only [State.poolBusy, List.any_eq_true, decide_eq_true_eq] using h

theorem execXpctl_close (hon : (s.touchBar.barReg 3 (0x48 + die.toNat * 0x10)).getLsbD 32 = true) (hv : v.getLsbD 32 = false)
    (hidle : ∀ e ∈ (s.touchBar.die die.toNat).pool, e.2.pins = 0) : execXpctl die v s = .next (s.touchBar.closePool die.toNat) := by
  simp only [execXpctl, hon, hv, poolBusy_false s.touchBar hidle, if_true, Bool.false_eq_true, if_false]

/-- A pool with a pinned buffer waits to be switched off. -/
theorem execXpctl_wait (hon : (s.touchBar.barReg 3 (0x48 + die.toNat * 0x10)).getLsbD 32 = true) (hv : v.getLsbD 32 = false)
    (hpins : ∃ e ∈ (s.touchBar.die die.toNat).pool, 0 < e.2.pins) : execXpctl die v s = .next (s.touchBar.onFleet (fun f => { f with
      closingPools := die.toNat :: f.closingPools.filter (· ≠ die.toNat) })) := by
  simp only [execXpctl, hon, hv, poolBusy_true s.touchBar hpins, if_true, Bool.false_eq_true, if_false]

theorem execXpctl_set (hoff : (s.touchBar.barReg 3 (0x48 + die.toNat * 0x10)).getLsbD 32 = false) :
    execXpctl die v s = .next (s.touchBar.setBar 3 (0x48 + die.toNat * 0x10) (BitVec.ofNat 64 (v.toNat % 2 ^ 33))) := by
  simp only [execXpctl, hoff, Bool.false_eq_true, if_false]

end

/-! ## The cellar's switch (R417) -/

theorem execStctl_on {v : Dword} (hoff : (s.touchBar.barReg 4 0).getLsbD 0 = false) (hv : v.getLsbD 0 = true) :
    execStctl v s = .next ((s.touchBar.setBar 4 0 (BitVec.ofNat 64 (v.toNat % 2))).onCellar (fun c => { c with
      ctrls := s.touchBar.findControllers, spaces := s.touchBar.findControllers.map s.touchBar.namespaceOf
      queues := s.touchBar.findControllers.flatMap queuePairs, lbas := s.touchBar.leastLbas, out := [], fails := [], ready := true })) := by
  simp only [execStctl, hoff, hv, Bool.true_eq_false, if_false, if_true]

theorem execStctl_off {v : Dword} (hon : (s.touchBar.barReg 4 0).getLsbD 0 = true) (hv : v.getLsbD 0 = false) :
    execStctl v s = .next ((s.touchBar.setBar 4 0 (BitVec.ofNat 64 (v.toNat % 2))).onCellar (fun c => { c with ready := false })) := by
  simp only [execStctl, hon, hv, Bool.false_eq_true, if_false]

/-! ## Memory operations of other packages (R99, R102) -/

section

variable {pa : Nat}

theorem execLinkMemoryArrival_read (h : isHome pa = true) (n : Nat) : execLinkMemoryArrival (.read pa n) s =
    .next (((s.linkWakes (.read pa n)).reads .scrub noKey pa n).linkAnswer ((s.linkWakes (.read pa n)).physRead noKey pa n)) :=
  congrArg Host.Outcome.next (if_pos h)

theorem execLinkMemoryArrival_write (h : isHome pa = true) (bs : List Byte) :
    execLinkMemoryArrival (.write pa bs) s = .next ((s.linkWakes (.write pa bs)).physWrite noKey pa bs) :=
  congrArg Host.Outcome.next (if_pos h)

variable (h : paKind pa = .hbm) (dw : Bool)
include h

theorem execLinkMemoryArrival_atomic (o : Nat) (v : Dword) : execLinkMemoryArrival (.atomic pa dw o v) s =
    .next ((s.linkWakes (.atomic pa dw o v)).linkUpdate pa (if dw then 8 else 4)
      (fun x => atomOp o (8 * if dw then 8 else 4) x (bits v.toNat 0 (8 * if dw then 8 else 4)))) :=
  congrArg Host.Outcome.next (if_pos h)

theorem execLinkMemoryArrival_cas (c v : Dword) : execLinkMemoryArrival (.cas pa dw c v) s =
    .next ((s.linkWakes (.cas pa dw c v)).linkUpdate pa (if dw then 8 else 4)
      (fun x => if x = bits c.toNat 0 (8 * if dw then 8 else 4) then bits v.toNat 0 (8 * if dw then 8 else 4) else x)) :=
  congrArg Host.Outcome.next (if_pos h)

end

end

/-- Settles O35, register by register and access by access. -/
theorem hostMemorySteps : Obligations.HostMemorySteps := by
  unfold Obligations.HostMemorySteps
  intro s0 v s
  refine ⟨?reads, execMemoryBarWrite_eq s0, ?views, ?links, ?pools,
    ⟨execStctl_on s0, execStctl_off s0⟩, fun pa => ⟨fun h => ⟨execLinkMemoryArrival_read s0 h, execLinkMemoryArrival_write s0 h⟩,
      fun h dw => ⟨execLinkMemoryArrival_atomic s0 h dw, execLinkMemoryArrival_cas s0 h dw⟩⟩⟩
  case reads =>
    intro off width t
    exact ⟨execMemoryBarRead_data s0, execMemoryBarRead_noData s0⟩
  case views =>
    intro n c
    refine ⟨congrArg Host.Outcome.next (putWindow_on s n.toNat v), fun h => ?_, fun w h => ?_⟩
    · rw [← putWindow_off]
      exact execFwDisable_closed s0 h v
    · rw [← putWindow_off]
      exact execFwDisable_open s0 h v
  case links =>
    intro n off old pkg ports
    exact ⟨execLwin_close s0, execLwin_wait s0, execLwin_keep s0, execLwin_set s0⟩
  case pools =>
    intro die off old
    exact ⟨execXpctl_close s0, execXpctl_wait s0, execXpctl_set s0⟩

end Sys2Proof.Proofs
end

section
/-!
SUPPORT. What reads leave of the dies: nothing but translation buffers and stair cores (R399, R401, R435).
-/
namespace Sys2Proof.Proofs

open Machine Laws

/-! ## Storage is apart from the dies -/

theorem count_dies (s : State) (die : Option Nat) (i n : Nat) : (s.count die i n).dies = s.dies := rfl

theorem rekeyBlock_dies (s : State) (seen key : BitVec 512) (n : Nat) : (s.rekeyBlock seen key n).dies = s.dies := by
  unfold State.rekeyBlock
  split <;> rfl

theorem writeBack_dies (s : State) (line : Nat) : (s.writeBack line).dies = s.dies := by
  unfold State.writeBack
  split
  · next x _ =>
    split
    · rfl
    · rw [count_dies]
      change (if x.key = s.keyOf x.tag then s else _).dies = s.dies
      split
      · rfl
      · exact foldl_keeps (P := fun u => u.dies = s.dies) (fun u i hu => (rekeyBlock_dies u _ _ _).trans hu) _ s rfl
  · rfl

theorem useLine_dies (s : State) (slot line : Nat) (write : Bool) : (s.useLine slot line write).dies = s.dies := by
  unfold State.useLine
  dsimp only
  split
  · split
    · rw [count_dies]
      split <;> rfl
    · rw [count_dies, count_dies]
      exact writeBack_dies s line
  · rw [count_dies, count_dies]

theorem useLines_dies (s : State) (slot pa n : Nat) (write : Bool) : (s.useLines slot pa n write).dies = s.dies := by
  unfold State.useLines
  split
  · rfl
  · exact foldl_keeps (P := fun u => u.dies = s.dies) (fun u i hu => (useLine_dies u slot _ write).trans hu) _ s rfl

theorem readsHbm_dies (s : State) (v : EccVictim) (slot pa n : Nat) : (s.readsHbm v slot pa n).dies = s.dies := by
  unfold State.readsHbm
  split
  · rfl
  · dsimp only
    split
    · exact useLines_dies s slot pa n false
    · exact useLines_dies s slot pa n false

theorem reads_dies (s : State) (v : EccVictim) (slot pa n : Nat) : (s.reads v slot pa n).dies = s.dies := by
  unfold State.reads
  split
  · rfl
  · split
    · exact readsHbm_dies s v slot pa n
    · split
      · dsimp only
        split
        · exact (readsHbm_dies _ _ _ _ _).trans (readsHbm_dies _ _ _ _ _)
        · exact readsHbm_dies _ _ _ _ _
      · rfl
    · rfl

/-! ## Expert pools (R425) -/

/-- Two states whose dies have the same buffers in their pools. -/
def SamePools (s t : State) : Prop := ∀ d, (t.die d).pool = (s.die d).pool

namespace SamePools

variable {s t u : State}

theorem refl (s : State) : SamePools s s := fun _ => rfl

theorem trans (h : SamePools s t) (k : SamePools t u) : SamePools s u := fun d => (k d).trans (h d)

theorem of_dies (h : t.dies = s.dies) : SamePools s t := fun d => by simp only [State.die, h]

theorem foldl {α : Type} {f : State → α → State} (h : ∀ u x, SamePools u (f u x)) (l : List α) (s : State) : SamePools s (l.foldl f s) :=
  foldl_keeps (P := SamePools s) (fun u x hu => hu.trans (h u x)) l s (refl s)

end SamePools

section

variable (s : State) (v : EccVictim) (p : Party) (a : Acc4) (va : Nat)

theorem samePools_setDie {d : Nat} {x : Die} (h : x.pool = (s.die d).pool) : SamePools s (s.setDie d x) := by
  intro k
  by_cases hk : k = d
  · rw [hk, die_setDie, h]
  · simp only [State.die, State.setDie, tableGet_insert_ne _ _ _ hk]

theorem samePools_putCore (core : Nat) (r : WalkRegs) : SamePools s (s.putCore core r) := samePools_setDie s rfl

theorem samePools_keepPage : SamePools s (s.keepPage p a va) := by
  unfold State.keepPage
  split
  · exact .refl s
  · dsimp only
    split
    · exact .refl s
    · exact samePools_setDie s rfl

theorem samePools_cachePage : SamePools s (s.cachePage p a va) := by
  unfold State.cachePage
  split
  · exact (samePools_putCore s _ _).trans (samePools_keepPage _ p a va)
  · exact .refl s

theorem samePools_missAt : SamePools s (s.missAt v p a va) := by
  unfold State.missAt
  split
  · exact samePools_putCore s _ _
  · exact .refl s

theorem samePools_readsWalk : SamePools s (s.readsWalk v p a va) := by
  unfold State.readsWalk
  split
  · exact .refl s
  · exact .foldl (fun u e => .of_dies (reads_dies u v _ e 8)) _ s

theorem samePools_touch (n : Nat) : SamePools s (s.touch v p a va n) := by
  have hpage := ((samePools_readsWalk s v p a va).trans (samePools_missAt _ v p a va)).trans (samePools_cachePage _ p a va)
  unfold State.touch
  dsimp only
  split
  · split
    · exact hpage
    · exact hpage.trans (.of_dies (reads_dies _ _ _ _ _))
  · exact hpage

/-- A read at a flat address moves no buffer of a pool. -/
theorem samePools_readsFlat (n : Nat) : SamePools s (s.readsFlat v p va n) := by
  unfold State.readsFlat State.touchFlat
  split
  · exact .refl s
  · exact .foldl (fun u i => samePools_touch u v p .read _ _) _ s

end

end Sys2Proof.Proofs
end

section
/-!
PROOF. PORT, the order, prefetch and cache words, and those of paging, sequences and experts (R71, R92, R95, R109, R178, R309, R314 to
R318, R321, R425, R426).
-/
namespace Sys2Proof.Proofs

open Machine Laws

/-! ## Issuing a sequencer-side M word -/

section

variable {s : State} {g : Gate} {lit : Option Dword} {sA sD : BitVec 5}

/-- A sequencer-side M word that no encoding check refuses acts when its gate lets it. -/
theorem seqM_next {i : Instr} {uses : List Dest} {check : State → Verdict} {eff : State → State} (h : Issues s 6 uses)
    (hg : s.gateM g = true) (hw : i.wellFormed = true) (hp : channelUse i = none) (hs : sourceCodes i = []) (hd : destCodes i = [])
    (hc : check s = .ok) : runSeqM i g uses check eff s = .next (eff s) :=
  runSeqM_next h hg (encodingOk_of_plain hw hp hs hd s) hc

/-- One that its check refuses enters the handler at its bundle. -/
theorem seqM_trap {i : Instr} {uses : List Dest} {check : State → Verdict} {eff : State → State} {l : List FaultRec} (h : Issues s 6 uses)
    (hg : s.gateM g = true) (hp : s.issue.pre = none) (hw : s.encodingOk i = true) (hc : check s = .trap false l) :
    runSeqM i g uses check eff s = .next (s.enterTrap s.focus s.issue.bundle l) := by
  unfold runSeqM
  exact runWord_trap (n := false) h hp hw rfl hg hc

/-! ## PORT, FENCE and PFX (R309, R314, R315) -/

theorem rSLit_eq (n : BitVec 5) (lit : Option Dword) : s.rSLit n lit = lit.getD (s.rS n) := by
  cases lit <;> rfl

theorem execPort_next {gN : BitVec 2} {sL sH : BitVec 5} {boff : BitVec 32} (hg : s.gateM g = true)
    (hw : Instr.wellFormed (.port g gN sL sH boff lit) = true)
    (h : Issues s 6 (useS (if sL = 0 then [sH] else [sL, sL + 1, sL + 2, sH]))) :
    let l (i : BitVec 5) : Dword := if sL = 0 then 0 else s.rS (sL + i)
    execPort g gN sL sH boff lit s = .next (s.loadPort gN (portLoad (l 0) (l 1) (l 2) (s.rSLit sH lit) boff)) :=
  seqM_next h hg hw rfl rfl rfl rfl

theorem execFence_next {scope : BitVec 3} {kind : BitVec 2} (hg : s.gateM g = true) (hw : Instr.wellFormed (.fence g scope kind) = true)
    (h : Issues s 6 []) : execFence g scope kind s = .next s :=
  seqM_next h hg hw rfl rfl rfl rfl

theorem execPfx_next {disp : BitVec 32} {n : BitVec 16} (hg : s.gateM g = true) (h : Issues s 6 (useS [sA]))
    (hw : Instr.wellFormed (.pfx g sA disp n lit) = true) : execPfx g sA disp n lit s =
      .next ((List.range (n.toNat + 1)).foldl (fun u i => u.onLine (s.baseDisp sA disp lit + BitVec.ofNat 64 (128 * i))
        (fun w l => w.readsHbm (.context w.focus) (w.regionKey w.party.region) (l * 128) 128)) s) :=
  seqM_next h hg hw rfl rfl rfl rfl

/-! ## Cache words (R71, R92, R317) -/

/-- The line of a flat address that lies in HBM. -/
theorem onLine_hbm {va : Dword} {pa : Nat} (h : s.homeOf .find va = some pa) (hk : paKind pa = .hbm) (f : State → Nat → State) :
    s.onLine va f = f (s.findHome .find va) (pa / 128) := by
  simp only [State.onLine, h, hk, if_true]

/-- Another address has no line. -/
theorem onLine_none {va : Dword} (h : ∀ pa, s.homeOf .find va = some pa → paKind pa ≠ .hbm) (f : State → Nat → State) :
    s.onLine va f = s.findHome .find va := by
  unfold State.onLine
  split
  · next pa hpa => exact if_neg (h pa hpa)
  · rfl

theorem execCwb_next (hg : s.gateM g = true) (h : Issues s 6 (useS [sA])) :
    execCwb g sA s = .next (s.onLine (s.rS sA) State.writeBack) :=
  seqM_next h hg rfl rfl rfl rfl rfl

theorem execCinv_next (hg : s.gateM g = true) (h : Issues s 6 (useS [sA])) :
    execCinv g sA s = .next (s.onLine (s.rS sA) State.dropLine) :=
  seqM_next h hg rfl rfl rfl rfl rfl

/-- PBINV removes the block at the home of its address from the die's cache. -/
theorem execPbinv_home {pa : Nat} (hg : s.gateM g = true) (h : Issues s 6 (useS [sA])) (hpa : s.homeOf .read (s.rS sA) = some pa) :
    let t := s.findHome .read (s.rS sA)
    execPbinv g sA s = .next (t.setDie t.me.place.die
      { t.die t.me.place.die with pbCache := (t.die t.me.place.die).pbCache.filter (fun e => e.addr ≠ pa / 64 * 64) }) := by
  refine (seqM_next h hg rfl rfl rfl rfl rfl).trans ?_
  simp only [hpa]

theorem execPbinv_none (hg : s.gateM g = true) (h : Issues s 6 (useS [sA])) (hpa : s.homeOf .read (s.rS sA) = none) :
    execPbinv g sA s = .next (s.findHome .read (s.rS sA)) := by
  refine (seqM_next h hg rfl rfl rfl rfl rfl).trans ?_
  simp only [hpa]

/-! ## The handler's words (R178, R318 to R320) -/

theorem superCheck_inside (h : s.was.sup = true) : s.superCheck = .ok := by rw [State.superCheck, h, need_true]

theorem superCheck_outside (hp : s.issue.pre = none) (h : s.me.sup = false) : s.superCheck = .trap false [s.seqRec rSTATE 0 6 0] := by
  rw [State.superCheck, was_alone hp, h, need_false]

theorem execTinv_next {kind : BitVec 2} (hg : s.gateM g = true) (hsup : s.was.sup = true) (hD : sD ≠ 0) (h : Issues s 6 (useS [sA, sD]))
    (hk : kind ≠ 3) : execTinv g kind sA sD s = .next (s.startOp sD.toNat false (.tinv kind.toNat (s.rS sA)) [(16, 0)]) :=
  have hwf : Instr.wellFormed (.tinv g kind sA sD) = true := Bool.and_eq_true_iff.mpr ⟨bne_iff_ne.mpr hk, decide_eq_true hD⟩
  seqM_next h hg hwf rfl rfl rfl (superCheck_inside hsup)

theorem execBtinv_next {nblk : BitVec 16} {all : Bool} (hg : s.gateM g = true) (hsup : s.was.sup = true) (hD : sD ≠ 0)
    (h : Issues s 6 (useS [sA, sD])) (hall : all = true ↔ nblk = 0) :
    execBtinv g sA sD nblk all s = .next (s.startOp sD.toNat false (.btinv (s.rS sA) nblk.toNat all) [(16, 0)]) := by
  have hwf : Instr.wellFormed (.btinv g sA sD nblk all) = true := by
    refine Bool.and_eq_true_iff.mpr ⟨decide_eq_true hD, beq_iff_eq.mpr (Bool.eq_iff_iff.mpr ?_)⟩
    rw [hall, beq_iff_eq]
  exact seqM_next h hg hwf rfl rfl rfl (superCheck_inside hsup)

theorem execPgmap_next {sz zf : Bool} {perm : BitVec 3} (hg : s.gateM g = true) (hsup : s.was.sup = true) (h : Issues s 6 (useS [sA, sD])) :
    execPgmap g sA sD sz zf perm s =
      .next ((s.pgmap (s.rS sA) sz zf perm.toNat).1.wSheld sD (s.pgmap (s.rS sA) sz zf perm.toNat).2) :=
  seqM_next h hg rfl rfl rfl rfl (superCheck_inside hsup)

/-- Outside supervisor mode a word that only the handler may issue traps. -/
theorem handlerWord_trap {i : Instr} {uses : List Dest} {eff : State → State} (hg : s.gateM g = true) (hp : s.issue.pre = none)
    (hsup : s.me.sup = false) (h : Issues s 6 uses) (hw : i.wellFormed = true) (hc : channelUse i = none) (hs : sourceCodes i = [])
    (hd : destCodes i = []) :
    runSeqM i g uses (fun t => t.superCheck) eff s = .next (s.enterTrap s.focus s.issue.bundle [s.seqRec rSTATE 0 6 0]) :=
  seqM_trap h hg hp (encodingOk_of_plain hw hc hs hd s) (superCheck_outside hp hsup)

/-- Outside supervisor mode each of the three traps. -/
theorem handlerWord_traps {i : Instr} (hg : s.gateM g = true) (hp : s.issue.pre = none) (hsup : s.me.sup = false)
    (h : Issues s 6 (useS [sA, sD])) (hw : i.wellFormed = true)
    (hi : (∃ sz zf perm, i = .pgmap g sA sD sz zf perm) ∨ (∃ kind, i = .tinv g kind sA sD) ∨ ∃ nblk all, i = .btinv g sA sD nblk all) :
    exec i s = .next (s.enterTrap s.focus s.issue.bundle [s.seqRec rSTATE 0 6 0]) := by
  rcases hi with ⟨sz, zf, perm, rfl⟩ | ⟨kind, rfl⟩ | ⟨nblk, all, rfl⟩
  · change execPgmap g sA sD sz zf perm s = _
    exact handlerWord_trap hg hp hsup h hw rfl rfl rfl
  · change execTinv g kind sA sD s = _
    exact handlerWord_trap hg hp hsup h hw rfl rfl rfl
  · change execBtinv g sA sD nblk all s = _
    exact handlerWord_trap hg hp hsup h hw rfl rfl rfl

/-! ## KVSEQ (R321) -/

theorem kvseqCheck_ok {q : Dword} (h : (s.cardFor s.party (bits q.toNat 0 20) 0).isSome = true) : s.kvseqCheck q = .ok := if_pos h

theorem execKvseq_next {op : Bool} {sQ : BitVec 5} (hg : s.gateM g = true)
    (hcard : (s.cardFor s.party (bits (s.rS sQ).toNat 0 20) 0).isSome = true) (h : Issues s 6 (useS [sA, sQ, sD])) :
    execKvseq g op sA sQ sD s = .next (s.kvseq op (s.rS sQ) (s.rS sA) sD) :=
  seqM_next h hg rfl rfl rfl rfl (kvseqCheck_ok hcard)

theorem execKvseqLiteral_next {op : Bool} {sQ : BitVec 5} {l : Dword} (hg : s.gateM g = true)
    (hcard : (s.cardFor s.party (bits (s.rS sQ).toNat 0 20) 0).isSome = true) (h : Issues s 6 (useS [sQ, sD])) :
    execKvseqLiteral g op sQ sD l s = .next (s.kvseq op (s.rS sQ) l sD) :=
  seqM_next h hg rfl rfl rfl rfl (kvseqCheck_ok hcard)

/-! ## XPF (R316, R425, R426) -/

/-- A word that issues and passes its check does not hold. -/
theorem verdict_issues {cls : Nat} {uses : List Dest} {acts : Bool} {check : State → Verdict} (h : Issues s cls uses) (hc : check s = .ok) :
    s.verdict cls acts uses (fun _ => .ok) check = .ok := by
  obtain ⟨-, -, hpending, hlanding⟩ := h
  simp only [State.verdict, scoreboard_ok hpending, verdict_ok_and, landing_runs hlanding, Bool.false_eq_true, if_false, hc, ite_self]

/-- An XPF that issues and passes its check has its effect, and starts no miss. -/
theorem execXpf_next {w : Bool} {sE sR : BitVec 5} {layer : BitVec 8} (hg : s.gateM g = true) (h : Issues s 6 (useS [sE, sR]))
    (hc : s.xpfCheck w sE sR layer = .ok) : execXpf g w sE sR layer s = .next (s.xpf w sE sR layer) := by
  have hrun : runSeqM (.xpf g w sE sR layer) g (useS [sE, sR]) (fun t => t.xpfCheck w sE sR layer) (fun t => t.xpf w sE sR layer) s =
      .next (s.xpf w sE sR layer) := seqM_next h hg rfl rfl rfl rfl hc
  have hholds : s.xpfHolds g w sE sR layer = false := by
    rw [State.xpfHolds, verdict_issues h hc, show (Verdict.ok == Verdict.hold) = false from rfl, Bool.and_false]
  rw [execXpf, hrun, hholds]
  rfl

/-- What XPF reads: the record that sR names, and the weight entry at an address. -/
def xpfReads (s : State) (sR : BitVec 5) (va : Nat) : State :=
  (s.readsFlat (.context s.focus) s.party (s.rS sR).toNat 64).readsFlat (.context s.focus) s.party va 32

theorem samePools_xpfReads (s : State) (sR : BitVec 5) (va : Nat) : SamePools s (xpfReads s sR va) :=
  SamePools.trans (samePools_readsFlat s _ _ _ _) (samePools_readsFlat _ _ _ _ _)

/-- Plain, XPF starts the fill of the weights that it names, if the record is not refused. -/
theorem xpf_plain {sE sR : BitVec 5} {layer : BitVec 8} : s.xpf false sE sR layer =
    match s.xpfWeights sE sR layer with
    | some w => ((xpfReads s sR w.1).startFill (xpfReads s sR w.1).party w.2 ((xpfReads s sR w.1).poolSpare s.me.place.die)).1
    | none => s.readsFlat (.context s.focus) s.party (s.rS sR).toNat 64 := by
  unfold State.xpf
  cases s.xpfWeights sE sR layer <;> rfl

/-- With .w it pins the resident weights; what it reads moves no buffer. -/
theorem xpf_pins {sE sR : BitVec 5} {layer : BitVec 8} {va b : Nat} {w : Weights} (hw : s.xpfWeights sE sR layer = some (va, w))
    (hb : (s.die s.me.place.die).residentIn w.src = some b) : s.xpf true sE sR layer =
      ((xpfReads s sR va).pinBuf s.me.place.die b).modCtx (xpfReads s sR va).owner (fun c => { c with pins := b :: c.pins, missPin := none }) := by
  have hres : ((xpfReads s sR va).die s.me.place.die).residentIn w.src = some b := by
    rw [Die.residentIn, samePools_xpfReads s sR va]
    exact hb
  unfold xpfReads at hres ⊢
  simp only [State.xpf, hw, hres, if_true]

theorem xpfCheck_resident {sE sR : BitVec 5} {layer : BitVec 8} {va b : Nat} {w : Weights} (hw : s.xpfWeights sE sR layer = some (va, w))
    (hb : (s.die s.me.place.die).residentIn w.src = some b) : s.xpfCheck true sE sR layer = .ok := by
  simp only [State.xpfCheck, hw, hb, Bool.not_true, Bool.false_eq_true, if_false, Option.isSome_some, if_true]

end

/-- Settles O19, word by word. -/
theorem portAndWalkWords : Obligations.PortAndWalkWords := by
  unfold Obligations.PortAndWalkWords
  intro s g sA sD lit hg
  refine ⟨?port, fun scope kind hw h => execFence_next hg hw h, fun h => ?lines, fun hsup hD h => ?invalidations,
    fun hp hsup h i hw hi => handlerWord_traps hg hp hsup h hw hi, fun sz zf perm hsup h => execPgmap_next hg hsup h,
    fun op sQ hcard => ⟨execKvseq_next hg hcard, fun l => execKvseqLiteral_next hg hcard⟩, fun sE sR layer h => ?experts⟩
  case port =>
    intro gN sL sH boff hw h l
    refine (execPort_next hg hw h).trans ?_
    cases lit <;> rfl
  case lines =>
    refine ⟨fun disp n hw => execPfx_next hg h hw, ⟨fun pa hpa hk => ?_, fun hnone => ?_⟩, fun pa hpa => execPbinv_home hg h hpa,
      execPbinv_none hg h⟩
    · exact ⟨(execCwb_next hg h).trans (congrArg Host.Outcome.next (onLine_hbm hpa hk _)),
        (execCinv_next hg h).trans (congrArg Host.Outcome.next (onLine_hbm hpa hk _))⟩
    · exact ⟨(execCwb_next hg h).trans (congrArg Host.Outcome.next (onLine_none hnone _)),
        (execCinv_next hg h).trans (congrArg Host.Outcome.next (onLine_none hnone _))⟩
  case invalidations =>
    exact ⟨fun kind hk => execTinv_next hg hsup hD h hk, fun nblk all hall => execBtinv_next hg hsup hD h hall⟩
  case experts =>
    intro read
    refine ⟨(execXpf_next hg h rfl).trans (congrArg Host.Outcome.next xpf_plain), fun va w b hw hb => ?_⟩
    exact (execXpf_next hg h (xpfCheck_resident hw hb)).trans (congrArg Host.Outcome.next (xpf_pins hw hb))

end Sys2Proof.Proofs
end

section
/-!
SUPPORT. What changes of registers, scratchpads and ports leave unchanged: the frame that the V words share (R96, R142, R234 to R237).
-/
namespace Sys2Proof.Proofs

open Machine Laws

/-! ## One engine -/

/-- y differs from x only in the vector registers, predicates and lane predicates named, and in sticky flags. -/
structure EngCtxKeeps (V P Q : Nat → Prop) (x y : EngCtx) : Prop where
  vreg : ∀ n, ¬ V n → y.vreg n = x.vreg n
  pred : ∀ n, ¬ P n → y.pred n = x.pred n
  preds : (∀ n, ¬ P n) → y.p = x.p
  qreg : ∀ n, ¬ Q n → y.qreg n = x.qreg n
  accum : ∀ n, y.accum n = x.accum n
  zreg : ∀ n, y.zreg n = x.zreg n
  kcur : y.kcur = x.kcur
  drainOf : ∀ n, y.drainOf n = x.drainOf n

/-- What the multiply array of an engine holds stays, and so do the registers of both contexts but for those named. -/
structure EngineKeeps (V P Q : Nat → Prop) (x y : Engine) : Prop where
  slot : ∀ n, y.slot n = x.slot n
  latch : y.latch = x.latch
  tasks : y.tasks = x.tasks
  busy : y.busy = x.busy
  lost : y.lost = x.lost
  part : ∀ k, EngCtxKeeps V P Q (x.part k) (y.part k)

section

variable {V P Q : Nat → Prop}

theorem EngCtxKeeps.refl (x : EngCtx) : EngCtxKeeps V P Q x x :=
  ⟨fun _ _ => rfl, fun _ _ => rfl, fun _ => rfl, fun _ _ => rfl, fun _ => rfl, fun _ => rfl, rfl, fun _ => rfl⟩

theorem EngCtxKeeps.trans {x y z : EngCtx} (h : EngCtxKeeps V P Q x y) (k : EngCtxKeeps V P Q y z) : EngCtxKeeps V P Q x z where
  vreg n hn := (k.vreg n hn).trans (h.vreg n hn)
  pred n hn := (k.pred n hn).trans (h.pred n hn)
  preds hn := (k.preds hn).trans (h.preds hn)
  qreg n hn := (k.qreg n hn).trans (h.qreg n hn)
  accum n := (k.accum n).trans (h.accum n)
  zreg n := (k.zreg n).trans (h.zreg n)
  kcur := k.kcur.trans h.kcur
  drainOf n := (k.drainOf n).trans (h.drainOf n)

theorem EngineKeeps.trans {x y z : Engine} (h : EngineKeeps V P Q x y) (k : EngineKeeps V P Q y z) : EngineKeeps V P Q x z where
  slot n := (k.slot n).trans (h.slot n)
  latch := k.latch.trans h.latch
  tasks := k.tasks.trans h.tasks
  busy := k.busy.trans h.busy
  lost := k.lost.trans h.lost
  part n := (h.part n).trans (k.part n)

/-- The generator, its seeds and the scratchpad bytes are no registers. -/
theorem EngineKeeps.of_rest {x y : Engine} (h : { y with gen := x.gen, seed := x.seed, spad := x.spad } = x) : EngineKeeps V P Q x y := by
  rw [← h]
  exact ⟨fun _ => rfl, rfl, rfl, rfl, rfl, fun _ => .refl _⟩

theorem engCtxKeeps_putV {n : Nat} (hn : V n) (x : EngCtx) (v : Vec) : EngCtxKeeps V P Q x (x.putV n v) where
  __ := EngCtxKeeps.refl (V := V) (P := P) (Q := Q) x
  vreg _ hm := vreg_putV_ne x v (fun e => hm (e ▸ hn))

theorem engCtxKeeps_raise (x : EngCtx) (f : Flags) : EngCtxKeeps V P Q x (x.raise f) := { EngCtxKeeps.refl x with }

theorem engCtxKeeps_putQ {n : Nat} (hn : Q n) (x : EngCtx) (v : LaneMask) : EngCtxKeeps V P Q x (x.putQ n v) := by
  have hother : ∀ m, ¬ Q m → tableGet (tableSet x.q n v 0) m 0 = tableGet x.q m 0 := fun m hm => tableGet_set_ne _ _ _ (fun e => hm (e ▸ hn))
  unfold EngCtx.putQ
  split
  · exact .refl x
  · refine { EngCtxKeeps.refl (V := V) (P := P) (Q := Q) x with qreg := fun m hm => ?_ }
    unfold EngCtx.qreg
    split
    · rfl
    · exact hother m hm

/-- One bit of a number replaced, in terms of what stands above and below it. -/
theorem putBits_bit (x n b : Nat) : putBits x n 1 b = 2 ^ n * (2 * (x / 2 ^ n / 2) + b % 2) + x % 2 ^ n := by
  have hx : x = 2 ^ n * (2 * (x / 2 ^ n / 2)) + x % 2 ^ n + x / 2 ^ n % 2 * 2 ^ n := by
    conv_lhs => rw [← Nat.div_add_mod x (2 ^ n), ← Nat.div_add_mod (x / 2 ^ n) 2]
    ring
  have hsub : x - x / 2 ^ n % 2 * 2 ^ n = 2 ^ n * (2 * (x / 2 ^ n / 2)) + x % 2 ^ n := Nat.sub_eq_of_eq_add hx
  rw [putBits, bits_eq, pow_one, hsub]
  ring

/-- Writing bit n leaves every other bit. -/
theorem testBit_putBits_ne (x b : Nat) {n m : Nat} (h : m ≠ n) : (putBits x n 1 b).testBit m = x.testBit m := by
  rw [putBits_bit]
  have hlow : x % 2 ^ n < 2 ^ n := Nat.mod_lt _ (Nat.two_pow_pos n)
  rcases Nat.lt_or_gt_of_ne h with hm | hm
  · rw [Nat.testBit_two_pow_mul_add _ hlow, if_pos hm, Nat.testBit_mod_two_pow, decide_eq_true hm, Bool.true_and]
  · obtain ⟨k, rfl⟩ := Nat.exists_eq_add_of_lt hm
    have hhigh : x.testBit (n + k + 1) = (x / 2 ^ n / 2).testBit k := by
      rw [← Nat.testBit_succ, Nat.testBit_div_two_pow, Nat.succ_eq_add_one, show k + 1 + n = n + k + 1 by omega]
    rw [Nat.testBit_two_pow_mul_add _ hlow, if_neg (by omega), show n + k + 1 - n = k + 1 by omega, Nat.testBit_succ, hhigh]
    congr 1
    omega

theorem pred_putP_ne (x : EngCtx) (b : Bool) {n m : Nat} (h : m ≠ n) : (x.putP n b).pred m = x.pred m := by
  unfold EngCtx.putP EngCtx.pred
  split
  · rfl
  · simp only [BitVec.getLsbD_ofNat, testBit_putBits_ne _ _ h]
    by_cases hm : m < 8
    · rw [decide_eq_true hm, Bool.true_and, BitVec.getLsbD]
    · rw [decide_eq_false hm, Bool.false_and, BitVec.getLsbD_of_ge _ _ (by omega)]
theorem engCtxKeeps_putP {n : Nat} (hn : P n) (x : EngCtx) (b : Bool) : EngCtxKeeps V P Q x (x.putP n b) := by
  have hpred : ∀ m, ¬ P m → (x.putP n b).pred m = x.pred m := fun m hm => pred_putP_ne x b (fun e => hm (e ▸ hn))
  revert hpred
  unfold EngCtx.putP
  split
  · exact fun _ => .refl x
  · exact fun hpred => { EngCtxKeeps.refl (V := V) (P := P) (Q := Q) x with pred := hpred, preds := fun hnone => absurd hn (hnone n) }

end

/-! ## Scratchpad bytes -/

theorem putBytes_rest (x : Engine) (a : Nat) (bs : List Byte) : { x.putBytes a bs with spad := x.spad } = x := by
  induction bs generalizing x a with
  | nil => rfl
  | cons b bs ih =>
    have hrest := ih { x with spad := if x.lost = 0 then tableSet x.spad a b 0 else tableInsert x.spad a b } (a + 1)
    exact congrArg (fun y : Engine => { y with spad := x.spad }) hrest

theorem byte_spad_ne (x : Engine) {a k : Nat} (b : Byte) (h : k ≠ a) :
    ({ x with spad := if x.lost = 0 then tableSet x.spad a b 0 else tableInsert x.spad a b } : Engine).byte k = x.byte k := by
  have hfind : tableFind (if x.lost = 0 then tableSet x.spad a b 0 else tableInsert x.spad a b) k = tableFind x.spad k := by
    split
    · exact tableFind_set_ne _ _ _ h
    · exact tableFind_insert_ne _ _ h
  simp only [Engine.byte, hfind]

/-- A byte that a write changes is one of those written. -/
theorem byte_putBytes {x : Engine} {a k : Nat} {bs : List Byte} (h : (x.putBytes a bs).byte k ≠ x.byte k) : a ≤ k ∧ k < a + bs.length := by
  induction bs generalizing x a with
  | nil => exact absurd rfl h
  | cons b bs ih =>
    rw [Engine.putBytes] at h
    rw [List.length_cons]
    by_cases hk : k = a
    · omega
    · rw [← byte_spad_ne x b hk] at h
      have := ih h
      omega

/-! ## The state -/

/-- What a V word may change: named registers in the active engines of the focus's gang, named scratchpad bytes (by the engine's key),
ports, and what the model keeps of writes inside their bounds. -/
structure VectorFrame (V P Q : Nat → Prop) (B : Nat → Nat → Prop) (s t : State) : Prop where
  rest : { t with ctxs := s.ctxs, engines := s.engines, issue := s.issue } = s
  ctx : ∀ c, { t.ctxAt c with inflight := (s.ctxAt c).inflight, recvs := (s.ctxAt c).recvs, ports := (s.ctxAt c).ports
                              lastTrans := (s.ctxAt c).lastTrans } = s.ctxAt c
  ports : ∀ c, c ≠ s.focus → (t.ctxAt c).ports = (s.ctxAt c).ports
  eng : ∀ g e, EngineKeeps V P Q (s.eng g e) (t.eng g e)
  otherCtx : ∀ g e, if s.me.place.engCtx = 0 then (t.eng g e).c1 = (s.eng g e).c1 else (t.eng g e).c0 = (s.eng g e).c0
  otherGang : ∀ g, g ≠ s.me.place.gangNo → ∀ e < 16, (t.eng g e).c0 = (s.eng g e).c0 ∧ (t.eng g e).c1 = (s.eng g e).c1
  byte : ∀ g e a, (t.eng g e).byte a ≠ (s.eng g e).byte a → B (engKey g e) a

section

variable {V P Q : Nat → Prop} {B : Nat → Nat → Prop} {s t u : State}

theorem VectorFrame.onlyVectors (h : VectorFrame V P Q B s t) : OnlyVectors s t :=
  ⟨h.rest, h.ctx, h.ports, fun g e => (h.eng g e).slot, fun g e => ⟨(h.eng g e).latch, (h.eng g e).tasks, (h.eng g e).busy, (h.eng g e).lost⟩,
    fun g e k => ((h.eng g e).part k).accum, fun g e k => ((h.eng g e).part k).zreg, fun g e k => ((h.eng g e).part k).kcur,
    fun g e k => ((h.eng g e).part k).drainOf, h.otherGang, h.otherCtx⟩

theorem VectorFrame.focus (h : VectorFrame V P Q B s t) : t.focus = s.focus := by
  have := congrArg State.focus h.rest
  exact this

theorem VectorFrame.place (h : VectorFrame V P Q B s t) : t.me.place = s.me.place := by
  have := congrArg Ctx.place (h.ctx s.focus)
  rw [State.me, h.focus]
  exact this

theorem VectorFrame.refl (s : State) : VectorFrame V P Q B s s where
  rest := rfl
  ctx _ := rfl
  ports _ _ := rfl
  eng g e := .of_rest rfl
  otherCtx _ _ := by split <;> rfl
  otherGang _ _ _ _ := ⟨rfl, rfl⟩
  byte _ _ _ h := absurd rfl h

theorem VectorFrame.trans (h : VectorFrame V P Q B s t) (k : VectorFrame V P Q B t u) : VectorFrame V P Q B s u where
  rest := by
    have := congrArg (fun x : State => { x with ctxs := s.ctxs, engines := s.engines, issue := s.issue }) k.rest
    exact this.trans h.rest
  ctx c := by
    have := congrArg (fun x : Ctx => { x with inflight := (s.ctxAt c).inflight, recvs := (s.ctxAt c).recvs, ports := (s.ctxAt c).ports
                                              lastTrans := (s.ctxAt c).lastTrans }) (k.ctx c)
    exact this.trans (h.ctx c)
  ports c hc := (k.ports c (h.focus ▸ hc)).trans (h.ports c hc)
  eng g e := (h.eng g e).trans (k.eng g e)
  otherCtx g e := by
    have hk := k.otherCtx g e
    have hh := h.otherCtx g e
    rw [h.place] at hk
    by_cases hz : s.me.place.engCtx = 0
    · rw [if_pos hz] at hk hh ⊢
      exact hk.trans hh
    · rw [if_neg hz] at hk hh ⊢
      exact hk.trans hh
  otherGang g hg e he :=
    have hh := h.otherGang g hg e he
    have hk := k.otherGang g (h.place ▸ hg) e he
    ⟨hk.1.trans hh.1, hk.2.trans hh.2⟩
  byte g e a hne := by
    by_cases hb : (t.eng g e).byte a = (s.eng g e).byte a
    · exact k.byte g e a (hb ▸ hne)
    · exact h.byte g e a hb

/-- What the model keeps of the writes of the context in focus, and its ports, may change. -/
theorem VectorFrame.mod (s : State) {f : Ctx → Ctx}
    (hf : ∀ c : Ctx, { f c with inflight := c.inflight, recvs := c.recvs, ports := c.ports, lastTrans := c.lastTrans } = c) :
    VectorFrame V P Q B s (s.mod f) where
  __ := VectorFrame.refl (V := V) (P := P) (Q := Q) (B := B) s
  ctx c := by
    by_cases hc : c = s.focus
    · rw [hc, State.mod, ctxAt_modCtx]
      exact hf _
    · rw [State.mod, ctxAt_modCtx_ne _ _ hc]
  ports c hc := by rw [State.mod, ctxAt_modCtx_ne _ _ hc]

/-- Engines of one key are one engine but for the generator that reset would leave. -/
theorem eng_of_key (s : State) {g e h d : Nat} (hk : engKey h d = engKey g e) : ∃ w, s.eng g e = { s.eng h d with gen := w } := by
  unfold State.eng tableGet
  rw [hk]
  cases tableFind s.engines (engKey g e) with
  | none => exact ⟨_, rfl⟩
  | some x => exact ⟨_, rfl⟩

theorem eng_setEng_key (s : State) {g e h d : Nat} (x : Engine) (hk : engKey h d = engKey g e) : (s.setEng g e x).eng h d = x := by
  unfold State.eng
  rw [hk, setEng_engines, tableGet_insert_self]

/-- An engine of the focus's gang may change in its part, and any engine in its bytes. -/
theorem VectorFrame.setEng (s : State) {g e : Nat} {x : Engine} (he : e < 16) (hx : EngineKeeps V P Q (s.eng g e) x)
    (hctx : if s.me.place.engCtx = 0 then x.c1 = (s.eng g e).c1 else x.c0 = (s.eng g e).c0)
    (hgang : g ≠ s.me.place.gangNo → x.c0 = (s.eng g e).c0 ∧ x.c1 = (s.eng g e).c1)
    (hbyte : ∀ a, x.byte a ≠ (s.eng g e).byte a → B (engKey g e) a) : VectorFrame V P Q B s (s.setEng g e x) where
  rest := rfl
  ctx _ := rfl
  ports _ _ := rfl
  eng h d := by
    by_cases hk : engKey h d = engKey g e
    · rw [eng_setEng_key s x hk]
      have halias : EngineKeeps V P Q (s.eng h d) (s.eng g e) := by
        obtain ⟨w, hw⟩ := eng_of_key s hk
        rw [hw]
        exact .of_rest rfl
      exact halias.trans hx
    · rw [eng_setEng_ne s x hk]
      exact .of_rest rfl
  otherCtx h d := by
    by_cases hk : engKey h d = engKey g e
    · rw [eng_setEng_key s x hk]
      obtain ⟨w, hw⟩ := eng_of_key s hk
      rw [hw] at hctx
      exact hctx
    · rw [eng_setEng_ne s x hk]
      split <;> rfl
  otherGang h hh d hd := by
    by_cases hk : engKey h d = engKey g e
    · obtain ⟨rfl, rfl⟩ : h = g ∧ d = e := by unfold engKey at hk; omega
      rw [eng_setEng]
      exact hgang hh
    · rw [eng_setEng_ne s x hk]
      exact ⟨rfl, rfl⟩
  byte h d a hne := by
    by_cases hk : engKey h d = engKey g e
    · rw [eng_setEng_key s x hk] at hne
      rw [hk]
      obtain ⟨w, hw⟩ := eng_of_key s hk
      refine hbyte a ?_
      rw [hw]
      exact hne
    · rw [eng_setEng_ne s x hk] at hne
      exact absurd rfl hne

theorem byte_setPart (x : Engine) (k : Nat) (c : EngCtx) (a : Nat) : (x.setPart k c).byte a = x.byte a := by
  unfold Engine.byte
  rw [setPart_spad, setPart_lost]

theorem engineKeeps_setPart (x : Engine) (k : Nat) {c : EngCtx} (h : EngCtxKeeps V P Q (x.part k) c) : EngineKeeps V P Q x (x.setPart k c) := by
  unfold Engine.setPart
  unfold Engine.part at h
  split
  · next hk =>
    rw [if_pos hk] at h
    refine ⟨fun _ => rfl, rfl, rfl, rfl, rfl, fun j => ?_⟩
    unfold Engine.part
    split
    · exact h
    · exact .refl _
  · next hk =>
    rw [if_neg hk] at h
    refine ⟨fun _ => rfl, rfl, rfl, rfl, rfl, fun j => ?_⟩
    unfold Engine.part
    split
    · exact .refl _
    · exact h

/-- A change of the focus's own registers in one of its engines. -/
theorem VectorFrame.onPart (s : State) {e : Nat} {f : EngCtx → EngCtx} (he : e < 16) (hf : ∀ x, EngCtxKeeps V P Q x (f x)) :
    VectorFrame V P Q B s (s.onPart e f) :=
  .setEng s he (engineKeeps_setPart _ _ (hf _)) (by unfold Engine.setPart; split <;> rfl) (fun h => absurd rfl h)
    (fun a h => absurd (byte_setPart _ _ _ a) h)

end

/-! ## Register writes, draws and pops -/

section

variable {V P Q : Nat → Prop} {B : Nat → Nat → Prop} (s : State) {e : Nat}

theorem noteIn_frame (c : Ctx) (units : Nat) (d : Dest) (old cyc L : Nat) (engine : Bool) :
    { c.noteIn units d old cyc L engine with inflight := c.inflight, recvs := c.recvs, ports := c.ports, lastTrans := c.lastTrans } = c := by
  have hcases : c.noteIn units d old cyc L engine = (c.outlive d units).supersede d units ∨
      ∃ w, c.noteIn units d old cyc L engine = { c.outlive d units with inflight := w :: c.inflight } := by
    unfold Ctx.noteIn
    dsimp only
    generalize (if engine = true then cyc + L + 8 else cyc + L) = due
    split
    · exact .inl rfl
    · exact .inr ⟨_, rfl⟩
  rcases hcases with h | ⟨w, h⟩
  · rw [h]
    rfl
  · rw [h]
    rfl

theorem VectorFrame.wVlanes (he : e < 16) {n : Nat} (hn : V n) (v : Vec) (L units : Nat) : VectorFrame V P Q B s (s.wVlanes e n v L units) :=
  (VectorFrame.onPart s he (fun x => engCtxKeeps_putV hn x v)).trans (.mod _ (fun c => noteIn_frame c _ _ _ _ _ _))

theorem VectorFrame.wP (he : e < 16) {n : BitVec 3} (hn : P n.toNat) (b : Bool) (L : Nat) : VectorFrame V P Q B s (s.wP e n b L) := by
  unfold State.wP
  split
  · exact .refl s
  · exact (VectorFrame.onPart s he (fun x => engCtxKeeps_putP hn x b)).trans (.mod _ (fun c => noteIn_frame c _ _ _ _ _ _))

theorem VectorFrame.wQ (he : e < 16) {n : BitVec 3} (hn : Q n.toNat) (v : LaneMask) (L : Nat) : VectorFrame V P Q B s (s.wQ e n v L) := by
  unfold State.wQ
  split
  · exact .refl s
  · exact (VectorFrame.onPart s he (fun x => engCtxKeeps_putQ hn x v)).trans (.mod _ (fun c => noteIn_frame c _ _ _ _ _ _))

theorem VectorFrame.raise (he : e < 16) (f : Flags) : VectorFrame V P Q B s (s.raise e f) :=
  .onPart s he (fun x => engCtxKeeps_raise x f)

/-- A seed that takes effect changes no register. -/
theorem seeded_frame (x : Engine) (takes : Nat → Bool) : { x.seeded takes with gen := x.gen, seed := x.seed } = x := by
  unfold Engine.seeded
  split <;> rfl

theorem VectorFrame.drawn (he : e < 16) (gen : Nat) : VectorFrame V P Q B s (s.drawn e gen) := by
  have hrest : ∀ w : Word, { ({ s.drawing e with gen := w } : Engine) with gen := (s.myEng e).gen, seed := (s.myEng e).seed } = s.myEng e :=
    fun _ => seeded_frame _ _
  have hx := hrest (BitVec.ofNat 32 gen)
  unfold State.drawn
  generalize ({ s.drawing e with gen := BitVec.ofNat 32 gen } : Engine) = x at hx ⊢
  refine .setEng s he (.of_rest ?_) ?_ (fun h => absurd rfl h) (fun a h => absurd ?_ h)
  · exact congrArg (fun y : Engine => { y with spad := (s.myEng e).spad }) hx
  · have h0 := congrArg Engine.c0 hx
    have h1 := congrArg Engine.c1 hx
    split
    · exact h1
    · exact h0
  · have := congrArg (fun y : Engine => y.byte a) hx
    exact this

theorem VectorFrame.putStream (he : e < 16) (r : RStream) : VectorFrame V P Q B s (s.putStream e r) :=
  (VectorFrame.drawn s he r.gen).trans (.raise _ he r.flags)

/-- What the context issues may change. -/
theorem VectorFrame.issue (x : Issue) : VectorFrame V P Q B s { s with issue := x } :=
  { VectorFrame.refl (V := V) (P := P) (Q := Q) (B := B) s with rest := rfl }

theorem VectorFrame.popPort (k : Nat) : VectorFrame V P Q B s (s.popPort k) := by
  unfold State.popPort
  dsimp only
  split
  · exact .issue s _
  · exact (VectorFrame.mod s (f := fun c => c.putG k _) (fun _ => rfl)).trans (.issue _ _)

theorem VectorFrame.popAll (codes : List Nat) : VectorFrame V P Q B s (s.popAll codes) :=
  foldl_keeps (P := VectorFrame V P Q B s) (fun u k hu => hu.trans (.popPort u k)) _ s (.refl s)

/-- A change of every engine in a list. -/
theorem each_keeps {R : State → Prop} {l : List Nat} {f : State → Nat → State} {s : State} (hs : R s)
    (hf : ∀ u, R u → ∀ e ∈ l, R (f u e)) : R (s.each l f) := List.foldlRecOn l f hs hf

theorem mem_actives_lt {s : State} (h : e ∈ s.actives) : e < 16 := List.mem_range.mp (List.mem_of_mem_filter h)

theorem mem_acting {s : State} {g : Gate} (h : e ∈ s.acting g) : e ∈ s.actives := List.mem_of_mem_filter h

end

/-! ## Stores at a port -/

/-- Only engines differ. -/
def OnlyEngines (s t : State) : Prop := { t with engines := s.engines } = s

theorem OnlyEngines.trans {s t u : State} (h : OnlyEngines s t) (k : OnlyEngines t u) : OnlyEngines s u := by
  have := congrArg (fun x : State => { x with engines := s.engines }) k
  exact this.trans h

/-- Where an engine-local address lies is no matter of the engines. -/
theorem OnlyEngines.localAt {s t : State} (h : OnlyEngines s t) (a n : Nat) : t.localAt a n = s.localAt a n := by
  have := congrArg (fun x : State => x.localAt a n) h
  exact this

/-- Each byte of a range that is mapped is mapped beside the first (R62, R66). -/
theorem localAt_byte {s : State} {a n g o j : Nat} (h : s.localAt a n = some (g, o)) (hj : j < n) : s.localAt (a + j) 1 = some (g, o + j) := by
  unfold State.localAt at h ⊢
  split at h
  · obtain ⟨rfl, rfl⟩ := Prod.mk.inj (Option.some.inj h)
    rw [if_pos (by omega)]
  · split at h
    · next hfar hwin =>
      obtain ⟨w, hw, heq⟩ := Option.map_eq_some_iff.mp h
      obtain ⟨rfl, rfl⟩ := Prod.mk.inj heq
      rw [if_neg (by omega), if_pos (by omega), show (a + j - 0x100000) / 0x80000 = (a - 0x100000) / 0x80000 by omega, hw,
        show (a + j - 0x100000) % 0x80000 = (a - 0x100000) % 0x80000 + j by omega]
      rfl
    · cases h

section

variable {V P Q : Nat → Prop} {B : Nat → Nat → Prop} (s : State) {e : Nat}

theorem onlyEngines_localWrite (e a : Nat) (bs : List Byte) : OnlyEngines s (s.localWrite e a bs) := by
  unfold State.localWrite
  split <;> rfl

theorem VectorFrame.localWrite (he : e < 16) {a : Nat} {bs : List Byte}
    (hB : ∀ j < bs.length, ∀ g o, s.localAt (a + j) 1 = some (g, o) → B (engKey g e) o) : VectorFrame V P Q B s (s.localWrite e a bs) := by
  unfold State.localWrite
  split
  · next g o hat =>
    have hrest := putBytes_rest (s.eng g e) o bs
    have hchanged : ∀ k, ((s.eng g e).putBytes o bs).byte k ≠ (s.eng g e).byte k → B (engKey g e) k := by
      intro k hk
      obtain ⟨hlo, hhi⟩ := byte_putBytes hk
      obtain ⟨j, rfl⟩ := Nat.exists_eq_add_of_le hlo
      exact hB j (by omega) g (o + j) (localAt_byte hat (by omega))
    change VectorFrame V P Q B s (s.setEng g e ((s.eng g e).putBytes o bs))
    generalize (s.eng g e).putBytes o bs = x at hrest hchanged ⊢
    have h0 := congrArg Engine.c0 hrest
    have h1 := congrArg Engine.c1 hrest
    refine .setEng s he (.of_rest ?_) ?_ (fun _ => ⟨h0, h1⟩) hchanged
    · have := congrArg (fun y : Engine => { y with gen := (s.eng g e).gen, seed := (s.eng g e).seed }) hrest
      exact this
    · split
      · exact h1
      · exact h0
  · exact .refl s

end

end Sys2Proof.Proofs
end

section
/-!
PROOF. What the V words leave unchanged (R96, R142, R234 to R237, R248, R249).
-/
namespace Sys2Proof.Proofs

open Machine Laws

/-! ## Words with a vector result -/

/-- The scratchpad bytes, by the engine's key, that a V word with a vector result may store: those of its write port. -/
def portBytes (s : State) (i : Instr) (f : VFields) (key a : Nat) : Prop :=
  32 ≤ f.vd.toNat ∧ ∃ e ∈ s.actives, ∃ g, key = engKey g e ∧
    ∃ k, storesAtPort i f (s.laneMask e f.lq f.ln) k = true ∧ s.localAt (s.portAddr (f.vd.toNat - 32) + k) 1 = some (g, a)

/-- What a V word with a vector result may change. -/
def VectorOutcome (i : Instr) (f : VFields) (s t : State) : Prop :=
  VectorFrame (· = f.vd.toNat) (fun _ => False) (fun _ => False) (portBytes s i f) s t

/-- What its engines may change one after another: at a write port, only engines. -/
structure VectorReach (i : Instr) (f : VFields) (s u : State) : Prop where
  frame : VectorOutcome i f s u
  port : 32 ≤ f.vd.toNat → OnlyEngines s u

section

variable {i : Instr} {f : VFields} {s t u : State} {e : Nat}

theorem VectorReach.refl : VectorReach i f s s := ⟨.refl s, fun _ => rfl⟩

theorem VectorReach.putStream (h : VectorReach i f s u) (he : e ∈ s.actives) (r : RStream) : VectorReach i f s (u.putStream e r) :=
  ⟨h.frame.trans (.putStream u (mem_actives_lt he) r), fun hp => (h.port hp).trans rfl⟩

/-- A write of the destination register. -/
theorem VectorReach.wVlanes (h : VectorReach i f s u) (he : e ∈ s.actives) (hvd : f.vd.toNat < 32) (v : Vec) (L units : Nat) :
    VectorReach i f s (u.wVlanes e f.vd.toNat v L units) :=
  ⟨h.frame.trans (.wVlanes (V := (· = f.vd.toNat)) u (mem_actives_lt he) rfl v L units), fun hp => absurd hvd (Nat.not_lt.mpr hp)⟩

/-- A store at the destination port, of bytes that the word may store. -/
theorem VectorReach.localWrite (h : VectorReach i f s u) (he : e ∈ s.actives) (hvd : ¬ f.vd.toNat < 32) {k : Nat} {bs : List Byte}
    (hk : ∀ j < bs.length, storesAtPort i f (s.laneMask e f.lq f.ln) (k + j) = true) :
    VectorReach i f s (u.localWrite e (s.portAddr (f.vd.toNat - 32) + k) bs) := by
  have hport := Nat.not_lt.mp hvd
  refine ⟨h.frame.trans (.localWrite u (mem_actives_lt he) (fun j hj g o hat => ?_)), fun _ => (h.port hport).trans (onlyEngines_localWrite u _ _ _)⟩
  rw [(h.port hport).localAt, Nat.add_assoc] at hat
  exact ⟨hport, e, he, g, rfl, k + j, hk j hj, hat⟩

/-- Lanes that the word may write, to its destination. -/
theorem VectorReach.putVec (h : VectorReach i f s u) (he : e ∈ s.actives) {m : LaneMask} {new : List Nat} {L : Nat}
    (hm : ∀ k < 256, (f.z || m.getLsbD (k / 4)) = true → storesAtPort i f (s.laneMask e f.lq f.ln) k = true) :
    VectorReach i f s (u.putVec e f.vd.toNat (s.portAddr (f.vd.toNat - 32)) m f.z new L) := by
  unfold State.putVec
  dsimp only
  split
  · next hvd => exact h.wVlanes he hvd _ _ _
  · next hvd =>
    unfold State.storeLanes
    refine List.foldlRecOn _ _ h (fun w hw l hl => ?_)
    have hl64 := List.mem_range.mp hl
    split
    · next hlane =>
      refine hw.localWrite he hvd (fun j hj => hm _ ?_ ?_)
      · rw [RoundTrip.leBytes_length] at hj
        omega
      · rw [RoundTrip.leBytes_length] at hj
        rw [show (4 * l + j) / 4 = l by omega, Bool.or_comm]
        exact hlane
    · exact hw

/-- Single bytes that the word may write, to its destination. -/
theorem VectorReach.putVecBytes (h : VectorReach i f s u) (he : e ∈ s.actives) {out : List (Nat × Byte)} {L : Nat}
    (hout : ∀ p ∈ out, storesAtPort i f (s.laneMask e f.lq f.ln) p.1 = true) :
    VectorReach i f s (u.putVecBytes e f.vd.toNat (s.portAddr (f.vd.toNat - 32)) out L) := by
  unfold State.putVecBytes
  split
  · next hvd => exact h.wVlanes he hvd _ _ _
  · next hvd =>
    refine List.foldlRecOn _ _ h (fun w hw p hp => hw.localWrite he hvd (fun j hj => ?_))
    rw [show j = 0 by simpa using hj]
    exact hout p hp

/-- The word may store at its port every byte of its active lanes, and under Z all of them. -/
def StoresLanes (i : Instr) (f : VFields) : Prop :=
  ∀ (m : LaneMask) (k : Nat), k < 256 → (f.z || m.getLsbD (k / 4)) = true → storesAtPort i f m k = true

theorem storesLanes_of_eq (h : ∀ m k, storesAtPort i f m k = (decide (k < 256) && (f.z || m.getLsbD (k / 4)))) : StoresLanes i f := by
  intro m k hk hm
  rw [h, hm, decide_eq_true hk]
  rfl

theorem storesLanes_vcvt {g : Gate} {lit : Option Dword} : StoresLanes (.vcvt g f lit) f := by
  intro m k hk hm
  rw [storesAtPort, Bool.or_assoc, hm, Bool.or_true, decide_eq_true hk]
  rfl

/-- The engines in turn, then the pops. -/
theorem vectorOutcome_each {g : Gate} {body : State → Nat → State} {codes : List Nat}
    (hbody : ∀ u, VectorReach i f s u → ∀ e ∈ s.actives, VectorReach i f s (body u e)) :
    VectorOutcome i f s ((s.each (s.acting g) body).popAll codes) :=
  (each_keeps (R := VectorReach i f s) .refl (fun u hu e he => hbody u hu e (mem_acting he))).frame.trans (.popAll _ _)

theorem vectorOutcome_vecEff (hi : StoresLanes i f) (g : Gate) (reads : List Nat) (L : Nat)
    (fn : State → Nat → LaneMask → RStream → List Nat × RStream) : VectorOutcome i f s (s.vecEff g f reads L fn) :=
  vectorOutcome_each (fun _ hu _ he => (hu.putVec he (hi _)).putStream he _)

/-- A word that issues whatever its predicates holds, traps or has its effect. -/
theorem runPop_cases {cls : Nat} {uses : State → List Dest} {check : State → Verdict} {eff : State → State}
    (h : runPop i cls uses check eff s = .next t) : Held s t ∨ Trapped s t ∨ t = eff s := by
  unfold runPop runWord at h
  split at h
  · cases h
  · split at h
    · exact .inr (.inr (Host.Outcome.next.inj h).symm)
    · split at h
      · exact .inr (.inl ⟨_, _, (Host.Outcome.next.inj h).symm⟩)
      · split at h
        · exact .inr (.inr (Host.Outcome.next.inj h).symm)
        · exact .inl ⟨_, _, (Host.Outcome.next.inj h).symm⟩
        · exact .inr (.inl ⟨_, _, (Host.Outcome.next.inj h).symm⟩)

theorem runPop_outcome {cls : Nat} {uses : State → List Dest} {check : State → Verdict} {eff : State → State} {R : State → State → Prop}
    (h : runPop i cls uses check eff s = .next t) (heff : R s (eff s)) : Held s t ∨ Trapped s t ∨ R s t := by
  rcases runPop_cases h with hheld | htrap | rfl
  · exact .inl hheld
  · exact .inr (.inl htrap)
  · exact .inr (.inr heff)

theorem vecWord_outcome {g : Gate} {reads : List Nat} {L : Nat} {check : State → Verdict}
    {fn : State → Nat → LaneMask → RStream → List Nat × RStream} (hi : StoresLanes i f)
    (h : vecWord i g f reads L check fn s = .next t) : Held s t ∨ Trapped s t ∨ VectorOutcome i f s t :=
  runPop_outcome h (vectorOutcome_vecEff hi g reads L fn)

theorem transWord_outcome {g : Gate} {lit : Option Dword} {fn : Machine.Num → NumF} (hi : StoresLanes i f)
    (h : transWord i g f lit fn s = .next t) : Held s t ∨ Trapped s t ∨ VectorOutcome i f s t :=
  runPop_outcome h ((vectorOutcome_vecEff hi g _ _ _).trans (.mod _ (fun _ => rfl)))

end


/-! ## The words that write parts of a vector (R248, R249, R252) -/

section

variable {f : VFields} {s t : State} {g : Gate} {lit : Option Dword}

/-- An encoded vector has 256 bytes. -/
theorem encodedBytes_lt {out : List (Nat × Byte)} {p : Nat × Byte} (h : p ∈ encodedBytes f out) : p.1 < 256 := by
  obtain ⟨k, hk, hp⟩ := List.mem_filterMap.mp h
  have hk256 := List.mem_range.mp hk
  split at hp
  · next q hq =>
    cases hp
    have hkey := List.find?_some (p := fun x : Nat × Byte => x.1 == k) hq
    have := beq_iff_eq.mp hkey
    omega
  · split at hp
    · cases hp
      exact hk256
    · cases hp

theorem execVcvt_outcome (h : execVcvt g f lit s = .next t) : Held s t ∨ Trapped s t ∨ VectorOutcome (.vcvt g f lit) f s t := by
  unfold execVcvt at h
  dsimp only at h
  split at h
  · next hfmt =>
    refine runPop_outcome h (vectorOutcome_each (fun u hu e he => (hu.putVecBytes he (fun p hp => ?_)).putStream he _))
    simp only [storesAtPort, decide_eq_true hfmt, Bool.true_or, Bool.and_true, decide_eq_true_eq]
    exact encodedBytes_lt hp
  · split at h
    · exact vecWord_outcome storesLanes_vcvt h
    · exact vecWord_outcome storesLanes_vcvt h

theorem execVpack_outcome (h : execVpack g f lit s = .next t) : Held s t ∨ Trapped s t ∨ VectorOutcome (.vpack g f lit) f s t := by
  unfold execVpack at h
  dsimp only at h
  refine runPop_outcome h (vectorOutcome_each (fun u hu e he => ?_))
  split
  · next hvd => exact hu.wVlanes he hvd _ _ _
  · next hvd =>
    refine hu.localWrite he hvd (fun j hj => ?_)
    rw [bytesAt, RoundTrip.leBytes_length] at hj
    simp only [storesAtPort, Bool.and_eq_true, decide_eq_true_eq]
    omega

theorem execVlane_outcome (h : execVlane g f lit s = .next t) : Held s t ∨ Trapped s t ∨ VectorOutcome (.vlane g f lit) f s t := by
  unfold execVlane at h
  dsimp only at h
  split at h
  · exact vecWord_outcome (storesLanes_of_eq fun _ _ => rfl) h
  · split at h
    · refine runPop_outcome h (vectorOutcome_each (fun u hu e he => hu.putVec he (fun k hk hm => storesLanes_of_eq (i := .vlane g f lit) (fun _ _ => rfl) _ k hk ?_)))
      rw [BitVec.getLsbD_and] at hm
      revert hm
      cases f.z
      · simp only [Bool.false_or, Bool.and_eq_true]
        exact And.left
      · exact id
    · exact vecWord_outcome (storesLanes_of_eq fun _ _ => rfl) h

end

/-- A V word with a vector result. -/
theorem vectorOutcome_cases {f : VFields} {s t : State} {i : Instr} (hf : vectorFields i = some f) (h : exec i s = .next t) :
    Held s t ∨ Trapped s t ∨ VectorOutcome i f s t := by
  unfold vectorFields at hf
  split at hf
  case h_9 | h_10 | h_11 | h_12 | h_13 => cases hf; exact transWord_outcome (storesLanes_of_eq fun _ _ => rfl) h
  case h_28 => cases hf; exact execVcvt_outcome h
  case h_29 => cases hf; exact execVpack_outcome h
  case h_34 => cases hf; exact execVlane_outcome h
  case h_36 => cases hf
  all_goals cases hf; exact vecWord_outcome (storesLanes_of_eq fun _ _ => rfl) h

/-- What a V word with a vector result may change, as the statement says it. -/
theorem VectorOutcome.stays {f : VFields} {s t : State} {i : Instr} (h : VectorOutcome i f s t) : OnlyVectors s t ∧
    (∀ g e k, (∀ n, n ≠ f.vd.toNat → ((t.eng g e).part k).vreg n = ((s.eng g e).part k).vreg n) ∧
      ((t.eng g e).part k).p = ((s.eng g e).part k).p ∧ (∀ n, ((t.eng g e).part k).qreg n = ((s.eng g e).part k).qreg n)) ∧
    (∀ g, ∀ e < 16, ∀ a, (t.eng g e).byte a ≠ (s.eng g e).byte a → 32 ≤ f.vd.toNat ∧ e ∈ s.actives ∧
      ∃ k, storesAtPort i f (s.laneMask e f.lq f.ln) k = true ∧ s.localAt (s.portAddr (f.vd.toNat - 32) + k) 1 = some (g, a)) := by
  refine ⟨h.onlyVectors, fun g e k => ?_, fun g e he a hne => ?_⟩
  · have hpart := (h.eng g e).part k
    exact ⟨hpart.vreg, hpart.preds (fun _ => id), fun n => hpart.qreg n id⟩
  · obtain ⟨hport, d, hd, g', hkey, hk⟩ := h.byte g e a hne
    have hlt := mem_actives_lt hd
    obtain ⟨rfl, rfl⟩ : g = g' ∧ e = d := by unfold engKey at hkey; omega
    exact ⟨hport, hd, hk⟩

/-! ## Words with a predicate result (R241, R242, R244) -/

/-- What a V word with a predicate result may change: a lane predicate or an engine predicate. -/
def PredicateOutcome (lane : Bool) (d : BitVec 3) (s t : State) : Prop :=
  VectorFrame (fun _ => False) (fun n => lane = false ∧ n = d.toNat) (fun n => lane = true ∧ n = d.toNat) (fun _ _ => False) s t

section

variable {f : VFields} {s t u : State} {g : Gate} {lit : Option Dword} {d : BitVec 3} {e : Nat}

theorem PredicateOutcome.wQ (h : PredicateOutcome true d s u) (he : e ∈ s.actives) (v : LaneMask) (L : Nat) :
    PredicateOutcome true d s (u.wQ e d v L) := h.trans (VectorFrame.wQ u (mem_actives_lt he) ⟨rfl, rfl⟩ v L)

theorem PredicateOutcome.wP (h : PredicateOutcome false d s u) (he : e ∈ s.actives) (b : Bool) (L : Nat) :
    PredicateOutcome false d s (u.wP e d b L) := h.trans (VectorFrame.wP u (mem_actives_lt he) ⟨rfl, rfl⟩ b L)

theorem PredicateOutcome.raise {lane : Bool} (h : PredicateOutcome lane d s u) (he : e ∈ s.actives) (x : Flags) :
    PredicateOutcome lane d s (u.raise e x) := h.trans (VectorFrame.raise u (mem_actives_lt he) x)

theorem predWord_outcome {i : Instr} {lane : Bool} {reads : List Nat} {eff : State → State → Nat → State}
    (heff : ∀ u, PredicateOutcome lane d s u → ∀ e ∈ s.actives, PredicateOutcome lane d s (eff s u e))
    (h : predWord i g reads eff s = .next t) : Held s t ∨ Trapped s t ∨ PredicateOutcome lane d s t :=
  runPop_outcome h ((each_keeps (R := PredicateOutcome lane d s) (.refl s) (fun u hu e he => heff u hu e (mem_acting he))).trans
    (.popAll _ _))

theorem execVcmp_outcome (h : execVcmp g f lit s = .next t) : Held s t ∨ Trapped s t ∨ PredicateOutcome true (BitVec.ofNat 3 f.vd.toNat) s t :=
  predWord_outcome (fun _ hu _ he => (hu.wQ he _ _).raise he _) h

theorem execVcmps_outcome (h : execVcmps g f lit s = .next t) :
    Held s t ∨ Trapped s t ∨ PredicateOutcome false (BitVec.ofNat 3 f.vd.toNat) s t :=
  predWord_outcome (fun _ hu _ he => (hu.wP he _ _).raise he _) h

theorem execVqop_outcome (h : execVqop g f lit s = .next t) :
    Held s t ∨ Trapped s t ∨ PredicateOutcome (!(f.imm.getLsbD 0)) (BitVec.ofNat 3 f.vd.toNat) s t := by
  refine predWord_outcome (fun u hu e he => ?_) h
  cases hform : f.imm.getLsbD 0 with
  | true =>
    rw [hform] at hu
    exact hu.wP he _ _
  | false =>
    rw [hform] at hu
    exact hu.wQ he _ _

end

/-- A V word with a predicate result. -/
theorem predicateOutcome_cases {s t : State} {i : Instr} {lane : Bool} {d : BitVec 3} (hd : predicateDest i = some (lane, d))
    (h : exec i s = .next t) : Held s t ∨ Trapped s t ∨ PredicateOutcome lane d s t := by
  unfold predicateDest at hd
  split at hd
  case h_1 => cases hd; exact execVcmp_outcome h
  case h_2 => cases hd; exact execVcmps_outcome h
  case h_3 => cases hd; exact execVqop_outcome h
  case h_4 => cases hd

/-- What a V word with a predicate result may change, as the statement says it. -/
theorem PredicateOutcome.stays {s t : State} {lane : Bool} {d : BitVec 3} (h : PredicateOutcome lane d s t) : OnlyVectors s t ∧
    ∀ g e, (∀ a, (t.eng g e).byte a = (s.eng g e).byte a) ∧
      ∀ k n, ((t.eng g e).part k).vreg n = ((s.eng g e).part k).vreg n ∧
        (lane = false ∨ n ≠ d.toNat → ((t.eng g e).part k).qreg n = ((s.eng g e).part k).qreg n) ∧
        (lane = true ∨ n ≠ d.toNat → ((t.eng g e).part k).pred n = ((s.eng g e).part k).pred n) := by
  refine ⟨h.onlyVectors, fun g e => ⟨fun a => by_contra (h.byte g e a), fun k n => ?_⟩⟩
  have hpart := (h.eng g e).part k
  refine ⟨hpart.vreg n id, fun hn => hpart.qreg n ?_, fun hn => hpart.pred n ?_⟩
  · rintro ⟨rfl, rfl⟩
    simp at hn
  · rintro ⟨rfl, rfl⟩
    simp at hn

/-- Settles O52: a word holds, traps, or has an effect that changes only what its frame names. -/
theorem vectorWordsFrame : Obligations.VectorWordsFrame := by
  unfold Obligations.VectorWordsFrame
  intro s t i h
  refine ⟨fun f hf => ?_, fun lane d hd => ?_⟩
  · exact (vectorOutcome_cases hf h).imp_right (Or.imp_right VectorOutcome.stays)
  · exact (predicateOutcome_cases hd h).imp_right (Or.imp_right PredicateOutcome.stays)

end Sys2Proof.Proofs
end

section
/-!
SUPPORT. The invariant of every step (R73, R379): what it speaks of, and how it passes through the shapes of the model's functions.
`Keeps s0 s` relates a state s to the one from which a step began. Each function of the model that a step may run has one lemma,
`Keeps.<function>`, so the lemma of a function that calls others chains theirs in the order of the calls.
-/
namespace Sys2Proof.Proofs

open Machine Laws

/-! ## What is kept -/

/-- What is stored: HBM, its blocks' keys, the live regions and the image of a checkpoint. -/
def stored (s : State) := (s.mem, s.blockKeys, s.regions, s.cellar.image)

/-- From s0 to s, what is stored stays canonical and control blocks stay aligned. -/
def Keeps (s0 s : State) : Prop := (Canonical s0 → Canonical s) ∧ (BlocksAligned s0 → BlocksAligned s)

namespace Keeps

variable {s0 s t : State}

theorem refl (s : State) : Keeps s s := ⟨id, id⟩

theorem of_eq (h : Keeps s0 s) (hmem : t.mem = s.mem) (hkeys : t.blockKeys = s.blockKeys) (hregions : t.regions = s.regions)
    (himage : t.cellar.image = s.cellar.image) : Keeps s0 t := by
  refine ⟨fun hc => ?_, fun hb => ?_⟩
  · rw [Canonical, hmem, hkeys]
    exact h.1 hc
  · rw [BlocksAligned, hregions, himage]
    exact h.2 hb

/-- A change that lies beside what is stored. -/
theorem same (h : Keeps s0 s) (ht : stored t = stored s) : Keeps s0 t := by
  simp only [stored, Prod.mk.injEq] at ht
  obtain ⟨hmem, hkeys, hregions, himage⟩ := ht
  exact h.of_eq hmem hkeys hregions himage

theorem ite {c : Prop} {inst : Decidable c} (hs : Keeps s0 s) (ht : Keeps s0 t) : Keeps s0 (if c then s else t) := by
  split
  · exact hs
  · exact ht

theorem ite_fst {β : Type} {c : Prop} {inst : Decidable c} {x y : State × β} (hx : Keeps s0 x.1) (hy : Keeps s0 y.1) :
    Keeps s0 (if c then x else y).1 := by
  split
  · exact hx
  · exact hy

theorem foldl {α : Type} {f : State → α → State} {l : List α} (h : Keeps s0 s) (hf : ∀ u x, Keeps s0 u → Keeps s0 (f u x)) :
    Keeps s0 (l.foldl f s) := foldl_keeps hf l s h

theorem each {f : State → Nat → State} {l : List Nat} (h : Keeps s0 s) (hf : ∀ u e, Keeps s0 u → Keeps s0 (f u e)) :
    Keeps s0 (s.each l f) := foldl_keeps hf l s h

/-- Regions that are those of before or stand aligned. -/
theorem of_regions (h : Keeps s0 s) (hmem : t.mem = s.mem) (hkeys : t.blockKeys = s.blockKeys) (himage : t.cellar.image = s.cellar.image)
    (hr : (∀ e ∈ s.regions, e.2.cb % 256 = 0) → ∀ e ∈ t.regions, e.2.cb % 256 = 0) : Keeps s0 t := by
  refine ⟨fun hc => ?_, fun hb => ?_⟩
  · rw [Canonical, hmem, hkeys]
    exact h.1 hc
  · rw [BlocksAligned, himage]
    exact ⟨hr (h.2 hb).1, (h.2 hb).2⟩

/-- A change of what HBM and its blocks' keys store. -/
theorem of_canonical (h : Keeps s0 s) (hc : Canonical s → Canonical t) (hr : t.regions = s.regions)
    (hi : t.cellar.image = s.cellar.image) : Keeps s0 t := by
  refine ⟨fun hs => hc (h.1 hs), fun hb => ?_⟩
  rw [BlocksAligned, hr, hi]
  exact h.2 hb

theorem foldl_fst {α β : Type} {f : State × β → α → State × β} {l : List α} {x : State × β} (h : Keeps s0 x.1)
    (hf : ∀ y a, Keeps s0 y.1 → Keeps s0 (f y a).1) : Keeps s0 (l.foldl f x).1 := foldl_keeps (P := fun y : State × β => Keeps s0 y.1) hf l x h

/-! Changes beside what is stored, by name where a branch or a fold stands under them. -/

theorem count {die : Option Nat} {i n : Nat} (h : Keeps s0 s) : Keeps s0 (s.count die i n) := h.same (by rfl)

theorem setBar {cap off : Nat} {v : Dword} (h : Keeps s0 s) : Keeps s0 (s.setBar cap off v) :=
  h.of_eq (setBar_mem _ _ _ _) (setBar_blockKeys _ _ _ _) (setBar_regions _ _ _ _) (congrArg Cellar.image (setBar_cellar _ _ _ _))

theorem modCtx {cid : Nat} {f : Ctx → Ctx} (h : Keeps s0 s) : Keeps s0 (s.modCtx cid f) := h.same (by rfl)

theorem mod {f : Ctx → Ctx} (h : Keeps s0 s) : Keeps s0 (s.mod f) := h.same (by rfl)

theorem onFleet {f : Fleet → Fleet} (h : Keeps s0 s) : Keeps s0 (s.onFleet f) := h.same (by rfl)

theorem onEng {e : Nat} {f : Engine → Engine} (h : Keeps s0 s) : Keeps s0 (s.onEng e f) := h.same (by rfl)

theorem onPart {e : Nat} {f : EngCtx → EngCtx} (h : Keeps s0 s) : Keeps s0 (s.onPart e f) := h.same (by rfl)

theorem raise {e : Nat} {f : Flags} (h : Keeps s0 s) : Keeps s0 (s.raise e f) := h.same (by rfl)

theorem drawn {e gen : Nat} (h : Keeps s0 s) : Keeps s0 (s.drawn e gen) := h.same (by rfl)

theorem modEng {g e : Nat} {f : Engine → Engine} (h : Keeps s0 s) : Keeps s0 (s.modEng g e f) := h.same (by rfl)

theorem mapGang {g : Nat} {f : Engine → Engine} (h : Keeps s0 s) : Keeps s0 (s.mapGang g f) := h.same (by rfl)

theorem delay {n : Nat} (h : Keeps s0 s) : Keeps s0 (s.delay n) := h.same (by rfl)

theorem goto {t : Nat} (h : Keeps s0 s) : Keeps s0 (s.goto t) := h.same (by rfl)

end Keeps

end Sys2Proof.Proofs
end

section
/-!
SUPPORT. The invariant of every step: HBM, caches and register writes (R71, R73, R85).
-/
namespace Sys2Proof.Proofs

open Machine Laws

namespace Keeps

variable {s0 s : State}

/-! ## Physical memory -/

theorem rekeyBlock {seen key : BitVec 512} {n : Nat} (h : Keeps s0 s) : Keeps s0 (s.rekeyBlock seen key n) := by
  unfold State.rekeyBlock
  split
  · exact h
  · exact h.of_canonical (fun hc => ⟨writeMem_wf _ _ _ hc.1, tableWf_set hc.2⟩) (by rfl) (by rfl)

theorem writeBack {line : Nat} (h : Keeps s0 s) : Keeps s0 (s.writeBack line) := by
  unfold State.writeBack
  dsimp only
  split
  · exact .ite h ((Keeps.ite h (h.foldl (fun _ _ hu => hu.rekeyBlock))).same (by rfl))
  · exact h

theorem dropLine {line : Nat} (h : Keeps s0 s) : Keeps s0 (s.dropLine line) := h.writeBack.same (by rfl)

theorem useLine {slot line : Nat} {write : Bool} (h : Keeps s0 s) : Keeps s0 (s.useLine slot line write) := by
  unfold State.useLine
  dsimp only
  split
  · exact .ite (.count (.ite (h.same (by rfl)) h)) (h.writeBack.same (by rfl))
  · exact h.same (by rfl)

theorem trimPantry (h : Keeps s0 s) : Keeps s0 (s.trimPantry) := .ite h (h.foldl (fun _ _ hu => hu.foldl (fun _ _ hu => hu.dropLine)))

theorem mendWords {pa n : Nat} (h : Keeps s0 s) : Keeps s0 (s.mendWords pa n) := .ite h (h.same (by rfl))

theorem useLines {slot pa n : Nat} {write : Bool} (h : Keeps s0 s) : Keeps s0 (s.useLines slot pa n write) :=
  .ite h (h.foldl (fun _ _ hu => hu.useLine))

theorem writeMem {pa : Nat} {bs : List Byte} (h : Keeps s0 s) : Keeps s0 { s with mem := writeMem s.mem pa bs } :=
  h.of_canonical (fun hc => ⟨writeMem_wf _ _ _ hc.1, hc.2⟩) (by rfl) (by rfl)

theorem hbmWrite {slot pa : Nat} {bs : List Byte} (h : Keeps s0 s) : Keeps s0 (s.hbmWrite slot pa bs) := by
  unfold State.hbmWrite
  split
  · exact h
  · exact (h.useLines.foldl fun _ _ hu => hu.rekeyBlock).writeMem.mendWords

theorem readsHbm {v : EccVictim} {slot pa n : Nat} (h : Keeps s0 s) : Keeps s0 (s.readsHbm v slot pa n) := by
  unfold State.readsHbm
  dsimp only
  split
  · exact h
  · split
    · exact h.useLines.same (by rfl)
    · exact h.useLines

/-! ## Format windows -/

theorem viewStoreBlock {key : Nat} {w : Window} {b : Nat} {bytes : List Byte} (h : Keeps s0 s) : Keeps s0 (s.viewStoreBlock key w b bytes) :=
  .ite h.hbmWrite.hbmWrite h.hbmWrite

theorem viewWrite {key : Nat} {w : Window} {pa : Nat} {bs : List Byte} (h : Keeps s0 s) : Keeps s0 (s.viewWrite key w pa bs) :=
  h.foldl (fun _ _ hu => hu.viewStoreBlock)

theorem physWrite {key pa : Nat} {bs : List Byte} (h : Keeps s0 s) : Keeps s0 (s.physWrite key pa bs) := by
  unfold State.physWrite
  split
  · exact h.hbmWrite
  · split
    · exact h.viewWrite
    · exact h
  · exact h
  · exact h.same (by rfl)
  · exact h.same (by rfl)

theorem reads {v : EccVictim} {slot pa n : Nat} (h : Keeps s0 s) : Keeps s0 (s.reads v slot pa n) := by
  unfold State.reads
  dsimp only
  split
  · exact h
  · split
    · exact h.readsHbm
    · split
      · exact .ite h.readsHbm.readsHbm h.readsHbm
      · exact h
    · exact h

/-! ## Flat translation -/

theorem keepPage {p : Party} {a : Acc4} {va : Nat} (h : Keeps s0 s) : Keeps s0 (s.keepPage p a va) := by
  unfold State.keepPage
  dsimp only
  split
  · exact h
  · exact .ite h (h.same (by rfl))

theorem cachePage {p : Party} {a : Acc4} {va : Nat} (h : Keeps s0 s) : Keeps s0 (s.cachePage p a va) := by
  unfold State.cachePage
  split
  · exact (h.same (by rfl)).keepPage
  · exact h

theorem readsWalk {v : EccVictim} {p : Party} {a : Acc4} {va : Nat} (h : Keeps s0 s) : Keeps s0 (s.readsWalk v p a va) :=
  .ite h (h.foldl (fun _ _ hu => hu.reads))

theorem missAt {v : EccVictim} {p : Party} {a : Acc4} {va : Nat} (h : Keeps s0 s) : Keeps s0 (s.missAt v p a va) := by
  unfold State.missAt
  split
  · exact h.same (by rfl)
  · exact h

theorem touch {v : EccVictim} {p : Party} {a : Acc4} {va n : Nat} (h : Keeps s0 s) : Keeps s0 (s.touch v p a va n) := by
  unfold State.touch
  dsimp only
  split
  · exact .ite h.readsWalk.missAt.cachePage h.readsWalk.missAt.cachePage.reads
  · exact h.readsWalk.missAt.cachePage

theorem touchFlat {v : EccVictim} {p : Party} {a : Acc4} {va n : Nat} (h : Keeps s0 s) : Keeps s0 (s.touchFlat v p a va n) :=
  .ite h (h.foldl (fun _ _ hu => hu.touch))

theorem readsFlat {v : EccVictim} {p : Party} {va n : Nat} (h : Keeps s0 s) : Keeps s0 (s.readsFlat v p va n) := h.touchFlat

theorem pbStore {d pa : Nat} {bs : List Byte} (h : Keeps s0 s) : Keeps s0 (s.pbStore d pa bs) := .ite h (h.same (by rfl))

theorem flatStoreRaw {p : Party} {va : Nat} {bs : List Byte} (h : Keeps s0 s) : Keeps s0 (s.flatStoreRaw p va bs) := by
  unfold State.flatStoreRaw
  split
  · exact h.physWrite
  · exact h

theorem flatStore {p : Party} {va : Nat} {bs : List Byte} (h : Keeps s0 s) : Keeps s0 (s.flatStore p va bs) := by
  unfold State.flatStore
  split
  · exact h.physWrite.pbStore
  · exact h

/-! ## Tensor space -/

theorem keepTile {p : Party} {id : Nat} {t : Tensor} {tile : Nat} {write : Bool} (h : Keeps s0 s) : Keeps s0 (s.keepTile p id t tile write) := by
  unfold State.keepTile
  dsimp only
  split
  · exact h
  · exact .ite h (h.same (by rfl))

theorem cacheTile {p : Party} {id : Nat} {t : Tensor} {tile : Nat} {write : Bool} (h : Keeps s0 s) : Keeps s0 (s.cacheTile p id t tile write) := by
  unfold State.cacheTile
  split
  · exact (h.same (by rfl)).keepTile
  · exact h

theorem touchTile {v : EccVictim} {p : Party} {id : Nat} {t : Tensor} {tile : Nat} {write : Bool} (h : Keeps s0 s) :
    Keeps s0 (s.touchTile v p id t tile write) :=
  .ite h h.readsFlat.touch.cacheTile

theorem tensorPut {p : Party} {id : Nat} {x : Tensor} {c : List Int} {v : Nat} {t : State} (h : Keeps s0 s)
    (ht : s.tensorPut p id x c v = .ok t) : Keeps s0 t := by
  unfold State.tensorPut at ht
  split at ht
  · cases ht
    exact h
  · dsimp only at ht
    split at ht
    · cases ht
    · cases ht
      exact h.physWrite

/-! ## KV space -/

theorem frameRef {r leaf : Nat} (h : Keeps s0 s) : Keeps s0 (s.frameRef r leaf) := by
  unfold State.frameRef
  dsimp only
  split
  · exact h.reads.physWrite
  · exact h

theorem keepKv {p : Party} {seq : Nat} {c : Card} {layer plane block f : Nat} (h : Keeps s0 s) : Keeps s0 (s.keepKv p seq c layer plane block f) := by
  unfold State.keepKv
  dsimp only
  split
  · exact (Keeps.ite h (h.same (by rfl))).frameRef
  · exact h

theorem cacheKv {p : Party} {seq : Nat} {c : Card} {layer plane block : Nat} (h : Keeps s0 s) : Keeps s0 (s.cacheKv p seq c layer plane block) := by
  unfold State.cacheKv
  dsimp only
  split
  · exact h
  · split
    · exact (h.same (by rfl)).keepKv
    · exact h.same (by rfl)

theorem touchKv {v : EccVictim} {p : Party} {seq : Nat} {c : Card} {layer plane block pa n : Nat} {write : Bool} (h : Keeps s0 s) :
    Keeps s0 (s.touchKv v p seq c layer plane block pa n write) :=
  .ite (.ite h ((h.reads.foldl (fun _ _ hu => hu.reads)).cacheKv)) ((Keeps.ite h ((h.reads.foldl (fun _ _ hu => hu.reads)).cacheKv)).reads)

/-! ## Contexts -/

theorem findHome {a : Acc4} {va : Dword} (h : Keeps s0 s) : Keeps s0 (s.findHome a va) := h.touch

/-! ## Reads and writes of the word being issued -/

theorem tokenLost {n : Nat} (h : Keeps s0 s) : Keeps s0 (s.tokenLost n) := .ite (h.same (by rfl)) h

theorem wS {n : BitVec 5} {v : Dword} {L : Nat} (h : Keeps s0 s) : Keeps s0 (s.wS n v L) := .ite h (h.tokenLost.same (by rfl))

theorem wSheld {n : BitVec 5} {v : Dword} (h : Keeps s0 s) : Keeps s0 (s.wSheld n v) := .ite h (h.same (by rfl))

theorem wF {n : BitVec 3} {b : Bool} {L : Nat} (h : Keeps s0 s) : Keeps s0 (s.wF n b L) := .ite h (.ite (h.same (by rfl)) (h.same (by rfl)))

theorem wP {e : Nat} {n : BitVec 3} {b : Bool} {L : Nat} (h : Keeps s0 s) : Keeps s0 (s.wP e n b L) := .ite h (h.same (by rfl))

theorem wQ {e : Nat} {n : BitVec 3} {v : LaneMask} {L : Nat} (h : Keeps s0 s) : Keeps s0 (s.wQ e n v L) := .ite h (h.same (by rfl))

end Keeps

end Sys2Proof.Proofs
end

section
/-!
SUPPORT. The invariant of every step: the hall, items, landings and traps.
-/
namespace Sys2Proof.Proofs

open Machine Laws

namespace Keeps

variable {s0 s : State}

/-! ## Delivery of results to a context, resident or parked -/

theorem deliverS {cid n : Nat} {v : Dword} (h : Keeps s0 s) : Keeps s0 (s.deliverS cid n v) := by
  unfold State.deliverS
  dsimp only
  split
  · exact h
  · split
    · exact h.flatStoreRaw
    · exact h.same (by rfl)

theorem deliverF1 {cid : Nat} {b : Bool} (h : Keeps s0 s) : Keeps s0 (s.deliverF1 cid b) := by
  unfold State.deliverF1
  dsimp only
  split
  · exact h.flatStoreRaw
  · exact h.same (by rfl)

/-! ## Results of a generation -/

theorem deliverMet {cid : Nat} {m : Met} {o : Outcome} (h : Keeps s0 s) : Keeps s0 (s.deliverMet cid m o) := h.deliverF1.deliverS.deliverS

theorem wakeOne {gid gen : Nat} {g : Group} {cid : Nat} (h : Keeps s0 s) : Keeps s0 (s.wakeOne gid gen g cid) := by
  unfold State.wakeOne
  dsimp only
  split
  · exact .ite (h.same (by rfl)).deliverMet (h.same (by rfl))
  · exact h.same (by rfl)

theorem wakeGroup {gid gen : Nat} {g : Group} (h : Keeps s0 s) : Keeps s0 (s.wakeGroup gid gen g) := h.foldl (fun _ _ hu => hu.wakeOne)

/-! ## Completion of generations -/

theorem completeGroup {n gid : Nat} (h : Keeps s0 s) : Keeps s0 (State.completeGroup n s gid) := by
  induction n generalizing s with
  | zero => exact h
  | succ n ih =>
    unfold State.completeGroup
    exact .ite (ih (h.wakeGroup.same (by rfl))) h

/-! ## Arrivals, leaves, removals -/

theorem enterArrival {gid : Nat} {w : Who} {a : Arrival} (h : Keeps s0 s) : Keeps s0 (s.enterArrival gid w a) := by
  unfold State.enterArrival
  dsimp only
  split
  · exact h
  · exact (h.same (by rfl)).completeGroup

theorem arrive {cid o gid : Nat} {owed : List Nat} {a : Arrival} (h : Keeps s0 s) : Keeps s0 (s.arrive cid o gid owed a) := by
  unfold State.arrive
  dsimp only
  split
  · exact h
  · exact .ite h.enterArrival (h.same (by rfl))

theorem sideGone {o : Nat} (h : Keeps s0 s) : Keeps s0 (s.sideGone o) := by
  unfold State.sideGone
  refine .foldl h fun u x hu => ?_
  split
  · exact .ite hu.enterArrival hu
  · exact hu

theorem removeMember {gid : Nat} {w : Who} (h : Keeps s0 s) : Keeps s0 (s.removeMember gid w) := by
  unfold State.removeMember
  dsimp only
  split
  · exact h
  · exact (h.same (by rfl)).completeGroup

theorem keepSeat {o : Nat} (h : Keeps s0 s) : Keeps s0 (s.keepSeat o) := by
  unfold State.keepSeat
  dsimp only
  split
  · exact h.same (by rfl)
  · exact h

theorem quitGroups {w : Who} {expired : Bool} (h : Keeps s0 s) : Keeps s0 (s.quitGroups w expired) := by
  unfold State.quitGroups
  refine .foldl h fun u x hu => ?_
  split
  · exact hu.removeMember
  · split
    · exact hu.enterArrival
    · exact hu

/-! ## Counted arrivals -/

theorem registerCounted {cid : Nat} {a : CountedArrival} (h : Keeps s0 s) : Keeps s0 (s.registerCounted cid a) :=
  (Keeps.ite (h.same (by rfl)) h).arrive

theorem settleCountedOf {n cid : Nat} (h : Keeps s0 s) : Keeps s0 (State.settleCountedOf n s cid) := by
  induction n generalizing s with
  | zero => exact h
  | succ n ih =>
    unfold State.settleCountedOf
    split
    · exact h
    · exact .ite h (ih (h.same (by rfl)).registerCounted)

theorem settleCounted (h : Keeps s0 s) : Keeps s0 (s.settleCounted) := h.foldl (fun _ _ hu => .ite hu hu.settleCountedOf)

/-! ## Region control blocks, under no key -/

theorem setDie {d : Nat} {x : Die} (h : Keeps s0 s) : Keeps s0 (s.setDie d x) := h.same (by rfl)

theorem region_aligned {s : State} {r : Nat} (h : ∀ e ∈ s.regions, e.2.cb % 256 = 0) : (s.region r).cb % 256 = 0 := by
  unfold State.region tableGet
  cases hx : tableFind s.regions r with
  | none => rfl
  | some x => exact h _ (tableFind_mem hx)

theorem cbPut {r o v : Nat} (h : Keeps s0 s) : Keeps s0 (s.cbPut r o v) := h.hbmWrite

/-- A region's record may change all but its control block's address. -/
theorem setRegion {r : Nat} {x : Region} (h : Keeps s0 s) (hx : x.cb = (s.region r).cb) : Keeps s0 (s.setRegion r x) := by
  refine h.of_regions rfl rfl rfl fun hr e he => ?_
  rcases mem_insert he with rfl | he
  · change x.cb % 256 = 0
    rw [hx]
    exact region_aligned hr
  · exact hr e he

theorem putUsage {r : Nat} (h : Keeps s0 s) : Keeps s0 (s.putUsage r) := h.cbPut

theorem countGang {r : Nat} {more : Bool} (h : Keeps s0 s) : Keeps s0 (s.countGang r more) := h.foldl (fun _ _ hu => (hu.setRegion (by rfl)).putUsage)

theorem countPages {r n : Nat} {more : Bool} (h : Keeps s0 s) : Keeps s0 (s.countPages r n more) :=
  h.foldl (fun _ _ hu => (hu.setRegion (by rfl)).putUsage)

/-! ## Waking -/

theorem rouse (h : Keeps s0 s) : Keeps s0 (s.rouse) := .ite (h.same (by rfl)) h

theorem wakeDie {d : Nat} (h : Keeps s0 s) : Keeps s0 (s.wakeDie d) := .ite h.rouse (h.rouse.same (by rfl))

/-! ## Interrupts -/

theorem cause {b : Nat} (h : Keeps s0 s) : Keeps s0 (s.cause b) := .ite (h.same (by rfl)) (h.same (by rfl))

/-! ## Completion records -/

theorem post {m : Outgoing} (h : Keeps s0 s) : Keeps s0 { s with outbox := s.outbox ++ [m] } := h.same (by rfl)

theorem appendRecord {region : Nat} {words : List Dword} (h : Keeps s0 s) : Keeps s0 (s.appendRecord region words) := by
  unfold State.appendRecord
  split
  · exact h
  · refine .ite h.reads.cbPut (.ite (.post (.cbPut ?_)) (.cbPut ?_))
    · split
      · exact h.reads.physWrite
      · exact h.reads
    · split
      · exact h.reads.physWrite
      · exact h.reads

/-! ## Item records -/

theorem itemState {p : Party} {addr st : Nat} (h : Keeps s0 s) : Keeps s0 (s.itemState p addr st) := h.touch.flatStoreRaw

theorem itemPut {p : Party} {addr o v : Nat} (h : Keeps s0 s) : Keeps s0 (s.itemPut p addr o v) := h.flatStoreRaw

theorem endItem {die : Nat} {it : RunItem} {gang eid st reason late : Nat} (h : Keeps s0 s) : Keeps s0 (s.endItem die it gang eid st reason late) :=
  .ite (.ite (h.itemState.same (by rfl)) h.itemState) ((Keeps.ite (h.itemState.same (by rfl)) h.itemState).appendRecord)

/-! ## The expert pool -/

theorem putRes {region entry d v : Nat} (h : Keeps s0 s) : Keeps s0 (s.putRes region entry d v) := h.physWrite

theorem startFill {p : Party} {w : Weights} {spare : List Nat} (h : Keeps s0 s) : Keeps s0 (s.startFill p w spare).1 := by
  unfold State.startFill
  split
  · exact h
  · exact .setDie (.ite h.putRes h)
  · exact h

theorem binTakes {d bn : Nat} (h : Keeps s0 s) : Keeps s0 (s.binTakes d bn) := by
  unfold State.binTakes
  dsimp only
  split
  · exact h
  · split
    · split
      · exact h
      · refine .ite h.readsFlat ?_
        split
        · exact h.readsFlat.startFill
        · exact h.readsFlat.startFill.same (by rfl)
    · exact h

theorem poolPressure {d : Nat} (h : Keeps s0 s) : Keeps s0 (s.poolPressure d) := by
  unfold State.poolPressure
  dsimp only
  split
  · exact h
  · split
    · split
      · exact h
      · split
        · exact h.same (by rfl)
        · exact h
    · exact h

theorem missesTake {d : Nat} (h : Keeps s0 s) : Keeps s0 (s.missesTake d) := by
  unfold State.missesTake
  refine .foldl h fun u x hu => ?_
  split
  · split
    · split
      · exact hu.startFill
      · exact hu
    · exact hu
  · exact hu

theorem binsTake {d : Nat} (h : Keeps s0 s) : Keeps s0 (s.binsTake d) := (h.missesTake.foldl (fun _ _ hu => hu.binTakes)).poolPressure

/-! ## Filing -/

theorem putInBin {d bn addr : Nat} {r : List Dword} (h : Keeps s0 s) : Keeps s0 (s.putInBin d bn addr r) :=
  .ite (h.same (by rfl)).wakeDie.readsFlat.itemState.binTakes.poolPressure (h.same (by rfl)).wakeDie.readsFlat.itemState

theorem forceBin {d : Nat} (h : Keeps s0 s) : Keeps s0 (s.forceBin d) := by
  unfold State.forceBin
  dsimp only
  split
  · exact h
  · exact h.same (by rfl)

theorem fileItem {d cid addr : Nat} {r : List Dword} (h : Keeps s0 s) : Keeps s0 (s.fileItem d cid addr r).1 := by
  unfold State.fileItem
  dsimp only
  split
  · exact h.putInBin
  · split
    · exact h.putInBin
    · exact h.same (by rfl)
  · exact h.forceBin.same (by rfl)

theorem fileWork {l : List (Nat × Dword)} (h : Keeps s0 s) : Keeps s0 (State.fileWork l s).1 := by
  induction l generalizing s with
  | nil => exact h
  | cons x t ih =>
    unfold State.fileWork
    split
    · exact ih h
    · dsimp only
      split
      · exact ih h.fileItem
      · exact h.fileItem

theorem fileOn (h : Keeps s0 s) : Keeps s0 (s.fileOn) := by
  unfold State.fileOn
  split
  · exact h
  · exact h.fileWork.same (by rfl)

/-! ## Areas and pins that a context gives back -/

theorem freeArea {region : Nat} {a : Dword} (h : Keeps s0 s) : Keeps s0 (s.freeArea region a) := by
  unfold State.freeArea
  dsimp only
  split
  · exact h
  · exact h.setRegion (by rfl)

theorem pinDrops (h : Keeps s0 s) : Keeps s0 (s.pinDrops) := .ite (h.same (by rfl)) h

theorem leafPin {region leaf : Nat} {more : Bool} (h : Keeps s0 s) : Keeps s0 (s.leafPin region leaf more) := (Keeps.ite h h.pinDrops).reads.physWrite

theorem unpinAll {region : Nat} {l : List Trans} (h : Keeps s0 s) : Keeps s0 (s.unpinAll region l) := h.foldl (fun _ _ hu => hu.leafPin)

/-! ## Ending items and contexts -/

theorem dropEngines {o : Nat} {m : Mask} (h : Keeps s0 s) : Keeps s0 (s.dropEngines o m) := h.foldl (fun _ _ hu => hu.same (by rfl))

theorem endItems {o : Nat} {m : Mask} {st reason : Nat} {late : RunItem → Nat} (h : Keeps s0 s) : Keeps s0 (s.endItems o m st reason late) :=
  (h.foldl (fun _ _ hu => hu.endItem)).same (by rfl)

theorem tokenLeaves {pl : Place} (h : Keeps s0 s) : Keeps s0 (s.tokenLeaves pl) := .ite (h.same (by rfl)) h

theorem dropOps {o : Nat} (h : Keeps s0 s) : Keeps s0 (s.dropOps o) := (h.foldl (fun _ _ hu => hu.unpinAll)).same (by rfl)

theorem regrpDrop {cid : Nat} (h : Keeps s0 s) : Keeps s0 (s.regrpDrop cid) := by
  unfold State.regrpDrop
  split
  · exact (Keeps.ite h.deliverF1 h).same (by rfl)
  · exact h

theorem regrpLeave {o : Nat} (h : Keeps s0 s) : Keeps s0 (s.regrpLeave o) := by
  unfold State.regrpLeave
  dsimp only
  split
  · exact (h.foldl (fun _ _ hu => .ite hu.regrpDrop hu)).regrpDrop.same (by rfl)
  · exact h.foldl (fun _ _ hu => .ite hu.regrpDrop hu)

theorem regrpFail {o : Nat} (h : Keeps s0 s) : Keeps s0 (s.regrpFail o) := h.regrpLeave.same (by rfl)

theorem unpinBuf {d b : Nat} (h : Keeps s0 s) : Keeps s0 (s.unpinBuf d b) := h.same (by rfl)

theorem dropPins {o : Nat} (h : Keeps s0 s) : Keeps s0 (s.dropPins o) :=
  .ite (h.foldl fun _ _ hu => hu.unpinBuf).modCtx (h.foldl fun _ _ hu => hu.unpinBuf).modCtx.binsTake

theorem vacate {o : Nat} (h : Keeps s0 s) : Keeps s0 (s.vacate o) := by
  unfold State.vacate
  dsimp only
  split
  · exact (h.same (by rfl)).tokenLeaves.countGang
  · exact h

theorem finishItems {o : Nat} {all : Bool} (h : Keeps s0 s) : Keeps s0 (s.finishItems o all) :=
  .ite h ((h.foldl (fun _ _ hu => hu.endItem)).same (by rfl))

theorem withdraw {cid : Nat} (h : Keeps s0 s) : Keeps s0 (s.withdraw cid) := h.same (by rfl)

theorem channelsLose {o : Nat} (h : Keeps s0 s) : Keeps s0 (s.channelsLose o) := h.same (by rfl)

theorem coresUpdate (h : Keeps s0 s) : Keeps s0 s.coresUpdate := h.same (by rfl)

theorem setCtxs {l : Table Ctx} (h : Keeps s0 s) : Keeps s0 { s with ctxs := l } := h.same (by rfl)

theorem endContextAs {o : Nat} {expired : Bool} (h : Keeps s0 s) : Keeps s0 (s.endContextAs o expired) := by
  have hout : Keeps s0 ((((((((((s.sidesOf o).foldl State.withdraw s).keepSeat o).finishItems o true).regrpFail o).dropOps o).dropPins o).quitGroups
      (.ctx o) expired).channelsLose o)) :=
    (h.foldl fun _ _ hu => hu.withdraw).keepSeat.finishItems.regrpFail.dropOps.dropPins.quitGroups.channelsLose
  have hvacate := (hout.foldl (l := s.landingsOf o) (f := fun t k => t.tokenLeaves (s.ctxAt k).place) fun _ _ hu => hu.tokenLeaves).vacate (o := o)
  unfold State.endContextAs
  refine .coresUpdate (.setCtxs ?_)
  split
  · exact hvacate.freeArea
  · exact hvacate

theorem endContext {o : Nat} (h : Keeps s0 s) : Keeps s0 (s.endContext o) := h.endContextAs

theorem exitContext {o : Nat} (h : Keeps s0 s) : Keeps s0 (s.exitContext o) := h.endItems.endContext

theorem abortFinishing {o reason : Nat} {hit : RunItem → Bool} (h : Keeps s0 s) : Keeps s0 (s.abortFinishing o reason hit) :=
  .ite h ((h.same (by rfl)).foldl (fun _ _ hu => hu.endItem))

theorem abortContext {o reason : Nat} (h : Keeps s0 s) : Keeps s0 (s.abortContext o reason) := h.abortFinishing.endItems.modCtx.endContext

/-! ## Rejoin and the search for engines -/

theorem endLanding {cid : Nat} (h : Keeps s0 s) : Keeps s0 (s.endLanding cid) := h.modCtx.tokenLeaves.setCtxs.sideGone

theorem search {n cid next : Nat} (h : Keeps s0 s) : Keeps s0 (State.search n s cid next) := by
  induction n generalizing s with
  | zero => exact h.same (by rfl)
  | succ n ih =>
    unfold State.search
    dsimp only
    refine .ite (h.same (by rfl)) ?_
    split
    · exact .ite (h.same (by rfl)) (ih (h.same (by rfl)))
    · split
      · exact .ite h.endLanding (.ite (h.same (by rfl)) h.exitContext)
      · exact .ite (.ite (h.same (by rfl)) (ih (h.same (by rfl)))) (.ite (ih (h.same (by rfl))) (ih (h.same (by rfl))))

theorem seek {cid next : Nat} (h : Keeps s0 s) : Keeps s0 (s.seek cid next) := h.search

theorem reseek {cid : Nat} (h : Keeps s0 s) : Keeps s0 (s.reseek cid) := by
  unfold State.reseek
  split
  · exact .ite h.seek h
  · exact h

theorem settleWaits (h : Keeps s0 s) : Keeps s0 (s.settleWaits) := h.settleCounted.foldl (fun _ _ hu => hu.finishItems.reseek)

theorem seekOn {cid next : Nat} (h : Keeps s0 s) : Keeps s0 (s.seekOn cid next) := .ite h.seek.settleWaits h.seek

theorem mergeLanding {cid : Nat} (h : Keeps s0 s) : Keeps s0 (s.mergeLanding cid) := h.endLanding.settleWaits

/-! ## Taking a trap or fault, and returning -/

theorem missFailed {cid : Nat} {recs : List FaultRec} (h : Keeps s0 s) : Keeps s0 (s.missFailed cid recs) := h.foldl (fun _ _ hu => hu.same (by rfl))

theorem land {cid : Nat} (h : Keeps s0 s) : Keeps s0 (s.land cid) := h.same (by rfl)

theorem setIssue {x : Issue} (h : Keeps s0 s) : Keeps s0 { s with issue := x } := h.same (by rfl)

theorem enterTrap {cid epc : Nat} {recs : List FaultRec} (h : Keeps s0 s) : Keeps s0 (s.enterTrap cid epc recs) :=
  .ite h.setIssue.missFailed.abortContext h.setIssue.missFailed.land.regrpLeave.modCtx

theorem continueOp {id : Nat} (h : Keeps s0 s) : Keeps s0 (s.continueOp id) := by
  unfold State.continueOp
  dsimp only
  split
  · exact h
  · refine .foldl h fun u x hu => ?_
    split
    · split
      · exact hu.same (by rfl)
      · exact hu
    · exact hu

theorem continueOps {o : Nat} (h : Keeps s0 s) : Keeps s0 (s.continueOps o) := h.foldl (fun _ _ hu => hu.continueOp)

theorem clearCursor {o : Op} {p : Part} (h : Keeps s0 s) : Keeps s0 (s.clearCursor o p) := .ite (h.same (by rfl)) h

theorem sysret {cid : Nat} (h : Keeps s0 s) : Keeps s0 (s.sysret cid) := .ite (h.same (by rfl)).continueOps.seekOn (h.same (by rfl)).continueOps

end Keeps

end Sys2Proof.Proofs
end

section
/-!
SUPPORT. The invariant of every step: operands, arrays and the accesses of words.
-/
namespace Sys2Proof.Proofs

open Machine Laws

namespace Keeps

variable {s0 s : State}

/-! ## Engine-local addresses -/

theorem localWrite {e a : Nat} {bs : List Byte} (h : Keeps s0 s) : Keeps s0 (s.localWrite e a bs) := by
  unfold State.localWrite
  split
  · exact h.same (by rfl)
  · exact h

/-! ## Ports -/

theorem popPort {k : Nat} (h : Keeps s0 s) : Keeps s0 (s.popPort k) := .ite h (h.same (by rfl))

theorem popAll {codes : List Nat} (h : Keeps s0 s) : Keeps s0 (s.popAll codes) := h.foldl (fun _ _ hu => hu.popPort)

/-! ## Vector operands -/

theorem storeLanes {e a : Nat} {v : List Nat} {m : LaneMask} {z : Bool} (h : Keeps s0 s) : Keeps s0 (s.storeLanes e a v m z) :=
  h.foldl (fun _ _ hu => .ite hu.localWrite hu)

theorem putVec {e code addr : Nat} {m : LaneMask} {z : Bool} {new : List Nat} {L : Nat} (h : Keeps s0 s) :
    Keeps s0 (s.putVec e code addr m z new L) :=
  .ite (h.same (by rfl)) h.storeLanes

/-! ## Tasks: multiplies whose groups enter one per cycle -/

theorem settleEngine {g e : Nat} (h : Keeps s0 s) : Keeps s0 (s.settleEngine g e) := .ite h (h.same (by rfl))

theorem settleGang {g : Nat} (h : Keeps s0 s) : Keeps s0 (s.settleGang g) := h.foldl (fun _ _ hu => hu.settleEngine)

/-! ## Accumulators as words read and write them -/

theorem wAccIn {e n : Nat} {v : Acc} {units L : Nat} (h : Keeps s0 s) : Keeps s0 (s.wAccIn e n v units L) := .ite h (h.same (by rfl))

theorem wAcc {e n : Nat} {v : Acc} {L : Nat} (h : Keeps s0 s) : Keeps s0 (s.wAcc e n v L) := h.wAccIn

/-! ## Plain and strong scalar accesses -/

theorem through {a : Acc4} {va : Dword} {d : Dest} (h : Keeps s0 s) : Keeps s0 (s.through a va d) := by
  unfold State.through
  split
  · exact h.same (by rfl)
  · exact h

theorem loadS {sD : BitVec 5} {sz : Nat} {sgn : Bool} {va : Dword} (h : Keeps s0 s) : Keeps s0 (s.loadS sD sz sgn va) := h.through.touch.wSheld

theorem storeS {sz : Nat} {va v : Dword} (h : Keeps s0 s) : Keeps s0 (s.storeS sz va v) := h.touch.flatStore

/-! ## Vector accesses of 256 bytes -/

theorem vecTouch {e code : Nat} {spc : Bool} {va : Dword} {n : Nat} (h : Keeps s0 s) : Keeps s0 (s.vecTouch e code spc va n) := .ite h h.through.touch

theorem physStoreLanes {key pa : Nat} {v : List Nat} {m : LaneMask} (h : Keeps s0 s) : Keeps s0 (s.physStoreLanes key pa v m) := by
  unfold State.physStoreLanes
  dsimp only
  split
  · exact h.foldl (fun _ _ hu => .ite hu.viewStoreBlock hu)
  · exact h.foldl (fun _ _ hu => .ite hu.physWrite hu)

theorem vecStore {e : Nat} {spc : Bool} {va : Dword} {v : List Nat} {m : LaneMask} (h : Keeps s0 s) : Keeps s0 (s.vecStore e spc va v m) := by
  unfold State.vecStore
  dsimp only
  split
  · exact h.storeLanes
  · split
    · exact h
    · exact h.touch.physStoreLanes.foldl (fun _ _ hu => .ite hu.pbStore hu)

theorem putHeld {e code addr : Nat} {m : LaneMask} {z : Bool} {new : List Nat} (h : Keeps s0 s) : Keeps s0 (s.putHeld e code addr m z new) :=
  .ite (h.same (by rfl)) h.storeLanes

/-! ## Gathered accesses -/

theorem store4 {e : Nat} {spc : Bool} {va : Dword} {v : Nat} (h : Keeps s0 s) : Keeps s0 (s.store4 e spc va v) := .ite h.localWrite h.touch.flatStore

/-! ## Atomics -/

theorem atomAt {va : Dword} {dw : Bool} {key : Nat} {f : Nat → Nat} {out : Nat → Outgoing} (h : Keeps s0 s) :
    Keeps s0 (s.atomAt va dw key f out).2 := by
  unfold State.atomAt
  dsimp only
  split
  · exact h
  · split
    · exact h.touch.post
    · exact h.touch.physWrite.pbStore

theorem vatomLane {e k : Nat} {f : MemFields} {va : Dword} {v : Nat} (h : Keeps s0 s) : Keeps s0 (s.vatomLane e k f va v).2 := by
  unfold State.vatomLane
  split
  · exact h.localWrite
  · exact h.atomAt

theorem vatomEng {e : Nat} {f : MemFields} {base : Dword} {idx : Vec} {v : Nat} {ks : List Nat} {out : List (Nat × Nat)} (h : Keeps s0 s) :
    Keeps s0 (s.vatomEng e f base idx v ks out).2 := by
  induction ks generalizing s out with
  | nil => exact h
  | cons k ks ih => exact ih h.vatomLane

theorem vatomThrough {e : Nat} {f : MemFields} {base : Dword} {idx : Vec} {ks : List Nat} (h : Keeps s0 s) :
    Keeps s0 (s.vatomThrough e f base idx ks) :=
  .ite h (h.foldl (fun _ _ hu => hu.through))

/-! ## Order, prefetch, caches -/

theorem onLine {va : Dword} {f : State → Nat → State} (h : Keeps s0 s) (hf : ∀ u line, Keeps s0 u → Keeps s0 (f u line)) :
    Keeps s0 (s.onLine va f) := by
  unfold State.onLine
  split
  · exact .ite (hf _ _ h.findHome) h.findHome
  · exact h.findHome

/-! ## Units of a copy -/

theorem cellWrite {p : Party} {bs : List Byte} {c : Cell} (h : Keeps s0 s) : Keeps s0 (s.cellWrite p bs c) := by
  unfold State.cellWrite
  split
  · exact .ite h.flatStoreRaw (h.foldl fun _ _ hu => hu.flatStoreRaw)
  · exact h.localWrite
  · exact h.localWrite
  · split
    · exact h
    · refine h.foldl fun u i hu => ?_
      split
      · next v hv => exact hu.tensorPut hv
      · exact hu
  · refine h.foldl fun u i hu => ?_
    split
    · exact hu.physWrite
    · exact hu

theorem cellTouch {v : EccVictim} {p : Party} {n : Nat} {write : Bool} {c : Cell} (h : Keeps s0 s) : Keeps s0 (s.cellTouch v p n write c) := by
  unfold State.cellTouch
  dsimp only
  split
  · exact h.touchFlat
  · split
    · exact h
    · refine .foldl h fun u x hu => ?_
      split
      · exact hu
      · split
        · exact .ite hu.touchTile hu.touchTile.reads
        · exact hu.touchTile
  · refine .foldl h fun u x hu => ?_
    split
    · exact .ite hu hu.touchKv
    · exact hu
  · exact h

theorem planWrite {v : EccVictim} {p : Party} {extra : Dword} {pl : Plan} {held : List (List Byte)} {n k : Nat} (h : Keeps s0 s) :
    Keeps s0 (s.planWrite v p extra pl held n k).1 := by
  induction n generalizing s k with
  | zero => exact h
  | succ n ih =>
    unfold State.planWrite
    split
    · exact h
    · split
      · exact ih h.cellTouch.cellWrite
      · exact h

theorem planRun {v : EccVictim} {p : Party} {extra : Dword} {pl : Plan} {q : Part} (h : Keeps s0 s) :
    Keeps s0 (s.planRun v p extra pl q).1 := by
  unfold State.planRun
  dsimp only
  split
  · exact (h.foldl fun _ _ hu => hu.cellTouch).planWrite
  · exact h.foldl fun _ _ hu => hu.cellTouch

/-! ## CPY -/

theorem pbTouch {p : Party} {va pa : Nat} (h : Keeps s0 s) : Keeps s0 (s.pbTouch p va pa) := .ite h.touch h.touch

/-! ## Starting an operation -/

theorem startOp {token : Nat} {comm : Bool} {kind : OpKind} {parts : List (Nat × Nat)} {base : Nat → Option (Nat × Acc)} (h : Keeps s0 s) :
    Keeps s0 (s.startOp token comm kind parts base) :=
  .ite (h.same (by rfl)) (h.same (by rfl))

theorem cpyStart {g : Gate} {sP sT : BitVec 5} (h : Keeps s0 s) : Keeps s0 (s.cpyStart g sP sT) := by
  unfold State.cpyStart
  dsimp only
  split
  · exact h
  · exact (h.pbTouch.same (by rfl)).startOp

/-! ## CPYL -/

theorem lineWrite {key pa a : Nat} {f : Nat → Option Byte} (h : Keeps s0 s) : Keeps s0 (s.lineWrite key pa a f) := by
  unfold State.lineWrite
  dsimp only
  split
  · exact h.foldl (fun _ _ hu => .ite hu.viewWrite hu)
  · exact h.foldl (fun _ _ hu => hu.physWrite)

theorem scatterLine {v : EccVictim} {p : Party} {size : Nat} {extra : Nat → Dword} {above : Nat → Nat → Bool} {r : Scattered}
    {line : List Request} (h : Keeps s0 r.state) : Keeps s0 (State.scatterLine v p size extra above r line).state := by
  unfold State.scatterLine
  dsimp only
  split
  · exact h
  · split
    · exact h.cellTouch.lineWrite
    · exact h

theorem scatterRun {v : EccVictim} {p : Party} {base : Dword} {lbase size : Nat} {offs : Table Vec} {ls : Table LaneMask}
    {extra : Nat → Dword} {parts : List Part} (h : Keeps s0 s) : Keeps s0 (s.scatterRun v p base lbase size offs ls extra parts).1 :=
  foldl_keeps (P := fun r : Scattered => Keeps s0 r.state) (fun _ _ hr => hr.scatterLine) _ ⟨s, [], []⟩ h

/-! ## CPYK -/

theorem cpykRun {v : EccVictim} {p : Party} {e : Nat} {k : Dword} {dst nblk : Nat} {extra : Dword} {n : Nat} {q : Part} (h : Keeps s0 s) :
    Keeps s0 (s.cpykRun v p e k dst nblk extra n q).1 := by
  induction n generalizing s q with
  | zero => exact h
  | succ n ih =>
    unfold State.cpykRun
    dsimp only
    split
    · exact h
    · split
      · exact h
      · split
        · exact ih h.localWrite
        · split
          · exact ih h.touchKv.localWrite
          · exact h
          · exact h

/-! ## Slots -/

theorem otag {g : Gate} {o : BitVec 5} {user : Dword} {setf : Bool} {fmt : BitVec 4} (h : Keeps s0 s) : Keeps s0 (s.otag g o user setf fmt) :=
  h.each fun _ _ hu => hu.same (by rfl)

theorem otagQ {g : Gate} {o : BitVec 5} {pd : BitVec 3} {user : Dword} (h : Keeps s0 s) : Keeps s0 (s.otagQ g o pd user) :=
  h.each fun _ _ hu => hu.wP

/-! ## Multiplies -/

theorem wDrain {e n : Nat} {v : Nat} {L : Nat} (h : Keeps s0 s) : Keeps s0 (s.wDrain e n v L) := h.same (by rfl)

theorem opStart {e : Nat} {ad : BitVec 2} {za : Bool} (h : Keeps s0 s) : Keeps s0 (s.opStart e ad za) := .ite h.wAcc.wDrain h

theorem accStart {e : Nat} {ad : BitVec 2} {za : Bool} {units L : Nat} (h : Keeps s0 s) : Keeps s0 (s.accStart e ad za units L) :=
  .ite h.wAcc.wDrain h.wAccIn

theorem startTask {e : Nat} {ad : BitVec 2} {za : Bool} {t : MulTask} (h : Keeps s0 s) : Keeps s0 (s.startTask e ad za t) :=
  h.accStart.onEng.count

/-! ## Drains -/

theorem drain {e : Nat} {f : DrainFields} (h : Keeps s0 s) : Keeps s0 (s.drain e f) :=
  .ite (.wAcc (.onPart (.wDrain (.raise (.ite (h.same (by rfl)) (h.drawn.foldl fun _ _ hu => hu.localWrite))))))
    (.onPart (.wDrain (.raise (.ite (h.same (by rfl)) (h.drawn.foldl fun _ _ hu => hu.localWrite)))))

/-! ## Parts in the background -/

theorem addTo {o : Op} {q : Part} {ad units : Nat} {f : Acc → Acc × Flags} (h : Keeps s0 s) : Keeps s0 (s.addTo o q ad units f) :=
  h.modEng.foldl fun _ _ hu => hu.modCtx

theorem kvRun {p : Party} {o : Op} {ad : Nat} {k : Dword} {last : Nat} {extra : Dword} {units : Card → Nat → Nat → Nat}
    {f : State → Card → Nat → Nat → Nat → Acc → Acc × Flags} {n : Nat} {q : Part} (h : Keeps s0 s) :
    Keeps s0 (s.kvRun p o ad k last extra units f n q).1 := by
  induction n generalizing s q with
  | zero => exact h
  | succ n ih =>
    unfold State.kvRun
    dsimp only
    split
    · exact h
    · split
      · exact h
      · split
        · exact ih h
        · split
          · exact ih h.touchKv.addTo
          · exact h
          · exact h

theorem gmmaRun {p : Party} {o : Op} {ad : Nat} {a : OSlot} {tid : Nat} {c0b c2 : Int} {idx : List Vec} {rows cols klen n at_ : Nat} {q : Part}
    (h : Keeps s0 s) : Keeps s0 (s.gmmaRun p o ad a tid c0b c2 idx rows cols klen n at_ q).1 := by
  induction n generalizing s at_ q with
  | zero => exact h
  | succ n ih =>
    unfold State.gmmaRun
    split
    · exact h
    · split
      · exact h
      · dsimp only
        split
        · exact ih (h.foldl fun _ _ hu => hu.cellTouch).addTo
        · exact h

/-! ## Running a part -/

theorem runPart {p : Party} {o : Op} {q : Part} (h : Keeps s0 s) : Keeps s0 (s.runPart p o q).1 := by
  unfold State.runPart
  dsimp only
  split
  · exact h
  · split
    case h_4 => exact h.cpykRun
    case h_5 => exact h.kvRun
    case h_6 => exact h.kvRun
    case h_7 => exact h.gmmaRun
    case h_8 => exact h
    case h_9 => exact h
    all_goals
      split
      · exact h.planRun
      · exact h

/-! ## What an operation has translated and not passed -/

theorem setOps {l : Table Op} (h : Keeps s0 s) : Keeps s0 { s with ops := l } := h.same (by rfl)

theorem repin {id : Nat} {o : Op} {l : List Trans} (h : Keeps s0 s) : Keeps s0 (s.repin id o l) :=
  ((h.foldl fun _ _ hu => hu.leafPin).foldl fun _ _ hu => hu.leafPin).setOps

end Keeps

end Sys2Proof.Proofs
end

section
/-!
SUPPORT. The invariant of every step: control, groups, exchange, parking and work.
-/
namespace Sys2Proof.Proofs

open Machine Laws

namespace Keeps

variable {s0 s : State}

/-! ## Segments -/

theorem codeTouch {v : EccVictim} {p : Party} {w : Nat} (h : Keeps s0 s) : Keeps s0 (s.codeTouch v p w) := by
  unfold State.codeTouch
  dsimp only
  split
  · exact h.touch
  · exact h.foldl (fun _ _ hu => .ite ((Keeps.ite hu.touch hu).touch) (.ite hu.touch hu))

/-! ## Arrival -/

theorem loopArrive {cid : Nat} (h : Keeps s0 s) : Keeps s0 (s.loopArrive cid).1 := by
  unfold State.loopArrive
  dsimp only
  split
  · exact h
  · exact .ite_fst h (.ite_fst h (.ite_fst (h.same (by rfl)) (h.same (by rfl))))

theorem kernelArrive {cid : Nat} (h : Keeps s0 s) : Keeps s0 (s.kernelArrive cid).1 := by
  unfold State.kernelArrive
  extract_lets c
  split
  · exact h
  · exact .ite_fst h (.ite_fst (h.same (by rfl)) (.ite_fst (h.same (by rfl)) (h.same (by rfl))))

/-! ## NOP and transfers -/

theorem brf {p : BitVec 3} {cond : BitVec 2} {t : Nat} (h : Keeps s0 s) : Keeps s0 (s.brf p cond t) := .delay (.ite h.goto h)

theorem call {t : Nat} (h : Keeps s0 s) : Keeps s0 (s.call t) := h.wS.same (by rfl)

theorem brdl {sM : BitVec 5} {t : Nat} (h : Keeps s0 s) : Keeps s0 (s.brdl sM t) := by
  refine .delay ?_
  split
  · exact .ite h.goto h
  · exact h

/-! ## Loops -/

theorem loopSet {imm : BitVec 11} {sC : BitVec 5} {x : LoopExt} {lit : Option Dword} {exitF : Option (BitVec 3)} (h : Keeps s0 s) :
    Keeps s0 (s.loopSet imm sC x lit exitF) :=
  .ite (h.same (by rfl)) (h.same (by rfl))

/-! ## Divergence -/

theorem splitPar {land : Nat} {tk fl : Mask} {t : Nat} (h : Keeps s0 s) : Keeps s0 (s.splitPar land tk fl t) :=
  .mod (.ite (h.same (by rfl)) (h.same (by rfl)))

theorem split {p : BitVec 3} {neg : Bool} {t : Nat} (h : Keeps s0 s) : Keeps s0 (s.split p neg t) := by
  refine .delay ?_
  split
  · exact h.splitPar
  · exact h.same (by rfl)

/-! ## Token, regions of code, traps -/

theorem pass (h : Keeps s0 s) : Keeps s0 (s.pass) := by
  unfold State.pass
  dsimp only
  split
  · exact .ite (h.same (by rfl)) h
  · exact h

theorem brkStop (h : Keeps s0 s) : Keeps s0 (s.brkStop) := (h.same (by rfl)).cause

theorem issueArrival {cnt leave waits : Bool} {gid op : Nat} {value : Dword} (h : Keeps s0 s) :
    Keeps s0 (s.issueArrival cnt leave waits gid op value) :=
  .ite (h.same (by rfl)) h.registerCounted

theorem createGroup {w : Who} {region name attr : Nat} {r : State × Word} (h : Keeps s0 s) (hr : s.createGroup w region name attr = some r) :
    Keeps s0 r.1 := by
  unfold State.createGroup at hr
  split at hr
  · cases hr
  · split at hr
    · cases hr
    · cases hr
      exact h.same (by rfl)

theorem joinGroup {w : Who} {region name : Nat} {r : State × Word} (h : Keeps s0 s) (hr : s.joinGroup w region name = some r) :
    Keeps s0 r.1 := by
  unfold State.joinGroup at hr
  split at hr
  · cases hr
  · split at hr
    · cases hr
    · dsimp only at hr
      split at hr
      · cases hr
      · split at hr
        · cases hr
        · cases hr
          exact h.same (by rfl)

theorem putJoin {hD : BitVec 3} {o : Option (State × Word)} (h : Keeps s0 s) (ho : ∀ r, o = some r → Keeps s0 r.1) : Keeps s0 (s.putJoin hD o) := by
  unfold State.putJoin
  split
  · next t w => exact ((ho (t, w) rfl).same (t := t.wH hD w) (by rfl)).wF
  · exact (h.same (by rfl)).wF

theorem onMember {hn : BitVec 3} {f : State → Nat → Member → State} (h : Keeps s0 s) (hf : ∀ u gid m, Keeps s0 u → Keeps s0 (f u gid m)) :
    Keeps s0 (s.onMember hn f) := by
  unfold State.onMember
  split
  · exact hf _ _ _ h
  · exact h

theorem makeMet {x : Meeting} (h : Keeps s0 s) : Keeps s0 (s.makeMet x) := by
  unfold State.makeMet
  split
  · exact h
  · exact h.onMember (fun _ _ _ hu => .ite hu (hu.same (by rfl)).issueArrival)

theorem takeMet {x : Meeting} (h : Keeps s0 s) : Keeps s0 (s.takeMet x) := by
  unfold State.takeMet
  dsimp only
  split
  · exact h.makeMet.wF.wS.wS.same (by rfl)
  · exact h

theorem arriveHeld {g : Gate} {uses : List Dest} {x : Meeting} (h : Keeps s0 s) : Keeps s0 (s.arriveHeld g uses x) := .ite h.makeMet h

theorem meetHeld {i : Instr} (h : Keeps s0 s) : Keeps s0 (s.meetHeld i) := by
  unfold State.meetHeld
  split
  · exact h.arriveHeld
  · exact h.arriveHeld
  · exact h.arriveHeld
  · exact h

/-! ## Gang exchange -/

theorem giveAll {g : Gate} {vd : BitVec 6} {lq : BitVec 3} {ln : Bool} {L : Nat} {f : Nat → List Nat} (h : Keeps s0 s) :
    Keeps s0 (s.giveAll g vd lq ln L f) := h.each fun _ _ hu => hu.putVec

/-! ## Channel entries -/

theorem modChannel {ch : Nat} {f : Channel → Channel} (h : Keeps s0 s) : Keeps s0 (s.modChannel ch f) := by
  unfold State.modChannel
  split
  · exact h.same (by rfl)
  · exact h

theorem sendFrom {t : State} {ch : BitVec 10} {c : Channel} {o : BitVec 6} {e : Nat} (h : Keeps s0 s) : Keeps s0 (s.sendFrom t ch c o e) :=
  .ite h.raise h.raise.modChannel.mod

theorem mixSends {cid : Nat} (h : Keeps s0 s) : Keeps s0 (s.mixSends cid) := by
  refine .ite h (.modCtx (.foldl h fun u p hu => ?_))
  split
  · exact .ite hu hu.modChannel
  · exact hu

/-! ## Receives -/

theorem putElement {shape e : Nat} {o : BitVec 6} {add : Bool} {addr base x L taken : Nat} (h : Keeps s0 s) :
    Keeps s0 (s.putElement shape e o add addr base x L taken) := by
  unfold State.putElement
  split
  · exact h.same (by rfl)
  · exact h.wAccIn.raise
  · exact .raise (.ite (h.same (by rfl)) h.storeLanes)

theorem receiveIn {ch : BitVec 10} {o : BitVec 6} {add : Bool} {e : Nat} (h : Keeps s0 s) : Keeps s0 (s.receiveIn ch o add e) := by
  unfold State.receiveIn
  dsimp only
  split
  · exact h
  · split
    · exact h.modChannel.putElement
    · exact .ite h h.putElement
    · exact h.same (by rfl)

/-! ## XCHS and CHLD -/

theorem chld {sA : BitVec 5} {ch : BitVec 10} (h : Keeps s0 s) : Keeps s0 (s.chld sA ch) := by
  unfold State.chld
  dsimp only
  split
  · exact (h.same (by rfl)).wF
  · split
    · exact h.readsFlat.wF
    · split
      · exact h.readsFlat.wF
      · split
        · exact (h.readsFlat.same (by rfl)).wF
        · exact h.readsFlat.wF

/-! ## Words in flat memory -/

theorem putWords {p : Party} {va : Nat} {l : List Nat} (h : Keeps s0 s) : Keeps s0 (s.putWords p va l) := by
  induction l generalizing s va with
  | nil => exact h
  | cons w ws ih => exact ih h.flatStoreRaw

theorem putBig {p : Party} {va n x : Nat} (h : Keeps s0 s) : Keeps s0 (s.putBig p va n x) := h.putWords

/-! ## The sequencer part -/

theorem saveSeq {p : Party} {cid va : Nat} (h : Keeps s0 s) : Keeps s0 (s.saveSeq p cid va) := h.foldl (fun _ _ hu => hu.putWords)

/-! ## The engine records -/

theorem saveSlots {p : Party} {va : Nat} {x : Engine} {owned : List Nat} (h : Keeps s0 s) : Keeps s0 (s.saveSlots p va x owned) :=
  h.foldl (fun _ _ hu => .ite hu.putBig.putBig hu.putBig)

theorem saveEngine {p : Party} {o area e : Nat} {idem : Option Snapshot} (h : Keeps s0 s) : Keeps s0 (s.saveEngine p o area e idem) := by
  unfold State.saveEngine
  split
  · exact (h.foldl fun _ _ hu => hu.putBig).putWords.saveSlots
  · exact ((h.foldl fun _ _ hu => hu.putBig).foldl fun _ _ hu => hu.putBig).putWords.saveSlots.foldl fun _ _ hu => hu.flatStoreRaw

/-! ## Operations that land while parked -/

theorem loadEngine {p : Party} {o area e : Nat} {spad : Bool} (h : Keeps s0 s) : Keeps s0 (s.loadEngine p o area e spad) := h.same (by rfl)

theorem setEngines {l : Table Engine} (h : Keeps s0 s) : Keeps s0 { s with engines := l } := h.same (by rfl)

theorem withArea {o : Nat} {f : State → State} (h : Keeps s0 s) (hf : ∀ u, Keeps s0 u → Keeps s0 (f u)) : Keeps s0 (s.withArea o f) := by
  unfold State.withArea
  dsimp only
  split
  · refine .setEngines (.modCtx (.foldl (hf _ ?_) fun _ _ hu => hu.saveEngine))
    exact h.modCtx.foldl fun _ _ hu => hu.loadEngine
  · exact hf _ h

/-! ## Parking -/

theorem abandonLate {o : Nat} (h : Keeps s0 s) : Keeps s0 (s.abandonLate o) := .ite h h.endItems.dropEngines

theorem parkItems {o : Nat} {area : Dword} {pc : Nat} (h : Keeps s0 s) : Keeps s0 (s.parkItems o area pc) :=
  h.foldl (fun _ _ hu => hu.itemPut.itemPut.itemPut.itemState)

theorem coresPreempt {o : Nat} (h : Keeps s0 s) : Keeps s0 (s.coresPreempt o) :=
  h.foldl fun _ _ hu => .ite (hu.foldl fun _ _ hw => .ite hw.modCtx hw) hu

theorem clearLanding {p : Party} {area : Nat} (h : Keeps s0 s) : Keeps s0 (s.clearLanding p area) := h.putWords

theorem coresPark {o : Nat} (h : Keeps s0 s) : Keeps s0 (s.coresPark o) := h.same (by rfl)

theorem clearSeat {o g k : Nat} (h : Keeps s0 s) : Keeps s0 (s.clearSeat o g k) := h.same (by rfl)

theorem moveOps {o g k : Nat} (h : Keeps s0 s) : Keeps s0 (s.moveOps o g k) := h.same (by rfl)

theorem parkNow {o : Nat} {reason : ParkReason} {wake : Nat} (h : Keeps s0 s) : Keeps s0 (s.parkNow o reason wake) := by
  unfold State.parkNow
  split
  · exact h.modCtx
  next _ area _ =>
    extract_lets sides s1 s2 c d p src s3 s4 s5 s6 s7 s8 s9 s10 base
    have hleft := (h.regrpFail (o := o)).foldl (l := sides) (f := fun t k => (t.land k).withdraw k) fun _ _ hu => hu.land.withdraw
    have h1 : Keeps s0 s1 := by
      unfold s1
      exact hleft.settleGang.mapGang
    have h2 : Keeps s0 s2 := h1.coresPreempt.coresPark.abandonLate
    clear_value s2
    refine .ite h2.endContext ?_
    have h3 : Keeps s0 s3 := h2.setRegion (by rfl)
    have h4 : Keeps s0 s4 := h3.foldl fun _ _ hu => hu.modCtx
    have h5 : Keeps s0 s5 := h4.saveSeq
    clear_value s5
    have h6 : Keeps s0 s6 := by
      refine .foldl_fst (.ite h5.clearLanding h5) fun _ _ hu => ?_
      dsimp only
      exact hu.saveSeq
    have h7 : Keeps s0 s7 := h6.foldl fun _ _ hu => hu.foldl fun _ _ hw => hw.saveEngine
    have h9 : Keeps s0 s9 := (h7.parkItems.dropPins.foldl fun _ _ hu => hu.tokenLeaves).clearSeat
    have h10 : Keeps s0 s10 := h9.countGang.moveOps
    exact (h10.foldl fun _ _ hu => hu.modCtx).coresUpdate

/-! ## Where a context may park -/

theorem sidesArrive {o : Nat} (h : Keeps s0 s) : Keeps s0 (s.sidesArrive o) := h.foldl (fun _ _ hu => hu.same (by rfl))

/-! ## Resuming -/

theorem takeToken {cid : Nat} (h : Keeps s0 s) : Keeps s0 (s.takeToken cid) := .ite (h.same (by rfl)) h

theorem seat {cid g k : Nat} (h : Keeps s0 s) : Keeps s0 (s.seat cid g k) := (h.same (by rfl)).takeToken.countGang

theorem loadSeq {p : Party} {cid va : Nat} (h : Keeps s0 s) : Keeps s0 (s.loadSeq p cid va) := h.same (by rfl)

theorem placeAt {o g k : Nat} (h : Keeps s0 s) : Keeps s0 (s.placeAt o g k) := by
  unfold State.placeAt
  dsimp only
  split
  · refine .foldl (.seat (.moveOps (.freeArea (.foldl (.modCtx (.foldl (.foldl (.modCtx (.foldl (.foldl_fst ?_ fun _ _ hu => hu.loadSeq)
      fun _ _ hu => hu.modCtx)) fun _ _ hu => hu.modCtx) fun _ _ hu => hu.takeToken)) fun _ _ hu => hu.loadEngine)))) fun _ _ hu =>
        hu.itemState.modCtx
    exact h.readsFlat.loadSeq
  · exact h

theorem resumeCheck {o : Nat} (h : Keeps s0 s) : Keeps s0 (s.resumeCheck o) :=
  .coresUpdate (.ite h.abandonLate.endContext (.ite h.abandonLate.seek h.abandonLate))

theorem resumeAt {o g k : Nat} (h : Keeps s0 s) : Keeps s0 (s.resumeAt o g k) := h.placeAt.resumeCheck

/-! ## SPAWN -/

theorem spawnReads {addr : Dword} (h : Keeps s0 s) : Keeps s0 (s.spawnReads addr) := by
  unfold State.spawnReads
  dsimp only
  split
  · exact .ite h.readsFlat h.readsFlat.findHome
  · exact h.readsFlat

theorem spawn {addr : Dword} (h : Keeps s0 s) : Keeps s0 (s.spawn addr) := by
  unfold State.spawn
  split
  · exact (h.same (by rfl)).wF
  · split
    · exact h.spawnReads.fileItem.wF
    · exact h.spawnReads.wF

theorem queueSpawn {g : Gate} {sA : BitVec 5} (h : Keeps s0 s) : Keeps s0 (s.queueSpawn g sA) := by
  unfold State.queueSpawn
  dsimp only
  split
  · exact h
  · split
    · exact .ite h h.spawnReads.fileItem
    · exact h

/-! ## PARK -/

theorem parkWord {wake : Dword} (h : Keeps s0 s) : Keeps s0 (s.parkWord wake) := by
  unfold State.parkWord
  dsimp only
  split
  · exact h.same (by rfl)
  · exact (h.same (by rfl)).parkNow

/-! ## DONE and EXIT -/

theorem doneItems {o : Nat} {m : Mask} (h : Keeps s0 s) : Keeps s0 (s.doneItems o m) := .ite (h.same (by rfl)) h.endItems

theorem done (h : Keeps s0 s) : Keeps s0 (s.done) := .ite h.doneItems.dropEngines.delay.seekOn h.doneItems.dropEngines.delay

/-! ## REGRP -/

theorem regrpF1 {b : Bool} (h : Keeps s0 s) : Keeps s0 (s.regrpF1 b) := .ite h.wF h

theorem fuse {win lose : Nat} {live : Dword} {owes : Bool} (h : Keeps s0 s) : Keeps s0 (s.fuse win lose live owes) :=
  .endContextAs (.modCtx (.modCtx (.ite (h.foldl fun _ _ hu => hu.modEng).deliverF1 (h.foldl fun _ _ hu => hu.modEng))))

theorem regrp {gid : Nat} (h : Keeps s0 s) : Keeps s0 (s.regrp gid) := by
  unfold State.regrp
  dsimp only
  split
  · exact h.regrpF1.regrpLeave
  · split
    · exact .ite (.ite h.fuse h.fuse) h.regrpF1.regrpLeave
    · exact h.same (by rfl)

theorem regrpWord {hn : BitVec 3} (h : Keeps s0 s) : Keeps s0 (s.regrpWord hn) :=
  .ite h.mod.regrpF1.regrpLeave (h.mod.onMember fun _ _ _ hu => hu.regrp)

theorem regrpMark {g : Gate} {hn : BitVec 3} (h : Keeps s0 s) : Keeps s0 (s.regrpMark g hn) := by
  unfold State.regrpMark
  split
  · exact h
  · split
    · split
      · exact .ite h (h.same (by rfl))
      · exact h
    · exact h

/-! ## Writing -/

theorem cancelParts {id : Nat} {m : Mask} {stoppedOnly : Bool} (h : Keeps s0 s) : Keeps s0 (s.cancelParts id m stoppedOnly) := by
  unfold State.cancelParts
  dsimp only
  split
  · exact h
  · exact h.repin

theorem putKcur {v : Dword} (h : Keeps s0 s) : Keeps s0 (s.putKcur v) := by
  have hpos : ∀ u x, Keeps s0 u → Keeps s0 ((u.onPart x fun y => { y with
      kcur := BitVec.ofNat 64 (putBits (putBits y.kcur.toNat 32 24 (bits v.toNat 32 24)) 63 1 (bits v.toNat 63 1)) }).mod
        (fun c => c.note (crDest 0x13 x) ((u.myEng x).part u.me.place.engCtx).kcur.toNat u.cycle 3 false)) :=
    fun _ _ hu => hu.onPart.mod
  refine .ite (h.foldl hpos) (.same (.foldl (h.foldl hpos) fun u x hu => ?_) (by rfl))
  split
  · exact .ite hu.cancelParts hu
  · exact hu

theorem putFstat {v : Dword} (h : Keeps s0 s) : Keeps s0 (s.putFstat v) := h.foldl (fun _ _ hu => hu.same (by rfl))

theorem putSeed {v : Dword} (h : Keeps s0 s) : Keeps s0 (s.putSeed v) := h.foldl (fun _ _ hu => hu.same (by rfl))

theorem nextFault (h : Keeps s0 s) : Keeps s0 (s.nextFault) := (h.same (by rfl)).foldl (fun _ _ hu => hu.same (by rfl))

theorem dropRecvs {o : Nat} {m : Mask} (h : Keeps s0 s) : Keeps s0 (s.dropRecvs o m) := h.foldl (fun _ _ hu => hu.same (by rfl))

theorem abort {x : Dword} (h : Keeps s0 s) : Keeps s0 (s.abort x) := by
  have hops := h.foldl (l := s.opsHere) (f := fun t id => t.cancelParts id (BitVec.ofNat 16 x.toNat &&& s.was.active) false)
    fun _ _ hu => hu.cancelParts
  unfold State.abort
  extract_lets o m reason s1 s2 s3 s4
  have h2 : Keeps s0 s2 := Keeps.foldl (s := s1) hops fun _ _ hu => hu.onPart
  have h3 : Keeps s0 s3 := h2.dropRecvs.endItems.dropEngines
  have h4 : Keeps s0 s4 := h3.foldl fun _ _ hu => hu.modCtx
  exact .ite h4.endContext h4

theorem crWrite {n : Nat} {v : Dword} (h : Keeps s0 s) : Keeps s0 (s.crWrite n v) := by
  unfold State.crWrite
  split
  · exact .ite (h.same (by rfl)) h
  · exact h.same (by rfl)
  · exact h.same (by rfl)
  · exact h.putFstat
  · exact h.putSeed
  · exact h.putKcur
  · exact h.same (by rfl)
  · exact h.same (by rfl)
  · exact h.same (by rfl)
  · exact h.abort
  · exact h.nextFault
  · exact h

end Keeps

end Sys2Proof.Proofs
end

section
/-!
SUPPORT. The invariant of every step: operations and porch programs.
-/
namespace Sys2Proof.Proofs

open Machine Laws

namespace Keeps

variable {s0 s : State}

/-! ## Running as a context -/

theorem asCtx {cid : Nat} {f : State → State} (h : Keeps s0 s) (hf : ∀ u, Keeps s0 u → Keeps s0 (f u)) : Keeps s0 (s.asCtx cid f) :=
  (hf _ (h.same (t := { s with focus := cid, issue := {} }) (by rfl))).same (by rfl)

theorem modPorch {q : Nat} {f : Porch → Porch} (h : Keeps s0 s) : Keeps s0 (s.modPorch q f) := h.same (by rfl)

theorem asOp {o : Op} {f : State → State} (h : Keeps s0 s) (hf : ∀ u, Keeps s0 u → Keeps s0 (f u)) : Keeps s0 (s.asOp o f) :=
  h.asCtx fun _ hu => hf _ hu.setIssue

theorem leaveArray {o : Op} {e n : Nat} (h : Keeps s0 s) : Keeps s0 (s.leaveArray o e n) := .ite h (h.same (by rfl))

theorem dropCursors {cid e : Nat} (h : Keeps s0 s) : Keeps s0 (s.dropCursors cid e) := h.same (by rfl)

theorem tally {o : Op} {old : Part} {run : State × Part × Reach} {r : Ran} (h : Keeps s0 s) (hr : Keeps s0 run.1) :
    Keeps s0 (s.tally o old run r).state := by
  unfold State.tally
  split
  · split
    · exact hr.leaveArray.clearCursor
    · exact h
  · exact h
  · dsimp only
    split
    · split
      · exact h
      · split
        · exact h
        · exact (dropCursors hr).modEng.leaveArray
    · exact hr

theorem runParts {o : Op} (h : Keeps s0 s) : Keeps s0 (s.runParts o).state := by
  unfold State.runParts
  split
  · refine foldl_keeps (P := fun r : Ran => Keeps s0 r.state) (fun r x hr => ?_) _ _ h.scatterRun
    split
    · exact h.scatterRun.tally h.scatterRun
    · exact h.scatterRun
  · refine foldl_keeps (P := fun r : Ran => Keeps s0 r.state) (fun r p hr => ?_) _ _ h
    split
    · exact hr.tally hr.runPart
    · exact hr

/-! ## Running an operation's parts -/

theorem saveQueue {cid : Nat} (h : Keeps s0 s) : Keeps s0 (s.saveQueue cid) := by
  unfold State.saveQueue
  dsimp only
  split
  · exact h.foldl (fun _ _ hu => hu.putWords)
  · exact h

theorem runToStop {id : Nat} {o : Op} (h : Keeps s0 s) : Keeps s0 (s.runToStop id o) := by
  unfold State.runToStop
  refine .saveQueue (.withArea h fun _ ht => .asOp ht fun _ hu => ?_)
  exact .ite hu (.ite hu.runParts.repin hu.runParts.repin.modCtx)

theorem opStop {id : Nat} (h : Keeps s0 s) : Keeps s0 (s.opStop id) := by
  unfold State.opStop
  dsimp only
  split
  · exact h
  · exact .ite h (.ite h h.runToStop)

theorem saveTokens {cid : Nat} (h : Keeps s0 s) : Keeps s0 (s.saveTokens cid) := by
  unfold State.saveTokens
  dsimp only
  split
  · exact h.flatStoreRaw
  · exact h

theorem giveToken {n : Nat} {v : Dword} {cid : Nat} (h : Keeps s0 s) : Keeps s0 (s.giveToken n v cid) := .ite h (h.deliverS.same (by rfl)).saveTokens

theorem endOp {id : Nat} {o : Op} (h : Keeps s0 s) : Keeps s0 (s.endOp id o) :=
  (Keeps.ite (h.unpinAll.same (by rfl)) ((h.unpinAll.same (by rfl)).foldl (fun _ _ hu => hu.giveToken))).saveTokens.settleWaits

theorem runToEnd {id : Nat} {o : Op} (h : Keeps s0 s) : Keeps s0 (s.runToEnd id o) := by
  unfold State.runToEnd
  refine .withArea h fun _ ht => .asOp ht fun _ hu => ?_
  exact .ite hu hu.runParts.setOps

theorem opComplete {id : Nat} (h : Keeps s0 s) : Keeps s0 (s.opComplete id) := by
  unfold State.opComplete
  dsimp only
  split
  · exact h
  · split
    · exact h
    · split
      · exact .ite h h.runToEnd.endOp
      · exact h

theorem completeIf {id : Nat} {f : OpKind → Bool} (h : Keeps s0 s) : Keeps s0 (s.completeIf id f) := by
  unfold State.completeIf
  split
  · exact .ite h.opComplete h
  · exact h

/-! ## Rounds -/

theorem markTold {r : Round} (h : Keeps s0 s) : Keeps s0 (s.markTold r) := by
  unfold State.markTold
  split
  · exact h.same (by rfl)
  · exact h

theorem roundEntry {cid : Nat} (h : Keeps s0 s) : Keeps s0 (s.roundEntry cid) := by
  unfold State.roundEntry
  dsimp only
  split
  · exact h
  · split
    · exact h
    · exact .ite (h.same (by rfl)).markTold (h.same (by rfl)).markTold.enterTrap.setIssue

/-! ## Channel elements that land late -/

theorem landElement {r : Receive} {x : Option Acc} {older : List Receive} (h : Keeps s0 s) : Keeps s0 (s.landElement r x older) := by
  unfold State.landElement
  extract_lets i t u covered
  have ht : Keeps s0 t := h.setIssue
  refine .mod ?_
  unfold u
  split
  · exact ht.putElement
  · exact .ite ht ht.putElement

theorem elementLands {ch e : Nat} (h : Keeps s0 s) : Keeps s0 (s.elementLands ch e) := by
  unfold State.elementLands
  dsimp only
  split
  · exact h
  · split
    · exact .ite (h.modChannel.same (by rfl)) ((h.modChannel.same (by rfl)).withArea (fun _ hu => hu.asCtx (fun _ hu => hu.landElement)))
    · exact h

/-! ## Code fetch -/

theorem fetchSegment {cid w : Nat} (h : Keeps s0 s) : Keeps s0 (s.fetchSegment cid w) := by
  unfold State.fetchSegment
  dsimp only
  split
  · exact h
  · split
    · exact h.codeTouch.same (by rfl)
    · exact .ite (h.codeTouch.same (by rfl)).enterTrap.setIssue h.codeTouch

/-! ## KLD -/

theorem kld {psel : Nat} {va : Dword} {sD : BitVec 5} (h : Keeps s0 s) : Keeps s0 (s.kld psel va sD) := by
  unfold State.kld
  dsimp only
  split
  · exact (h.readsFlat.same (by rfl)).wS.wF
  · exact h.readsFlat.wS.wF
  · exact h.wS.wF

/-! ## Stops -/

theorem setOutbox {l : List Outgoing} (h : Keeps s0 s) : Keeps s0 { s with outbox := l } := h.same (by rfl)

theorem setPorch {q : Nat} {p : Porch} (h : Keeps s0 s) : Keeps s0 (s.setPorch q p) := h.same (by rfl)

theorem stopOne {q code : Nat} (h : Keeps s0 s) : Keeps s0 (s.stopOne q code) :=
  .ite h (.flatStoreRaw (.setPorch (.quitGroups (.ite h h.setOutbox))))

theorem stopPorch {q code : Nat} (h : Keeps s0 s) : Keeps s0 (s.stopPorch q code) := .ite (h.stopOne.foldl (fun _ _ hu => hu.stopOne)) h.stopOne

/-! ## KGO and KWT -/

theorem kgo {b r : Dword} (h : Keeps s0 s) : Keeps s0 (s.kgo b r) := by
  unfold State.kgo
  dsimp only
  split
  · exact h
  · split
    · exact h.readsFlat.wF
    · exact .ite h.wF ((Keeps.ite (h.readsFlat.same (by rfl)).stopPorch (.ite (h.readsFlat.same (by rfl)).stopPorch (h.readsFlat.same (by rfl)))).wF)

theorem kwt {rel : Bool} {b : Dword} {sD : BitVec 5} (h : Keeps s0 s) : Keeps s0 (s.kwt rel b sD) := by
  unfold State.kwt
  dsimp only
  split
  · exact h
  · exact .ite (h.wS.wF.same (by rfl)) h.wS.wF

/-! ## Issuing a Kubor word -/

theorem kuborTurn {q : Nat} {k : KHead} {data : Bool} {f : State → KStep} (h : Keeps s0 s)
    (hf : ∀ u t, Keeps s0 u → f u = .go t → Keeps s0 t) : Keeps s0 (s.kuborTurn q k data f) := by
  unfold State.kuborTurn
  refine .ite h.stopPorch (.ite h ?_)
  split
  · exact h
  · exact h.stopPorch
  next t heq =>
    refine modPorch (hf _ t (h.modPorch (q := q) (f := fun x => x.stampLate k)) ?_)
    split at heq
    · cases heq
    · exact heq

/-! ## Data words -/

theorem chunkWrite {p : Party} {al n va : Nat} {bs : List Byte} (h : Keeps s0 s) : Keeps s0 (s.chunkWrite p al n va bs) := by
  induction n generalizing s va bs with
  | zero => exact h
  | succ n ih =>
    unfold State.chunkWrite
    exact .ite h (ih h.flatStoreRaw)

theorem meet {q : Nat} (h : Keeps s0 s) : Keeps s0 (s.meet q) := .ite (h.same (by rfl)) (h.same (by rfl)).stopPorch

/-! ## Completion of data words -/

theorem kuborStore {p : Porch} {o : KOp} {r : KResult} (h : Keeps s0 s) : Keeps s0 (s.kuborStore p o r) := by
  unfold State.kuborStore
  dsimp only
  split
  · refine .chunkWrite ?_
    split
    · exact h.chunkWrite
    · exact h
  · split
    · exact h.chunkWrite
    · exact h

theorem moveData {q : Nat} {o : KOp} {inc : List Byte} (h : Keeps s0 s) : Keeps s0 (s.moveData q o inc) := by
  unfold State.moveData
  extract_lets p
  split
  · exact h
  next d _ =>
    refine .ite h.stopPorch (.ite h.stopPorch ?_)
    extract_lets n met t
    have hmet : Keeps s0 met := by
      unfold met
      split
      · exact h.readsFlat
      · exact h
    have ht : Keeps s0 t := hmet.kuborStore.count.modPorch
    split
    · exact ht.modPorch
    · exact ht.setOutbox.count.modPorch
    · exact ht.modPorch

theorem completeData {q : Nat} {o : KOp} {data : List Byte} (h : Keeps s0 s) : Keeps s0 (s.completeData q o data) := by
  unfold State.completeData
  dsimp only
  split
  · exact h
  · split
    · exact h.same (by rfl)
    · split
      · split
        · exact h.moveData
        · exact h
      · exact h.moveData

theorem dataWakes {p : Porch} {o : KOp} (h : Keeps s0 s) : Keeps s0 (s.dataWakes p o) := by
  unfold State.dataWakes
  refine .foldl (h.rouse) fun u x hu => ?_
  split
  · exact .ite hu.wakeDie hu
  · exact hu

theorem dataComplete {coll : Word} {n : Nat} {x : KArrival} (h : Keeps s0 s) : Keeps s0 (s.dataComplete coll n x) := by
  unfold State.dataComplete
  dsimp only
  split
  · exact h
  · split
    · exact h
    · split
      · exact h.rouse.stopPorch
      · split
        · exact .ite (h.rouse.same (by rfl)) h
        · exact (Keeps.ite (h.dataWakes.same (by rfl)) h).completeData

end Keeps

end Sys2Proof.Proofs
end

section
/-!
SUPPORT. The invariant of every step: walks, scheduling, launches.
-/
namespace Sys2Proof.Proofs

open Machine Laws

namespace Keeps

variable {s0 s : State}

/-! ## Walks -/

theorem walkReads {v : EccVictim} {p : Party} {x10 x11 : Dword} (h : Keeps s0 s) : Keeps s0 (s.walkReads v p x10 x11) := by
  unfold State.walkReads
  dsimp only
  split
  · exact h.foldl (fun _ _ hu => hu.reads)
  · exact h.foldl (fun _ _ hu => hu.reads)
  · split
    · exact h.readsFlat.readsFlat
    · exact h
  · split
    · exact h.reads.foldl (fun _ _ hu => hu.reads)
    · exact h
  · exact h

theorem walk {core : Nat} {x10 x11 x12 x13 : Dword} (h : Keeps s0 s) : Keeps s0 (s.walk core x10 x11 x12 x13) := by
  unfold State.walk
  dsimp only
  split
  · exact h.walkReads.keepPage.same (by rfl)
  · split
    · exact h.walkReads.same (by rfl)
    · exact h.walkReads.keepTile.same (by rfl)
  · split
    · exact h.walkReads.same (by rfl)
    · split
      · exact h.walkReads.keepKv.same (by rfl)
      · exact h.walkReads
      · exact h.walkReads.same (by rfl)
  · exact h.walkReads.keepPage.same (by rfl)
  · exact h.walkReads

/-! ## Invalidation -/

theorem invalidate {r : Nat} {k : OpKind} (h : Keeps s0 s) : Keeps s0 (s.invalidate r k) := by
  unfold State.invalidate
  split
  · exact h.same (by rfl)
  · exact h.same (by rfl)
  · exact h

/-! ## Frames of a pool -/

theorem zeroFill {key pa n : Nat} (h : Keeps s0 s) : Keeps s0 (s.zeroFill key pa n) := h.physWrite

theorem poolReads {v : EccVictim} {r : Nat} (h : Keeps s0 s) : Keeps s0 (s.poolReads v r) := by
  unfold State.poolReads
  split
  · exact h.reads
  · exact h

theorem takeFrame {r : Nat} {big : Bool} {x : State × Nat} (h : Keeps s0 s) (hx : s.takeFrame r big = some x) : Keeps s0 x.1 := by
  unfold State.takeFrame at hx
  split at hx
  · cases hx
  · extract_lets o n f at hx
    split at hx
    · cases hx
    · cases hx
      exact h.physWrite.countPages

theorem giveFrame {r f : Nat} (h : Keeps s0 s) : Keeps s0 (s.giveFrame r f) := by
  unfold State.giveFrame
  split
  · exact h
  · exact h.physWrite.physWrite.countPages

/-! ## PGMAP -/

theorem pgmap {va : Dword} {big zf : Bool} {perm : Nat} (h : Keeps s0 s) : Keeps s0 (s.pgmap va big zf perm).1 := by
  unfold State.pgmap
  refine .ite_fst h.poolReads ?_
  split
  · exact h.poolReads
  · exact h.poolReads
  · split
    · exact h.poolReads
    next t f ht =>
      have hf := h.poolReads.takeFrame ht
      exact .physWrite (.ite hf.zeroFill hf)

/-! ## KVSEQ -/

theorem kvseq {add : Bool} {q v : Dword} {sD : BitVec 5} (h : Keeps s0 s) : Keeps s0 (s.kvseq add q v sD) :=
  .ite h.reads.hbmWrite.wSheld h.reads.wSheld

/-! ## XPF -/

theorem xpf {w : Bool} {sE sR : BitVec 5} {layer : BitVec 8} (h : Keeps s0 s) : Keeps s0 (s.xpf w sE sR layer) := by
  unfold State.xpf
  dsimp only
  split
  · exact h.readsFlat
  · split
    · split
      · exact h.readsFlat.readsFlat.same (by rfl)
      · exact h.readsFlat.readsFlat
    · exact h.readsFlat.readsFlat.startFill

theorem xpfMiss {g : Gate} {w : Bool} {sE sR : BitVec 5} {layer : BitVec 8} (h : Keeps s0 s) : Keeps s0 (s.xpfMiss g w sE sR layer) := by
  unfold State.xpfMiss
  dsimp only
  split
  · exact h
  · split
    · exact .ite h (h.readsFlat.readsFlat.startFill.same (by rfl)).parkNow
    · exact h

/-! ## Places -/

theorem wakeGang {g : Nat} (h : Keeps s0 s) : Keeps s0 (s.wakeGang g) := .ite (h.wakeDie.same (by rfl)) h.wakeDie

/-! ## Launch -/

theorem putBin {d bn : Nat} {b : Option Bin} (h : Keeps s0 s) : Keeps s0 (s.putBin d bn b) := h.same (by rfl)

theorem newCtx {n cid : Nat} {c : Ctx} (h : Keeps s0 s) : Keeps s0 (({ s with nextCid := n } : State).setCtx cid c) := h.same (by rfl)

theorem launchBin {d bn : Nat} {b : Bin} {g k : Nat} (h : Keeps s0 s) : Keeps s0 (s.launchBin d bn b g k) := by
  unfold State.launchBin
  extract_lets p its late s1 s2 run cid c s3 s4 s5 s6
  have h2 : Keeps s0 s2 := h.putBin.foldl fun _ _ hu => hu.endItem
  clear_value s2
  split
  · split
    · exact h2.unpinBuf.binsTake
    · exact h2
  · have h4 : Keeps s0 s4 := h2.newCtx.foldl fun _ _ hu => hu.readsFlat.itemState
    have h5 : Keeps s0 s5 := h4.foldl fun _ _ hu => hu.modEng
    have h6 : Keeps s0 s6 := h5.wakeGang.seat
    exact .ite h6.modCtx h6

theorem stealInto {die v vb nb g k : Nat} {b : Bin} (h : Keeps s0 s) : Keeps s0 (s.stealInto die v vb nb g k b) := by
  unfold State.stealInto
  extract_lets take rest s1 x src s2 s3
  have h1 : Keeps s0 s1 := by
    refine .ite ?_ h.putBin
    split
    · exact h.putBin.unpinBuf.binsTake
    · exact h.putBin
  clear_value s1
  have h3 : Keeps s0 s3 := .binTakes (.setDie h1)
  split
  · exact h3.launchBin
  · exact h3

/-! ## Pre-emption -/

theorem preemptNow {cid : Nat} (h : Keeps s0 s) : Keeps s0 (s.preemptNow cid) := .ite (h.same (by rfl)) h.sidesArrive.parkNow

theorem placeAll {l : List Nat} {t : State} (h : Keeps s0 s) (ht : State.placeAll l s = some t) : Keeps s0 t := by
  induction l generalizing s with
  | nil =>
    cases ht
    exact h
  | cons c l ih =>
    unfold State.placeAll at ht
    split at ht
    · cases ht
    · split at ht
      · cases ht
      · exact ih h.wakeGang.placeAt ht

/-! ## The checks of a launch -/

/-- A region may be registered with an aligned control block. -/
theorem addRegion {r : Nat} {x : Region} (h : Keeps s0 s) (hx : x.cb % 256 = 0) : Keeps s0 (s.setRegion r x) := by
  refine h.of_regions rfl rfl rfl fun hr e he => ?_
  rcases mem_insert he with rfl | he
  · exact hx
  · exact hr e he

/-- A block that resolves gives a region with the block's address. -/
theorem resolveBlock_cb {chain : List Block} {n : Nat} {b : Block} {r : Region} (h : s.resolveBlock chain n b = .ok r) : r.cb = b.pa := by
  cases n with
  | zero => cases h
  | succ n =>
    unfold State.resolveBlock at h
    split at h
    · cases h
      rfl
    · split at h
      · split at h
        · cases h
        · split at h
          · cases h
          · cases h
            rfl
      · split at h
        · split at h
          · cases h
          · cases h
            rfl
        · cases h

/-- A launch reads aligned blocks only (R384). -/
theorem chainFrom_aligned {n pa : Nat} : ∀ b ∈ (s.chainFrom n pa).1, b.pa % 256 = 0 := by
  induction n generalizing pa with
  | zero => exact fun b hb => by cases hb
  | succ n ih =>
    intro b hb
    unfold State.chainFrom at hb
    by_cases hpa : pa % 256 = 0
    · rw [if_neg (not_not_intro hpa)] at hb
      have hat : (s.blockAt pa).pa % 256 = 0 := hpa
      split at hb
      · cases hb
      · dsimp only at hb
        split at hb
        · rw [List.mem_singleton.mp hb]
          exact hat
        · split at hb
          · rw [List.mem_singleton.mp hb]
            exact hat
          · rcases List.mem_cons.mp hb with rfl | hb
            · exact hat
            · exact ih b hb
    · rw [if_pos hpa] at hb
      cases hb

theorem registerAll {chain : List Block} (h : Keeps s0 s) (hc : ∀ b ∈ chain, b.pa % 256 = 0) : Keeps s0 (s.registerAll chain) := by
  unfold State.registerAll
  refine List.foldlRecOn chain _ h fun t ht b hb => ?_
  split
  next r _ hr =>
    refine ht.addRegion ?_
    rw [resolveBlock_cb hr]
    exact hc b hb
  · exact ht

theorem readsBlocks {chain : List Block} (h : Keeps s0 s) : Keeps s0 (s.readsBlocks chain) := h.foldl (fun _ _ hu => hu.reads)

theorem readsLaunch {chain : List Block} (h : Keeps s0 s) : Keeps s0 (s.readsLaunch chain) :=
  h.foldl (fun _ _ hu => (hu.foldl (fun _ _ hu => hu.readsFlat)).foldl (fun _ _ hu => hu.touch))

theorem setLaunched {b : Bool} (h : Keeps s0 s) : Keeps s0 { s with cellar := { s.cellar with launched := b } } := h.same (by rfl)

theorem setLaunching {l : Option LaunchWork} (h : Keeps s0 s) : Keeps s0 { s with launching := l } := h.same (by rfl)

theorem fileBlocks {chain : List Block} (h : Keeps s0 s) : Keeps s0 (s.fileBlocks chain) :=
  (h.setLaunched.foldl fun _ _ hu => hu.cbPut).setLaunching.fileOn.setBar

theorem endLaunch {count code : Nat} (h : Keeps s0 s) : Keeps s0 (s.endLaunch count code) := h.setBar.setLaunching

theorem launchAt {pa : Nat} (h : Keeps s0 s) : Keeps s0 (s.launchAt pa) := by
  unfold State.launchAt
  have hchain := chainFrom_aligned (s := s) (n := 4096) (pa := pa)
  generalize s.chainFrom 4096 pa = x at hchain
  obtain ⟨chain, bad⟩ := x
  exact .ite h.setLaunched.readsBlocks.endLaunch (h.registerAll hchain).readsBlocks.readsLaunch.fileBlocks

/-! ## Region control -/

theorem onRegion {r : Nat} {f : State → State} (h : Keeps s0 s) (hf : ∀ u, Keeps s0 u → Keeps s0 (f u)) : Keeps s0 (s.onRegion r f) :=
  .ite (hf _ h) h

theorem preemptAll {l : List Nat} (h : Keeps s0 s) : Keeps s0 (s.preemptAll l) := h.foldl (fun _ _ hu => hu.same (by rfl))

/-- A region's record may take the control block that it had in another kept state. -/
theorem setRegionAs {t : State} {r : Nat} {x : Region} (h : Keeps s0 s) (ht : Keeps s0 t) (hx : x.cb = (t.region r).cb) :
    Keeps s0 (s.setRegion r x) := by
  refine ⟨h.1, fun hb => (addRegion (s0 := s) (refl s) ?_).2 (h.2 hb)⟩
  rw [hx]
  exact region_aligned (ht.2 hb).1

theorem refreshRegion {r : Nat} (h : Keeps s0 s) : Keeps s0 (s.refreshRegion r) := by
  unfold State.refreshRegion
  exact .setRegionAs h.reads h (by rfl)

end Keeps

end Sys2Proof.Proofs
end

section
/-!
SUPPORT. The invariant of every step: the cellar, the host and the fleet.
-/
namespace Sys2Proof.Proofs

open Machine Laws

namespace Keeps

variable {s0 s : State}

/-- The cellar may change in all but the image of its checkpoint. -/
theorem onCellar {f : Cellar → Cellar} (h : Keeps s0 s) (hf : (f s.cellar).image = s.cellar.image) : Keeps s0 (s.onCellar f) :=
  h.same (by simp [stored, State.onCellar, hf])

theorem putReq {k : Nat} {r : TierReq} (h : Keeps s0 s) : Keeps s0 (s.putReq k r) := h.onCellar (by rfl)

theorem endReq {k : Nat} (h : Keeps s0 s) : Keeps s0 (s.endReq k) := h.onCellar (by rfl)

theorem ckStat {p c n : Nat} (h : Keeps s0 s) : Keeps s0 (s.ckStat p c n) := h.onCellar (by rfl)

theorem mapDies {f : Die → Die} (h : Keeps s0 s) : Keeps s0 (s.mapDies f) := h.same (by rfl)

theorem dropKvtb {leaf : Nat} (h : Keeps s0 s) : Keeps s0 (s.dropKvtb leaf) := h.mapDies

/-! ## Slots -/

theorem markSlot {slot : Nat} {used : Bool} (h : Keeps s0 s) : Keeps s0 (s.markSlot slot used) := h.physWrite

/-- The image of a checkpoint may go. -/
theorem onCellarForget {f : Cellar → Cellar} (h : Keeps s0 s) (hf : (f s.cellar).image = none ∨ (f s.cellar).image = s.cellar.image) :
    Keeps s0 (s.onCellar f) := by
  refine ⟨h.1, fun hb => ⟨(h.2 hb).1, fun i hi => ?_⟩⟩
  change (f s.cellar).image = some i at hi
  rcases hf with hf | hf
  · rw [hf] at hi
    cases hi
  · exact (h.2 hb).2 i (hf ▸ hi)

theorem putSlot {region slot frame size : Nat} (h : Keeps s0 s) : Keeps s0 (s.putSlot region slot frame size) := by
  refine h.readsHbm.onCellarForget ?_
  dsimp only
  split
  · exact .inl rfl
  · exact .inr rfl

theorem takeSlot {slot frame size : Nat} (h : Keeps s0 s) : Keeps s0 (s.takeSlot slot frame size) := by
  refine h.useLines.mendWords.of_canonical (fun hc => ⟨writeMem_wf _ _ _ hc.1, ?_⟩) (by rfl) (by rfl)
  exact foldl_keeps (P := fun t : Table (BitVec 512) => tableWf (fun _ => 0) t = true) (fun _ _ ht => tableWf_set ht) _ _ hc.2

/-! ## Leaf entries and tier words -/

theorem putLeaf {region leaf v : Nat} (h : Keeps s0 s) : Keeps s0 (s.putLeaf region leaf v) := h.physWrite

theorem tierWord {seq old new : Nat} {bad : Bool} (h : Keeps s0 s) : Keeps s0 (s.tierWord seq old new bad) := h.hbmWrite

theorem moveLeaf {seq region leaf v : Nat} {bad : Bool} (h : Keeps s0 s) : Keeps s0 (s.moveLeaf seq region leaf v bad) := h.putLeaf.tierWord

/-! ## The KV frame table -/

theorem putFrameEntries {r n : Nat} (h : Keeps s0 s) : Keeps s0 (s.putFrameEntries r n) := by
  unfold State.putFrameEntries
  split
  · exact h.physWrite
  · exact h

theorem addFrameEntry {r leaf frame : Nat} (h : Keeps s0 s) : Keeps s0 (s.addFrameEntry r leaf frame) := .ite h h.physWrite.putFrameEntries

theorem dropFrameEntry {r leaf : Nat} (h : Keeps s0 s) : Keeps s0 (s.dropFrameEntry r leaf) := by
  unfold State.dropFrameEntry
  dsimp only
  split
  · exact h
  · exact h.reads.reads.physWrite.putFrameEntries

/-! ## The ring -/

theorem putStatus {entry : Option Nat} {code mirror : Nat} (h : Keeps s0 s) : Keeps s0 (s.putStatus entry code mirror) := by
  unfold State.putStatus
  split
  · exact h.physWrite
  · exact h

theorem putHead (h : Keeps s0 s) : Keeps s0 (s.putHead) := h.physWrite

theorem finishReq {k : Nat} {r : TierReq} {code mirror : Nat} (h : Keeps s0 s) : Keeps s0 (s.finishReq k r code mirror) := h.putStatus.endReq

/-! ## Victims -/

theorem putHand {r n : Nat} (h : Keeps s0 s) : Keeps s0 (s.putHand r n) := by
  unfold State.putHand
  split
  · exact h.physWrite
  · exact h

theorem sweep {r : Nat} {only : Option Nat} {n : Nat} (h : Keeps s0 s) : Keeps s0 (s.sweep r only n).1 := by
  induction n generalizing s with
  | zero => exact h
  | succ n ih =>
    unfold State.sweep
    extract_lets m
    refine .ite_fst h ?_
    rename_i t
    have ht : Keeps s0 t := h.reads.reads.putHand
    clear_value t
    exact .ite_fst (ih ht) (.ite_fst (ih ht.physWrite) ht)

theorem startDemotion {k : Nat} {r : TierReq} {slot : Nat} {mirror : Option Nat} (h : Keeps s0 s) : Keeps s0 (s.startDemotion k r slot mirror) := by
  have hu {l : Nat} : Keeps s0 (((s.dropKvtb r.leaf).moveLeaf r.seq r.region r.leaf l false).markSlot slot true) := h.dropKvtb.moveLeaf.markSlot
  refine .putReq ?_
  split
  · exact hu.markSlot
  · exact hu

theorem demoteVictim {r : Nat} (h : Keeps s0 s) : Keeps s0 (s.demoteVictim r) := by
  unfold State.demoteVictim
  refine .ite h ?_
  split
  · exact h
  · split
    next t owner leaf heq =>
      have ht : Keeps s0 t := by
        have hs := h.sweep (r := r) (only := s.spent r) (n := 2 * s.frameEntries r)
        rwa [heq] at hs
      split
      · exact ht.startDemotion
      · exact ht
    next t heq =>
      have hs := h.sweep (r := r) (only := s.spent r) (n := 2 * s.frameEntries r)
      rwa [heq] at hs

/-! ## Tier requests -/

theorem noFrame {k : Nat} {r : TierReq} (h : Keeps s0 s) : Keeps s0 (s.noFrame k r) := .ite h.finishReq (.ite h.putReq h.demoteVictim.putReq)

theorem becomeResident {r : TierReq} {frame : Nat} {bad : Bool} (h : Keeps s0 s) : Keeps s0 (s.becomeResident r frame bad) := h.moveLeaf.addFrameEntry

theorem promoteAct {k : Nat} {r : TierReq} {l : Nat} (h : Keeps s0 s) : Keeps s0 (s.promoteAct k r l) := by
  unfold State.promoteAct
  split
  · exact h.putReq
  · split
    next ht => exact (h.takeFrame ht).zeroFill.becomeResident.finishReq
    next => exact h.noFrame
  · refine .ite h.finishReq ?_
    split
    next ht => exact (h.takeFrame ht).moveLeaf.putStatus.putReq
    next => exact h.noFrame
  · exact h.finishReq

theorem demoteAct {k : Nat} {r : TierReq} {l : Nat} (h : Keeps s0 s) : Keeps s0 (s.demoteAct k r l) := by
  unfold State.demoteAct
  refine .ite h.finishReq (.ite h.finishReq (.ite h.putReq ?_))
  split
  · exact h.finishReq
  · refine .ite ?_ h.startDemotion
    split
    · exact h.startDemotion
    · exact h.finishReq

theorem replaceAct {k : Nat} {r : TierReq} {l : Nat} (h : Keeps s0 s) : Keeps s0 (s.replaceAct k r l) := by
  unfold State.replaceAct
  extract_lets fill
  have hfill {t : State} {f : Nat} (ht : Keeps s0 t) : Keeps s0 (fill t f) :=
    (Keeps.ite ht.markSlot ht).zeroFill.dropKvtb.becomeResident.finishReq
  split
  · exact h.putReq
  · split
    next ht => exact hfill (h.dropFrameEntry.giveFrame.takeFrame ht)
    next => exact h.noFrame
  · split
    next ht => exact hfill (h.takeFrame ht)
    next => exact h.noFrame

theorem refetchAct {k : Nat} {r : TierReq} {l : Nat} (h : Keeps s0 s) : Keeps s0 (s.refetchAct k r l) := by
  unfold State.refetchAct
  refine .ite h.finishReq (.ite h.putReq ?_)
  split
  next ht => exact (h.takeFrame ht).putReq
  next => exact h.noFrame

theorem tierAct {k : Nat} {r : TierReq} (h : Keeps s0 s) : Keeps s0 (s.tierAct k r) := by
  unfold State.tierAct
  dsimp only
  split
  · exact h.finishReq
  · split
    · exact h.finishReq
    · split
      · exact h.promoteAct
      · exact h.demoteAct
      · exact h.replaceAct
      · exact h.refetchAct

theorem entryReads {k : Nat} (h : Keeps s0 s) : Keeps s0 (s.entryReads k) := by
  unfold State.entryReads
  dsimp only
  split
  · exact h.reads
  · exact h.reads.reads.foldl (fun _ _ hu => hu.reads)

theorem requestReads {r : TierReq} (h : Keeps s0 s) : Keeps s0 (s.requestReads r) := h.reads.poolReads

theorem serve {k op : Nat} (h : Keeps s0 s) : Keeps s0 (s.serve k op) := by
  unfold State.serve
  dsimp only
  split
  · exact h
  · split
    · exact .ite h.requestReads.tierAct.putHead h
    · split
      · exact h
      · split
        · exact (h.entryReads.onCellar (by rfl)).requestReads.tierAct.putHead
        · exact (h.entryReads.onCellar (by rfl)).putStatus.putHead

/-! ## Storage commands -/

theorem readDone {k : Nat} {r : TierReq} {ok : Bool} (h : Keeps s0 s) : Keeps s0 (s.readDone k r ok) := by
  unfold State.readDone
  extract_lets l t good u v
  have ht : Keeps s0 t := .ite h.takeSlot.reads h
  have hu : Keeps s0 u := ht.dropKvtb
  have hv : Keeps s0 v := .ite hu.dropFrameEntry.giveFrame (.ite hu.markSlot hu)
  exact .ite (.ite ht.becomeResident.markSlot.endReq ht.giveFrame.moveLeaf.endReq) (.ite hv.becomeResident.finishReq ht.giveFrame.finishReq)

theorem demoted {k : Nat} {r : TierReq} (h : Keeps s0 s) : Keeps s0 (s.demoted k r) := h.reads.moveLeaf.dropFrameEntry.giveFrame.finishReq

theorem writeFailed {k : Nat} {r : TierReq} (h : Keeps s0 s) : Keeps s0 (s.writeFailed k r) := by
  unfold State.writeFailed
  dsimp only
  split
  · exact h.markSlot.same (by rfl)
  · refine .finishReq ?_
    refine .moveLeaf ?_
    split
    · exact h.markSlot
    · split
      · exact h.markSlot
      · exact h

theorem nvme {k : Nat} {ok : Bool} (h : Keeps s0 s) : Keeps s0 (s.nvme k ok) := by
  unfold State.nvme
  dsimp only
  split
  · exact h
  · split
    · exact h
    · split
      · exact h
      · split
        · exact (h.requestReads.onCellar (by rfl)).putReq
        · split
          · exact (h.requestReads.onCellar (by rfl)).readDone.putHead
          · split
            · exact (h.requestReads.onCellar (by rfl)).writeFailed.putHead
            · split
              · exact .ite (h.requestReads.onCellar (by rfl)).putSlot.putReq (h.requestReads.onCellar (by rfl)).putSlot.demoted.putHead
              · exact (h.requestReads.onCellar (by rfl)).putSlot.demoted.putHead

/-! ## The full-memory checkpoint -/

theorem holdRegion {r : Nat} (h : Keeps s0 s) : Keeps s0 (s.holdRegion r) := (h.setRegion (by rfl)).preemptAll

theorem storeSlots {a b : Nat} (h : Keeps s0 s) : Keeps s0 (s.storeSlots a b) := (h.foldl fun _ _ hu => hu.writeBack).onFleet.onCellar (by rfl)

theorem restore {i : Image} (h : Keeps s0 s) (hi : s.cellar.image = some i) : Keeps s0 (s.restore i) := by
  refine ⟨fun _ => ⟨?_, ?_⟩, fun hb => ⟨fun e he => ?_, (h.2 hb).2⟩⟩
  · exact foldl_keeps (P := fun t : Memory => Memory.wf t = true) (fun _ _ ht => tableWf_set ht) _ _ rfl
  · exact foldl_keeps (P := fun t : Table (BitVec 512) => tableWf (fun _ => 0) t = true) (fun _ _ ht => tableWf_set ht) _ _ rfl
  · obtain ⟨x, hx, rfl⟩ := List.mem_map.mp he
    exact (h.2 hb).2 i hi x hx

/-! ## The memory BAR -/

theorem touchHbm {off : Nat} (h : Keeps s0 s) : Keeps s0 (s.touchHbm off) := .ite (h.same (by rfl)).wakeDie (h.same (by rfl))

/-! ## Format windows -/

theorem dropView {w : Window} (h : Keeps s0 s) : Keeps s0 (s.dropView w) := h.foldl (fun _ _ hu => hu.dropLine)

/-! ## The debug block -/

theorem onSelected {f : State → Nat → State} (h : Keeps s0 s) (hf : ∀ u cid, Keeps s0 u → Keeps s0 (f u cid)) : Keeps s0 (s.onSelected f) := by
  unfold State.onSelected
  split
  · exact hf _ _ h
  · exact h

theorem debugCommand {f : State → Nat → State} (h : Keeps s0 s) (hf : ∀ u cid, Keeps s0 u → Keeps s0 (f u cid)) : Keeps s0 (s.debugCommand f) := by
  unfold State.debugCommand
  split
  · exact hf _ _ h.setBar
  · exact h.setBar

theorem debugHalt (h : Keeps s0 s) : Keeps s0 (s.debugHalt) := h.debugCommand (fun _ _ hu => .ite hu hu.modCtx.cause)

theorem debugRun (h : Keeps s0 s) : Keeps s0 (s.debugRun) := h.debugCommand (fun _ _ hu => hu.modCtx)

theorem setPlan {l : List Turn} (h : Keeps s0 s) : Keeps s0 { s with plan := l } := h.same (by rfl)

theorem stepThese {l : List Nat} {all : Bool} (h : Keeps s0 s) : Keeps s0 (s.stepThese l all) := (h.foldl (fun _ _ hu => hu.modCtx)).setPlan

theorem debugStep {all : Bool} (h : Keeps s0 s) : Keeps s0 (s.debugStep all) := h.debugCommand (fun _ _ hu => .ite hu.stepThese hu)

theorem debugEnable {on : Bool} (h : Keeps s0 s) : Keeps s0 (s.debugEnable on) := h.debugCommand (fun _ _ hu => hu.modCtx)

/-! ## Expert pools -/

theorem dropPool {d : Nat} (h : Keeps s0 s) : Keeps s0 (s.dropPool d) := (h.foldl (fun _ _ hu => .ite hu.putRes hu)).setDie

theorem closePool {d : Nat} (h : Keeps s0 s) : Keeps s0 (s.closePool d) := h.dropPool.setBar

theorem closeWindow {n : Nat} (h : Keeps s0 s) : Keeps s0 (s.closeWindow n) := h.setBar

theorem closeIdle (h : Keeps s0 s) : Keeps s0 (s.closeIdle) :=
  .ite h ((h.onFleet.foldl (fun _ _ hu => hu.closeWindow)).foldl (fun _ _ hu => hu.closePool))

/-! ## Power states -/

theorem loseGang {g : Nat} (h : Keeps s0 s) : Keeps s0 (s.loseGang g) := h.foldl (fun _ _ hu => hu.modEng)

theorem wakeDue (h : Keeps s0 s) : Keeps s0 (s.wakeDue) := h.foldl (fun _ _ hu => .ite hu.wakeDie hu)

theorem setLtol {v : Dword} (h : Keeps s0 s) : Keeps s0 (s.setLtol v) := mapDies (.ite h.setBar.rouse h.setBar)

/-! ## Counters and errors -/

theorem errorRecord {unit src kind die domain n : Nat} (h : Keeps s0 s) : Keeps s0 (s.errorRecord unit src kind die domain n) :=
  .ite h (.ite h.setBar (.ite h.physWrite.setBar.setOutbox h.physWrite.setBar))

/-! ## Retiring a gang -/

theorem setEng {g e : Nat} {x : Engine} (h : Keeps s0 s) : Keeps s0 (s.setEng g e x) := h.same (by rfl)

theorem setSeqs {l : Table Seq} (h : Keeps s0 s) : Keeps s0 { s with seqs := l } := h.same (by rfl)

theorem swapGang {g : Nat} (h : Keeps s0 s) : Keeps s0 (s.swapGang g) := .ite h (h.setDie.setSeqs.foldl (fun _ _ hu => hu.setEng))

theorem swapGangs (h : Keeps s0 s) : Keeps s0 (s.swapGangs) := h.foldl (fun _ _ hu => hu.foldl (fun _ _ hu => hu.swapGang))

theorem retireGang {g : Nat} (h : Keeps s0 s) : Keeps s0 (s.retireGang g) := .ite h h.setDie.preemptAll.errorRecord.swapGang

/-! ## Uncorrectable errors -/

theorem dropFiled {dom : Nat} (h : Keeps s0 s) : Keeps s0 (s.dropFiled dom) := by
  unfold State.dropFiled
  extract_lets out t stays u pinned
  have ht : Keeps s0 t := by
    refine h.foldl fun _ e hu => hu.foldl fun _ b hv => ?_
    split
    · exact .ite hv.unpinBuf hv
    · exact hv
  have hu : Keeps s0 u := ht.mapDies
  exact hu.setLaunching.foldl fun _ _ hv => hv.binsTake

theorem setFocus {n : Nat} (h : Keeps s0 s) : Keeps s0 { s with focus := n } := h.same (by rfl)

theorem abortWithin {o dom : Nat} (h : Keeps s0 s) : Keeps s0 (s.abortWithin o dom) := by
  unfold State.abortWithin
  extract_lets c hit m t0 t1 t2
  have h0 : Keeps s0 t0 := h.abortFinishing
  have h1 : Keeps s0 t1 := h0.setFocus.foldl fun _ _ hu => hu.cancelParts
  have h2 : Keeps s0 t2 := h1.setFocus.dropRecvs.endItems.dropEngines
  exact .ite h0.abortContext (.ite h0 (h2.foldl fun _ _ hu => .ite hu.seekOn hu))

theorem abortDomain {dom : Nat} (h : Keeps s0 s) : Keeps s0 (s.abortDomain dom) := by
  unfold State.abortDomain
  extract_lets porches s1 ctxs s2 items
  have h1 : Keeps s0 s1 := h.foldl fun _ _ hu => hu.stopPorch
  have h2 : Keeps s0 s2 := h1.foldl fun _ _ hu => .ite hu.abortWithin hu
  refine h2.dropFiled.foldl fun u x hu => ?_
  split
  · exact hu.endItem
  · exact hu

theorem eccRecord {x : ErrorAt} {domain : Nat} (h : Keeps s0 s) : Keeps s0 (s.eccRecord x domain) := h.errorRecord

theorem eccRegion {x : ErrorAt} {region : Nat} (h : Keeps s0 s) : Keeps s0 (s.eccRegion x region) := h.abortDomain.eccRecord

theorem setGroup {gid : Nat} {g : Group} (h : Keeps s0 s) : Keeps s0 (s.setGroup gid g) := h.same (by rfl)

theorem setChannels {l : Table Channel} (h : Keeps s0 s) : Keeps s0 { s with channels := l } := h.same (by rfl)

theorem uncorrectable {v : EccVictim} {x : ErrorAt} (h : Keeps s0 s) : Keeps s0 (s.uncorrectable v x) := by
  unfold State.uncorrectable
  split
  · exact .ite h.eccRegion h
  · exact .ite h.eccRegion.retireGang h
  · exact .ite h.stopPorch.eccRegion h
  · exact .ite h.eccRegion h.eccRecord
  · exact h.setOutbox.eccRecord
  · exact .ite h (.ite h.eccRegion h.eccRegion.setGroup)
  · split
    · exact h.eccRegion.setChannels
    · exact h
  · exact .ite h.eccRegion.stopPorch.setPorch h
  · exact h.setBar.cause.eccRecord
  · exact h.eccRecord
  · exact .ite h.onFleet.eccRecord h

theorem raiseMet (h : Keeps s0 s) : Keeps s0 (s.raiseMet) := .ite h (h.onFleet.foldl (fun _ _ hu => hu.uncorrectable))

/-! ## Boot, attestation and keys -/

theorem bootCheck {image : Option (List Host.Cell)} (h : Keeps s0 s) : Keeps s0 (s.bootCheck image) :=
  .ite h.setBar (h.setBar.onFleet.foldl (fun _ _ hu => hu.setDie))

/-! ## Memory operations from other packages -/

theorem linkAnswer {l : List Byte} (h : Keeps s0 s) : Keeps s0 (s.linkAnswer l) := h.setOutbox.count

theorem linkUpdate {pa n : Nat} {f : Nat → Nat} (h : Keeps s0 s) : Keeps s0 (s.linkUpdate pa n f) := h.reads.physWrite.linkAnswer

theorem linkWakes {op : LinkOp} (h : Keeps s0 s) : Keeps s0 (s.linkWakes op) := by
  have hat {c : Prop} {inst : Decidable c} {d n : Nat} : Keeps s0 ((if c then s.wakeDie d else s.rouse).count none 3 n) := .count
    (.ite h.wakeDie h.rouse)
  cases op with
  | read pa n => exact hat
  | write pa bs => exact hat
  | atomic pa dw f v => exact hat
  | cas pa dw a b => exact hat

/-! ## Writes -/

theorem packageReset (h : Keeps s0 s) : Keeps s0 (s.packageReset) :=
  ⟨fun _ => (⟨rfl, rfl⟩ : Memory.wf [] = true ∧ tableWf (fun _ => (0 : BitVec 512)) [] = true), fun hb =>
    ⟨fun _ he => absurd he List.not_mem_nil, (h.2 hb).2⟩⟩

theorem debugControl {v : Dword} (h : Keeps s0 s) : Keeps s0 (s.debugControl v) := by
  unfold State.debugControl
  have hon {k : Nat} {f : State → State} {t : State} (hf : Keeps s0 (f t)) (ht : Keeps s0 t) : Keeps s0 (if v.getLsbD k then f t else t) := .ite hf ht
  have h0 := hon (k := 0) h.debugHalt h
  have h1 := hon (k := 1) h0.debugRun h0
  have h2 := hon (k := 2) (f := fun t => t.debugStep false) h1.debugStep h1
  have h3 := hon (k := 3) (f := fun t => t.debugStep true) h2.debugStep h2
  have h4 := hon (k := 4) (f := fun t => t.debugEnable true) h3.debugEnable h3
  exact hon (k := 5) (f := fun t => t.debugEnable false) h4.debugEnable h4

end Keeps

end Sys2Proof.Proofs
end

section
/-!
SUPPORT. The invariant of every step: what a word does where it acts, holds or traps.
-/
namespace Sys2Proof.Proofs

open Machine Laws

/-! ## Answers -/

/-- Whatever state an answer gives, what is kept from s0 is kept there. -/
def After (s0 : State) (a : Answer) : Prop := ∀ t, a = .next t → Keeps s0 t

namespace Keeps

variable {s0 s : State}

theorem after (h : Keeps s0 s) : After s0 (.next s) := by
  rintro t ⟨⟩
  exact h

theorem afterIte {c : Prop} {inst : Decidable c} {a b : Answer} (ha : After s0 a) (hb : After s0 b) : After s0 (if c then a else b) := by
  split
  · exact ha
  · exact hb

/-- A word changes nothing that is kept where its effect does not: a word that holds or traps changes its context alone. -/
theorem runWord {i : Instr} {w : Needs} {eff : State → State} (h : Keeps s0 s) (he : Keeps s0 (eff s)) : After s0 (runWord i w eff s) := by
  intro t ht
  unfold Machine.runWord at ht
  split at ht
  · cases ht
  · split at ht
    · cases ht
      exact .ite he h
    · split at ht
      · cases ht
        exact h.enterTrap
      · split at ht
        · cases ht
          exact .ite he h
        · cases ht
          exact h.setIssue
        · cases ht
          exact h.enterTrap

section Shapes

variable {i : Instr} {cls : Nat} {g : Gate} {check holds : State → Verdict} {eff : State → State}

theorem runFlag {uses : List Dest} (h : Keeps s0 s) (he : Keeps s0 (eff s)) : After s0 (runFlag i cls g uses check eff s) := h.runWord he

theorem runEng {uses : State → List Dest} (h : Keeps s0 s) (he : Keeps s0 (eff s)) : After s0 (runEng i cls g uses check eff s) := h.runWord he

theorem runUnit {uses : State → List Dest} (h : Keeps s0 s) (he : Keeps s0 (eff s)) : After s0 (runUnit i cls g uses holds check eff s) :=
  h.runWord he

theorem runPop {uses : State → List Dest} (h : Keeps s0 s) (he : Keeps s0 (eff s)) : After s0 (runPop i cls uses check eff s) := h.runWord he

theorem runSeqM {uses : List Dest} (h : Keeps s0 s) (he : Keeps s0 (eff s)) : After s0 (runSeqM i g uses check eff s) := h.runWord he

theorem engineM {reads writes : List Nat} {uses : List Dest} (h : Keeps s0 s) (he : Keeps s0 (eff s)) :
    After s0 (engineM i reads writes uses check eff s) := h.runPop he.popAll

theorem ctl {uses : List Dest} (h : Keeps s0 s) (he : Keeps s0 (eff s)) : After s0 (ctl i g uses check eff s) := h.runFlag he

theorem scalarWord {uses : List (BitVec 5)} {sd : BitVec 5} {L : Nat} {f : State → Dword} (h : Keeps s0 s) :
    After s0 (scalarWord i g uses sd L f s) := h.runFlag h.wS

theorem threeReg {sa sb sd : BitVec 5} {lit : Option Dword} {L : Nat} {f : Dword → Dword → Dword} (h : Keeps s0 s) :
    After s0 (threeReg i g sa sb sd lit L f s) := h.scalarWord

theorem crWord {n : Nat} {v : Dword} (h : Keeps s0 s) : After s0 (crWord i n v s) := h.runWord h.crWrite

theorem otagWord {uses : List Dest} {q : Bool} {o : BitVec 5} (h : Keeps s0 s) (he : Keeps s0 (eff s)) :
    After s0 (otagWord i g uses q o eff s) := h.runUnit he

theorem exchangeWord {reads : List Nat} {vd : BitVec 6} {sD : BitVec 5} (h : Keeps s0 s) (he : Keeps s0 (eff s)) :
    After s0 (exchangeWord i g reads vd sD eff s) := h.runPop he.popAll

end Shapes

theorem sortWord {i : Instr} {g : Gate} {regs : List (BitVec 6)} {eff : State → State → Nat → State} (h : Keeps s0 s)
    (he : ∀ u e, Keeps s0 u → Keeps s0 (eff s u e)) : After s0 (sortWord i g regs eff s) := h.runEng (h.each he)

theorem predWord {i : Instr} {g : Gate} {reads : List Nat} {eff : State → State → Nat → State} (h : Keeps s0 s)
    (he : ∀ u e, Keeps s0 u → Keeps s0 (eff s u e)) : After s0 (predWord i g reads eff s) := h.runPop (h.each he).popAll

theorem channelWord {i : Instr} {g : Gate} {ch : BitVec 10} {send dst : Bool} {o : BitVec 6} {more : State → Channel → Verdict}
    {eff : State → Channel → State} (h : Keeps s0 s) (he : ∀ c, Keeps s0 (eff s c)) : After s0 (channelWord i g ch send dst o more eff s) := by
  refine h.runWord ?_
  split
  · exact (he _).popAll
  · exact h.popAll

theorem of_fst {β : Type} {x : State × β} {u : State} {b : β} (he : x = (u, b)) (hx : Keeps s0 x.1) : Keeps s0 u := by
  subst he
  exact hx

theorem of_snd {β : Type} {x : β × State} {u : State} {b : β} (he : x = (b, u)) (hx : Keeps s0 x.2) : Keeps s0 u := by
  subst he
  exact hx

/-! ## Vector words -/

theorem putStream {e : Nat} {r : RStream} (h : Keeps s0 s) : Keeps s0 (s.putStream e r) := h.drawn.raise

theorem putKeys {e : Nat} {n : BitVec 6} {m : LaneMask} {f : Nat → Nat} (h : Keeps s0 s) : Keeps s0 (s.putKeys e n m f) := h.putVec

theorem exchange {t : State} {e : Nat} {a b : BitVec 6} {m : LaneMask} (h : Keeps s0 s) : Keeps s0 (s.exchange t e a b m) := h.putKeys.putKeys

theorem vecEff {g : Gate} {f : VFields} {reads : List Nat} {L : Nat} {fn : State → Nat → LaneMask → RStream → List Nat × RStream}
    (h : Keeps s0 s) : Keeps s0 (s.vecEff g f reads L fn) := (h.each fun _ _ hu => hu.putVec.putStream).popAll

theorem wV {e n : Nat} {v : Vec} {L : Nat} (h : Keeps s0 s) : Keeps s0 (s.wV e n v L) := h.same (by rfl)

theorem wVlanes {e n : Nat} {v : Vec} {L m : Nat} (h : Keeps s0 s) : Keeps s0 (s.wVlanes e n v L m) := h.same (by rfl)

theorem putMask {e : Nat} {f : VFields} {m new : LaneMask} {L : Nat} (h : Keeps s0 s) : Keeps s0 (s.putMask e f m new L) := h.wQ

theorem putVecBytes {e code addr : Nat} {out : List (Nat × Byte)} {L : Nat} (h : Keeps s0 s) : Keeps s0 (s.putVecBytes e code addr out L) :=
  .ite h.wVlanes (h.foldl fun _ _ hu => hu.localWrite)

section Vectors

variable {i : Instr} {g : Gate} {f : VFields} {reads : List Nat} {L n : Nat} {lit : Option Dword} {check : State → Verdict}

theorem vecWord {fn : State → Nat → LaneMask → RStream → List Nat × RStream} (h : Keeps s0 s) :
    After s0 (vecWord i g f reads L check fn s) := h.runPop h.vecEff

theorem transWord {fn : Machine.Num → NumF} (h : Keeps s0 s) : After s0 (transWord i g f lit fn s) := h.runPop h.vecEff.mod

theorem floatBinary {fn : Machine.Num → Machine.Num → NumF} (h : Keeps s0 s) : After s0 (floatBinary i g f lit fn s) := h.vecWord

theorem plainWord {fn : State → Nat → Vec → Vec → Nat → Nat} (h : Keeps s0 s) : After s0 (plainWord i g f n lit L fn s) := h.vecWord

theorem maxMinWord {isMax : Bool} (h : Keeps s0 s) : After s0 (maxMinWord i g f lit isMax s) := h.vecWord

end Vectors

end Keeps

end Sys2Proof.Proofs
end

section
/-!
SUPPORT. The invariant of every step: the words of the gangs whose effect takes more than one change.
-/
namespace Sys2Proof.Proofs

open Machine Laws

namespace Keeps

variable {s0 s : State}

/-! ## Changes of a context or an engine alone -/

theorem brp {p : BitVec 3} {neg : Bool} {t : Nat} (h : Keeps s0 s) : Keeps s0 (s.brp p neg t) := h.same (by rfl)

theorem jinit {j : BitVec 2} {m : Dword} (h : Keeps s0 s) : Keeps s0 (s.jinit j m) := h.same (by rfl)

theorem wH {n : BitVec 3} {v : Word} (h : Keeps s0 s) : Keeps s0 (s.wH n v) := h.same (by rfl)

theorem wO {e n : Nat} {o : OSlot} {L : Nat} (h : Keeps s0 s) : Keeps s0 (s.wO e n o L) := h.same (by rfl)

theorem wTags {e n : Nat} {f : OSlot → OSlot} {fmt : Bool} {L : Nat} (h : Keeps s0 s) : Keeps s0 (s.wTags e n f fmt L) := h.same (by rfl)

theorem loadPort {k : BitVec 2} {p : PortSet} (h : Keeps s0 s) : Keeps s0 (s.loadPort k p) := h.same (by rfl)

theorem putSides {e : Nat} {side : BitVec 2} {row col : BitVec 512} (h : Keeps s0 s) : Keeps s0 (s.putSides e side row col) := h.same (by rfl)

theorem wZ {e : Nat} {n : BitVec 3} {v : Dword} {L : Nat} (h : Keeps s0 s) : Keeps s0 (s.wZ e n v L) := h.same (by rfl)

theorem setNextOp {n : Nat} (h : Keeps s0 s) : Keeps s0 { s with nextOp := n } := h.same (by rfl)

/-! ## Words of control, groups and exchange -/

theorem execGnew {g : Gate} {sA sN : BitVec 5} {hD : BitVec 3} (h : Keeps s0 s) : After s0 (Machine.execGnew g sA sN hD s) :=
  h.ctl (h.putJoin fun _ hr => h.createGroup hr)

theorem execGjoin {g : Gate} {sN : BitVec 5} {hD : BitVec 3} (h : Keeps s0 s) : After s0 (Machine.execGjoin g sN hD s) :=
  h.ctl (h.putJoin fun _ hr => h.joinGroup hr)

theorem execGleave {g : Gate} {cnt : Bool} {n : BitVec 3} (h : Keeps s0 s) : After s0 (Machine.execGleave g cnt n s) :=
  h.ctl (h.onMember fun _ _ _ hu => hu.modCtx.issueArrival.wH)

theorem meetWord {i : Instr} {g : Gate} {uses : List Dest} {x : State → Meeting} (h : Keeps s0 s) : After s0 (meetWord i g uses x s) := by
  intro t ht
  unfold Machine.meetWord at ht
  split at ht
  next u hu =>
    have hk := h.ctl h.takeMet u hu
    cases ht
    exact .ite hk.arriveHeld hk
  next hn => exact (hn t ht).elim

theorem execSpawn {g : Gate} {sA : BitVec 5} (h : Keeps s0 s) : After s0 (Machine.execSpawn g sA s) := by
  intro t ht
  unfold Machine.execSpawn at ht
  split at ht
  next u hu =>
    have hk := h.ctl h.spawn u hu
    cases ht
    exact .ite hk.queueSpawn hk
  next hn => exact (hn t ht).elim

theorem execRegrp {g : Gate} {n : BitVec 3} (h : Keeps s0 s) : After s0 (Machine.execRegrp g n s) := by
  intro t ht
  unfold Machine.execRegrp at ht
  split at ht
  next u hu =>
    have hk := h.ctl h.regrpWord u hu
    cases ht
    exact .ite hk.regrpMark hk
  next hn => exact (hn t ht).elim

theorem execXvot {g : Gate} {vd : BitVec 6} {sD : BitVec 5} {pn : Bool} {ps : BitVec 3} (h : Keeps s0 s) :
    After s0 (Machine.execXvot g vd sD pn ps s) :=
  h.exchangeWord (.ite h.giveAll.wS h.giveAll)

theorem execXpick {g : Gate} {f : PickFields} (h : Keeps s0 s) : After s0 (Machine.execXpick g f s) := h.exchangeWord (.ite h.giveAll.wS h.giveAll)

/-! ## Words of memory -/

theorem execLda {g : Gate} {f : StrongFields} {lit : Option Dword} (h : Keeps s0 s) : After s0 (Machine.execLda g f lit s) :=
  .afterIte (h.engineM (h.each fun _ _ hu => .putHeld (.ite hu hu.vecTouch))) (h.runSeqM h.loadS)

theorem strongVec {i : Instr} {g : Gate} {f : StrongFields} {lit : Option Dword} {strong : Bool} (h : Keeps s0 s) :
    After s0 (strongVec i g f lit strong s) := h.engineM (h.each fun _ _ hu => hu.vecStore)

theorem strongScalar {i : Instr} {g : Gate} {f : StrongFields} {lit : Option Dword} {strong : Bool} (h : Keeps s0 s) :
    After s0 (strongScalar i g f lit strong s) := h.runSeqM h.storeS

theorem execVld {g : Gate} {f : MemFields} {lit : Option Dword} (h : Keeps s0 s) : After s0 (Machine.execVld g f lit s) :=
  h.engineM (h.each fun _ _ hu => .putHeld (.ite hu hu.vecTouch))

theorem execVldg {g : Gate} {f : MemFields} {lit : Option Dword} (h : Keeps s0 s) : After s0 (Machine.execVldg g f lit s) :=
  h.engineM (h.each fun _ _ hu => (hu.foldl fun _ _ hw => hw.vecTouch).putHeld)

theorem execVstg {g : Gate} {f : MemFields} {lit : Option Dword} (h : Keeps s0 s) : After s0 (Machine.execVstg g f lit s) :=
  h.engineM (h.each fun _ _ hu => hu.foldl fun _ _ hw => hw.store4)

theorem execVldp {g : Gate} {f : MemFields} {lit : Option Dword} (h : Keeps s0 s) : After s0 (Machine.execVldp g f lit s) :=
  h.engineM (h.each fun _ _ hu => .ite hu.putVec.putVec hu.putVec)

theorem execVstp {g : Gate} {f : MemFields} {lit : Option Dword} (h : Keeps s0 s) : After s0 (Machine.execVstp g f lit s) :=
  h.engineM (h.each fun _ _ hu => hu.foldl fun _ _ hw => .ite hw.localWrite.localWrite hw.localWrite)

theorem execAtom {g : Gate} {f : AtomFields} {lit : Option Dword} (h : Keeps s0 s) : After s0 (Machine.execAtom g f lit s) := by
  refine h.runSeqM ?_
  extract_lets
  split
  next heq => exact (of_snd heq h.through.atomAt).wSheld

theorem execAtcas {g : Gate} {f : AtomFields} {lit : Option Dword} (h : Keeps s0 s) : After s0 (Machine.execAtcas g f lit s) := by
  refine h.runSeqM ?_
  extract_lets
  split
  next heq => exact (of_snd heq h.through.atomAt).wSheld

theorem execVatom {g : Gate} {f : MemFields} {lit : Option Dword} (h : Keeps s0 s) : After s0 (Machine.execVatom g f lit s) :=
  h.engineM (h.each fun _ _ hu => .ite hu.vatomThrough.vatomEng hu.vatomThrough.vatomEng.putHeld)

theorem execPfx {g : Gate} {sA : BitVec 5} {disp : BitVec 32} {lines : BitVec 16} {lit : Option Dword} (h : Keeps s0 s) :
    After s0 (Machine.execPfx g sA disp lines lit s) :=
  h.runSeqM (h.foldl fun _ _ hu => hu.onLine fun _ _ hw => hw.readsHbm)

theorem execPbinv {g : Gate} {sA : BitVec 5} (h : Keeps s0 s) : After s0 (Machine.execPbinv g sA s) := by
  refine h.runSeqM ?_
  dsimp only
  split
  · exact h.findHome
  · exact h.findHome.setDie

theorem execXpf {g : Gate} {w : Bool} {sE sR : BitVec 5} {layer : BitVec 8} (h : Keeps s0 s) : After s0 (Machine.execXpf g w sE sR layer s) := by
  intro t ht
  unfold Machine.execXpf at ht
  split at ht
  next u hu =>
    have hk := h.runSeqM h.xpf u hu
    cases ht
    exact .ite hk.xpfMiss hk
  next hn => exact (hn t ht).elim

/-! ## Words of the tensor units -/

theorem execOclm {g : Gate} {n : BitVec 3} {o : BitVec 5} (h : Keeps s0 s) : After s0 (Machine.execOclm g n o s) :=
  h.runUnit (h.each fun _ _ hu => hu.foldl fun _ _ hw => hw.wO)

theorem execOrel {g : Gate} {n : BitVec 3} {o : BitVec 5} (h : Keeps s0 s) : After s0 (Machine.execOrel g n o s) :=
  h.runUnit (h.each fun _ _ hu => hu.foldl fun _ _ hw => hw.wTags)

theorem execOld {g : Gate} {o sA sS : BitVec 5} {tr : Bool} {fmt : BitVec 4} {pitch : BitVec 16} (h : Keeps s0 s) :
    After s0 (Machine.execOld g o sA sS tr fmt pitch s) :=
  h.runUnit (h.each fun _ _ hu => hu.wO)

theorem execOtagLiteral {g : Gate} {q setf : Bool} {fmt : BitVec 4} {o : BitVec 5} {lit : Dword} (h : Keeps s0 s) :
    After s0 (Machine.execOtagLiteral g q setf fmt o lit s) :=
  h.otagWord (.ite h.otagQ h.otag)

theorem execMma {g : Gate} {ad : BitVec 2} {oa ob : BitVec 5} {zs : BitVec 4} {za : Bool} (h : Keeps s0 s) :
    After s0 (Machine.execMma g ad oa ob zs za s) :=
  h.runUnit (h.each fun _ _ hu => hu.startTask)

theorem execMmsp {g : Gate} {ad : BitVec 2} {oa ob : BitVec 5} {zs : BitVec 4} {za : Bool} {om : BitVec 5} (h : Keeps s0 s) :
    After s0 (Machine.execMmsp g ad oa ob zs za om s) :=
  h.runUnit (h.each fun _ _ hu => hu.startTask)

theorem execAzro {g : Gate} {a : BitVec 2} (h : Keeps s0 s) : After s0 (Machine.execAzro g a s) := h.runUnit (h.each fun _ _ hu => hu.wAcc.wDrain)

theorem execAadd {g : Gate} {int : Bool} {zs : BitVec 4} {as_ ad : BitVec 2} (h : Keeps s0 s) : After s0 (Machine.execAadd g int zs as_ ad s) :=
  h.runUnit (h.each fun _ _ hu => hu.wAccIn.raise)

theorem execShp {g : Gate} {zd : BitVec 3} {vsrc : Bool} {va : BitVec 6} {sS : BitVec 5} {wm : BitVec 3} {lit : Option Dword} (h : Keeps s0 s) :
    After s0 (Machine.execShp g zd vsrc va sS wm lit s) :=
  h.runPop (h.each fun _ _ hu => hu.wZ).popAll

theorem execScl {g : Gate} {va : BitVec 6} {side : BitVec 2} (h : Keeps s0 s) : After s0 (Machine.execScl g va side s) :=
  h.runPop (h.each fun _ _ hu => hu.putSides).popAll

theorem execKvmm {g : Gate} {ad : BitVec 2} {oq : BitVec 5} {vk : BitVec 6} {zs : BitVec 4} {za : Bool} (h : Keeps s0 s) :
    After s0 (Machine.execKvmm g ad oq vk zs za s) :=
  h.runUnit (h.each fun _ _ hu => hu.opStart).startOp

theorem execKvmv {g : Gate} {ad : BitVec 2} {oq : BitVec 5} {vk : BitVec 6} {zs : BitVec 4} {za : Bool} {dsel : BitVec 2} (h : Keeps s0 s) :
    After s0 (Machine.execKvmv g ad oq vk zs za dsel s) :=
  h.runUnit (h.each fun _ _ hu => hu.opStart).startOp

theorem execGmma {g : Gate} {ad : BitVec 2} {oa : BitVec 5} {vi : BitVec 6} {zs : BitVec 4} {za : Bool} {sT sC : BitVec 5} (h : Keeps s0 s) :
    After s0 (Machine.execGmma g ad oa vi zs za sT sC s) :=
  h.runUnit (h.each fun _ _ hu => hu.opStart).startOp

theorem execCpyl {g : Gate} {f : CpylFields} (h : Keeps s0 s) : After s0 (Machine.execCpyl g f s) := h.engineM (.ite h h.startOp)

/-! ## Vector words of other shapes -/

theorem execVqop {g : Gate} {f : VFields} {lit : Option Dword} (h : Keeps s0 s) : After s0 (Machine.execVqop g f lit s) :=
  h.predWord fun _ _ hu => .ite hu.wP hu.putMask

theorem execVcvt {g : Gate} {f : VFields} {lit : Option Dword} (h : Keeps s0 s) : After s0 (Machine.execVcvt g f lit s) := by
  refine afterIte (h.runPop ?_) (afterIte h.vecWord h.vecWord)
  exact (h.each fun _ _ hu => hu.putVecBytes.putStream).popAll

theorem execVpack {g : Gate} {f : VFields} {lit : Option Dword} (h : Keeps s0 s) : After s0 (Machine.execVpack g f lit s) :=
  h.runPop (h.each fun _ _ hu => .ite hu.wV hu.localWrite).popAll

theorem execVunpk {g : Gate} {f : VFields} {lit : Option Dword} (h : Keeps s0 s) : After s0 (Machine.execVunpk g f lit s) := by
  unfold Machine.execVunpk
  extract_lets w
  exact h.plainWord

theorem execVlane {g : Gate} {f : VFields} {lit : Option Dword} (h : Keeps s0 s) : After s0 (Machine.execVlane g f lit s) :=
  afterIte h.vecWord (afterIte (h.runPop (h.each fun _ _ hu => hu.putVec).popAll) h.vecWord)

end Keeps

end Sys2Proof.Proofs
end

section
/-!
SUPPORT. The invariant of every step: the words of porch programs.
-/
namespace Sys2Proof.Proofs

open Machine Laws

variable {s0 s : State}

/-- Whatever state a word of a program gives, what is kept from s0 is kept there. -/
def AfterTurn (s0 : State) (k : KStep) : Prop := ∀ t, k = .go t → Keeps s0 t

namespace AfterTurn

theorem hold : AfterTurn s0 .hold := fun _ ht => by cases ht

theorem stop {n : Nat} : AfterTurn s0 (.stop n) := fun _ ht => by cases ht

theorem ite {c : Prop} {inst : Decidable c} {a b : KStep} (ha : AfterTurn s0 a) (hb : AfterTurn s0 b) : AfterTurn s0 (if c then a else b) := by
  split
  · exact ha
  · exact hb

end AfterTurn

namespace Keeps

theorem go (h : Keeps s0 s) : AfterTurn s0 (.go s) := by
  rintro t ⟨⟩
  exact h

theorem runKubor {i : Instr} {k : KHead} {body : State → Nat → KStep} (h : Keeps s0 s) (hb : ∀ t q, Keeps s0 t → AfterTurn s0 (body t q)) :
    After s0 (runKubor i k body s) :=
  .afterIte (fun _ ht => by cases ht) (after (h.kuborTurn fun u t hu ht => AfterTurn.ite (hb u _ hu) .stop t ht))

theorem issueData {i : Instr} {d : KData} {q : Nat} (h : Keeps s0 s) : AfterTurn s0 (s.issueData i d q) := by
  unfold State.issueData
  extract_lets p a b inPeer self o p1 s1
  have h1 : Keeps s0 s1 := .ite h.setOutbox h
  exact .ite .hold (.ite .stop h1.setPorch.meet.go)

theorem kuborArrive {q : Nat} {wn : BitVec 4} {leave : Bool} (h : Keeps s0 s) : AfterTurn s0 (s.kuborArrive q wn leave) := by
  unfold State.kuborArrive
  extract_lets p
  split
  · exact .stop
  · exact .ite .hold h.enterArrival.modPorch.go

theorem kuborJoined {q : Nat} {wd : BitVec 4} {r : Option (State × Word)} (h : Keeps s0 s) (hr : ∀ x, r = some x → Keeps s0 x.1) :
    AfterTurn s0 (s.kuborJoined q wd r) := by
  unfold State.kuborJoined
  split
  · exact (hr _ rfl).modPorch.go
  · exact h.modPorch.go

theorem execSend {k : KHead} {d : KData} (h : Keeps s0 s) : After s0 (Machine.execSend k d s) := h.runKubor fun _ _ ht => ht.issueData

theorem execRecv {k : KHead} {d : KData} (h : Keeps s0 s) : After s0 (Machine.execRecv k d s) := h.runKubor fun _ _ ht => ht.issueData

theorem execRdc {k : KHead} {d : KData} (h : Keeps s0 s) : After s0 (Machine.execRdc k d s) := h.runKubor fun _ _ ht => ht.issueData

theorem execCopy {k : KHead} {d : KData} (h : Keeps s0 s) : After s0 (Machine.execCopy k d s) := h.runKubor fun _ _ ht => ht.issueData

theorem execWaitCnt {k : KHead} {cw : BitVec 3} {wv : BitVec 4} {imm : BitVec 32} (h : Keeps s0 s) : After s0 (Machine.execWaitCnt k cw wv imm s) :=
  h.runKubor fun _ _ ht => .ite ht.setPorch.go .hold

theorem execWaitGrp {k : KHead} {wv wh : BitVec 4} (h : Keeps s0 s) : After s0 (Machine.execWaitGrp k wv wh s) := by
  refine h.runKubor fun t q ht => ?_
  dsimp only
  split
  · exact .stop
  · split
    · exact ht.setPorch.go
    · exact .ite ht.setPorch.go .hold

theorem execWaitTs {k : KHead} (h : Keeps s0 s) : After s0 (Machine.execWaitTs k s) := h.runKubor fun _ _ ht => ht.modPorch.go

theorem execSigArv {k : KHead} {wn : BitVec 4} (h : Keeps s0 s) : After s0 (Machine.execSigArv k wn s) := h.runKubor fun _ _ ht => ht.kuborArrive

theorem execSigLeave {k : KHead} {wn : BitVec 4} (h : Keeps s0 s) : After s0 (Machine.execSigLeave k wn s) := h.runKubor fun _ _ ht => ht.kuborArrive

theorem execSigJoin {k : KHead} {wd wn : BitVec 4} (h : Keeps s0 s) : After s0 (Machine.execSigJoin k wd wn s) :=
  h.runKubor fun _ _ ht => ht.kuborJoined fun _ hx => ht.joinGroup hx

theorem execSigNew {k : KHead} {wd wn wa : BitVec 4} (h : Keeps s0 s) : After s0 (Machine.execSigNew k wd wn wa s) :=
  h.runKubor fun _ _ ht => .ite .stop (ht.kuborJoined fun _ hx => ht.createGroup hx)

theorem execSigStl {k : KHead} {wn wa : BitVec 4} {imm : Dword} (h : Keeps s0 s) : After s0 (Machine.execSigStl k wn wa imm s) :=
  h.runKubor fun _ _ ht => .ite .stop (.ite .stop (.ite .hold ht.flatStoreRaw.modPorch.go))

theorem execKuborLoop {k : KHead} {f : KLoopFields} (h : Keeps s0 s) : After s0 (Machine.execKuborLoop k f s) :=
  h.runKubor fun _ _ ht => .ite .stop (.ite ht.setPorch.go (.ite .stop ht.setPorch.go))

theorem execBrc {k : KHead} {wa wb : BitVec 4} {cond : BitVec 3} {off : BitVec 32} (h : Keeps s0 s) : After s0 (Machine.execBrc k wa wb cond off s) :=
  h.runKubor fun _ _ ht => .ite (.ite .stop ht.setPorch.go) ht.setPorch.go

theorem execKend {k : KHead} (h : Keeps s0 s) : After s0 (Machine.execKend k s) := h.runKubor fun _ _ ht => .ite ht.stopPorch.go .hold

theorem kuborWord {i : Instr} (h : Keeps s0 s) : After s0 (kuborWord i s) := by
  unfold Machine.kuborWord
  split
  · exact h.execSend
  · exact h.execRecv
  · exact h.execRdc
  · exact h.execCopy
  · exact h.execWaitCnt
  · exact h.execWaitGrp
  · exact h.execWaitTs
  · exact h.execSigArv
  · exact h.execSigJoin
  · exact h.execSigLeave
  · exact h.execSigNew
  · exact h.execSigStl
  · exact h.execKuborLoop
  · exact h.execBrc
  · exact h.execKend
  · exact h.after

theorem execReadyToReceive {coll : Word} {peer : Nat} {tag : BitVec 8} {size : KSize} {dest : Option Nat} (h : Keeps s0 s) :
    After s0 (Machine.execReadyToReceive coll peer tag size dest s) := by
  refine after ?_
  split
  · exact .ite h.rouse.modPorch.meet h.rouse
  · exact h.rouse

theorem execRendezvousTimeout {slot : Nat} (h : Keeps s0 s) : After s0 (Machine.execRendezvousTimeout slot s) := after (.ite h.stopPorch h)

theorem execPeerAbort {coll : Word} (h : Keeps s0 s) : After s0 (Machine.execPeerAbort coll s) := (h.rouse.foldl fun _ _ hu => hu.stopPorch).after

theorem setPorchFocus {q : Nat} (h : Keeps s0 s) : Keeps s0 { s with porchFocus := q } := h.same (by rfl)

theorem execTimedIssue {slot : Nat} (h : Keeps s0 s) : After s0 (Machine.execTimedIssue slot s) := by
  unfold Machine.execTimedIssue
  dsimp only
  split
  · split
    · exact afterIte h.setPorchFocus.kuborWord h.after
    · exact h.after
  · exact h.after

end Keeps

end Sys2Proof.Proofs
end

section
/-!
SUPPORT. The invariant of every step: events, the host and the fleet.
-/
namespace Sys2Proof.Proofs

open Machine Laws

namespace Keeps

variable {s0 s : State}

/-! ## Operations and code -/

theorem execAsyncRoundEntry {cid : Nat} (h : Keeps s0 s) : After s0 (Machine.execAsyncRoundEntry cid s) := after (.ite h.roundEntry h)

theorem execSegmentFetch {cid : Nat} {w : Dword} (h : Keeps s0 s) : After s0 (Machine.execSegmentFetch cid w s) := after (.ite h.fetchSegment h)

theorem execLoadDataReturn {cid n : Nat} (h : Keeps s0 s) : After s0 (Machine.execLoadDataReturn cid n s) := after (.ite h.modCtx h)

theorem execOldLoadComplete {eng : Nat} {slot : BitVec 5} (h : Keeps s0 s) : After s0 (Machine.execOldLoadComplete eng slot s) :=
  after (.ite h h.modEng)

theorem execTranslationWalk {core : Nat} {x10 x11 x12 x13 : Dword} (h : Keeps s0 s) : After s0 (Machine.execTranslationWalk core x10 x11 x12 x13 s) :=
  after (.ite h.walk h)

theorem forgetOwn {o : Op} (h : Keeps s0 s) : Keeps s0 (s.forgetOwn o) := h.same (by rfl)

theorem execInvalidationComplete {op : Nat} (h : Keeps s0 s) : After s0 (Machine.execInvalidationComplete op s) := by
  refine after ?_
  split
  · exact .ite h.invalidate.forgetOwn.opComplete h
  · exact h

/-! ## The scheduler -/

theorem execBinTimer {die bin : Nat} (h : Keeps s0 s) : After s0 (Machine.execBinTimer die bin s) := by
  refine after ?_
  split
  · exact .ite h.putBin h
  · exact h

theorem execStealAge {die bin : Nat} (h : Keeps s0 s) : After s0 (Machine.execStealAge die bin s) := by
  refine after ?_
  split
  · exact .ite h.putBin h
  · exact h

theorem execBinLaunch {die bin gang ctx : Nat} (h : Keeps s0 s) : After s0 (Machine.execBinLaunch die bin gang ctx s) := by
  refine after ?_
  split
  · split
    · exact .ite h.launchBin h
    · exact h
  · exact h

theorem execSteal {die : Nat} (h : Keeps s0 s) : After s0 (Machine.execSteal die s) := by
  refine after (.ite h ?_)
  split
  · split
    · exact .ite h.stealInto h
    · exact h
  · exact h

theorem execWaitingItemFile {die : Nat} (h : Keeps s0 s) : After s0 (Machine.execWaitingItemFile die s) := by
  refine after ?_
  split
  · exact h
  · dsimp only
    split
    · exact h
    · split
      · exact h
      · exact .ite h.setDie.putInBin.fileOn h.setDie.putInBin.modCtx

theorem setCtx {cid : Nat} {c : Ctx} (h : Keeps s0 s) : Keeps s0 (s.setCtx cid c) := h.same (by rfl)

theorem execCandidateAge {die n : Nat} (h : Keeps s0 s) : After s0 (Machine.execCandidateAge die n s) := by
  refine after (.ite ?_ ?_)
  · split
    · exact .ite h.putBin h
    · exact h
  · dsimp only
    split
    · split
      · exact .ite h.setCtx h
      · exact h
    · exact h

theorem execParkWake {cid : Nat} (h : Keeps s0 s) : After s0 (Machine.execParkWake cid s) := after (.ite h.setCtx h)

theorem execItemReady {cid : Nat} (h : Keeps s0 s) : After s0 (Machine.execItemReady cid s) :=
  after (.ite (h.foldl fun _ _ hu => hu.itemState).modCtx.coresUpdate h)

theorem execCwthrExpiry {cid : Nat} (h : Keeps s0 s) : After s0 (Machine.execCwthrExpiry cid s) := by
  refine after ?_
  split
  · exact .ite h.parkNow h
  · exact h

theorem execDeferredPark {cid : Nat} (h : Keeps s0 s) : After s0 (Machine.execDeferredPark cid s) := after (.ite h.parkNow h)

theorem execPreempt {cid : Nat} (h : Keeps s0 s) : After s0 (Machine.execPreempt cid s) := after (.ite (.ite h.preemptNow h.setCtx) h)

theorem execResume {cid gang ctx : Nat} (h : Keeps s0 s) : After s0 (Machine.execResume cid gang ctx s) := by
  refine after ?_
  split
  · exact .ite h.wakeGang.resumeAt h
  · exact h

theorem setGroups {l : Table Group} (h : Keeps s0 s) : Keeps s0 { s with groups := l } := h.same (by rfl)

theorem execCoresGroupResume {gid : Nat} (h : Keeps s0 s) : After s0 (Machine.execCoresGroupResume gid s) := by
  refine after (.ite ?_ h)
  dsimp only
  split
  next t ht =>
    obtain ⟨u, hu, rfl⟩ := Option.map_eq_some_iff.mp ht
    exact ((h.placeAll hu).foldl fun _ _ hv => hv.resumeCheck).setGroups
  · exact h

/-- Of the regions of another kept state, some may go. -/
theorem filterRegions {t : State} {p : Nat × Region → Bool} {l : Table Seq} (h : Keeps s0 s) (ht : Keeps s0 t) :
    Keeps s0 { t with regions := s.regions.filter p, seqs := l } :=
  ⟨ht.1, fun hb => ⟨fun e he => (h.2 hb).1 e (List.mem_of_mem_filter he), (ht.2 hb).2⟩⟩

theorem execRegionFree {region : Nat} (h : Keeps s0 s) : After s0 (Machine.execRegionFree region s) :=
  after (.ite (h.filterRegions (h.foldl fun _ _ hu => hu.cbPut)) h)

theorem execXpFillComplete {die buf : Nat} (h : Keeps s0 s) : After s0 (Machine.execXpFillComplete die buf s) := by
  refine after (.ite h ?_)
  split
  · exact h
  · exact ((h.reads.foldl fun _ _ hu => hu.physWrite).putRes.setDie).binsTake

/-! ## Boot and regions -/

theorem touchBar (h : Keeps s0 s) : Keeps s0 s.touchBar := h.same (by rfl)

theorem execLaunch {pa : Dword} (h : Keeps s0 s) : After s0 (Machine.execLaunch pa s) := after (.ite h.touchBar h.touchBar.launchAt)

theorem execLaunchComplete (h : Keeps s0 s) : After s0 (Machine.execLaunchComplete s) := by
  refine after ?_
  split
  · exact .ite h (.ite h.fileOn h.fileOn.endLaunch.cause)
  · exact h

theorem execRetire {region : BitVec 12} (h : Keeps s0 s) : After s0 (Machine.execRetire region s) :=
  (h.touchBar.onRegion fun _ hu => hu.setRegion (by rfl)).after

theorem execHold {region : BitVec 12} (h : Keeps s0 s) : After s0 (Machine.execHold region s) :=
  (h.touchBar.onRegion fun _ hu => (hu.setRegion (by rfl)).preemptAll).after

theorem execRelease {region : BitVec 12} (h : Keeps s0 s) : After s0 (Machine.execRelease region s) :=
  (h.touchBar.onRegion fun _ hu => hu.foldl fun _ _ hv => hv.setRegion (by rfl)).after

theorem execRefresh {region : BitVec 12} (h : Keeps s0 s) : After s0 (Machine.execRefresh region s) :=
  (h.touchBar.onRegion fun _ hu => hu.refreshRegion.foldl fun _ _ hv => hv.preemptAll).after

/-! ## The cellar -/

theorem execStart (h : Keeps s0 s) : After s0 (Machine.execStart s) :=
  after (.ite h.touchBar (.ite h.touchBar.ckStat (.ite h.touchBar.ckStat
    (.ite h.touchBar.ckStat (h.touchBar.ckStat.foldl fun _ _ hu => hu.holdRegion)))))

/-- A checkpoint takes the live regions into its image. -/
theorem saveImage (h : Keeps s0 s) : Keeps s0 (s.onCellar fun c => { c with image := some s.image }) := by
  refine ⟨h.1, fun hb => ⟨(h.2 hb).1, ?_⟩⟩
  rintro i ⟨⟩
  exact (h.2 hb).1

theorem execCheckpointTransfer (h : Keeps s0 s) : After s0 (Machine.execCheckpointTransfer s) :=
  after (.ite (.ite (h.foldl fun _ _ hu => hu.writeBack).ckStat h) (.ite h (.ite h.ckStat (.ite h.storeSlots.ckStat h.saveImage.ckStat))))

theorem execRestore (h : Keeps s0 s) : After s0 (Machine.execRestore s) := by
  refine after (.ite h.touchBar.ckStat (.ite h.touchBar.ckStat ?_))
  split
  next hi => exact (h.touchBar.restore hi).ckStat
  · exact h.touchBar.ckStat

/-! ## The host -/

theorem execMemoryBarRead {off : BitVec 40} {width : Nat} (h : Keeps s0 s) : After s0 (Machine.execMemoryBarRead off width s) :=
  after (.ite h.touchHbm.reads.setOutbox h.touchHbm.reads)

theorem execMemoryBarWrite {off : BitVec 40} {data : List Byte} (h : Keeps s0 s) : After s0 (Machine.execMemoryBarWrite off data s) :=
  h.touchHbm.hbmWrite.after

theorem putWindow {n : Nat} {v : Dword} {en : Bool} (h : Keeps s0 s) : Keeps s0 (s.putWindow n v en) := h.setBar

theorem execFwEnable {n : BitVec 4} {v : Dword} (h : Keeps s0 s) : After s0 (Machine.execFwEnable n v s) := h.touchBar.putWindow.after

theorem execFwDisable {n : BitVec 4} {v : Dword} (h : Keeps s0 s) : After s0 (Machine.execFwDisable n v s) := by
  refine (putWindow ?_).after
  split
  · exact h.touchBar.dropView
  · exact h.touchBar

theorem execHalt (h : Keeps s0 s) : After s0 (Machine.execHalt s) := h.touchBar.debugHalt.after

theorem execRun (h : Keeps s0 s) : After s0 (Machine.execRun s) := h.touchBar.debugRun.after

theorem execStep (h : Keeps s0 s) : After s0 (Machine.execStep s) := h.touchBar.debugStep.after

theorem execStepall (h : Keeps s0 s) : After s0 (Machine.execStepall s) := h.touchBar.debugStep.after

theorem execDebugEnableSet (h : Keeps s0 s) : After s0 (Machine.execDebugEnableSet s) := h.touchBar.debugEnable.after

theorem execDebugEnableClear (h : Keeps s0 s) : After s0 (Machine.execDebugEnableClear s) := h.touchBar.debugEnable.after

theorem execDbgdata {v : Dword} (h : Keeps s0 s) : After s0 (Machine.execDbgdata v s) :=
  (h.touchBar.onSelected fun _ _ hu => .ite hu.modCtx.modEng hu).after

theorem execLwin {n : BitVec 10} {v : Dword} (h : Keeps s0 s) : After s0 (Machine.execLwin n v s) :=
  after (.ite (.ite h.touchBar (.ite h.touchBar.onFleet h.touchBar.closeWindow)) h.touchBar.setBar)

theorem execXpctl {die : BitVec 2} {v : Dword} (h : Keeps s0 s) : After s0 (Machine.execXpctl die v s) :=
  after (.ite (.ite h.touchBar (.ite h.touchBar.onFleet h.touchBar.closePool)) h.touchBar.setBar)

theorem execStctl {v : Dword} (h : Keeps s0 s) : After s0 (Machine.execStctl v s) :=
  after (.ite h.touchBar.setBar (.ite (h.touchBar.setBar.onCellar (by rfl)) (h.touchBar.setBar.onCellar (by rfl))))

theorem execEnterGangIdle {gang : Nat} (h : Keeps s0 s) : After s0 (Machine.execEnterGangIdle gang s) := after (.ite h.loseGang.setDie h)

theorem execEnterDieRetention {die : Nat} (h : Keeps s0 s) : After s0 (Machine.execEnterDieRetention die s) :=
  after (.ite (h.foldl fun _ _ hu => hu.dropLine).setDie h)

theorem execEnterPackageStandby (h : Keeps s0 s) : After s0 (Machine.execEnterPackageStandby s) := after (.ite h.onFleet h)

theorem execWake {u : PowerUnit} (h : Keeps s0 s) : After s0 (Machine.execWake u s) := by
  refine after ?_
  split
  · exact .ite h.wakeGang h
  · exact .ite h.wakeDie h
  · exact h.rouse

theorem execCurrentGrant (h : Keeps s0 s) : After s0 (Machine.execCurrentGrant s) := (h.foldl fun _ _ hu => hu.setDie).onFleet.after

theorem setClock {d n : Nat} (h : Keeps s0 s) : Keeps s0 (s.setClock d n) := h.same (by rfl)

theorem execTtctl {die : BitVec 2} {v : Dword} (h : Keeps s0 s) : After s0 (Machine.execTtctl die v s) := h.touchBar.setBar.setClock.after

theorem execTdom {v : Dword} (h : Keeps s0 s) : After s0 (Machine.execTdom v s) := h.touchBar.setBar.after

theorem execTsnap {v : Dword} (h : Keeps s0 s) : After s0 (Machine.execTsnap v s) :=
  (h.touchBar.foldl fun _ _ hu => hu.foldl fun _ _ hv => hv.setBar).after

theorem execGret {v : Dword} (h : Keeps s0 s) : After s0 (Machine.execGret v s) := after (.ite h.touchBar.retireGang h.touchBar)

theorem execHbmChannelSpare {stack channel : Nat} (h : Keeps s0 s) : After s0 (Machine.execHbmChannelSpare stack channel s) :=
  after (.ite h h.count.onFleet.errorRecord)

theorem execLaneFailure {port : Nat} (h : Keeps s0 s) : After s0 (Machine.execLaneFailure port s) :=
  after (.ite h (.ite (h.onFleet.errorRecord.foldl fun _ _ hu => hu.stopPorch) h.onFleet.errorRecord))

theorem execFlitReplay {port : Nat} (h : Keeps s0 s) : After s0 (Machine.execFlitReplay port s) := after (.ite h.count h)

theorem execScrub (h : Keeps s0 s) : After s0 (Machine.execScrub s) := after (.ite h h.count.errorRecord)

theorem execBoot (h : Keeps s0 s) : After s0 (Machine.execBoot s) := after (.ite h.bootCheck h)

theorem execBootimg {v : Dword} (h : Keeps s0 s) : After s0 (Machine.execBootimg v s) := after (.ite h.touchBar.bootCheck h.touchBar)

theorem execAttreq {v : Dword} (h : Keeps s0 s) : After s0 (Machine.execAttreq v s) := h.touchBar.physWrite.setBar.after

theorem execKeyld {v : Dword} (h : Keeps s0 s) : After s0 (Machine.execKeyld v s) := by
  refine after (.ite h.touchBar.reads.setBar (.ite h.touchBar.reads.onFleet.setBar ?_))
  split
  · exact h.touchBar.reads.onFleet.setBar
  · exact h.touchBar.reads.setBar

theorem execLinkMemoryArrival {op : LinkOp} (h : Keeps s0 s) : After s0 (Machine.execLinkMemoryArrival op s) := by
  refine after ?_
  split
  · exact .ite h.linkWakes.reads.linkAnswer h.linkWakes
  · exact .ite h.linkWakes.physWrite h.linkWakes
  · exact .ite h.linkWakes.linkUpdate h.linkWakes
  · exact .ite h.linkWakes.linkUpdate h.linkWakes

theorem execRstctl {v : Dword} (h : Keeps s0 s) : After s0 (Machine.execRstctl v s) := after (.ite h.packageReset h.touchBar)

/-! ## Register writes -/

theorem storeBits {cap off lo w : Nat} {v : Dword} (h : Keeps s0 s) : Keeps s0 (s.storeBits cap off lo w v) := h.setBar

theorem regionControl {v : Dword} (h : Keeps s0 s) : After s0 (s.regionControl v) := by
  unfold State.regionControl
  dsimp only
  split
  · exact h.execRetire
  · exact h.execRefresh
  · exact h.execHold
  · exact h.execRelease
  · exact h.after

theorem writeWindow {off : Nat} {v : Dword} (h : Keeps s0 s) : After s0 (s.writeWindow off v) := by
  refine afterIte h.after (afterIte (afterIte h.execFwEnable h.execFwDisable) (afterIte h.after ?_))
  split
  · exact h.storeBits.after
  · exact h.setBar.after
  · exact h.storeBits.after
  · exact h.after

theorem writeTranslation {off : Nat} {v : Dword} (h : Keeps s0 s) : After s0 (s.writeTranslation off v) :=
  afterIte h.storeBits.after (afterIte (afterIte h.execXpctl (afterIte h.storeBits.after h.after)) (afterIte h.execLwin h.after))

theorem writeCellar {off : Nat} {v : Dword} (h : Keeps s0 s) : After s0 (s.writeCellar off v) := by
  refine afterIte h.execStctl (afterIte ?_ (afterIte h.after ?_))
  · split
    · exact h.execStart
    · exact h.execRestore
    · exact h.after
  · split
    · exact h.storeBits.after
    · exact h.storeBits.after
    · exact (h.storeBits.onCellar (by rfl)).after
    · exact afterIte h.storeBits.after h.after

theorem writeReg {cap off : Nat} {v : Dword} (h : Keeps s0 s) : After s0 (s.writeReg cap off v) := by
  unfold State.writeReg
  split
  · exact h.execRstctl
  · exact h.storeBits.after
  · exact h.storeBits.after
  · exact h.execLaunch
  · exact h.regionControl
  · exact h.setBar.after
  · exact h.storeBits.after
  · exact h.writeWindow
  · exact h.storeBits.after
  · exact h.debugControl.after
  · exact h.storeBits.after
  · exact h.execDbgdata
  · exact h.writeTranslation
  · exact h.writeCellar
  · exact h.setLtol.after
  · exact h.setBar.after
  · exact h.execTtctl
  · exact h.execTtctl
  · exact h.execTtctl
  · exact h.execTtctl
  · exact h.execTdom
  · exact h.execTsnap
  · exact h.storeBits.after
  · exact h.setBar.after
  · exact h.setBar.after
  · exact h.execGret
  · exact h.execBootimg
  · exact h.execAttreq
  · exact h.execKeyld
  · exact h.storeBits.after
  · exact afterIte h.setBar.after h.after
  · exact h.after

theorem hostWrite {cap off : Nat} {b : BarValue} (h : Keeps s0 s) : After s0 (s.hostWrite cap off b) := by
  cases b with
  | whole v => exact afterIte h.touchBar.writeReg h.touchBar.after
  | half v => exact afterIte h.touchBar.writeReg h.touchBar.after

theorem execRegisterWrite {cap : BitVec 16} {off : BitVec 26} {v : BarValue} (h : Keeps s0 s) : After s0 (Machine.execRegisterWrite cap off v s) := by
  refine afterIte ?_ h.hostWrite
  split
  · exact h.hostWrite
  · exact h.touchBar.after

end Keeps

end Sys2Proof.Proofs
end

section
/-!
SUPPORT. The invariant of every step: every instruction and event.
-/
namespace Sys2Proof.Proofs

open Machine Laws

namespace Keeps

variable {s0 s : State}

theorem exec {i : Instr} (h : Keeps s0 s) : After s0 (exec i s) := by
  unfold Machine.exec
  cases i with
  | nop => exact h.ctl h
  | nopw => exact h.ctl h.delay
  | br => exact h.ctl h.goto.delay
  | brLong => exact h.ctl h.goto.delay
  | brf => exact h.ctl h.brf
  | brfLong => exact h.ctl h.brf
  | jmpi => exact h.ctl h.goto.delay
  | call => exact h.ctl h.call
  | callLong => exact h.ctl h.call
  | ret => exact h.ctl h.goto.delay
  | loop => exact h.ctl h.loopSet
  | loopx => exact h.ctl h.loopSet
  | brp => exact h.ctl h.brp
  | brpLong => exact h.ctl h.brp
  | join => exact h.ctl h.mod.delay
  | jinit => exact h.ctl h.jinit
  | jinitLiteral => exact h.ctl h.jinit
  | jarv => exact h.ctl h.mod
  | jwait => exact h.ctl h.mod.delay
  | split => exact h.ctl h.split
  | splitLong => exact h.ctl h.split
  | merge => exact h.ctl (.ite h.mergeLanding h.mod.delay)
  | regrp => exact h.execRegrp
  | pass => exact h.ctl h.pass
  | park => exact h.ctl h.parkWord
  | spawn => exact h.execSpawn
  | exit => exact h.ctl h.exitContext
  | done => exact h.ctl h.done
  | idemb => exact h.ctl h.mod.delay
  | ideme => exact h.ctl h.mod
  | gnew => exact h.execGnew
  | gjoin => exact h.execGjoin
  | gleave => exact h.execGleave
  | garv => exact h.ctl (h.onMember fun _ _ _ hu => hu.issueArrival)
  | gwait => exact h.ctl (h.onMember fun _ _ _ hu => hu.wF)
  | gbar => exact h.meetWord
  | gvote => exact h.meetWord
  | grdc => exact h.meetWord
  | gwin => exact h.ctl h.modCtx
  | gqry => exact h.ctl (h.onMember fun _ _ _ hu => hu.wS)
  | trap => exact h.ctl h
  | trapLiteral => exact h.ctl h
  | sysret => exact h.ctl h.sysret
  | brk => exact h.ctl h.brkStop
  | csrd => exact h.ctl h.wS
  | cswr => exact h.ctl h.crWrite
  | cswrLiteral => exact h.ctl h.crWrite
  | brdl => exact h.ctl h.brdl
  | brdlLong => exact h.ctl h.brdl
  | add => exact h.threeReg
  | addLiteral => exact h.threeReg
  | sub => exact h.threeReg
  | subLiteral => exact h.threeReg
  | mul => exact h.threeReg
  | mulLiteral => exact h.threeReg
  | mulh => exact h.threeReg
  | mulhLiteral => exact h.threeReg
  | mulhu => exact h.threeReg
  | mulhuLiteral => exact h.threeReg
  | divs => exact h.threeReg
  | divsLiteral => exact h.threeReg
  | divu => exact h.threeReg
  | divuLiteral => exact h.threeReg
  | rems => exact h.threeReg
  | remsLiteral => exact h.threeReg
  | remu => exact h.threeReg
  | remuLiteral => exact h.threeReg
  | and => exact h.threeReg
  | andLiteral => exact h.threeReg
  | or => exact h.threeReg
  | orLiteral => exact h.threeReg
  | xor => exact h.threeReg
  | xorLiteral => exact h.threeReg
  | andn => exact h.threeReg
  | andnLiteral => exact h.threeReg
  | shl => exact h.threeReg
  | shlLiteral => exact h.threeReg
  | shr => exact h.threeReg
  | shrLiteral => exact h.threeReg
  | sar => exact h.threeReg
  | sarLiteral => exact h.threeReg
  | rotl => exact h.threeReg
  | rotlLiteral => exact h.threeReg
  | mins => exact h.threeReg
  | minsLiteral => exact h.threeReg
  | minu => exact h.threeReg
  | minuLiteral => exact h.threeReg
  | maxs => exact h.threeReg
  | maxsLiteral => exact h.threeReg
  | maxu => exact h.threeReg
  | maxuLiteral => exact h.threeReg
  | cmp => exact h.runFlag h.wF
  | flop => exact h.runFlag h.wF
  | sel => exact h.runFlag h.wS
  | mov => exact h.scalarWord
  | movi => exact h.scalarWord
  | moviLiteral => exact h.scalarWord
  | lea => exact h.scalarWord
  | clz => exact h.scalarWord
  | ctz => exact h.scalarWord
  | popc => exact h.scalarWord
  | bfx => exact h.scalarWord
  | bfi => exact h.scalarWord
  | bcst => exact h.runFlag h.setIssue
  | bcstLiteral => exact h.runFlag h.setIssue
  | cxs => exact h.sortWord fun _ _ hu => hu.exchange
  | cxsi => exact h.sortWord fun _ _ hu => hu.exchange.exchange
  | cxv => exact h.sortWord fun _ _ hu => hu.putKeys
  | cxvi => exact h.sortWord fun _ _ hu => hu.putKeys.putKeys
  | vadd => exact h.floatBinary
  | vsub => exact h.floatBinary
  | vmul => exact h.floatBinary
  | vfma => exact h.vecWord
  | vmax => exact h.maxMinWord
  | vmin => exact h.maxMinWord
  | vabs => exact h.plainWord
  | vneg => exact h.plainWord
  | vrcp => exact h.transWord
  | vrsq => exact h.transWord
  | vexp => exact h.transWord
  | vlog => exact h.transWord
  | vtanh => exact h.transWord
  | viadd => exact h.plainWord
  | visub => exact h.plainWord
  | vimul => exact h.plainWord
  | vimad => exact h.plainWord
  | vimin => exact h.plainWord
  | vimax => exact h.plainWord
  | vand => exact h.plainWord
  | vor => exact h.plainWord
  | vxor => exact h.plainWord
  | vshl => exact h.plainWord
  | vshr => exact h.plainWord
  | vsar => exact h.plainWord
  | vcmp => exact h.predWord fun _ _ hu => hu.putMask.raise
  | vsel => exact h.plainWord
  | vmov => exact h.plainWord
  | vcvt => exact h.execVcvt
  | vpack => exact h.execVpack
  | vunpk => exact h.execVunpk
  | vreds => exact h.vecWord
  | vscan => exact h.vecWord
  | vperm => exact h.plainWord
  | vlane => exact h.execVlane
  | vqcnt => exact h.plainWord
  | vcmps => exact h.predWord fun _ _ hu => hu.wP.raise
  | vqop => exact h.execVqop
  | mma => exact h.execMma
  | mmsp => exact h.execMmsp
  | kvmm => exact h.execKvmm
  | kvmv => exact h.execKvmv
  | gmma => exact h.execGmma
  | oclm => exact h.execOclm
  | orel => exact h.execOrel
  | old => exact h.execOld
  | otag => exact h.otagWord h.otag
  | otagQ => exact h.otagWord h.otagQ
  | otagLiteral => exact h.execOtagLiteral
  | azro => exact h.execAzro
  | aadd => exact h.execAadd
  | adrn => exact h.runUnit (h.each fun _ _ hu => hu.drain)
  | shp => exact h.execShp
  | dstq => exact h.runUnit (h.each fun _ _ hu => hu.wP)
  | scl => exact h.execScl
  | scli => exact h.runEng (h.each fun _ _ hu => hu.putSides)
  | sclz => exact h.runEng (h.each fun _ _ hu => hu.putSides)
  | lds => exact h.runSeqM h.loadS
  | ldsLiteral => exact h.runSeqM h.loadS
  | sts => exact h.runSeqM h.storeS
  | stsLiteral => exact h.runSeqM h.storeS
  | lda => exact h.execLda
  | stl => exact .afterIte h.strongVec h.strongScalar
  | stx => exact .afterIte h.strongVec h.strongScalar
  | atom => exact h.execAtom
  | atcas => exact h.execAtcas
  | vld => exact h.execVld
  | vst => exact h.engineM (h.each fun _ _ hu => hu.vecStore)
  | vldp => exact h.execVldp
  | vstp => exact h.execVstp
  | vldg => exact h.execVldg
  | vstg => exact h.execVstg
  | vatom => exact h.execVatom
  | port => exact h.runSeqM h.loadPort
  | cpy => exact h.runWord h.cpyStart
  | cpyl => exact h.execCpyl
  | cpyw => exact h.runEng h.startOp
  | cpyk => exact h.runEng h.startOp
  | fence => exact h.runSeqM h
  | pfx => exact h.execPfx
  | xpf => exact h.execXpf
  | cwb => exact h.runSeqM (h.onLine fun _ _ hu => hu.writeBack)
  | cinv => exact h.runSeqM (h.onLine fun _ _ hu => hu.dropLine)
  | pbinv => exact h.execPbinv
  | pgmap => exact h.runSeqM h.pgmap.wSheld
  | tinv => exact h.runSeqM h.startOp
  | btinv => exact h.runSeqM h.startOp
  | kvseq => exact h.runSeqM h.kvseq
  | kvseqLiteral => exact h.runSeqM h.kvseq
  | xshf => exact h.exchangeWord h.giveAll
  | xred => exact h.exchangeWord (h.giveAll.each fun _ _ hu => hu.raise)
  | xbc => exact h.exchangeWord h.giveAll
  | xvot => exact h.execXvot
  | xpick => exact h.execXpick
  | xsnd => exact h.channelWord fun _ => (h.each fun _ _ hu => hu.sendFrom).setNextOp
  | xrcv => exact h.channelWord fun _ => h.each fun _ _ hu => hu.receiveIn
  | xrca => exact h.channelWord fun _ => h.each fun _ _ hu => hu.receiveIn
  | xchs => exact h.runFlag h.wS
  | chld => exact h.runFlag h.chld
  | kld => exact h.runFlag h.kld
  | kldLiteral => exact h.runFlag h.kld
  | kgo => exact h.runFlag h.kgo
  | kwt => exact h.runFlag h.kwt
  | send => exact h.execSend
  | recv => exact h.execRecv
  | rdc => exact h.execRdc
  | copy => exact h.execCopy
  | waitCnt => exact h.execWaitCnt
  | waitGrp => exact h.execWaitGrp
  | waitTs => exact h.execWaitTs
  | sigArv => exact h.execSigArv
  | sigJoin => exact h.execSigJoin
  | sigLeave => exact h.execSigLeave
  | sigNew => exact h.execSigNew
  | sigStl => exact h.execSigStl
  | kuborLoop => exact h.execKuborLoop
  | brc => exact h.execBrc
  | kend => exact h.execKend
  | abort => exact h.crWord
  | srseed => exact h.crWord
  | fqnext => exact h.crWord
  | kcurWrite => exact h.crWord
  | asyncRoundEntry => exact h.execAsyncRoundEntry
  | asyncOpStop => exact h.opStop.after
  | copyComplete => exact h.completeIf.after
  | oldLoadComplete => exact h.execOldLoadComplete
  | loadDataReturn => exact h.execLoadDataReturn
  | channelElementArrival => exact h.elementLands.after
  | invalidationComplete => exact h.execInvalidationComplete
  | translationWalk => exact h.execTranslationWalk
  | segmentFetch => exact h.execSegmentFetch
  | binTimer => exact h.execBinTimer
  | stealAge => exact h.execStealAge
  | steal => exact h.execSteal
  | binLaunch => exact h.execBinLaunch
  | waitingItemFile => exact h.execWaitingItemFile
  | itemReady => exact h.execItemReady
  | parkWake => exact h.execParkWake
  | cwthrExpiry => exact h.execCwthrExpiry
  | preempt => exact h.execPreempt
  | resume => exact h.execResume
  | deferredPark => exact h.execDeferredPark
  | candidateAge => exact h.execCandidateAge
  | coresGroupResume => exact h.execCoresGroupResume
  | regionFree => exact h.execRegionFree
  | xpFillComplete => exact h.execXpFillComplete
  | readyToReceive => exact h.execReadyToReceive
  | rendezvousTimeout => exact h.execRendezvousTimeout
  | peerAbort => exact h.execPeerAbort
  | kuborDataComplete => exact h.dataComplete.after
  | timedIssue => exact h.execTimedIssue
  | launch => exact h.execLaunch
  | launchComplete => exact h.execLaunchComplete
  | retire => exact h.execRetire
  | refresh => exact h.execRefresh
  | hold => exact h.execHold
  | release => exact h.execRelease
  | rstctl => exact h.execRstctl
  | registerWrite => exact h.execRegisterWrite
  | memoryBarRead => exact h.execMemoryBarRead
  | memoryBarWrite => exact h.execMemoryBarWrite
  | fwEnable => exact h.execFwEnable
  | fwDisable => exact h.execFwDisable
  | halt => exact h.execHalt
  | run => exact h.execRun
  | step => exact h.execStep
  | stepall => exact h.execStepall
  | debugEnableSet => exact h.execDebugEnableSet
  | debugEnableClear => exact h.execDebugEnableClear
  | dbgdata => exact h.execDbgdata
  | lwin => exact h.execLwin
  | xpctl => exact h.execXpctl
  | stctl => exact h.execStctl
  | promote => exact h.serve.after
  | demote => exact h.serve.after
  | replace => exact h.serve.after
  | refetch => exact h.serve.after
  | nvmeCompletion => exact h.nvme.after
  | start => exact h.execStart
  | checkpointTransfer => exact h.execCheckpointTransfer
  | restore => exact h.execRestore
  | enterGangIdle => exact h.execEnterGangIdle
  | enterDieRetention => exact h.execEnterDieRetention
  | enterPackageStandby => exact h.execEnterPackageStandby
  | wake => exact h.execWake
  | currentGrant => exact h.execCurrentGrant
  | ttctl => exact h.execTtctl
  | tdom => exact h.execTdom
  | tsnap => exact h.execTsnap
  | gret => exact h.execGret
  | gangErrorRetire => exact h.count.retireGang.after
  | hbmChannelSpare => exact h.execHbmChannelSpare
  | laneFailure => exact h.execLaneFailure
  | scrub => exact h.execScrub
  | eccUncorrectable => exact h.uncorrectable.after
  | boot => exact h.execBoot
  | bootimg => exact h.execBootimg
  | attreq => exact h.execAttreq
  | keyld => exact h.execKeyld
  | linkMemoryArrival => exact h.execLinkMemoryArrival
  | multiplyReadsDone => exact h.completeIf.after
  | flitReplay => exact h.execFlitReplay
  | hbmSpareCopyDone => exact h.onFleet.after

end Keeps

end Sys2Proof.Proofs
end

section
/-!
SUPPORT. The invariant of every step: issue, the turns of the agents, time.
-/
namespace Sys2Proof.Proofs

open Machine Laws

namespace Keeps

variable {s0 s : State}

/-! ## Issue of a bundle -/

theorem runInstr {i : Instr} (h : Keeps s0 s) : Keeps s0 (s.runInstr i) := by
  unfold State.runInstr
  split
  next ht => exact h.exec _ ht
  next => exact h

theorem probe {w : BWord} (h : Keeps s0 s) : Keeps s0 (s.probe w) := h.setIssue.runInstr

theorem countRuns {cid : Nat} {m : Mask} (h : Keeps s0 s) : Keeps s0 (s.countRuns cid m) := h.modCtx

theorem setDraw {n : Nat} {x : Issue} (h : Keeps s0 s) : Keeps s0 { s with free := n, issue := x } := h.same (by rfl)

theorem setFree {n : Nat} (h : Keeps s0 s) : Keeps s0 { s with free := n } := h.same (by rfl)

theorem actAll {ws : List BWord} (h : Keeps s0 s) : Keeps s0 (State.actAll ws s) := by
  induction ws generalizing s with
  | nil => exact h
  | cons w ws ih => exact ih h.setDraw.runInstr.setFree

theorem holdBundle {cid b : Nat} {ws : List BWord} {ps : List Issue} (h : Keeps s0 s) : Keeps s0 (s.holdBundle cid b ws ps) := by
  refine h.modCtx.foldl fun u w hu => ?_
  split
  · exact hu.queueSpawn
  · exact hu.xpfMiss
  · exact .ite hu.regrpMark hu
  · exact .ite hu.meetHeld hu

theorem holdBanks {cid : Nat} {uses : List BankUse × List BankUse} (h : Keeps s0 s) : Keeps s0 (s.holdBanks cid uses) := .ite h h.modCtx

theorem issueWords {cid b n : Nat} {ws : List BWord} {run : Option Mask} (h : Keeps s0 s) : Keeps s0 (s.issueWords cid b n ws run).1 := by
  unfold State.issueWords
  extract_lets counted
  have hc : Keeps s0 counted := by
    unfold counted
    split
    · exact h.countRuns
    · exact h
  clear_value counted
  split
  · dsimp only
    split
    · exact .holdBanks (.ite hc.probe h.probe)
    · exact .ite h.probe.modCtx h.probe
    · exact h.probe
  · split
    · exact h.enterTrap
    · refine .ite_fst h.holdBundle (.ite_fst h.enterTrap ?_)
      exact .ite hc.setIssue.actAll.setFree.holdBanks.modCtx.parkNow hc.setIssue.actAll.setFree.holdBanks

theorem afterBundle {cid : Nat} {pl : Place} (h : Keeps s0 s) : Keeps s0 (s.afterBundle cid pl) :=
  settleGang (.ite h.setSeqs.count (.ite h.setSeqs.count.setCtx h.setSeqs.count.setCtx.mixSends))

theorem issueAt {cid : Nat} {g : Segment} {run : Option Mask} (h : Keeps s0 s) : Keeps s0 (s.issueAt cid g run).1 := by
  unfold State.issueAt
  extract_lets b
  refine .ite_fst h.enterTrap ?_
  dsimp only
  split
  · exact h.enterTrap
  · refine .ite_fst h.enterTrap ?_
    exact .ite h.setIssue.modCtx.issueWords.afterBundle h.setIssue.modCtx.issueWords

theorem boundary {cid : Nat} (h : Keeps s0 s) : Keeps s0 (s.boundary cid).1 := by
  unfold State.boundary
  refine .ite_fst h (.ite_fst h.roundEntry (.ite_fst h ?_))
  dsimp only
  refine .ite_fst h.modCtx.loopArrive.enterTrap (.ite_fst h.modCtx.loopArrive.kernelArrive.enterTrap
    (.ite_fst h.modCtx.loopArrive.kernelArrive.enterTrap ?_))
  split
  · exact h.modCtx.loopArrive.kernelArrive.fetchSegment
  · exact h.modCtx.loopArrive.kernelArrive.issueAt

theorem focusOn {cid : Nat} {x : Issue} (h : Keeps s0 s) : Keeps s0 { s with focus := cid, issue := x } := h.same (by rfl)

theorem tryIssue {cid : Nat} (h : Keeps s0 s) : Keeps s0 (s.tryIssue cid).1 := .ite_fst h h.focusOn.settleGang.boundary

theorem yieldCycle {cid : Nat} (h : Keeps s0 s) : Keeps s0 (s.yieldCycle cid) := h.modCtx

theorem passOver {t : State} {cid : Nat} (h : Keeps s0 s) : Keeps s0 (t.passOver s cid) := by
  unfold State.passOver
  extract_lets c met v w
  have hv : Keeps s0 v := .ite h.modCtx h
  have hw : Keeps s0 w := hv.foldl fun _ _ hu => hu.yieldCycle
  split
  · exact .ite hw hw.modCtx
  · exact hw

theorem issueOne {l : List Nat} (h : Keeps s0 s) : Keeps s0 (State.issueOne l s).1 := by
  induction l generalizing s with
  | nil => exact h
  | cons c l ih =>
    unfold State.issueOne
    refine .ite_fst (ih h) (.ite_fst (ih h) ?_)
    exact .ite_fst h.tryIssue.passOver (ih h.tryIssue)

/-! ## What the package does by itself -/

theorem ownAnswer {o : Own} (h : Keeps s0 s) : After s0 (o.answer s) := by
  cases o with
  | asyncRoundEntry => exact h.execAsyncRoundEntry
  | asyncOpStop => exact h.opStop.after
  | copyComplete => exact h.completeIf.after
  | multiplyReadsDone => exact h.completeIf.after
  | invalidationComplete => exact h.execInvalidationComplete
  | oldLoadComplete => exact h.execOldLoadComplete
  | loadDataReturn => exact h.execLoadDataReturn
  | channelElementArrival => exact h.elementLands.after
  | binTimer => exact h.execBinTimer
  | stealAge => exact h.execStealAge
  | steal => exact h.execSteal
  | binLaunch => exact h.execBinLaunch
  | waitingItemFile => exact h.execWaitingItemFile
  | itemReady => exact h.execItemReady
  | parkWake => exact h.execParkWake
  | cwthrExpiry => exact h.execCwthrExpiry
  | preempt => exact h.execPreempt
  | resume => exact h.execResume
  | deferredPark => exact h.execDeferredPark
  | candidateAge => exact h.execCandidateAge
  | coresGroupResume => exact h.execCoresGroupResume
  | regionFree => exact h.execRegionFree
  | xpFillComplete => exact h.execXpFillComplete
  | rendezvousTimeout => exact h.execRendezvousTimeout
  | kuborDataComplete => exact h.dataComplete.after
  | launchComplete => exact h.execLaunchComplete
  | promote => exact h.serve.after
  | demote => exact h.serve.after
  | replace => exact h.serve.after
  | refetch => exact h.serve.after
  | nvmeCompletion => exact h.nvme.after
  | checkpointTransfer => exact h.execCheckpointTransfer
  | enterGangIdle => exact h.execEnterGangIdle
  | enterDieRetention => exact h.execEnterDieRetention
  | enterPackageStandby => exact h.execEnterPackageStandby
  | boot => exact h.execBoot

theorem runOwn {o : Own} (h : Keeps s0 s) : Keeps s0 (s.runOwn o) := by
  unfold State.runOwn
  split
  next ht => exact h.ownAnswer _ ht
  next => exact h

theorem firstStep {l : List Own} {t : State} (h : Keeps s0 s) (ht : s.firstStep l = some t) : Keeps s0 t := by
  induction l with
  | nil => cases ht
  | cons o l ih =>
    unfold State.firstStep at ht
    extract_lets u at ht
    split at ht
    · exact ih ht
    · obtain rfl := Option.some.inj ht
      exact h.runOwn

/-! ## The porches -/

theorem illegalWord {q w : Nat} (h : Keeps s0 s) : Keeps s0 (s.illegalWord q w) := h.kuborTurn fun _ _ _ ht => by cases ht

theorem porchTurn {q : Nat} (h : Keeps s0 s) : Keeps s0 (s.porchTurn q) := by
  unfold State.porchTurn
  refine .ite h ?_
  split
  · exact h.setPorchFocus.runInstr
  · split
    · exact h.illegalWord
    · exact h.stopPorch

theorem porchAny {l : List Nat} {t : State} (h : Keeps s0 s) (ht : s.porchAny l = some t) : Keeps s0 t := by
  induction l with
  | nil => cases ht
  | cons q l ih =>
    unfold State.porchAny at ht
    extract_lets u at ht
    split at ht
    · exact ih ht
    · obtain rfl := Option.some.inj ht
      exact h.porchTurn

/-! ## Time -/

theorem laterTime (h : Keeps s0 s) : Keeps s0 s.laterTime := h.same (by rfl)

theorem countBelow {passed : Nat → Nat} (h : Keeps s0 s) : Keeps s0 (s.countBelow passed) := h.count.foldl fun _ _ hu => hu.count.count

theorem holdPast {t : Nat} (h : Keeps s0 s) : Keeps s0 (s.holdPast t) := by
  refine h.foldl fun u e hu => ?_
  split
  · exact .ite hu.modPorch hu
  · exact hu

theorem passTime (h : Keeps s0 s) : Keeps s0 s.passTime := h.holdPast.laterTime.countBelow

theorem tick (h : Keeps s0 s) : Keeps s0 s.tick := by
  unfold State.tick
  split
  next heq => exact of_fst heq h.issueOne
  next heq => exact (of_fst heq h.issueOne).passTime

theorem issueTurn {cid : Nat} (h : Keeps s0 s) : Keeps s0 (s.issueTurn cid) := .ite h.issueOne h.tick

/-! ## Turns -/

theorem actKind {k : Nat} (h : Keeps s0 s) : Keeps s0 (s.actKind k).1 := by
  unfold State.actKind
  split
  · split
    next ht => exact h.firstStep ht
    next => exact h
  · exact h.issueOne
  · split
    next ht => exact h.porchAny ht
    next => exact h

theorem actFirst {l : List Nat} (h : Keeps s0 s) : Keeps s0 (State.actFirst l s).1 := by
  induction l generalizing s with
  | nil => exact h
  | cons k l ih => exact .ite_fst h.actKind (ih h.actKind)

theorem setOrder {n : Nat} (h : Keeps s0 s) : Keeps s0 { s with order := n } := h.same (by rfl)

theorem defaultTurn (h : Keeps s0 s) : Keeps s0 s.defaultTurn := by
  unfold State.defaultTurn
  split
  next heq => exact of_fst heq h.setOrder.actFirst
  next heq =>
    have hu := of_fst heq h.setOrder.actFirst
    split
    next ht => exact hu.firstStep ht
    next => exact hu.passTime

theorem turn {t : Turn} (h : Keeps s0 s) : Keeps s0 (s.turn t) := by
  unfold State.turn
  split
  · exact .ite h.runInstr h
  · exact .ite h h.issueTurn
  · exact .ite h h.porchTurn
  · exact .ite h.passTime h.tick

theorem settleSends (h : Keeps s0 s) : Keeps s0 s.settleSends := .ite h.setCtxs.settleWaits h

theorem endTurn (h : Keeps s0 s) : Keeps s0 s.endTurn := h.settleSends.raiseMet.swapGangs.closeIdle.wakeDue.trimPantry.setDraw

theorem startTurn {l : List Turn} (h : Keeps s0 s) : Keeps s0 { s with plan := l, issue := {} } := h.same (by rfl)

theorem next (h : Keeps s0 s) : Keeps s0 s.next := by
  unfold State.next
  split
  · exact h.startTurn.turn.endTurn
  · exact endTurn (.ite h.passTime h.setIssue.defaultTurn)

end Keeps

/-- Settles O60: every function that a step is made of keeps what is stored canonical and control blocks aligned. -/
theorem canonicalIsKept : Obligations.CanonicalIsKept := by
  unfold Obligations.CanonicalIsKept
  rintro s t ⟨⟩
  exact (Keeps.refl s).next

end Sys2Proof.Proofs
end

section
/-!
PROOF. The scalar loads, stores and atomics of class M act at their flat address (R87, R103, R104, R107, R299 to R302, R307).
-/
namespace Sys2Proof.Proofs

open Machine Laws

section

variable {s : State} {g : Gate} {lit : Option Dword}

/-! ## Checks of an address -/

/-- A sequencer-side access passes its check where its address translates and is aligned (R72, R300). -/
theorem seqFlat_ok {a : Acc4} {write : Bool} {va : Dword} {size : Nat} (h : s.flatFault s.party a va.toNat size = none) :
    s.seqFlat 6 a write va size = .ok := by
  rw [State.seqFlat, h]

/-- An atomic passes its check where, besides, its address is no view and its scope reaches its home (R87, R103). -/
theorem atomCheck_ok {f : AtomFields}
    (h : s.flatFault s.party .atomic (s.baseDisp f.sA f.disp lit).toNat (if f.sz then 8 else 4) = none)
    (ha : s.atomFault f.scope (s.baseDisp f.sA f.disp lit) = false) : s.atomCheck f lit = .ok := by
  refine (verdict_and_ok_iff _ _).mpr ⟨seqFlat_ok h, ?_⟩
  rw [ha]
  rfl

/-! ## LDS and STS (R301) -/

section

variable {sz : BitVec 2} {sA sD : BitVec 5} (hg : s.gateM g = true) (h : Issues s 6 (useS [sA, sD]))
include hg h

theorem execLds_next {sgn : Bool} (hw : (sgn && sz == 3) = false) (hf : s.flatFault s.party .read (s.rS sA).toNat (2 ^ sz.toNat) = none) :
    execLds g sgn sz sA sD s = .next (s.loadS sD sz.toNat sgn (s.rS sA)) :=
  seqM_next h hg ((Bool.not_eq_true' _).mpr hw) rfl rfl rfl (seqFlat_ok hf)

theorem execLdsLiteral_next {sgn : Bool} {l : Dword} (hw : (sgn && sz == 3) = false)
    (hf : s.flatFault s.party .read (s.rS sA + l).toNat (2 ^ sz.toNat) = none) :
    execLdsLiteral g sgn sz sA sD l s = .next (s.loadS sD sz.toNat sgn (s.rS sA + l)) :=
  seqM_next h hg ((Bool.not_eq_true' _).mpr hw) rfl rfl rfl (seqFlat_ok hf)

theorem execSts_next (hf : s.flatFault s.party .write (s.rS sA).toNat (2 ^ sz.toNat) = none) :
    execSts g sz sA sD s = .next (s.storeS sz.toNat (s.rS sA) (s.rS sD)) :=
  seqM_next h hg rfl rfl rfl rfl (seqFlat_ok hf)

theorem execStsLiteral_next {l : Dword} (hf : s.flatFault s.party .write (s.rS sA + l).toNat (2 ^ sz.toNat) = none) :
    execStsLiteral g sz sA sD l s = .next (s.storeS sz.toNat (s.rS sA + l) (s.rS sD)) :=
  seqM_next h hg rfl rfl rfl rfl (seqFlat_ok hf)

end

/-! ## Scalar LDA, STL and STX (R302) -/

section

variable {f : StrongFields} (hg : s.gateM g = true) (hvec : f.vec = false) (h : Issues s 6 (useS [f.sA, BitVec.ofNat 5 f.r.toNat]))
include hg hvec h

theorem execLda_scalar (hw : Instr.wellFormed (.lda g f lit) = true)
    (hf : s.flatFault s.party .read (s.baseDisp f.sA f.disp lit).toNat (2 ^ f.sz.toNat) = none) :
    execLda g f lit s = .next (s.loadS (BitVec.ofNat 5 f.r.toNat) f.sz.toNat f.sgn (s.baseDisp f.sA f.disp lit)) := by
  have hscalar : ¬ f.vec = true := Bool.eq_false_iff.mp hvec
  have hdest : destCodes (.lda g f lit) = [] := if_neg hscalar
  rw [execLda, if_neg hscalar]
  exact seqM_next h hg hw rfl rfl hdest (seqFlat_ok hf)

omit hvec in
/-- A scalar STL or STX: only STX minds that its address is a view (R87). -/
theorem strongScalar_next {i : Instr} {strong : Bool} (hw : i.wellFormed = true) (hp : channelUse i = none) (hs : sourceCodes i = [])
    (hd : destCodes i = []) (hf : s.flatFault s.party .write (s.baseDisp f.sA f.disp lit).toNat (2 ^ f.sz.toNat) = none)
    (hview : (strong && s.isView .write (s.baseDisp f.sA f.disp lit)) = false) :
    strongScalar i g f lit strong s = .next (s.storeS f.sz.toNat (s.baseDisp f.sA f.disp lit) (s.rS (BitVec.ofNat 5 f.r.toNat))) := by
  refine seqM_next h hg hw hp hs hd ((verdict_and_ok_iff _ _).mpr ⟨seqFlat_ok hf, ?_⟩)
  rw [hview]
  rfl

theorem execStl_scalar (hw : Instr.wellFormed (.stl g f lit) = true)
    (hf : s.flatFault s.party .write (s.baseDisp f.sA f.disp lit).toNat (2 ^ f.sz.toNat) = none) :
    execStl g f lit s = .next (s.storeS f.sz.toNat (s.baseDisp f.sA f.disp lit) (s.rS (BitVec.ofNat 5 f.r.toNat))) := by
  have hscalar : ¬ f.vec = true := Bool.eq_false_iff.mp hvec
  have hsource : sourceCodes (.stl g f lit) = [] := if_neg hscalar
  rw [execStl, if_neg hscalar]
  exact strongScalar_next hg h hw rfl hsource rfl hf rfl

theorem execStx_scalar (hw : Instr.wellFormed (.stx g f lit) = true)
    (hf : s.flatFault s.party .write (s.baseDisp f.sA f.disp lit).toNat (2 ^ f.sz.toNat) = none)
    (hview : s.isView .write (s.baseDisp f.sA f.disp lit) = false) :
    execStx g f lit s = .next (s.storeS f.sz.toNat (s.baseDisp f.sA f.disp lit) (s.rS (BitVec.ofNat 5 f.r.toNat))) := by
  have hscalar : ¬ f.vec = true := Bool.eq_false_iff.mp hvec
  have hsource : sourceCodes (.stx g f lit) = [] := if_neg hscalar
  rw [execStx, if_neg hscalar]
  exact strongScalar_next hg h hw rfl hsource rfl hf hview

end

/-! ## ATOM and ATCAS (R103, R307) -/

section

variable {f : AtomFields} (hg : s.gateM g = true)
  (hf : s.flatFault s.party .atomic (s.baseDisp f.sA f.disp lit).toNat (if f.sz then 8 else 4) = none)
  (ha : s.atomFault f.scope (s.baseDisp f.sA f.disp lit) = false)
include hg hf ha

theorem execAtom_next (hw : Instr.wellFormed (.atom g f lit) = true) (h : Issues s 6 (useS [f.sA, f.sV, f.sD])) :
    let va := s.baseDisp f.sA f.disp lit
    let w := if f.sz then 64 else 32
    let r := (s.through .atomic va (.s f.sD.toNat)).atomAt va f.sz 0 (fun old => atomOp f.op.toNat w old (bits (s.rS f.sV).toNat 0 w))
      (fun pa => .atomic pa f.sz f.op.toNat (s.rS f.sV))
    execAtom g f lit s = .next (r.2.wSheld f.sD (BitVec.ofNat 64 r.1)) :=
  seqM_next h hg hw rfl rfl rfl (atomCheck_ok hf ha)

theorem execAtcas_next (hw : Instr.wellFormed (.atcas g f lit) = true) (h : Issues s 6 (useS [f.sA, f.sV, f.sC, f.sD])) :
    let va := s.baseDisp f.sA f.disp lit
    let w := if f.sz then 64 else 32
    let r := (s.through .atomic va (.s f.sD.toNat)).atomAt va f.sz 0
      (fun old => if old = bits (s.rS f.sC).toNat 0 w then bits (s.rS f.sV).toNat 0 w else old)
      (fun pa => .cas pa f.sz (s.rS f.sC) (s.rS f.sV))
    execAtcas g f lit s = .next (r.2.wSheld f.sD (BitVec.ofNat 64 r.1)) :=
  seqM_next h hg hw rfl rfl rfl (atomCheck_ok hf ha)

end

end

/-- Settles O17: plain accesses, strong accesses and atomics, word by word. -/
theorem scalarMemoryWords : Obligations.ScalarMemoryWords := by
  unfold Obligations.ScalarMemoryWords
  intro s g sz sA sD lit hg
  refine ⟨fun h => ?plain, fun f l hvec h => ?strong, fun f l => ?atomics⟩
  case plain =>
    exact ⟨fun sgn hw => ⟨execLds_next hg h hw, execLdsLiteral_next hg h hw⟩, execSts_next hg h, execStsLiteral_next hg h⟩
  case strong =>
    exact ⟨execLda_scalar hg hvec h, execStl_scalar hg hvec h, execStx_scalar hg hvec h⟩
  case atomics =>
    intro va w hf ha
    exact ⟨execAtom_next hg hf ha, execAtcas_next hg hf ha⟩

end Sys2Proof.Proofs
end

section
/-!
PROOF. SHP writes shape fields, and the K words the edge scale latches (R138, R274, R275, R298).
-/
namespace Sys2Proof.Proofs

open Machine Laws

section

variable {s : State} {g : Gate} {lit : Option Dword}

/-- SHP acts whatever its predicate, so that it pops the port its value comes from (R96, R275). -/
theorem execShp_next {zd : BitVec 3} {vsrc : Bool} {va : BitVec 6} {sS : BitVec 5} {wm : BitVec 3} {codes : List Nat}
    (hcodes : codes = if vsrc then [va.toNat] else []) (h : Issues s 4 (useS [sS] ++ s.useV codes))
    (hw : s.encodingOk (.shp g zd vsrc va sS wm lit) = true) (hp : s.portCheck 4 codes [] = .ok) :
    execShp g zd vsrc va sS wm lit s = .next ((s.each (s.acting g) (fun u e =>
      u.wZ e zd (shapePut (((u.myEng e).part u.me.place.engCtx).zreg zd.toNat).toNat
        (if vsrc then bits (s.rVec e va.toNat).toNat 0 64 else (u.rSLit sS lit).toNat) wm) 2)).popAll codes) := by
  subst hcodes
  exact runPop_next h hw hp

/-- SCL acts whatever its predicate, so that it pops the port of its scales (R96, R298). -/
theorem execScl_next {va : BitVec 6} {side : BitVec 2} (h : Issues s 5 (s.useV [va.toNat])) (hw : s.encodingOk (.scl g va side) = true)
    (hp : s.portCheck 5 [va.toNat] [] = .ok) :
    execScl g va side s = .next ((s.each (s.acting g) (fun u e =>
      u.putSides e side (BitVec.ofNat 512 (s.rVec e va.toNat).toNat) (BitVec.ofNat 512 (bits (s.rVec e va.toNat).toNat 512 512)))).popAll
        [va.toNat]) :=
  runPop_next h hw hp

/-- A K word without a vector operand names no register: its encoding checks are its well-formedness, and it raises no fault. -/
theorem latchWord_next {i : Instr} {eff : State → State} (hact : s.acting g ≠ []) (h : Issues s 5 []) (hw : i.wellFormed = true)
    (hc : channelUse i = none) (hs : sourceCodes i = []) (hd : destCodes i = []) :
    runEng i 5 g (fun _ => []) free eff s = .next (eff s) :=
  runEng_next h hact (encodingOk_of_plain hw hc hs hd s) rfl

theorem execScli_fields {rx cx : BitVec 8} {side : BitVec 2} (hact : s.acting g ≠ []) (h : Issues s 5 [])
    (hw : Instr.wellFormed (.scli g rx cx side none) = true) : execScli g rx cx side none s =
      .next (s.each (s.acting g) (fun u e => u.putSides e side (sameBytes rx.toNat) (sameBytes cx.toNat))) :=
  latchWord_next hact h hw rfl rfl rfl

theorem execScli_literal {rx cx : BitVec 8} {side : BitVec 2} {l : Dword} (hact : s.acting g ≠ []) (h : Issues s 5 [])
    (hw : Instr.wellFormed (.scli g rx cx side (some l)) = true) : execScli g rx cx side (some l) s =
      .next (s.each (s.acting g) (fun u e => u.putSides e side (sameBytes (bits l.toNat 0 8)) (sameBytes (bits l.toNat 8 8)))) :=
  latchWord_next hact h hw rfl rfl rfl

theorem execSclz_next (hact : s.acting g ≠ []) (h : Issues s 5 []) :
    execSclz g s = .next (s.each (s.acting g) (fun u e => u.putSides e 3 (sameBytes 127) (sameBytes 127))) :=
  latchWord_next hact h rfl rfl rfl rfl

end

/-- Settles O15, word by word. -/
theorem shapeAndScaleWords : Obligations.ShapeAndScaleWords := by
  unfold Obligations.ShapeAndScaleWords
  intro s g lit
  refine ⟨?shape, fun va side h hw hp => execScl_next h hw hp, fun hact h => ⟨?immediate, execSclz_next hact h⟩⟩
  case shape =>
    intro zd vsrc va sS wm codes h hw hp
    exact execShp_next rfl h hw hp
  case immediate =>
    intro rx cx side hw
    cases lit with
    | none => exact execScli_fields hact h hw
    | some l => exact execScli_literal hact h hw

end Sys2Proof.Proofs
end

section
/-!
PROOF. The exchange words give every engine of their set its vector (R141, R257 to R261).
-/
namespace Sys2Proof.Proofs

open Machine Laws

section

variable {s : State} {g : Gate}

/-- An exchange word passes its checks: none of its flag, its scalar and its vectors is pending, and every port it reads or writes is
ready. -/
abbrev ExchangeReady (s : State) (g : Gate) (i : Instr) (reads : List Nat) (vd : BitVec 6) (sD : BitVec 5) : Prop :=
  s.encodingOk i = true ∧ Issues s 7 (.f g.pred.toNat :: useS [sD] ++ s.useV (vd.toNat :: reads)) ∧ s.portCheck 7 reads [vd.toNat] = .ok

/-- A false flag does not stop an exchange word: its set is empty, and its ports are popped all the same (R96, R170). -/
theorem exchangeWord_next {i : Instr} {reads : List Nat} {vd : BitVec 6} {sD : BitVec 5} {eff : State → State}
    (h : ExchangeReady s g i reads vd sD) : exchangeWord i g reads vd sD eff s = .next ((eff s).popAll (vd.toNat :: reads)) := by
  obtain ⟨hw, hissues, hports⟩ := h
  exact runPop_next hissues hw hports

theorem execXshf_next {f : XFields} (h : ExchangeReady s g (.xshf g f) (if f.pat = 2 then [f.va.toNat, f.vb.toNat] else [f.va.toNat]) f.vd 0) :
    execXshf g f s = .next ((s.giveAll g f.vd f.lq f.ln 6 (fun e =>
      match s.shuffleFrom f e with
      | some x => lanes (s.fromEng g x f.va)
      | none => List.replicate 64 0)).popAll (f.vd.toNat :: if f.pat = 2 then [f.va.toNat, f.vb.toNat] else [f.va.toNat])) :=
  exchangeWord_next h

theorem execXred_next {f : XFields} (h : ExchangeReady s g (.xred g f) [f.va.toNat] f.vd 0) :
    let r := (List.range 64).map (s.reduceLane g f)
    execXred g f s = .next (((s.giveAll g f.vd f.lq f.ln 12 (fun _ => r.map Prod.fst)).each (s.exchanging g) (fun u e =>
      u.raise e ((r.zipIdx.filter (fun p => (s.laneMask e f.lq f.ln).getLsbD p.2)).foldl (fun a p => a ||| p.1.2) 0))).popAll
        [f.vd.toNat, f.va.toNat]) :=
  exchangeWord_next h

theorem execXbc_next {f : XFields} (h : ExchangeReady s g (.xbc g f) [f.va.toNat] f.vd 0) :
    execXbc g f s =
      .next ((s.giveAll g f.vd f.lq f.ln 6 (fun _ => lanes (s.fromEng g f.m.toNat f.va))).popAll [f.vd.toNat, f.va.toNat]) :=
  exchangeWord_next h

theorem execXvot_next {vd : BitVec 6} {sD : BitVec 5} {pn : Bool} {ps : BitVec 3} (h : ExchangeReady s g (.xvot g vd sD pn ps) [] vd sD) :
    let b := s.ballot g pn ps
    let m := (ofEngineBits (fun e => b.contains e)).toNat
    let u := s.giveAll g vd 0 false 14 (fun _ => [m, b.length, b.head?.getD 0xFFFFFFFF] ++ List.replicate 61 0)
    execXvot g vd sD pn ps s = .next ((if s.gateF g then u.wS sD (BitVec.ofNat 64 (m + b.length * 2 ^ 16)) 14 else u).popAll [vd.toNat]) :=
  exchangeWord_next h

theorem execXpick_next {f : PickFields} (h : ExchangeReady s g (.xpick g f) [f.va.toNat] f.vd f.sD) :
    let pick := if f.hi then (s.ballot g f.pn f.ps).getLast? else (s.ballot g f.pn f.ps).head?
    let u := s.giveAll g f.vd f.lq f.ln 14 (fun _ => match pick with
      | some e => lanes (s.rVec e f.va.toNat)
      | none => List.replicate 64 0)
    execXpick g f s = .next ((if s.gateF g then u.wS f.sD (match pick with
      | some e => BitVec.ofNat 64 e
      | none => BitVec.allOnes 64) 14 else u).popAll [f.vd.toNat, f.va.toNat]) :=
  exchangeWord_next h

end

/-- Settles O20, word by word. -/
theorem exchangeWords : Obligations.ExchangeWords := by
  unfold Obligations.ExchangeWords
  intro s g ready
  exact ⟨fun _ h => execXshf_next h, fun _ h => execXred_next h, fun _ h => execXbc_next h, fun _ _ _ _ h => execXvot_next h,
    fun _ h => execXpick_next h⟩

end Sys2Proof.Proofs
end

section
/-!
PROOF. The group words of a member whose handle stands (R148 to R160, R217, R218).
-/
namespace Sys2Proof.Proofs

open Machine Laws

/-! ## A word that holds by its own check (R177, R447) -/

/-- Of the registers of a word that issues, none waits for an operation's token. -/
theorem tokenAmong_none {s : State} {uses : List Dest} (h : ∀ d ∈ uses, s.pendingDest d = false) : s.tokenAmong uses = none := by
  refine List.findSome?_eq_none_iff.mpr (fun d hd => ?_)
  have hfree := h d hd
  cases d with
  | s n =>
    simp only [State.pendingDest, Bool.or_eq_false_iff] at hfree
    simp only [hfree.2, Bool.false_eq_true, if_false]
  | _ => rfl

/-- A word of the sequencer that acts is left to its own check. -/
theorem verdict_of_acts {s : State} {g : Gate} {uses : List Dest} (check : State → Verdict) (h : Acts s 0 g uses) :
    s.verdict 0 (s.gateF g) (.f g.pred.toNat :: uses) free check = check s := by
  obtain ⟨⟨-, -, huses, hlanding⟩, hgate⟩ := h
  simp only [State.verdict, scoreboard_ok huses, landing_runs hlanding, hgate, free_ok, verdict_ok_and, Bool.false_eq_true, if_false, if_true]

/-- The state whose bundle holds on a group, and on no token (R163). -/
def heldOnGroup (s : State) (gid : Nat) : State :=
  { s with issue := { s.issue with status := .held, heldOn := none, heldGid := some gid } }

/-- A C word that acts and whose check holds leaves its bundle held. -/
theorem ctl_holds {i : Instr} {g : Gate} {uses : List Dest} {check : State → Verdict} {eff : State → State} {s : State} {gid : Nat}
    (h : Acts s 0 g uses) (hp : s.issue.pre = none) (hw : s.encodingOk i = true) (hgroup : s.heldGroup i = some gid) (hc : check s = .hold) :
    ctl i g uses check eff s = .next (heldOnGroup s gid) := by
  have hverdict := (verdict_of_acts check h).trans hc
  obtain ⟨⟨hthere, hresident, huses, -⟩, -⟩ := h
  simp only [ctl, runFlag, runWord, focus_there hthere hresident, hp, hw, hverdict, tokenAmong_none huses, hgroup, heldOnGroup, Bool.not_true,
    Bool.false_eq_true, if_false]

/-! ## Checks and effects of words that name a handle (R148, R150) -/

/-- A null destination handle passes outside restart regions and splits (R148, R216). -/
theorem newHandleCheck_ok {s : State} {hD : BitVec 3} (hidem : s.was.idem = none) (hsplit : s.splitOut = false) (hnull : s.rH hD = 0) :
    s.newHandleCheck hD = .ok := by
  simp only [State.newHandleCheck, hidem, hsplit, hnull, Option.isNone_none, Bool.not_false, Bool.and_true, BEq.rfl, need_true]

section

variable {s : State} {h : BitVec 3} {gid : Nat} {m : Member}

/-- What a word asks of its group is all that its check asks, where the handle stands and no counted arrival is out. -/
theorem groupCheck_member (noIdem noSplit : Bool) (more : Nat → Member → Verdict) (hidem : noIdem = true → s.was.idem = none)
    (hsplit : noSplit = true → s.splitOut = false) (hm : s.handleMember h = some (gid, m)) (hcounted : s.countedOn gid = false) :
    s.groupCheck h noIdem noSplit more = more gid m := by
  have hopen : (noIdem && s.was.idem.isSome || noSplit && s.splitOut) = false :=
    Bool.or_eq_false_iff.mpr ⟨Bool.and_eq_false_imp.mpr (fun hi => by rw [hidem hi]; rfl), Bool.and_eq_false_imp.mpr hsplit⟩
  simp only [State.groupCheck, hopen, hm, hcounted, Bool.false_eq_true, if_false]

theorem onMember_member (f : State → Nat → Member → State) (hm : s.handleMember h = some (gid, m)) : s.onMember h f = f s gid m := by
  simp only [State.onMember, hm]

/-- GWAIT passes where the generation of the last arrival has completed (R156). -/
theorem gwaitCheck_ok (hgiven : s.givenHere m = false) (hlast : ∀ n, m.last = some n → n < (s.groupAt gid).gen) :
    s.gwaitCheck gid m = .ok := by
  rw [State.gwaitCheck, hgiven, if_neg Bool.false_ne_true]
  split
  · rfl
  · next n hn => exact if_pos (hlast n hn)

/-- The group that a word holds on is the one its handle names (R163). -/
theorem group_of_handleMember (hm : s.handleMember h = some (gid, m)) : (s.byHandle (s.rH h).toNat (.ctx s.owner)).map Prod.fst = some gid :=
  congrArg (Option.map Prod.fst) hm

end

/-! ## Words that arrive and wait (R156 to R158, R447) -/

section

variable {s : State} {g : Gate} {i : Instr} {uses : List Dest} {x : State → Meeting} {gid : Nat} {m : Member}

/-- A word that arrives and waits asks, outside restart regions, only whether its generation has completed. -/
theorem meetGate_member {y : Meeting} (hidem : s.was.idem = none) (hm : s.handleMember y.h = some (gid, m)) (hcounted : s.countedOn gid = false) :
    s.meetGate y = s.meetCheck y :=
  groupCheck_member true false _ (fun _ => hidem) nofun hm hcounted

theorem takeMet_got {y : Meeting} {o : Outcome} (ho : (s.makeMet y).metGot = some o) :
    s.takeMet y = ((((s.makeMet y).wF 1 o.kept 1).wS y.sD o.first 1).wS y.sC o.second 1).mod (fun c => { c with met := none }) := by
  simp only [State.takeMet, ho]

/-- A word that need not wait has the effect of its generation, and adds no arrival to it. -/
theorem meetWord_met (h : Acts s 0 g uses) (hw : s.encodingOk i = true) (hc : s.meetGate (x s) = .ok) :
    meetWord i g uses x s = .next (s.takeMet (x s)) := by
  have hholds : s.meetHolds i g uses x = false := by
    rw [State.meetHolds, verdict_of_acts (fun t => t.meetGate (x t)) h, hc]
    exact Bool.and_false _
  rw [meetWord, ctl_next h hw hc, hholds]
  rfl

/-- The bundle held, its word makes its arrival where it may act at all. -/
theorem arriveHeld_heldOnGroup (y : Meeting) (h : Acts s 0 g uses) (hidem : s.was.idem = none) :
    (heldOnGroup s gid).arriveHeld g uses y = (heldOnGroup s gid).makeMet y := by
  have hscore : (heldOnGroup s gid).scoreboard 0 (.f g.pred.toNat :: uses) = .ok := scoreboard_ok h.1.2.2.1
  have hregion : (heldOnGroup s gid).was.idem.isNone = true := Option.isNone_iff_eq_none.mpr hidem
  exact if_pos ⟨hscore, h.2, hregion⟩

/-- By itself in its bundle, a word that must wait arrives and holds. -/
theorem meetWord_waits (h : Acts s 0 g uses) (hp : s.issue.pre = none) (hw : s.encodingOk i = true) (hidem : s.was.idem = none)
    (hgroup : s.heldGroup i = some gid) (hc : s.meetGate (x s) = .hold) :
    meetWord i g uses x s = .next ((heldOnGroup s gid).makeMet (x (heldOnGroup s gid))) := by
  have hholds : s.meetHolds i g uses x = true := by
    rw [State.meetHolds, verdict_of_acts (fun t => t.meetGate (x t)) h, hc, hp, hw]
    rfl
  rw [meetWord, ctl_holds h hp hw hgroup hc, hholds, ← arriveHeld_heldOnGroup _ h hidem]
  rfl

/-- A word that arrives and waits meets the others of its group, when what it brings does not depend on how its bundle stands. -/
theorem meetWord_meets (hexec : exec i s = meetWord i g uses x s) (h : Acts s 0 g uses) (hw : s.encodingOk i = true)
    (hidem : s.was.idem = none) (hm : s.handleMember (x s).h = some (gid, m)) (hcounted : s.countedOn gid = false)
    (hgroup : s.heldGroup i = some gid) (hx : x (heldOnGroup s gid) = x s) : Meets s gid i (x s) := by
  have hgate : s.meetGate (x s) = s.meetCheck (x s) := meetGate_member hidem hm hcounted
  refine ⟨fun o ho => ?completed, fun hp hnone => ?waiting⟩
  case completed =>
    have hok : s.meetGate (x s) = .ok := hgate.trans (if_pos (by rw [ho]; rfl))
    rw [hexec, meetWord_met h hw hok, takeMet_got ho]
  case waiting =>
    have hhold : s.meetGate (x s) = .hold := hgate.trans (if_neg (by rw [hnone]; exact Bool.false_ne_true))
    rw [hexec, meetWord_waits h hp hw hidem hgroup hhold, hx]
    rfl

end

/-! ## What each word does -/

section

variable {s : State} {g : Gate} {h : BitVec 3}

theorem execGnew_next {sA sN : BitVec 5} (ha : Acts s 0 g (.h h.toNat :: .f 1 :: useS [sA, sN])) (hidem : s.was.idem = none)
    (hsplit : s.splitOut = false) (hnull : s.rH h = 0) (hattr : attrOk (s.rS sA).toNat = true) : execGnew g sA sN h s =
      .next (s.putJoin h (s.createGroup (.ctx s.owner) s.me.region (bits (s.rS sN).toNat 0 32) (s.rS sA).toNat)) :=
  ctl_next ha (encodingOk_of_plain rfl rfl rfl rfl s)
    ((verdict_and_ok_iff _ _).mpr ⟨newHandleCheck_ok hidem hsplit hnull, (need_ok_iff s 0 _).mpr hattr⟩)

theorem execGjoin_next {sN : BitVec 5} (ha : Acts s 0 g (.h h.toNat :: .f 1 :: useS [sN])) (hidem : s.was.idem = none)
    (hsplit : s.splitOut = false) (hnull : s.rH h = 0) (hcounted : (s.groupNamed (bits (s.rS sN).toNat 0 32)).any s.countedOn = false) :
    execGjoin g sN h s = .next (s.putJoin h (s.joinGroup (.ctx s.owner) s.me.region (bits (s.rS sN).toNat 0 32))) :=
  ctl_next ha (encodingOk_of_plain rfl rfl rfl rfl s)
    ((verdict_and_ok_iff _ _).mpr ⟨newHandleCheck_ok hidem hsplit hnull, if_neg (by rw [hcounted]; exact Bool.false_ne_true)⟩)

/-- GWIN of a null handle needs no group (R160). -/
theorem execGwin_null (ha : Acts s 0 g [.h h.toNat]) (hidem : s.was.idem = none) (hsplit : s.splitOut = false) (hnull : s.rH h = 0) :
    execGwin g h s = .next (s.modCtx s.owner (fun c => { c with window := s.rH h })) :=
  ctl_next ha (encodingOk_of_plain rfl rfl rfl rfl s)
    ((if_pos hnull).trans ((need_ok_iff s 0 _).mpr (by simp only [hidem, hsplit, Option.isNone_none, Bool.not_false, Bool.and_self])))

variable {gid : Nat} {m : Member} (hm : s.handleMember h = some (gid, m)) (hcounted : s.countedOn gid = false)
include hm hcounted

theorem execGleave_next {cnt : Bool} (ha : Acts s 0 g [.h h.toNat]) (hidem : s.was.idem = none) (hsplit : s.splitOut = false) :
    execGleave g cnt h s =
      .next (((s.modCtx s.owner (fun c => if bits c.window.toNat 0 12 = gid then { c with window := 0 } else c)).issueArrival
        cnt true false gid 32 0).wH h 0) :=
  (ctl_next ha (encodingOk_of_plain rfl rfl rfl rfl s) (groupCheck_member true true _ (fun _ => hidem) (fun _ => hsplit) hm hcounted)).trans
    (congrArg Host.Outcome.next (onMember_member _ hm))

theorem execGarv_next {cnt : Bool} (ha : Acts s 0 g [.h h.toNat]) (hidem : s.was.idem = none) (hmay : s.arrivalHold gid m = .ok) :
    execGarv g cnt h s = .next (s.issueArrival cnt false false gid 32 0) :=
  (ctl_next ha (encodingOk_of_plain rfl rfl rfl rfl s) ((groupCheck_member true false _ (fun _ => hidem) nofun hm hcounted).trans hmay)).trans
    (congrArg Host.Outcome.next (onMember_member _ hm))

theorem execGwait_next (ha : Acts s 0 g [.h h.toNat, .f 1]) (hgiven : s.givenHere m = false)
    (hlast : ∀ n, m.last = some n → n < (s.groupAt gid).gen) : execGwait g h s = .next (s.wF 1 (m.last.isNone || !m.lastLost) 1) :=
  (ctl_next ha (encodingOk_of_plain rfl rfl rfl rfl s)
    ((groupCheck_member false false _ nofun nofun hm hcounted).trans (gwaitCheck_ok hgiven hlast))).trans
    (congrArg Host.Outcome.next (onMember_member _ hm))

theorem gbar_meets {cnt : Bool} (ha : Acts s 0 g [.h h.toNat, .f 1]) (hidem : s.was.idem = none) :
    Meets s gid (.gbar g cnt h) (barMeeting cnt h) :=
  meetWord_meets (x := fun _ => barMeeting cnt h) rfl ha (encodingOk_of_plain rfl rfl rfl rfl s) hidem hm hcounted
    (group_of_handleMember hm) rfl

theorem gvote_meets {cnt : Bool} {f : BitVec 3} {sD : BitVec 5} (ha : Acts s 0 g (.h h.toNat :: .f 1 :: .f f.toNat :: useS [sD]))
    (hidem : s.was.idem = none) : Meets s gid (.gvote g cnt f h sD) (s.voteMeeting cnt f h sD) :=
  meetWord_meets (x := fun t => t.voteMeeting cnt f h sD) rfl ha (encodingOk_of_plain rfl rfl rfl rfl s) hidem hm hcounted
    (group_of_handleMember hm) rfl

theorem grdc_meets {cnt : Bool} {sC sD sS : BitVec 5} {op : BitVec 4} (ha : Acts s 0 g (.h h.toNat :: .f 1 :: useS [sC, sD, sS]))
    (hop : op.toNat ≤ 8) (hidem : s.was.idem = none) : Meets s gid (.grdc g cnt h sC sD op sS) (s.reduceMeeting cnt h sC sD op sS) :=
  meetWord_meets (x := fun t => t.reduceMeeting cnt h sC sD op sS) rfl ha
    (encodingOk_of_plain (i := .grdc g cnt h sC sD op sS) (decide_eq_true hop) rfl rfl rfl s) hidem hm hcounted
    (group_of_handleMember hm) rfl

/-- GWIN maps a group that has a shared window (R160). -/
theorem execGwin_member (ha : Acts s 0 g [.h h.toNat]) (hidem : s.was.idem = none) (hsplit : s.splitOut = false) (hset : s.rH h ≠ 0)
    (hwin : (s.groupAt gid).win = true) : execGwin g h s = .next (s.modCtx s.owner (fun c => { c with window := s.rH h })) :=
  ctl_next ha (encodingOk_of_plain rfl rfl rfl rfl s)
    ((if_neg hset).trans ((groupCheck_member true true _ (fun _ => hidem) (fun _ => hsplit) hm hcounted).trans ((need_ok_iff s 0 _).mpr hwin)))

theorem execGqry_next {sel : BitVec 3} {sD : BitVec 5} (ha : Acts s 0 g (.h h.toNat :: useS [sD])) (hsel : sel.toNat ≤ 4) :
    execGqry g sel h sD s = .next (s.wS sD ((s.groupAt gid).query m sel.toNat) 1) :=
  (ctl_next ha (encodingOk_of_plain (i := .gqry g sel h sD) (decide_eq_true hsel) rfl rfl rfl s)
    (groupCheck_member false false _ nofun nofun hm hcounted)).trans (congrArg Host.Outcome.next (onMember_member _ hm))

end

/-- Settles O4, word by word. -/
theorem groupWords : Obligations.GroupWords := by
  unfold Obligations.GroupWords
  intro s g h gid m
  refine ⟨fun _ _ ha hidem hsplit hnull hattr => execGnew_next ha hidem hsplit hnull hattr,
    fun _ ha hidem hsplit hnull hcounted => execGjoin_next ha hidem hsplit hnull hcounted, fun hm hcounted => ?member, ?unmap⟩
  case member =>
    exact ⟨fun _ ha hidem hsplit => execGleave_next hm hcounted ha hidem hsplit,
      fun _ ha hidem hmay => execGarv_next hm hcounted ha hidem hmay,
      fun ha hgiven hlast => execGwait_next hm hcounted ha hgiven hlast,
      fun _ ha hidem => gbar_meets hm hcounted ha hidem,
      fun _ _ _ ha hidem => gvote_meets hm hcounted ha hidem,
      fun _ _ _ _ _ ha hop hidem => grdc_meets hm hcounted ha hop hidem,
      fun ha hidem hsplit hset hwin => execGwin_member hm hcounted ha hidem hsplit hset hwin,
      fun _ _ ha hsel => execGqry_next hm hcounted ha hsel⟩
  case unmap =>
    exact fun ha hidem hsplit hnull => (execGwin_null ha hidem hsplit hnull).trans (by rw [hnull])

end Sys2Proof.Proofs
end

section
/-!
PROOF. Decoding an encoded well-formed instruction gives it back (R165, R166, R328, R329).
-/
namespace Sys2Proof.Laws.RoundTrip

open Machine

/-- The round trip holds of every instruction: one lemma per constructor, in the order of `Instr`. -/
theorem statement (i : Instr) : Statement i :=
  i.casesOn (motive := Statement)
    nop nopw br brLong brf brfLong jmpi call callLong ret loop loopx brp brpLong join jinit jinitLiteral jarv jwait split splitLong merge
    regrp pass park spawn exit done idemb ideme gnew gjoin gleave garv gwait gbar gvote grdc gwin gqry trap trapLiteral sysret brk csrd
    cswr cswrLiteral brdl brdlLong add addLiteral sub subLiteral mul mulLiteral mulh mulhLiteral mulhu mulhuLiteral divs divsLiteral divu
    divuLiteral rems remsLiteral remu remuLiteral and andLiteral or orLiteral xor xorLiteral andn andnLiteral shl shlLiteral shr
    shrLiteral sar sarLiteral rotl rotlLiteral mins minsLiteral minu minuLiteral maxs maxsLiteral maxu maxuLiteral cmp flop sel mov movi
    moviLiteral lea clz ctz popc bfx bfi bcst bcstLiteral cxs cxsi cxv cxvi vadd vsub vmul vfma vmax vmin vabs vneg vrcp vrsq vexp vlog
    vtanh viadd visub vimul vimad vimin vimax vand vor vxor vshl vshr vsar vcmp vsel vmov vcvt vpack vunpk vreds vscan vperm vlane vqcnt
    vcmps vqop mma mmsp kvmm kvmv gmma oclm orel old otag otagQ otagLiteral azro aadd adrn shp dstq scl scli sclz lds ldsLiteral sts
    stsLiteral lda stl stx atom atcas vld vst vldp vstp vldg vstg vatom port cpy cpyl cpyw cpyk fence pfx xpf cwb cinv pbinv pgmap tinv
    btinv kvseq kvseqLiteral xshf xred xbc xvot xpick xsnd xrcv xrca xchs chld kld kldLiteral kgo kwt send recv rdc copy waitCnt waitGrp
    waitTs sigArv sigJoin sigLeave sigNew sigStl kuborLoop brc kend abort srseed fqnext kcurWrite asyncRoundEntry asyncOpStop
    copyComplete oldLoadComplete loadDataReturn channelElementArrival invalidationComplete translationWalk segmentFetch binTimer stealAge
    steal binLaunch waitingItemFile itemReady parkWake cwthrExpiry preempt resume deferredPark candidateAge coresGroupResume regionFree
    xpFillComplete readyToReceive rendezvousTimeout peerAbort kuborDataComplete timedIssue launch launchComplete retire refresh hold
    release rstctl registerWrite memoryBarRead memoryBarWrite fwEnable fwDisable halt run step stepall debugEnableSet debugEnableClear
    dbgdata lwin xpctl stctl promote demote replace refetch nvmeCompletion start checkpointTransfer restore enterGangIdle
    enterDieRetention enterPackageStandby wake currentGrant ttctl tdom tsnap gret gangErrorRetire hbmChannelSpare laneFailure scrub
    eccUncorrectable boot bootimg attreq keyld linkMemoryArrival multiplyReadsDone flitReplay hbmSpareCopyDone

/-- The bytes of an encoded word, whatever follows them, read back as that word with its E bit and its length. -/
theorem decode_encodeWord {i : Instr} {last : Bool} {bytes : List Byte} (rest : List Byte) (h : encodeWord last i = some bytes) :
    ∃ raw, readWord (bytes ++ rest) = some (raw, rest) ∧ raw.last = last ∧ raw.len = bytes.length ∧ decodeParts raw.parts = some i := by
  obtain ⟨p, hp, rfl⟩ := Option.map_eq_some_iff.mp h
  obtain ⟨hcls, hop, hf, hdecode⟩ := (statement i).1 p hp
  obtain ⟨raw, hread, hlast, hlen, rfl⟩ := readWord_back last p rest hcls hop hf
  exact ⟨raw, hread, hlast, hlen, hdecode⟩

end Sys2Proof.Laws.RoundTrip

namespace Sys2Proof.Proofs

/-- Settles O57: every instruction's parts and Kubor bits decode to it, and a word's bytes read back as its parts. -/
theorem decodeOfEncode : Obligations.DecodeOfEncode := by
  unfold Obligations.DecodeOfEncode
  intro i _
  exact ⟨fun _ _ rest h => Laws.RoundTrip.decode_encodeWord rest h, (Laws.RoundTrip.statement i).2⟩

end Sys2Proof.Proofs
end

section
/-!
PROOF. A word of class C or S whose flag is false has no effect (R55, R170, R177, R188).
-/
namespace Sys2Proof.Proofs

open Machine Laws

/-! ## What issuing a word can answer -/

/-- A word that answers a state has its effect if it acts, holds, or traps: on its encoding or by its verdict. -/
theorem runWord_cases {i : Instr} {w : Needs} {eff : State → State} {s t : State} (h : runWord i w eff s = .next t) :
    t = (if w.acts s then eff s else s) ∨ Held s t ∨ (Trapped s t ∧ s.issue.pre = none ∧
      (s.encodingOk i = false ∨ ∃ n l, s.verdict w.cls (w.acts s) (w.uses s) w.holds w.check = .trap n l)) := by
  unfold runWord at h
  split at h
  · cases h
  · split at h
    · exact .inl (Host.Outcome.next.inj h).symm
    · next hp =>
      split at h
      · next hw => exact .inr (.inr ⟨⟨_, _, (Host.Outcome.next.inj h).symm⟩, hp, .inl ((Bool.not_eq_true' _).mp hw)⟩)
      · split at h
        · exact .inl (Host.Outcome.next.inj h).symm
        · exact .inr (.inl ⟨_, _, (Host.Outcome.next.inj h).symm⟩)
        · next hv => exact .inr (.inr ⟨⟨_, _, (Host.Outcome.next.inj h).symm⟩, hp, .inr ⟨_, _, hv⟩⟩)

/-- A well-formed word that its verdict holds answers the held state. -/
theorem runWord_held {i : Instr} {w : Needs} {eff : State → State} {s t : State} (h : runWord i w eff s = .next t)
    (hp : s.issue.pre = none) (hw : s.encodingOk i = true) (hv : s.verdict w.cls (w.acts s) (w.uses s) w.holds w.check = .hold) :
    Held s t := by
  simp only [runWord, hw, hv, Bool.not_true, Bool.false_eq_true, if_false] at h
  split at h
  · cases h
  · split at h
    · next hpre => exact nomatch hp.symm.trans hpre
    · exact ⟨_, _, (Host.Outcome.next.inj h).symm⟩

/-- A hold changes no flag. -/
theorem gateF_held {s t : State} (h : Held s t) (g : Gate) : t.gateF g = s.gateF g := by
  obtain ⟨_, _, rfl⟩ := h
  rfl

/-! ## Words whose flag is false -/

/-- A word of class C or S that does not act is asked only for its registers. -/
theorem verdict_idle {s : State} {cls : Nat} (hcls : cls < 2) (uses : List Dest) (check : State → Verdict) :
    s.verdict cls false uses free check = s.scoreboard cls uses := by
  simp only [State.verdict, decide_eq_false (Nat.not_le.mpr hcls), Bool.and_false, Bool.false_eq_true, if_false, free_ok, verdict_ok_and]
  cases s.scoreboard cls uses <;> rfl

/-- The scoreboard traps only on the token of an operation that has stopped (R55). -/
theorem stoppedToken_of_scoreboard_trap {s : State} {cls : Nat} {uses : List Dest} {n : Bool} {l : List FaultRec}
    (h : s.scoreboard cls uses = .trap n l) : ∃ k, s.stoppedToken (.s k) = true := by
  unfold State.scoreboard at h
  split at h
  · next hany =>
    obtain ⟨d, -, hd⟩ := List.any_eq_true.mp hany
    cases d with
    | s k => exact ⟨k, hd⟩
    | _ => cases hd
  · split at h <;> cases h

/-- What the answer to a word whose flag is false can be. -/
structure FlagFalse (i : Instr) (s : State) (a : Answer) : Prop where
  stays : (tableFind s.ctxs s.focus).isSome = true → s.me.place.resident = true → s.encodingOk i = true →
    (∀ d, s.pendingDest d = false) → a = .next s
  answers : ∀ t, a = .next t → t = s ∨ Held s t ∨
    (Trapped s t ∧ s.issue.pre = none ∧ (s.encodingOk i = false ∨ ∃ n, s.stoppedToken (.s n) = true))

section

variable {i : Instr} {g : Gate} {s : State} (hg : s.gateF g = false)
include hg

theorem runFlag_flagFalse {cls : Nat} (hcls : cls < 2) (uses : List Dest) (check : State → Verdict) (eff : State → State) :
    FlagFalse i s (runFlag i cls g uses check eff s) where
  stays hthere hresident hw hfree := runFlag_false ⟨hthere, hresident, fun d _ => hfree d, fun h => absurd hcls (Nat.not_lt.mpr h)⟩ hg hw
  answers t h := by
    rcases runWord_cases h with ht | hheld | ⟨htrap, hp, hwhy⟩
    · exact .inl (ht.trans (if_neg (Bool.eq_false_iff.mp hg)))
    · exact .inr (.inl hheld)
    · refine .inr (.inr ⟨htrap, hp, hwhy.imp_right ?_⟩)
      rintro ⟨n, l, hv⟩
      have hidle : s.verdict cls (s.gateF g) (.f g.pred.toNat :: uses) free check = .trap n l := hv
      rw [hg, verdict_idle hcls] at hidle
      exact stoppedToken_of_scoreboard_trap hidle

/-! ## Words that do more while they hold: nothing, while their flag is false -/

/-- A word of the sequencer that holds leaves its flag false. -/
theorem gateF_ctl_held {uses : List Dest} {check : State → Verdict} {eff : State → State} {t : State} (h : ctl i g uses check eff s = .next t)
    (hp : s.issue.pre = none) (hw : s.encodingOk i = true) (hv : s.verdict 0 (s.gateF g) (.f g.pred.toNat :: uses) free check = .hold) :
    t.gateF g = false := by
  unfold ctl runFlag at h
  exact (gateF_held (runWord_held h hp hw hv) g).trans hg

theorem meetWord_flagFalse (uses : List Dest) (x : State → Meeting) : FlagFalse i s (meetWord i g uses x s) := by
  have hsame : meetWord i g uses x s = ctl i g uses (fun t => t.meetGate (x t)) (fun t => t.takeMet (x t)) s := by
    unfold meetWord
    split
    · next t ht =>
      rw [ht]
      split
      · next hholds =>
        simp only [State.meetHolds, Bool.and_eq_true, Option.isNone_iff_eq_none, beq_iff_eq] at hholds
        obtain ⟨⟨hp, hw⟩, hv⟩ := hholds
        rw [State.arriveHeld, gateF_ctl_held hg ht hp hw hv, if_neg (fun h => Bool.false_ne_true h.2.1)]
      · rfl
    · rfl
  rw [hsame]
  exact runFlag_flagFalse hg Nat.two_pos _ _ _

theorem execSpawn_flagFalse (sA : BitVec 5) : FlagFalse (.spawn g sA) s (execSpawn g sA s) := by
  have hsame : execSpawn g sA s =
      ctl (.spawn g sA) g (.f 1 :: useS [sA]) (fun t => t.spawnCheck (t.rS sA)) (fun t => t.spawn (t.rS sA)) s := by
    unfold execSpawn
    split
    · next t ht =>
      rw [ht]
      split
      · next hholds =>
        simp only [State.spawnHolds, Bool.and_eq_true, Option.isNone_iff_eq_none, beq_iff_eq] at hholds
        obtain ⟨hp, hv⟩ := hholds
        have hgate := gateF_ctl_held hg ht hp (encodingOk_of_plain rfl rfl rfl rfl s) hv
        simp only [State.queueSpawn, hgate, Bool.not_false, Bool.or_true, Bool.true_or, if_true]
      · rfl
    · rfl
  rw [hsame]
  exact runFlag_flagFalse hg Nat.two_pos _ _ _

theorem execRegrp_flagFalse (h : BitVec 3) : FlagFalse (.regrp g h) s (execRegrp g h s) := by
  have hsame : execRegrp g h s = ctl (.regrp g h) g [.h h.toNat, .f 1] (fun t => t.regrpGate h) (fun t => t.regrpWord h) s := by
    unfold execRegrp
    split
    · next t ht =>
      rw [ht]
      split
      · next hholds =>
        simp only [State.regrpHolds, Bool.and_eq_true, Option.isNone_iff_eq_none, beq_iff_eq] at hholds
        obtain ⟨hp, hv⟩ := hholds
        have hgate := gateF_ctl_held hg ht hp (encodingOk_of_plain rfl rfl rfl rfl s) hv
        simp only [State.regrpMark, hgate, Bool.not_false, Bool.or_true, Bool.true_or, if_true]
      · rfl
    · rfl
  rw [hsame]
  exact runFlag_flagFalse hg Nat.two_pos _ _ _

end

/-- Every word of class C or S whose flag is false has no effect. -/
theorem exec_flagFalse {s : State} {i : Instr} {p : Parts} (hp : encodeParts i = some p) (hcls : p.cls < 2) (hg : s.gateF p.gate = false) :
    FlagFalse i s (exec i s) := by
  cases i <;> cases hp
  case gbar | gvote | grdc => exact meetWord_flagFalse hg ..
  case spawn => exact execSpawn_flagFalse hg _
  case regrp => exact execRegrp_flagFalse hg _
  -- The words of the other classes are none of these; each that is left is issued by `runFlag`.
  all_goals simp at hcls
  all_goals apply runFlag_flagFalse hg
  all_goals decide

/-- Settles O44: the words are issued by one operation, which asks a word that does not act only for its registers. -/
theorem falseFlagHasNoEffect : Obligations.FalseFlagHasNoEffect := by
  unfold Obligations.FalseFlagHasNoEffect
  intro s i p hp hcls hg
  obtain ⟨hstays, hanswers⟩ := exec_flagFalse hp hcls hg
  exact ⟨fun ⟨hthere, hresident, _, _⟩ _ hw hfree => hstays hthere hresident hw hfree, hanswers⟩

end Sys2Proof.Proofs
end

section
/-!
PROOF. The frame of the scalar words fails where a word of a bundle does not act and its destination waits for an operation's token (R172,
R174).
-/
namespace Sys2Proof.Proofs

open Machine Laws

/-- Outside the handler a trap marks the issue as trapped (R54). -/
theorem status_enterTrap {s : State} {cid : Nat} (h : Entering s cid) (epc : Nat) (recs : List FaultRec) :
    (s.enterTrap cid epc recs).issue.status = .trapped := by
  obtain ⟨dies, ht⟩ := enterTrap_outside h epc recs
  rw [ht]
  rfl

/-- Context 1 acts the words of a bundle that has passed its checks, while an operation is still to write its token to scalar 1. -/
def tokenInBundle : State :=
  let c : Ctx := { tokens := 2, place := .gang 0 0 }
  { State.reset with focus := 1, nextCid := 2, ctxs := [(1, c)], issue := { pre := some ⟨c, []⟩ } }

theorem tokenInBundle_entering : Entering tokenInBundle tokenInBundle.focus where
  outside := rfl
  own := nofun
  others := by decide

/-- ADD s1, gated by the negation of f0, does not act: the state stays as it is. -/
theorem tokenInBundle_add : exec (.add ⟨0, true⟩ 0 0 1) tokenInBundle = .next tokenInBundle := rfl

theorem tokenInBundle_not_held : ¬ Held tokenInBundle tokenInBundle := by
  rintro ⟨on, gid, h⟩
  exact nomatch congrArg (fun t : State => t.issue.status) h

theorem tokenInBundle_not_trapped : ¬ Trapped tokenInBundle tokenInBundle := by
  rintro ⟨epc, recs, h⟩
  have hstatus := (congrArg (fun t : State => t.issue.status) h).trans (status_enterTrap tokenInBundle_entering epc recs)
  exact nomatch hstatus

/-- The frame asks for a state in which the operation no longer writes its token to scalar 1. -/
theorem tokenInBundle_not_onlyScalar : ¬ OnlyScalar 1 tokenInBundle tokenInBundle := by
  rintro ⟨-, -, h⟩
  have htokens : (2 : BitVec 32) = (tokenTaken 1 tokenInBundle).me.tokens := congrArg Ctx.tokens h
  exact absurd htokens (by decide)

/-- Refutes O51: a scalar word of a bundle that does not act leaves the token of its destination to the operation, and the frame takes it
away. -/
theorem not_scalarWordsFrame : ¬ Obligations.ScalarWordsFrame := by
  unfold Obligations.ScalarWordsFrame
  intro h
  rcases (h _ _ _ tokenInBundle_add).1 1 rfl with hheld | htrap | ⟨honly, -⟩
  · exact tokenInBundle_not_held hheld
  · exact tokenInBundle_not_trapped htrap
  · exact tokenInBundle_not_onlyScalar honly

end Sys2Proof.Proofs
end

section
/-!
PROOF. The words that only the handler may issue (R178).
-/
namespace Sys2Proof.Proofs

open Machine Laws

/-- Outside supervisor mode SYSRET traps before it looks at EPC. -/
theorem execSysret_trap {s : State} {g : Gate} (hp : s.issue.pre = none) (hsup : s.me.sup = false) (h : Acts s 0 g []) :
    exec (.sysret g) s = .next (s.enterTrap s.focus s.issue.bundle [s.seqRec rSTATE 0 0 0]) := by
  change execSysret g s = _
  exact ctl_trap (n := false) h hp (encodingOk_of_plain rfl rfl rfl rfl s) (by rw [was_alone hp, hsup]; rfl)

/-- A record that the sequencer makes names itself as one. -/
theorem isSeq_seqRec (s : State) {reason space : Nat} (cls : Nat) (addr : Dword) (hr : reason < 2 ^ 8) (hs : space < 2 ^ 3) :
    (s.seqRec reason space cls addr).isSeq = true := by
  simp only [FaultRec.isSeq, State.seqRec, causeWord, bit, BitVec.getLsbD_ofNat, Nat.testBit_eq_decide_div_mod_eq, Bool.and_eq_true,
    decide_eq_true_eq, Bool.false_eq_true, if_false, if_true]
  omega

/-- It gives the reason that it was made for. -/
theorem reason_seqRec (s : State) {reason : Nat} (space cls : Nat) (addr : Dword) (hr : reason < 2 ^ 8) :
    (s.seqRec reason space cls addr).reason.toNat = reason := by
  simp only [FaultRec.reason, State.seqRec, causeWord, bit, BitVec.toNat_ofNat, Bool.false_eq_true, if_false, if_true]
  omega

/-- Settles O46: SYSRET by its own check, the others by the check that the handler's M words share. -/
theorem handlerOnlyWords : Obligations.HandlerOnlyWords := by
  unfold Obligations.HandlerOnlyWords
  intro s g hp hsup trapped
  have hnext : ∀ {i : Instr} (cls : Nat), exec i s = .next (s.enterTrap s.focus s.issue.bundle [s.seqRec rSTATE 0 cls 0]) → trapped i :=
    fun cls h => ⟨_, isSeq_seqRec s cls 0 (by decide) (by decide), reason_seqRec s 0 cls 0 (by decide), h⟩
  refine ⟨fun h => hnext 0 (execSysret_trap hp hsup h), fun hg => ⟨?pgmap, ?tinv, ?btinv⟩⟩
  case pgmap =>
    exact fun _ _ sz zf perm h hw => hnext 6 (handlerWord_traps hg hp hsup h hw (.inl ⟨sz, zf, perm, rfl⟩))
  case tinv => exact fun kind _ _ h hw => hnext 6 (handlerWord_traps hg hp hsup h hw (.inr (.inl ⟨kind, rfl⟩)))
  case btinv => exact fun _ _ nblk all h hw => hnext 6 (handlerWord_traps hg hp hsup h hw (.inr (.inr ⟨nblk, all, rfl⟩)))

end Sys2Proof.Proofs
end

section
/-!
PROOF. Writes of s0, f0, p0 and q0 are discarded (R15, R172).
-/
namespace Sys2Proof.Proofs

open Machine Laws

/-! ## The registers -/

theorem wP_zero (s : State) (e : Nat) (b : Bool) (L : Nat) : s.wP e 0 b L = s := rfl

theorem wQ_zero (s : State) (e : Nat) (v : LaneMask) (L : Nat) : s.wQ e 0 v L = s := rfl

theorem pred_zero (x : EngCtx) : x.pred 0 = true := rfl

theorem qreg_zero (x : EngCtx) : x.qreg 0 = BitVec.allOnes 64 := rfl

/-- f0, p0 and q0 read true and all ones, whatever is inside its bound. -/
theorem reads_zero (s : State) (e : Nat) : s.rF 0 = true ∧ s.rP e 0 = true ∧ s.rQ e 0 = BitVec.allOnes 64 := ⟨rfl, rfl, rfl⟩

/-! ## The words that write them -/

section

variable {s : State} {g : Gate}

theorem execAdd_zero {sb sa : BitVec 5} (h : Acts s 1 g (useS [0, sa, sb])) : exec (.add g sb sa 0) s = .next s := by
  change execAdd g sb sa 0 s = _
  exact (threeReg_next h (encodingOk_of_plain rfl rfl rfl rfl s)).trans (by rw [wS_zero])

/-- A load to s0 leaves the miss, the read, and the way through a link window. -/
theorem loadS_zero (s : State) (sz : Nat) (sgn : Bool) (va : Dword) :
    s.loadS 0 sz sgn va = (s.through .read va (.s 0)).touch (.context s.focus) s.party .read va.toNat (2 ^ sz) := wSheld_zero _ _

theorem execLds_zero {sA : BitVec 5} (hg : s.gateM g = true) (h : Issues s 6 (useS [sA, 0]))
    (hf : s.flatFault s.party .read (s.rS sA).toNat 8 = none) : exec (.lds g false 3 sA 0) s =
      .next ((s.through .read (s.rS sA) (.s 0)).touch (.context s.focus) s.party .read (s.rS sA).toNat 8) := by
  change execLds g false 3 sA 0 s = _
  exact (execLds_next (sz := 3) hg h rfl hf).trans (congrArg Host.Outcome.next (loadS_zero s 3 false _))

/-- A V word without a vector destination has its effect in the engines where it acts, and pops its ports. -/
theorem predWord_next {i : Instr} {reads : List Nat} {eff : State → State → Nat → State} (hw : s.encodingOk i = true)
    (h : Issues s 3 (s.useV reads)) (hp : s.portCheck 3 reads [] = .ok) :
    predWord i g reads eff s = .next ((s.each (s.acting g) (eff s)).popAll reads) := runPop_next h hw hp

theorem putMask_zero (u : State) (e : Nat) {f : VFields} (hvd : f.vd = 0) (m new : LaneMask) (L : Nat) : u.putMask e f m new L = u := by
  rw [State.putMask, hvd]
  exact wQ_zero u e _ L

theorem execVcmp_zero {f : VFields} {lit : Option Dword} (hvd : f.vd = 0) (hw : s.encodingOk (.vcmp g f lit) = true)
    (h : Issues s 3 (s.useV (vreads f 2 lit))) (hp : s.portCheck 3 (vreads f 2 lit) [] = .ok) :
    exec (.vcmp g f lit) s = .next ((s.each (s.acting g) (fun u e =>
      u.raise e (laneFlags (s.compareLanes f lit e (s.laneMask e f.lq f.ln))))).popAll (vreads f 2 lit)) := by
  change execVcmp g f lit s = _
  refine (predWord_next hw h hp).trans ?_
  simp only [putMask_zero _ _ hvd]

end

/-- Settles O50: the registers, then a word that writes each kind of them. -/
theorem discardedWrites : Obligations.DiscardedWrites := by
  unfold Obligations.DiscardedWrites
  exact ⟨fun s v L => ⟨wS_zero s v L, wSheld_zero s v⟩, fun s b L => ⟨wF_zero s b L, fun e => wP_zero s e b L⟩, wQ_zero,
    fun c => ⟨sreg_zero c, flag_zero c⟩, fun x => ⟨pred_zero x, qreg_zero x⟩, reads_zero, fun _ _ _ _ h => execAdd_zero h,
    fun _ _ _ hg h hf => execLds_zero hg h hf, fun _ _ _ _ hvd hw h hp => execVcmp_zero hvd hw h hp⟩

end Sys2Proof.Proofs
end

section
/-!
PROOF. Words written out from their encodings decode to their instructions (R165, R166, R328).
-/
namespace Sys2Proof.Proofs

/-- Settles O56: the decoder is run on each word. -/
theorem decodingIsRight : Obligations.DecodingIsRight := by
  unfold Obligations.DecodingIsRight
  decide

end Sys2Proof.Proofs
end

section
/-!
PROOF. Each three-register scalar word writes its function of its operands, division with every corner case (R226 to R228).
-/
namespace Sys2Proof.Proofs

open Machine Laws

/-! ## The functions as the rules state them (R227, R228) -/

theorem divuFn_eq (a b : Dword) : divuFn a b = if b = 0 then BitVec.allOnes 64 else BitVec.ofNat 64 (a.toNat / b.toNat) := by
  rw [divuFn, BitVec.udiv_def]

theorem remuFn_eq (a b : Dword) : remuFn a b = if b = 0 then a else BitVec.ofNat 64 (a.toNat % b.toNat) := by
  rw [remuFn, BitVec.umod_def]

theorem minsFn_eq (a b : Dword) : minsFn a b = if a.toInt < b.toInt then a else b := by
  simp only [minsFn, BitVec.slt_iff_toInt_lt]

theorem minuFn_eq (a b : Dword) : minuFn a b = if a.toNat < b.toNat then a else b := by
  simp only [minuFn, BitVec.ult_iff_lt, BitVec.lt_def]

theorem maxsFn_eq (a b : Dword) : maxsFn a b = if a.toInt < b.toInt then b else a := by
  simp only [maxsFn, BitVec.slt_iff_toInt_lt]

theorem maxuFn_eq (a b : Dword) : maxuFn a b = if a.toNat < b.toNat then b else a := by
  simp only [maxuFn, BitVec.ult_iff_lt, BitVec.lt_def]

/-- The one signed division that overflows gives the smallest integer, to which its quotient wraps (R228). -/
theorem divsFn_corners (a b : Dword) : divsFn a b =
    if b = 0 then 0xFFFF_FFFF_FFFF_FFFF
    else if a = 0x8000_0000_0000_0000 ∧ b = -1 then 0x8000_0000_0000_0000 else BitVec.ofInt 64 (a.toInt.tdiv b.toInt) := by
  have hwraps : a = 0x8000_0000_0000_0000 ∧ b = -1 → 0x8000_0000_0000_0000 = BitVec.ofInt 64 (a.toInt.tdiv b.toInt) := by
    rintro ⟨rfl, rfl⟩
    decide
  rw [ite_eq_right_iff.mpr hwraps]
  rfl

/-- Its remainder is 0 (R228). -/
theorem remsFn_corners (a b : Dword) : remsFn a b =
    if b = 0 then a else if a = 0x8000_0000_0000_0000 ∧ b = -1 then 0 else BitVec.ofInt 64 (a.toInt.tmod b.toInt) := by
  have hzero : a = 0x8000_0000_0000_0000 ∧ b = -1 → 0 = BitVec.ofInt 64 (a.toInt.tmod b.toInt) := by
    rintro ⟨rfl, rfl⟩
    decide
  rw [ite_eq_right_iff.mpr hzero]
  rfl

/-! ## The two forms of the words (R226) -/

/-- A well-formed word that names no port and no channel: no state fails its encoding checks (R188). -/
def Plain (i : Instr) : Prop := i.wellFormed = true ∧ channelUse i = none ∧ sourceCodes i = [] ∧ destCodes i = []

theorem Plain.encodingOk {i : Instr} (h : Plain i) (s : State) : s.encodingOk i = true := by
  obtain ⟨hw, hc, hs, hd⟩ := h
  exact encodingOk_of_plain hw hc hs hd s

section

variable {s : State} {g : Gate} {i : Instr} {sa sb sd : BitVec 5} {L : Nat} {v : Dword}

/-- A word on two registers writes the value of its function (R226). -/
theorem registerForm_next (h : Acts s 1 g (useS [sd, sa, sb])) (f : Dword → Dword → Dword) (hv : f (s.rS sa) (s.rS sb) = v)
    (hexec : exec i s = threeReg i g sa sb sd none L f s := by rfl) (hp : Plain i := by exact ⟨rfl, rfl, rfl, rfl⟩) :
    exec i s = .next (s.wS sd v L) := by
  rw [hexec, threeReg_next h (hp.encodingOk s), ← hv]
  rfl

/-- A word on a register and its literal does so (R226). -/
theorem literalForm_next {lit : Dword} (h : Acts s 1 g (useS [sd, sa])) (f : Dword → Dword → Dword) (hv : f (s.rS sa) lit = v)
    (hexec : exec i s = threeReg i g sa 0 sd (some lit) L f s := by rfl) (hp : Plain i := by exact ⟨rfl, rfl, rfl, rfl⟩) :
    exec i s = .next (s.wS sd v L) := by
  rw [hexec, threeReg_next h (hp.encodingOk s), ← hv]
  rfl

end

/-- Settles O6: both forms of each word, with the value of its function. -/
theorem scalarThreeRegister : Obligations.ScalarThreeRegister := by
  unfold Obligations.ScalarThreeRegister
  intro s g sa sb sd lit result
  refine ⟨fun h => ?register, fun h => ?literal⟩
  case register =>
    exact ⟨registerForm_next h addFn rfl, registerForm_next h subFn rfl, registerForm_next h mulFn rfl, registerForm_next h mulhFn rfl,
      registerForm_next h mulhuFn rfl, registerForm_next h divsFn rfl, registerForm_next h divuFn (divuFn_eq _ _), registerForm_next h remsFn rfl,
      registerForm_next h remuFn (remuFn_eq _ _), registerForm_next h andFn rfl, registerForm_next h orFn rfl, registerForm_next h xorFn rfl,
      registerForm_next h andnFn rfl, registerForm_next h shlFn rfl, registerForm_next h shrFn rfl, registerForm_next h sarFn rfl,
      registerForm_next h rotlFn rfl, registerForm_next h minsFn (minsFn_eq _ _), registerForm_next h minuFn (minuFn_eq _ _),
      registerForm_next h maxsFn (maxsFn_eq _ _), registerForm_next h maxuFn (maxuFn_eq _ _)⟩
  case literal =>
    exact ⟨literalForm_next h addFn rfl, literalForm_next h subFn rfl, literalForm_next h mulFn rfl, literalForm_next h mulhFn rfl,
      literalForm_next h mulhuFn rfl, literalForm_next h divsFn rfl, literalForm_next h divuFn (divuFn_eq _ _), literalForm_next h remsFn rfl,
      literalForm_next h remuFn (remuFn_eq _ _), literalForm_next h andFn rfl, literalForm_next h orFn rfl, literalForm_next h xorFn rfl,
      literalForm_next h andnFn rfl, literalForm_next h shlFn rfl, literalForm_next h shrFn rfl, literalForm_next h sarFn rfl,
      literalForm_next h rotlFn rfl, literalForm_next h minsFn (minsFn_eq _ _), literalForm_next h minuFn (minuFn_eq _ _),
      literalForm_next h maxsFn (maxsFn_eq _ _), literalForm_next h maxuFn (maxuFn_eq _ _)⟩

/-! ## Division (R228) -/

theorem putS_nextIssue (c : Ctx) (n : Nat) (v : Dword) : (c.putS n v).nextIssue = c.nextIssue := by
  unfold Ctx.putS
  split <;> rfl

theorem note_nextIssue (c : Ctx) (d : Dest) (old cyc L : Nat) (engine : Bool) :
    (c.note d old cyc L engine).nextIssue = c.nextIssue := by
  have hframe := congrArg (fun x : Ctx => x.nextIssue) (noteIn_frame c wholeDest d old cyc L engine)
  exact hframe

theorem tokenLost_nextIssue (s : State) (n : Nat) : (s.tokenLost n).me.nextIssue = s.me.nextIssue := by
  unfold State.tokenLost
  split
  · rw [me_mod]
    rfl
  · rfl

/-- A write of a scalar, of whatever bound, leaves the cycle from which the context's next bundle may issue (R175, R179). -/
theorem wS_nextIssue (s : State) (n : BitVec 5) (v : Dword) (L : Nat) : (s.wS n v L).me.nextIssue = s.me.nextIssue := by
  unfold State.wS
  split
  · rfl
  · rw [me_mod, putS_nextIssue, note_nextIssue, tokenLost_nextIssue]

/-- Settles O49: the words of O6, whose corner cases the statement writes out. -/
theorem division : Obligations.Division := by
  unfold Obligations.Division
  intro s g sb sa sd lit minInt divs rems divu remu
  refine ⟨fun v => wS_nextIssue s sd v 20, fun h => ?register, fun h => ?literal⟩
  case register =>
    exact ⟨registerForm_next h divsFn (divsFn_corners _ _), registerForm_next h remsFn (remsFn_corners _ _),
      registerForm_next h divuFn (divuFn_eq _ _), registerForm_next h remuFn (remuFn_eq _ _)⟩
  case literal =>
    exact ⟨literalForm_next h divsFn (divsFn_corners _ _), literalForm_next h remsFn (remsFn_corners _ _),
      literalForm_next h divuFn (divuFn_eq _ _), literalForm_next h remuFn (remuFn_eq _ _)⟩

end Sys2Proof.Proofs
end

section
/-!
PROOF. Compares, flag tables, moves, addresses, counts, bit fields and broadcasts (R229 to R233).
-/
namespace Sys2Proof.Proofs

open Machine Laws

/-! ## Values -/

/-- A signed field widened by its value, as by its bits (R199). -/
theorem sext64_eq {w : Nat} (x : BitVec w) : sext64 w x.toNat = x.signExtend 64 := by
  have hvalue : toSigned w x.toNat = x.toInt := by
    rw [toSigned, Nat.mod_eq_of_lt x.isLt, BitVec.toInt_eq_toNat_cond]
    cases w with
    | zero => simp [BitVec.toNat_of_zero_length]
    | succ n =>
      rw [Nat.add_sub_cancel, pow_succ]
      congr 1
      exact propext ⟨fun h => by omega, fun h => by omega⟩
  rw [sext64, hvalue, BitVec.signExtend]

/-- FLOP's table has its entry for fa and fb at 2 · fa + fb (R230). -/
theorem truth_eq (tt : BitVec 4) (a b : Bool) : truth tt.toNat a b = tt.getLsbD ((if a then 2 else 0) + (if b then 1 else 0)) := by
  cases a <;> cases b <;> rfl

/-! ## What each word does -/

section

variable {s : State} {g : Gate} {sa sb sd : BitVec 5}

/-- A word that writes a scalar, and that no encoding check refuses, writes its value. -/
theorem valueWord_next {i : Instr} {uses : List (BitVec 5)} {L : Nat} {v : Dword} (h : Acts s 1 g (useS (sd :: uses)))
    (f : State → Dword) (hv : f s = v) (hexec : exec i s = scalarWord i g uses sd L f s := by rfl)
    (hp : Plain i := by exact ⟨rfl, rfl, rfl, rfl⟩) : exec i s = .next (s.wS sd v L) := by
  rw [hexec, ← hv]
  exact runFlag_next h (hp.encodingOk s) rfl

theorem execCmp_next {fc fd : BitVec 3} {comb : BitVec 2} {cond : BitVec 4} {lit : Option Dword}
    (h : Acts s 1 g (.f fc.toNat :: .f fd.toNat :: useS [sa, sb])) (hw : Instr.wellFormed (.cmp g fc sb sa fd comb cond lit) = true) :
    execCmp g fc sb sa fd comb cond lit s =
      .next (s.wF fd (cmpComb comb.toNat (cmpCond cond.toNat (s.rS sa) (s.rSLit sb lit)) (s.rF fc)) 1) :=
  runFlag_next h (encodingOk_of_plain hw rfl rfl rfl s) rfl

theorem execFlop_next {tt : BitVec 4} {fa fb fd : BitVec 3} (h : Acts s 1 g [.f fb.toNat, .f fa.toNat, .f fd.toNat]) :
    execFlop g tt fb fa fd s = .next (s.wF fd (truth tt.toNat (s.rF fa) (s.rF fb)) 1) :=
  runFlag_next h (encodingOk_of_plain rfl rfl rfl rfl s) rfl

theorem execSel_next {fc : BitVec 3} (h : Acts s 1 g (.f fc.toNat :: useS [sb, sa, sd])) :
    execSel g sb sa sd fc s = .next (s.wS sd (if s.rF fc then s.rS sa else s.rS sb) 1) :=
  runFlag_next h (encodingOk_of_plain rfl rfl rfl rfl s) rfl

theorem execBcst_next (h : Acts s 1 g (useS [sa])) : execBcst g sa s = .next (s.putBc (s.rS sa)) :=
  runFlag_next h (encodingOk_of_plain rfl rfl rfl rfl s) rfl

theorem execBcstLiteral_next {lit : Dword} (h : Acts s 1 g []) : execBcstLiteral g lit s = .next (s.putBc lit) :=
  runFlag_next h (encodingOk_of_plain rfl rfl rfl rfl s) rfl

/-- LEA adds its field, widened, or the literal that stands in its place (R231). -/
theorem execLea_next {disp : BitVec 32} {sh : BitVec 4} {lit : Option Dword} (h : Acts s 1 g (useS [sd, sb, sa]))
    (hw : Instr.wellFormed (.lea g sb sa sd disp sh lit) = true) :
    exec (.lea g sb sa sd disp sh lit) s = .next (s.wS sd (s.rS sa + s.rS sb <<< sh.toNat + lit.getD (disp.signExtend 64)) 1) := by
  cases lit with
  | none =>
    exact valueWord_next h (fun t => t.rS sa + t.rS sb <<< sh.toNat + sext64 32 disp.toNat) (congrArg _ (sext64_eq disp)) rfl
      ⟨hw, rfl, rfl, rfl⟩
  | some l => exact valueWord_next h (fun t => t.rS sa + t.rS sb <<< sh.toNat + l) rfl rfl ⟨hw, rfl, rfl, rfl⟩

/-- A bit field that is not empty and no wider than a scalar is well-formed (R232). -/
theorem fieldWidth_ok {wid : BitVec 7} (hpos : 1 ≤ wid.toNat) (hmax : wid.toNat ≤ 64) :
    (decide (1 ≤ wid.toNat) && decide (wid.toNat ≤ 64)) = true :=
  Bool.and_eq_true_iff.mpr ⟨decide_eq_true hpos, decide_eq_true hmax⟩

end

/-- Settles O7, word by word. -/
theorem scalarValueWords : Obligations.ScalarValueWords := by
  unfold Obligations.ScalarValueWords
  intro s g sa sb sd fa fb fc fd
  refine ⟨fun _ _ _ h hw => execCmp_next h hw, fun tt h => ?flop, fun h => execSel_next h, fun _ _ lit h hw => ?lea, fun h => ?oneSource,
    fun h => ?constant, fun h => execBcst_next h, fun _ h => execBcstLiteral_next h⟩
  case flop => exact truth_eq tt _ _ ▸ execFlop_next h
  case lea => exact (execLea_next h hw).trans (by cases lit <;> rfl)
  case oneSource =>
    refine ⟨valueWord_next h (fun t => t.rS sa) rfl, valueWord_next h (fun t => BitVec.ofNat 64 (clzFuel (t.rS sa).toNat 64)) rfl,
      valueWord_next h (fun t => BitVec.ofNat 64 (ctzFuel (t.rS sa).toNat 0 64)) rfl,
      valueWord_next h (fun t => BitVec.ofNat 64 (countBits (t.rS sa).toNat 64)) rfl, fun sgn wid pos hpos hmax => ?field⟩
    have hwid := fieldWidth_ok hpos hmax
    exact ⟨valueWord_next h (fun t => bfxFn (t.rS sa) sgn wid.toNat pos.toNat) rfl rfl ⟨hwid, rfl, rfl, rfl⟩,
      valueWord_next h (fun t => bfiFn (t.rS sd) (t.rS sa) wid.toNat pos.toNat) rfl rfl ⟨hwid, rfl, rfl, rfl⟩⟩
  case constant =>
    exact ⟨fun imm => valueWord_next h (fun _ => sext64 11 imm.toNat) (sext64_eq imm), fun lit => valueWord_next h (fun _ => lit) rfl⟩

end Sys2Proof.Proofs
end

section
/-!
PROOF. NOP, the branches, calls, returns, the deadline branch and the loops (R200, R202 to R208).
-/
namespace Sys2Proof.Proofs

open Machine Laws

/-- A computed target below 2^56 that is a multiple of 4 passes (R204). -/
theorem targetCheck_computed (s : State) {t : Dword} (hlt : t.toNat < 2 ^ 56) (halign : t.toNat % 4 = 0) : s.targetCheck t true = .ok := by
  have hprot : (true && decide (2 ^ 56 ≤ t.toNat)) = false := decide_eq_false (Nat.not_le.mpr hlt)
  rw [State.targetCheck, hprot, if_neg Bool.false_ne_true, if_neg (not_not_intro halign)]

/-! ## What each word does -/

section

variable {s : State} {g : Gate}

theorem execNop_next (h : Acts s 0 g []) : execNop g s = .next s := ctl_next h (encodingOk_of_plain rfl rfl rfl rfl s) rfl

theorem execNopw_next {n : BitVec 16} (h : Acts s 0 g []) : execNopw g n s = .next (s.delay (max 1 n.toNat)) :=
  ctl_next h (encodingOk_of_plain rfl rfl rfl rfl s) rfl

/-! ### Short forms, whose offset needs no check (R200) -/

theorem execBr_next {off : BitVec 16} (h : Acts s 0 g []) : execBr g off s = .next ((s.goto (s.target 16 off.toNat)).delay 2) :=
  ctl_next h (encodingOk_of_plain rfl rfl rfl rfl s) rfl

theorem execBrf_next {p : BitVec 3} {cond : BitVec 2} {off : BitVec 11} (h : Acts s 0 g []) :
    execBrf g p cond off s = .next (s.brf p cond (s.target 11 off.toNat)) :=
  ctl_next h (encodingOk_of_plain rfl rfl rfl rfl s) rfl

theorem execCall_next {off : BitVec 16} (h : Acts s 0 g (useS [31])) : execCall g off s = .next (s.call (s.target 16 off.toNat)) :=
  ctl_next h (encodingOk_of_plain rfl rfl rfl rfl s) rfl

theorem execBrdl_next {off : BitVec 11} {sM : BitVec 5} (h : Acts s 0 g (useS [sM])) :
    execBrdl g off sM s = .next (s.brdl sM (s.target 11 off.toNat)) :=
  ctl_next h (encodingOk_of_plain rfl rfl rfl rfl s) rfl

/-! ### Computed targets (R204) -/

theorem execJmpi_next {sh : BitVec 3} {sI sN : BitVec 5} (h : Acts s 0 g (useS [sI, sN]))
    (hlt : (s.rS sN + s.rS sI <<< sh.toNat).toNat < 2 ^ 56) (halign : (s.rS sN + s.rS sI <<< sh.toNat).toNat % 4 = 0) :
    execJmpi g sh sI sN s = .next ((s.goto (s.rS sN + s.rS sI <<< sh.toNat).toNat).delay 3) :=
  ctl_next h (encodingOk_of_plain rfl rfl rfl rfl s) (targetCheck_computed s hlt halign)

theorem execRet_next {sN : BitVec 5} (h : Acts s 0 g (useS [sN])) (hlt : (s.rS sN).toNat < 2 ^ 56) (halign : (s.rS sN).toNat % 4 = 0) :
    execRet g sN s = .next ((s.goto (s.rS sN).toNat).delay 3) :=
  ctl_next h (encodingOk_of_plain rfl rfl rfl rfl s) (targetCheck_computed s hlt halign)

/-! ### Long forms (R200) -/

/-- A word whose literal is its target passes its checks when the target is below 2^56 and a multiple of 4. -/
theorem longForm_next {i : Instr} {uses : List Dest} {t : Dword} {eff : State → State} (h : Acts s 0 g uses) (hlt : t.toNat < 2 ^ 56)
    (halign : t.toNat % 4 = 0) (hw : i.wellFormed = targetOk t) (hc : channelUse i = none) (hs : sourceCodes i = []) (hd : destCodes i = []) :
    ctl i g uses (fun u => u.targetCheck t false) eff s = .next (eff s) :=
  ctl_next h (encodingOk_of_plain (hw.trans (decide_eq_true hlt)) hc hs hd s) (targetCheck_aligned s halign)

theorem execBrLong_next {t : Dword} (h : Acts s 0 g []) (hlt : t.toNat < 2 ^ 56) (halign : t.toNat % 4 = 0) :
    execBrLong g t s = .next ((s.goto t.toNat).delay 2) :=
  longForm_next h hlt halign rfl rfl rfl rfl

theorem execBrfLong_next {p : BitVec 3} {cond : BitVec 2} {t : Dword} (h : Acts s 0 g []) (hlt : t.toNat < 2 ^ 56)
    (halign : t.toNat % 4 = 0) : execBrfLong g p cond t s = .next (s.brf p cond t.toNat) :=
  longForm_next h hlt halign rfl rfl rfl rfl

theorem execCallLong_next {t : Dword} (h : Acts s 0 g (useS [31])) (hlt : t.toNat < 2 ^ 56) (halign : t.toNat % 4 = 0) :
    execCallLong g t s = .next (s.call t.toNat) :=
  longForm_next h hlt halign rfl rfl rfl rfl

theorem execBrdlLong_next {sM : BitVec 5} {t : Dword} (h : Acts s 0 g (useS [sM])) (hlt : t.toNat < 2 ^ 56) (halign : t.toNat % 4 = 0) :
    execBrdlLong g sM t s = .next (s.brdl sM t.toNat) :=
  longForm_next h hlt halign rfl rfl rfl rfl

/-! ### Loops (R206 to R208) -/

variable {imm : BitVec 11} {sC : BitVec 5} {x : LoopExt} {lit : Option Dword}

theorem execLoop_next (h : Acts s 0 g (useS [sC])) (hc : s.loopCheck x = .ok) (hw : Instr.wellFormed (.loop g imm sC x lit) = true) :
    execLoop g imm sC x lit s = .next (s.loopSet imm sC x lit none) :=
  ctl_next h (encodingOk_of_plain hw rfl rfl rfl s) hc

theorem execLoopx_next (h : Acts s 0 g (useS [sC])) (hc : s.loopCheck x = .ok) (hw : Instr.wellFormed (.loopx g imm sC x lit) = true) :
    execLoopx g imm sC x lit s = .next (s.loopSet imm sC x lit (some x.fx)) :=
  ctl_next h (encodingOk_of_plain hw rfl rfl rfl s) hc

end

/-- Settles O1, word by word. -/
theorem transferWords : Obligations.TransferWords := by
  unfold Obligations.TransferWords
  intro s g
  exact ⟨fun h => execNop_next h, fun _ h => execNopw_next h, fun _ h => execBr_next h,
    fun _ h hlt halign => execBrLong_next h hlt halign, fun _ _ _ h => execBrf_next h,
    fun _ _ _ h hlt halign => execBrfLong_next h hlt halign, fun _ _ _ h hlt halign => execJmpi_next h hlt halign,
    fun _ h => execCall_next h, fun _ h hlt halign => execCallLong_next h hlt halign, fun _ h hlt halign => execRet_next h hlt halign,
    fun _ _ h => execBrdl_next h, fun _ _ h hlt halign => execBrdlLong_next h hlt halign,
    fun _ _ _ _ h hc => ⟨fun hw => execLoop_next h hc hw, fun hw => execLoopx_next h hc hw⟩⟩

end Sys2Proof.Proofs
end

section
/-!
PROOF. Control registers: CSRD, CSWR and the words of single registers (R221 to R225).
-/
namespace Sys2Proof.Proofs

open Machine Laws

section

variable {s : State} {g : Gate} {cr : BitVec 11}

/-- A register passes where only the handler may access it and this is the handler, or where anyone may (R221). -/
theorem crCheck_ok {n : Nat} (h : crSuper n = true → s.was.sup = true) : s.crCheck n = .ok := by
  rw [State.crCheck, need_ok_iff]
  cases hs : crSuper n with
  | false => rfl
  | true => exact h hs

/-- A word of one register writes it when it issues (R221). -/
theorem crWord_next {i : Instr} {n : Nat} {x : Dword} (h : Issues s 0 []) (hw : s.encodingOk i = true)
    (hsup : crSuper n = true → s.was.sup = true) : crWord i n x s = .next (s.crWrite n x) :=
  runWord_next h hw rfl (fun _ => crCheck_ok hsup)

variable (hlisted : ctlRegOk cr = true) (hsup : crSuper cr.toNat = true → s.was.sup = true)
include hlisted hsup

theorem execCsrd_next {sD : BitVec 5} (h : Acts s 0 g (useS [sD])) :
    execCsrd g cr sD s = .next (s.wS sD (s.rCr cr.toNat) s.csrdBound) :=
  ctl_next h (encodingOk_of_plain (i := .csrd g cr sD) hlisted rfl rfl rfl s) (crCheck_ok hsup)

theorem execCswr_next {sS : BitVec 5} (h : Acts s 0 g (useS [sS])) : execCswr g cr sS s = .next (s.crWrite cr.toNat (s.rS sS)) :=
  ctl_next h (encodingOk_of_plain (i := .cswr g cr sS) hlisted rfl rfl rfl s) (crCheck_ok hsup)

theorem execCswrLiteral_next {lit : Dword} (h : Acts s 0 g []) : execCswrLiteral g cr lit s = .next (s.crWrite cr.toNat lit) :=
  ctl_next h (encodingOk_of_plain (i := .cswrLiteral g cr lit) hlisted rfl rfl rfl s) (crCheck_ok hsup)

end

/-- Settles O5: any listed register, then the four that have words of their own. -/
theorem controlRegisterWords : Obligations.ControlRegisterWords := by
  unfold Obligations.ControlRegisterWords
  intro s g cr hlisted hsup
  refine ⟨fun _ h => execCsrd_next hlisted hsup h, fun _ h => execCswr_next hlisted hsup h, fun _ h => execCswrLiteral_next hlisted hsup h,
    fun _ h hin => ?abort, fun _ h => ?srseed, fun _ h hin => ?fqnext, fun _ h => ?kcur⟩
  case abort => exact crWord_next h (encodingOk_of_plain rfl rfl rfl rfl s) (fun _ => hin)
  case srseed => exact crWord_next h (encodingOk_of_plain rfl rfl rfl rfl s) nofun
  case fqnext => exact crWord_next h (encodingOk_of_plain rfl rfl rfl rfl s) (fun _ => hin)
  case kcur => exact crWord_next h (encodingOk_of_plain rfl rfl rfl rfl s) nofun

end Sys2Proof.Proofs
end

section
/-!
PROOF. The floating-point words of class V compute their lanes and round them once (R131, R238, R239).
-/
namespace Sys2Proof.Proofs

open Machine Laws

/-- A V word with a vector result passes its checks: none of its vectors is pending, and every port it reads or writes is ready. -/
abbrev VectorReady (s : State) (i : Instr) (f : VFields) (reads : List Nat) : Prop :=
  s.encodingOk i = true ∧ Issues s 3 (s.useV (f.vd.toNat :: reads)) ∧ s.portCheck 3 reads [f.vd.toNat] = .ok

section

variable {s : State} {g : Gate} {f : VFields} {lit : Option Dword} {i : Instr} {reads : List Nat} {L : Nat}

/-- A V word acts whatever its predicate, so that it pops its ports (R96, R236). -/
theorem vectorWord_next {eff : State → State} (h : VectorReady s i f reads) :
    runPop i 3 (fun t => t.useV (f.vd.toNat :: reads)) (fun t => t.portCheck 3 reads [f.vd.toNat]) eff s = .next (eff s) := by
  obtain ⟨hw, hissues, hports⟩ := h
  exact runPop_next hissues hw hports

/-- A V word that computes its lanes gives them to the engines where it acts. -/
theorem vecWord_ready {fn : State → Nat → LaneMask → RStream → List Nat × RStream} (h : VectorReady s i f reads) :
    vecWord i g f reads L free fn s = .next (s.vecEff g f reads L fn) := by
  obtain ⟨hw, hissues, hports⟩ := h
  exact vecWord_next hw hissues hports rfl

/-! ## The shapes of the floating-point words -/

theorem floatBinary_next {fn : Machine.Num → Machine.Num → NumF} (h : VectorReady s i f (vreads f 2 lit)) :
    floatBinary i g f lit fn s = .next (s.vecEff g f (vreads f 2 lit) 4 (fun t e m st =>
      floatLanes m f.rm.toNat (fun a b _ => fn a b) (t.opA f none e) (t.opB f lit e) 0 st)) :=
  vecWord_ready h

theorem execVfma_next (h : VectorReady s (.vfma g f lit) f (vreads f 3 lit)) :
    execVfma g f lit s = .next (s.vecEff g f (vreads f 3 lit) 4 (fun t e m st =>
      floatLanes m f.rm.toNat (fmaN (f.rm == 3)) (t.opA f none e) (t.opB f lit e) (t.rVec e f.vc.toNat) st)) :=
  vecWord_ready h

theorem maxMinWord_next {isMax : Bool} (h : VectorReady s i f (vreads f 2 lit)) :
    maxMinWord i g f lit isMax s = .next (s.vecEff g f (vreads f 2 lit) 2 (fun t e m st => eachLane m (fun k r =>
      ((fmaxmin isMax (laneN (t.opA f none e) k) (laneN (t.opB f lit e) k)).1,
        ⟨r.gen, r.flags ||| (fmaxmin isMax (laneN (t.opA f none e) k) (laneN (t.opB f lit e) k)).2⟩)) st)) :=
  vecWord_ready h

/-- A word on lane patterns writes what its function gives of each lane. -/
theorem plainWord_next {n : Nat} {fn : State → Nat → Vec → Vec → Nat → Nat} (h : VectorReady s i f (vreads f n lit)) :
    plainWord i g f n lit L fn s = .next (s.vecEff g f (vreads f n lit) L (fun t e _ st =>
      ((List.range 64).map (fn t e (t.opA f (if n = 1 then lit else none) e) (t.opB f lit e)), st))) :=
  vecWord_ready h

/-- In a word of one operand the literal stands for va (R234). -/
theorem plainWord_one {fn : State → Nat → Vec → Vec → Nat → Nat} (h : VectorReady s i f (vreads f 1 lit)) :
    plainWord i g f 1 lit L fn s = .next (s.vecEff g f (vreads f 1 lit) L (fun t e _ st =>
      ((List.range 64).map (fn t e (t.opA f lit e) (t.opB f lit e)), st))) :=
  plainWord_next h

/-- In a word of several operands the literal stands for vb (R234). -/
theorem plainWord_more {n : Nat} {fn : State → Nat → Vec → Vec → Nat → Nat} (hn : n ≠ 1) (h : VectorReady s i f (vreads f n lit)) :
    plainWord i g f n lit L fn s = .next (s.vecEff g f (vreads f n lit) L (fun t e _ st =>
      ((List.range 64).map (fn t e (t.opA f none e) (t.opB f lit e)), st))) := by
  rw [plainWord_next h, if_neg hn]

theorem plainWord_two {fn : State → Nat → Vec → Vec → Nat → Nat} (h : VectorReady s i f (vreads f 2 lit)) :
    plainWord i g f 2 lit L fn s = .next (s.vecEff g f (vreads f 2 lit) L (fun t e _ st =>
      ((List.range 64).map (fn t e (t.opA f none e) (t.opB f lit e)), st))) :=
  plainWord_more (by decide) h

/-- A transcendental word holds until two cycles after the last one, and sets that bound for the next (R177, R239). -/
theorem transWord_next {fn : Machine.Num → NumF} (hlast : s.was.lastTrans ≤ s.cycle) (h : VectorReady s i f (vreads f 1 lit)) :
    transWord i g f lit fn s = .next ((s.vecEff g f (vreads f 1 lit) 12 (fun t e m st =>
      floatLanes m f.rm.toNat (fun a _ _ => fn a) (t.opA f lit e) 0 0 st)).mod (fun c => { c with lastTrans := s.cycle + 2 })) := by
  obtain ⟨hw, hissues, hports⟩ := h
  exact runPop_next hissues hw ((if_neg (Nat.not_lt.mpr hlast)).trans hports)

end

/-- Settles O8, word by word. -/
theorem vectorFloatWords : Obligations.VectorFloatWords := by
  unfold Obligations.VectorFloatWords
  intro s g f lit ready binary select sign unary
  refine ⟨fun h => floatBinary_next h, fun h => floatBinary_next h, fun h => floatBinary_next h, fun h => execVfma_next h,
    fun h => maxMinWord_next h, fun h => maxMinWord_next h, fun h => (plainWord_one h : execVabs g f lit s = _),
    fun h => (plainWord_one h : execVneg g f lit s = _), fun hlast => ?trans⟩
  case trans =>
    exact ⟨fun h => transWord_next hlast h, fun h => transWord_next hlast h, fun h => transWord_next hlast h,
      fun h => transWord_next hlast h, fun h => transWord_next hlast h⟩

end Sys2Proof.Proofs
end

section
/-!
PROOF. The integer and bit words of class V have their 32-bit lanes (R240).
-/
namespace Sys2Proof.Proofs

open Machine Laws

section

variable {s : State} {g : Gate} {f : VFields} {lit : Option Dword}

/-- VIMUL gives the low half of a signed product, or the high half of a signed or an unsigned one. -/
theorem execVimul_next (h : VectorReady s (.vimul g f lit) f (vreads f 2 lit)) :
    execVimul g f lit s = .next (s.vecEff g f (vreads f 2 lit) 4 (fun t e _ st => ((List.range 64).map (fun k =>
      if f.sub = 0 then intResult f false (laneI (t.opA f none e) k * laneI (t.opB f lit e) k)
      else wrapInt 32 (laneS (f.sub == 2) (t.opA f none e) k * laneS (f.sub == 2) (t.opB f lit e) k / 2 ^ 32)), st))) := by
  refine (plainWord_two h : execVimul g f lit s = _).trans ?_
  by_cases hsub : f.sub = 0
  · simp [hsub, laneS]
  · simp only [hsub, if_false]

theorem execVshl_next (h : VectorReady s (.vshl g f lit) f (vreads f 2 lit)) :
    execVshl g f lit s = .next (s.vecEff g f (vreads f 2 lit) 2 (fun t e _ st => ((List.range 64).map (fun k =>
      laneN (t.opA f none e) k * 2 ^ (laneN (t.opB f lit e) k % 32) % 2 ^ 32), st))) := by
  simp only [← Nat.shiftLeft_eq]
  exact plainWord_two h

theorem execVshr_next (h : VectorReady s (.vshr g f lit) f (vreads f 2 lit)) :
    execVshr g f lit s = .next (s.vecEff g f (vreads f 2 lit) 2 (fun t e _ st => ((List.range 64).map (fun k =>
      laneN (t.opA f none e) k / 2 ^ (laneN (t.opB f lit e) k % 32)), st))) := by
  simp only [← Nat.shiftRight_eq_div_pow]
  exact plainWord_two h

end

/-- Settles O9, word by word. -/
theorem vectorIntegerWords : Obligations.VectorIntegerWords := by
  unfold Obligations.VectorIntegerWords
  intro s g f lit ready lanes num fit
  exact ⟨fun h => (plainWord_two h : execViadd g f lit s = _), fun h => (plainWord_two h : execVisub g f lit s = _), fun h => execVimul_next h,
    fun h => (plainWord_more (by decide) h : execVimad g f lit s = _), fun h => (plainWord_two h : execVimin g f lit s = _),
    fun h => (plainWord_two h : execVimax g f lit s = _), fun h => (plainWord_two h : execVand g f lit s = _),
    fun h => (plainWord_two h : execVor g f lit s = _), fun h => (plainWord_two h : execVxor g f lit s = _), fun h => execVshl_next h,
    fun h => execVshr_next h, fun h => (plainWord_two h : execVsar g f lit s = _)⟩

end Sys2Proof.Proofs
end

section
/-!
PROOF. Compares, predicates, selects, reductions, scans and permutes (R241 to R245, R250 to R252).
-/
namespace Sys2Proof.Proofs

open Machine Laws

section

variable {s : State} {g : Gate} {f : VFields} {lit : Option Dword}

/-- A V word without a vector result passes its checks. -/
abbrev TestReady (s : State) (i : Instr) (reads : List Nat) : Prop :=
  s.encodingOk i = true ∧ Issues s 3 (s.useV reads) ∧ s.portCheck 3 reads [] = .ok

theorem predWord_ready {i : Instr} {reads : List Nat} {eff : State → State → Nat → State} (h : TestReady s i reads) :
    predWord i g reads eff s = .next ((s.each (s.acting g) (eff s)).popAll reads) := by
  obtain ⟨hw, hissues, hports⟩ := h
  exact predWord_next hw hissues hports

/-! ## Selects, moves, counts, reductions, scans and permutes (R243, R245, R250, R251) -/

theorem execVsel_next (h : VectorReady s (.vsel g f lit) f (vreads f 2 lit)) :
    execVsel g f lit s = .next (s.vecEff g f (vreads f 2 lit) 2 (fun t e _ st => ((List.range 64).map (fun k =>
      if (t.rQ e f.qc).getLsbD k then laneN (t.opA f none e) k else laneN (t.opB f lit e) k), st))) :=
  plainWord_two h

theorem execVmov_next (h : VectorReady s (.vmov g f lit) f (vreads f 1 lit)) :
    execVmov g f lit s = .next (s.vecEff g f (vreads f 1 lit) 2 (fun t e _ st => ((List.range 64).map (laneN (t.opA f lit e)), st))) :=
  plainWord_one h

/-- VQCNT reads no vector, so its literal is unused. -/
theorem execVqcnt_next (h : VectorReady s (.vqcnt g f lit) f []) :
    execVqcnt g f lit s = .next (s.vecEff g f [] 3 (fun t e _ st =>
      ((List.range 64).map (qcount f.sub.toNat (t.rQ e (BitVec.ofNat 3 f.va.toNat))), st))) :=
  plainWord_next (n := 0) (lit := none) h

theorem execVreds_next (h : VectorReady s (.vreds g f lit) f (vreads f 1 lit)) :
    execVreds g f lit s = .next (s.vecEff g f (vreads f 1 lit) 10 (fun t e m st =>
      (List.replicate 64 (treeRed f.sub.toNat 6 (reduceLanes f m (t.opA f lit e))).1,
        ⟨st.gen, st.flags ||| (treeRed f.sub.toNat 6 (reduceLanes f m (t.opA f lit e))).2⟩))) :=
  vecWord_ready h

theorem execVscan_next (h : VectorReady s (.vscan g f lit) f (vreads f 1 lit)) :
    execVscan g f lit s = .next (s.vecEff g f (vreads f 1 lit) 10 (fun t e m st =>
      let xs := scanRed f.sub.toNat (reduceLanes f m (t.opA f lit e))
      (xs.map Prod.fst, ⟨st.gen, (xs.zipIdx.filter (fun p => m.getLsbD p.2)).foldl (fun a p => a ||| p.1.2) st.flags⟩))) :=
  vecWord_ready h

theorem execVperm_next (h : VectorReady s (.vperm g f lit) f (vreads f (if f.sub = 1 then 3 else 2) lit)) :
    execVperm g f lit s = .next (s.vecEff g f (vreads f (if f.sub = 1 then 3 else 2) lit) 4 (fun t e _ st =>
      ((List.range 64).map (fun k =>
        let i := laneN (t.opB f lit e) k
        if f.sub = 1 ∧ i.testBit 6 = true then laneN (t.rVec e f.vc.toNat) (i % 64) else laneN (t.opA f none e) (i % 64)), st))) :=
  plainWord_more (by split <;> decide) h

/-! ## The modes of VLANE (R252) -/

theorem vlaneAt_iota (hsub : f.sub = 0) (v : Vec) : vlaneAt f v = fun k => k + f.imm.toNat := by
  funext k
  simp [vlaneAt, hsub]

theorem vlaneAt_rotate (hsub : f.sub = 3) (v : Vec) : vlaneAt f v = fun k => laneN v ((k + f.imm.toNat) % 64) := by
  funext k
  simp [vlaneAt, hsub]

theorem vlaneAt_duplicate (hsub : f.sub = 4) (v : Vec) : vlaneAt f v = fun _ => laneN v (f.imm.toNat % 64) := by
  funext k
  simp [vlaneAt, hsub]

theorem execVlane_iota (hsub : f.sub = 0) (h : VectorReady s (.vlane g f lit) f []) :
    execVlane g f lit s = .next (s.vecEff g f [] 4 (fun _ _ _ st => ((List.range 64).map (fun k => k + f.imm.toNat), st))) := by
  simp only [execVlane, hsub, BitVec.reduceEq, if_true, if_false]
  rw [vecWord_ready h]
  simp only [plainLanes, vlaneAt_iota hsub]

theorem execVlane_compact (hsub : f.sub = 1) (h : VectorReady s (.vlane g f lit) f (vreads f 1 lit)) :
    execVlane g f lit s = .next (s.vecEff g f (vreads f 1 lit) 4 (fun t e _ st => (compacted (t.opA f lit e) (t.rQ e f.qc), st))) := by
  simp only [execVlane, hsub, BitVec.reduceEq, if_true, if_false]
  exact vecWord_ready h

theorem execVlane_expand (hsub : f.sub = 2) (h : VectorReady s (.vlane g f lit) f (vreads f 1 lit)) :
    execVlane g f lit s = .next ((s.each (s.acting g) (fun u e =>
      u.putVec e f.vd.toNat (s.portAddr (f.vd.toNat - 32)) (s.laneMask e f.lq f.ln &&& s.rQ e f.qc) f.z
        ((List.range 64).map (fun k => laneN (s.opA f lit e) (countBits (s.rQ e f.qc).toNat k))) 4)).popAll (f.vd.toNat :: vreads f 1 lit)) := by
  simp only [execVlane, hsub, BitVec.reduceEq, if_true, if_false]
  exact vectorWord_next h

theorem execVlane_rotate (hsub : f.sub = 3) (h : VectorReady s (.vlane g f lit) f (vreads f 1 lit)) :
    execVlane g f lit s = .next (s.vecEff g f (vreads f 1 lit) 4 (fun t e _ st =>
      ((List.range 64).map (fun k => laneN (t.opA f lit e) ((k + f.imm.toNat) % 64)), st))) := by
  simp only [execVlane, hsub, BitVec.reduceEq, if_false]
  rw [vecWord_ready h]
  simp only [plainLanes, vlaneAt_rotate hsub]

theorem execVlane_duplicate (hsub : f.sub = 4) (h : VectorReady s (.vlane g f lit) f (vreads f 1 lit)) :
    execVlane g f lit s = .next (s.vecEff g f (vreads f 1 lit) 4 (fun t e _ st =>
      ((List.range 64).map (fun _ => laneN (t.opA f lit e) (f.imm.toNat % 64)), st))) := by
  simp only [execVlane, hsub, BitVec.reduceEq, if_false]
  rw [vecWord_ready h]
  simp only [plainLanes, vlaneAt_duplicate hsub]

/-! ## Compares and predicates (R241, R242, R244) -/

theorem execVcmp_next (h : TestReady s (.vcmp g f lit) (vreads f 2 lit)) :
    let mask (e : Nat) : LaneMask := s.laneMask e f.lq f.ln
    let conds (e : Nat) : List (Bool × Flags) := s.compareLanes f lit e (mask e)
    execVcmp g f lit s = .next ((s.each (s.acting g) (fun u e =>
      (u.putMask e f (mask e) (ofLaneBits (fun k => ((conds e).getD k (false, 0)).1)) 2).raise e (laneFlags (conds e)))).popAll (vreads f 2 lit)) :=
  predWord_ready h

theorem execVcmps_next (h : TestReady s (.vcmps g f lit) (vreads f 2 lit)) :
    let mask (e : Nat) : LaneMask := s.laneMask e f.lq f.ln
    let conds (e : Nat) : List (Bool × Flags) := s.compareLanes f lit e (mask e)
    execVcmps g f lit s = .next ((s.each (s.acting g) (fun u e =>
      (u.wP e (BitVec.ofNat 3 f.vd.toNat) (vcmpsRed (bits f.imm.toNat 0 2)
        (((List.range 64).filter (fun k => (mask e).getLsbD k)).map (fun k => ((conds e).getD k (false, 0)).1))) 3).raise e
          (laneFlags (conds e)))).popAll (vreads f 2 lit)) :=
  predWord_ready h

/-- VQOP reads no vector, so it pops no port; IMM[0] says whether it combines lane or engine predicates. -/
theorem execVqop_next (h : TestReady s (.vqop g f lit) []) :
    execVqop g f lit s = .next (s.each (s.acting g) (fun u e =>
      if f.imm.getLsbD 0 then u.wP e (BitVec.ofNat 3 f.vd.toNat)
        (truth f.sub.toNat (s.rP e (BitVec.ofNat 3 f.va.toNat)) (s.rP e (BitVec.ofNat 3 f.vb.toNat))) 2
      else u.putMask e f (s.laneMask e f.lq f.ln) (ofLaneBits (fun k => truth f.sub.toNat
        ((s.rQ e (BitVec.ofNat 3 f.va.toNat)).getLsbD k) ((s.rQ e (BitVec.ofNat 3 f.vb.toNat)).getLsbD k))) 2)) :=
  predWord_ready h

theorem execVqop_lanes (himm : f.imm = 0) (h : TestReady s (.vqop g f lit) []) :
    execVqop g f lit s = .next (s.each (s.acting g) (fun u e => u.putMask e f (s.laneMask e f.lq f.ln)
      (ofLaneBits (fun k => truth f.sub.toNat ((s.rQ e (BitVec.ofNat 3 f.va.toNat)).getLsbD k)
        ((s.rQ e (BitVec.ofNat 3 f.vb.toNat)).getLsbD k))) 2)) := by
  rw [execVqop_next h, himm]
  rfl

theorem execVqop_engine (himm : f.imm = 1) (h : TestReady s (.vqop g f lit) []) :
    execVqop g f lit s = .next (s.each (s.acting g) (fun u e => u.wP e (BitVec.ofNat 3 f.vd.toNat)
      (truth f.sub.toNat (s.rP e (BitVec.ofNat 3 f.va.toNat)) (s.rP e (BitVec.ofNat 3 f.vb.toNat))) 2)) := by
  rw [execVqop_next h, himm]
  rfl

end

/-- Settles O10, word by word and mode by mode. -/
theorem vectorLaneWords : Obligations.VectorLaneWords := by
  unfold Obligations.VectorLaneWords
  intro s g f lit ready tests mask conds
  exact ⟨fun h => execVsel_next h, fun h => execVmov_next h, fun h => execVqcnt_next h, fun h => execVreds_next h, fun h => execVscan_next h,
    fun h => execVperm_next h, fun hsub h => execVlane_iota hsub h, fun hsub h => execVlane_compact hsub h,
    fun hsub h => execVlane_expand hsub h, fun hsub h => execVlane_rotate hsub h, fun hsub h => execVlane_duplicate hsub h,
    fun h => execVcmp_next h, fun h => execVcmps_next h, fun h himm => execVqop_lanes himm h, fun h himm => execVqop_engine himm h⟩

end Sys2Proof.Proofs
end

section
/-!
PROOF. VCVT, VPACK and VUNPK convert lanes and blocks (R246 to R249).
-/
namespace Sys2Proof.Proofs

open Machine Laws

section

variable {s : State} {g : Gate} {f : VFields} {lit : Option Dword}

/-! ## VCVT (R246 to R248) -/

/-- The codes that VCVT reads: .scl adds that of its scales (R247). -/
def vcvtReads (f : VFields) (lit : Option Dword) : List Nat := vreads f (if f.imm.getLsbD 0 then 2 else 1) lit

/-- The source of VCVT: under .scl a literal stands for its scales. -/
def vcvtSource (f : VFields) (lit : Option Dword) (t : State) (e : Nat) : Vec := t.opA f (if f.imm.getLsbD 0 then none else lit) e

theorem vcvtSource_eq (t : State) (e : Nat) :
    (if f.imm.getLsbD 0 then t.opA f none e else t.opA f lit e) = vcvtSource f lit t e :=
  (apply_ite (fun l => t.opA f l e) _ none lit).symm

variable (h : VectorReady s (.vcvt g f lit) f (vcvtReads f lit))
include h

theorem execVcvt_lanes (hdst : f.fmt.toNat < 10) (hsrc : f.fmt2.toNat < 10) :
    execVcvt g f lit s = .next (s.vecEff g f (vcvtReads f lit) 4 (fun t e m st => eachLane m (fun k r =>
      convLane f (laneN (vcvtSource f lit t e) k) (if f.imm.getLsbD 0 then some (bits (laneN (t.opB f lit e) k) 0 8) else none) r) st)) := by
  simp only [execVcvt, vcvtSource_eq]
  rw [if_neg (Nat.not_le.mpr hdst), if_neg (Nat.not_le.mpr hsrc)]
  exact vecWord_ready h

theorem execVcvt_fromBlocks (hdst : f.fmt.toNat < 10) (hsrc : 10 ≤ f.fmt2.toNat) :
    execVcvt g f lit s = .next (s.vecEff g f (vcvtReads f lit) 4 (fun t e m st => eachLane m (fun k r =>
      RStream.roundF r fFP32 f.rm.toNat (unblock f.fmt2.toNat (vcvtSource f lit t e) k)) st)) := by
  simp only [execVcvt, vcvtSource_eq]
  rw [if_neg (Nat.not_le.mpr hdst), if_pos hsrc]
  exact vecWord_ready h

theorem execVcvt_toBlocks (hdst : 10 ≤ f.fmt.toNat) :
    execVcvt g f lit s = .next ((s.each (s.acting g) (fun u e =>
      let r := encodeBlocks f.fmt.toNat f.rm.toNat (s.laneMask e f.lq f.ln) (vcvtSource f lit s e)
        (List.range (if f.fmt = 10 then 2 else 4)) (u.stream e)
      (u.putVecBytes e f.vd.toNat (s.portAddr (f.vd.toNat - 32)) (encodedBytes f r.1) 4).putStream e r.2)).popAll
        (f.vd.toNat :: vcvtReads f lit)) := by
  simp only [execVcvt, vcvtSource_eq]
  rw [if_pos hdst]
  exact vectorWord_next h

end

/-! ## VPACK and VUNPK (R249) -/

section

variable {s : State} {g : Gate} {f : VFields} {lit : Option Dword} {w : Nat} (hwidth : packWidth f.fmt.toNat = some w)
include hwidth

theorem execVunpk_next (h : VectorReady s (.vunpk g f lit) f (vreads f 1 lit)) :
    execVunpk g f lit s = .next (s.vecEff g f (vreads f 1 lit) 4 (fun t e _ st => ((List.range 64).map (fun k =>
      let x := bits (t.opA f lit e).toNat (f.imm.toNat * 64 * w + k * w) w
      if f.sub = 1 then wrapInt 32 (toSigned w x) else x), st))) := by
  rw [execVunpk, hwidth]
  exact plainWord_one h

variable (h : VectorReady s (.vpack g f lit) f (vreads f 1 lit))
include h

theorem execVpack_register (hvd : f.vd.toNat < 32) :
    execVpack g f lit s = .next ((s.each (s.acting g) (fun u e =>
      u.wV e f.vd.toNat (BitVec.ofNat 2048 (packed f w (s.laneMask e f.lq f.ln) (s.rV e f.vd.toNat) (s.opA f lit e))) 4)).popAll
        (f.vd.toNat :: vreads f 1 lit)) := by
  simp only [execVpack, hwidth, Option.getD_some, if_pos hvd]
  exact vectorWord_next h

theorem execVpack_port (hvd : 32 ≤ f.vd.toNat) :
    execVpack g f lit s = .next ((s.each (s.acting g) (fun u e =>
      u.localWrite e (s.portAddr (f.vd.toNat - 32) + f.imm.toNat * 8 * w)
        (bytesAt (packed f w (s.laneMask e f.lq f.ln) (vecOfBytes (u.localRead e (s.portAddr (f.vd.toNat - 32)) 256)) (s.opA f lit e))
          (f.imm.toNat * 8 * w) (8 * w)))).popAll (f.vd.toNat :: vreads f 1 lit)) := by
  simp only [execVpack, hwidth, Option.getD_some, if_neg (Nat.not_lt.mpr hvd)]
  exact vectorWord_next h

end

/-- Settles O11: VCVT by its formats, VPACK by its destination. -/
theorem vectorConversionWords : Obligations.VectorConversionWords := by
  unfold Obligations.VectorConversionWords
  intro s g f lit ready scl reads src
  refine ⟨fun h => ⟨fun hdst hsrc => execVcvt_lanes h hdst hsrc, fun hdst hsrc => execVcvt_fromBlocks h hdst hsrc,
    fun hdst => execVcvt_toBlocks h hdst⟩, fun w hwidth => ⟨fun h => execVunpk_next hwidth h, fun h hvd => execVpack_register hwidth h hvd,
    fun h hvd => execVpack_port hwidth h hvd⟩⟩

end Sys2Proof.Proofs
end

section
/-!
PROOF. The compare-exchange words exchange the lanes whose keys are out of order (R253 to R256).
-/
namespace Sys2Proof.Proofs

open Machine Laws

section

variable {s : State} {g : Gate} {f : QFields}

/-- A Q word passes its checks: none of its registers is pending, and it acts in some engine. -/
abbrev SortReady (s : State) (g : Gate) (i : Instr) (regs : List (BitVec 6)) : Prop :=
  i.wellFormed = true ∧ Issues s 2 (s.useV (regs.map BitVec.toNat)) ∧ s.acting g ≠ []

/-- A Q word names no port: its encoding checks are its well-formedness, and it raises no fault. -/
theorem sortWord_next {i : Instr} {regs : List (BitVec 6)} {eff : State → State → Nat → State} (hc : channelUse i = none)
    (hs : sourceCodes i = []) (hd : destCodes i = []) (h : SortReady s g i regs) :
    sortWord i g regs eff s = .next (s.each (s.acting g) (eff s)) := by
  obtain ⟨hw, hissues, hact⟩ := h
  exact runEng_next hissues hact (encodingOk_of_plain hw hc hs hd s) rfl

theorem execCxs_next (h : SortReady s g (.cxs g f) [f.ka, f.kb]) :
    execCxs g f s = .next (s.each (s.acting g) (fun u e => u.exchange s e f.ka f.kb (s.cxsMask e f))) :=
  sortWord_next rfl rfl rfl h

theorem execCxsi_next (h : SortReady s g (.cxsi g f) [f.ka, f.kb, f.pa, f.pb]) :
    execCxsi g f s = .next (s.each (s.acting g) (fun u e =>
      (u.exchange s e f.ka f.kb (s.cxsMask e f)).exchange s e f.pa f.pb (s.cxsMask e f))) :=
  sortWord_next rfl rfl rfl h

theorem execCxv_next (h : SortReady s g (.cxv g f) [f.ka]) :
    execCxv g f s = .next (s.each (s.acting g) (fun u e =>
      u.putKeys e f.ka (s.cxvMask e f) (fun k => s.keyAt e f.ka (k ^^^ 2 ^ f.j.toNat)))) :=
  sortWord_next rfl rfl rfl h

theorem execCxvi_next (h : SortReady s g (.cxvi g f) [f.ka, f.pa]) :
    execCxvi g f s = .next (s.each (s.acting g) (fun u e =>
      (u.putKeys e f.ka (s.cxvMask e f) (fun k => s.keyAt e f.ka (k ^^^ 2 ^ f.j.toNat))).putKeys e f.pa (s.cxvMask e f)
        (fun k => s.keyAt e f.pa (k ^^^ 2 ^ f.j.toNat)))) :=
  sortWord_next rfl rfl rfl h

end

/-- Settles O12, word by word. -/
theorem sortWords : Obligations.SortWords := by
  unfold Obligations.SortWords
  intro s g f ready
  exact ⟨fun h => execCxs_next h, fun h => execCxsi_next h, fun h => execCxv_next h, fun h => execCxvi_next h⟩

end Sys2Proof.Proofs
end

section
/-!
PROOF. The channel words act on a channel (R262 to R268, R322 to R324).
-/
namespace Sys2Proof.Proofs

open Machine Laws

section

variable {s : State} {g : Gate} {ch : BitVec 10}

/-! ## XSND, XRCV and XRCA (R262 to R264) -/

section

variable {c : Channel} {o : BitVec 6} {i : Instr} {send dst : Bool}

/-- A word that moves elements passes its checks on a loaded channel of which the context is the endpoint: none of its units holds it, its
ports are ready, and the slots it names are claimed. -/
abbrev ChannelReady (s : State) (g : Gate) (ch : BitVec 10) (c : Channel) (o : BitVec 6) (i : Instr) (send dst : Bool) : Prop :=
  Issues s 7 (.f g.pred.toNat :: s.useV (opndVec c.shape o)) ∧ s.gateF g = true ∧ s.channelFor ch send = some c ∧ s.encodingOk i = true ∧
    s.portCheck 7 (if dst then [] else opndVec c.shape o) (if dst then opndVec c.shape o else []) = .ok ∧
    (∀ e ∈ s.actives, s.opndBusy e c.shape o dst = .no) ∧
    (∀ e ∈ s.actives, ∀ n, opndSlot c.shape o = some n → (s.rO e n).owner = s.owner)

theorem shapeOf_loaded (hc : s.channelFor ch send = some c) : s.shapeOf ch send = c.shape := by
  rw [State.shapeOf, hc]
  rfl

/-- The channel is the context's own, and so is the slot that OPND names, where it names one (R68, R262). -/
theorem channelCheck_ok {more : Channel → Verdict} (h : ChannelReady s g ch c o i send dst) (hmore : more c = .ok) :
    s.channelCheck g ch send o dst more = .ok := by
  obtain ⟨-, hgate, hc, -, hports, -, hown⟩ := h
  rw [State.channelCheck, hc, hgate, if_pos rfl]
  refine (verdict_and_ok_iff _ _).mpr ⟨hports, (verdict_and_ok_iff _ _).mpr ⟨engineRecs_ok (fun e he => ?_), hmore⟩⟩
  cases hslot : opndSlot c.shape o with
  | none => rfl
  | some n => exact engState_true (mine_iff.mpr (hown e he n hslot))

/-- A word that moves elements has its effect on the channel, and pops the port of its elements (R96). -/
theorem channelWord_next {more : State → Channel → Verdict} {eff : State → Channel → State} (h : ChannelReady s g ch c o i send dst)
    (hmore : more s c = .ok) : channelWord i g ch send dst o more eff s = .next ((eff s c).popAll (opndVec c.shape o)) := by
  have hcheck := channelCheck_ok h hmore
  obtain ⟨hissues, hgate, hc, hw, -, hbusy, -⟩ := h
  have hshape := shapeOf_loaded hc
  have hholds : s.channelHolds ch send o dst = .ok := by
    rw [State.channelHolds, hc]
    exact unitHolds_ok hbusy
  refine (runWord_next ?issues hw hholds (fun _ => hcheck)).trans ?effect
  case issues =>
    dsimp only
    rwa [hshape]
  case effect =>
    rw [if_pos rfl, hgate, hc, hshape]

theorem execXsnd_next (h : ChannelReady s g ch c o (.xsnd g o ch) true false)
    (hroom : ∀ e ∈ s.actives, c.rcv.ended = true ∨ (c.stream e).length < c.depth) :
    execXsnd g o ch s = .next (({ s.each s.actives (fun u e => u.sendFrom s ch c o e) with nextOp := s.nextOp + 1 } : State).popAll
      (opndVec c.shape o)) := by
  refine channelWord_next h (if_pos (List.all_eq_true.mpr (fun e he => ?_)))
  simpa only [Channel.room, Bool.or_eq_true, decide_eq_true_eq] using hroom e he

theorem execXrcv_next (h : ChannelReady s g ch c o (.xrcv g o ch) false true) :
    execXrcv g o ch s = .next ((s.each s.actives (fun u e => u.receiveIn ch o false e)).popAll (opndVec c.shape o)) :=
  channelWord_next h rfl

theorem execXrca_next (h : ChannelReady s g ch c o (.xrca g o ch) false true) :
    execXrca g o ch s = .next ((s.each s.actives (fun u e => u.receiveIn ch o true e)).popAll (opndVec c.shape o)) :=
  channelWord_next h rfl

end

/-! ## XCHS (R266) -/

theorem bit_mul (b : Bool) (n : Nat) : bit b * n = if b then n else 0 := by
  cases b <;> simp [bit]

theorem execXchs_next {sD : BitVec 5} (h : Acts s 7 g (useS [sD])) :
    let act (f : Nat → Bool) : Nat := (ofEngineBits (fun e => s.was.active.getLsbD e && f e)).toNat
    execXchs g sD ch s = .next (s.wS sD (match tableFind s.channels ch.toNat with
      | none => 0
      | some c => BitVec.ofNat 64
        (act (fun e => !(c.stream e).isEmpty) + act c.room * 2 ^ 16 + 2 ^ 32 + (if c.snd.ended || c.rcv.ended then 2 ^ 33 else 0))) 1) := by
  simp only [← bit_mul]
  exact runFlag_next h (encodingOk_of_plain rfl rfl rfl rfl s) rfl

/-! ## CHLD (R267, R268) -/

/-- Freeing does not hold for an entry that is not in use or that has lost an endpoint. -/
theorem chldCheck_free (hfree : ∀ c, tableFind s.channels ch.toNat = some c →
    c.snd.ended = true ∨ c.rcv.ended = true ∨ s.channelUsed ch.toNat = false) : s.chldCheck 0 ch = .ok := by
  rw [State.chldCheck, if_pos rfl]
  cases hc : tableFind s.channels ch.toNat with
  | none => rfl
  | some c =>
    refine if_neg (fun hused => ?_)
    simp only [Bool.and_eq_true, Bool.not_eq_true'] at hused
    obtain ⟨⟨hsnd, hrcv⟩, hin⟩ := hused
    simpa only [hsnd, hrcv, hin, Bool.false_eq_true, Bool.true_eq_false, or_self] using hfree c hc

/-- Loading raises no fault where each dword of the record can be read. -/
theorem chldCheck_load {sA : BitVec 5} (hA : sA ≠ 0)
    (hread : ∀ k < 4, s.flatFault s.party .read ((s.rS sA).toNat + 8 * k) 8 = none) : s.chldCheck sA ch = .ok := by
  have h0 := hread 0 (by decide)
  have h1 := hread 1 (by decide)
  have h2 := hread 2 (by decide)
  have h3 := hread 3 (by decide)
  simp only [Nat.reduceMul] at h0 h1 h2 h3
  simp only [State.chldCheck, if_neg hA, h0, h1, h2, h3, verdict_ok_and]

theorem execChld_next {sA : BitVec 5} (h : Acts s 7 g (.f 1 :: useS [sA])) (hcheck : s.chldCheck sA ch = .ok) :
    execChld g sA ch s = .next (s.chld sA ch) :=
  runFlag_next h (encodingOk_of_plain rfl rfl rfl rfl s) hcheck

end

/-- Settles O21, word by word. -/
theorem channelWords : Obligations.ChannelWords := by
  unfold Obligations.ChannelWords
  intro s g ch
  refine ⟨fun o c i => ?elements, fun sD h => execXchs_next h, fun h hfree => execChld_next h (chldCheck_free hfree), fun sA hA h hread => ?load⟩
  case elements =>
    intro vec ready
    refine ⟨?_, ?_, ?_⟩
    · rintro rfl h hroom
      exact execXsnd_next h hroom
    · rintro rfl h
      exact execXrcv_next h
    · rintro rfl h
      exact execXrca_next h
  case load =>
    intro t
    exact (execChld_next h (chldCheck_load hA hread)).trans (congrArg Host.Outcome.next (if_neg hA))

end Sys2Proof.Proofs
end

section
/-!
PROOF. KLD, KGO and KWT load, start and wait for a program (R269 to R272, R325 to R327, R339).
-/
namespace Sys2Proof.Proofs

open Machine Laws

section

variable {s : State} {g : Gate} {q : Nat}

/-! ## KLD (R270, R325, R326) -/

/-- A free slot takes an image that KLD accepts; the handle names the slot by its incarnation. -/
theorem kld_loads {psel : Nat} {va : Dword} {sD : BitVec 5} {x : Porch} (hslot : s.kldSlot psel = some q)
    (himage : s.kuborImage s.party va.toNat = some x) :
    s.kld psel va sD = (((s.readsFlat (.context s.focus) s.party va.toNat (272 + 16 * x.image.length)).setPorch q
      { x with inc := (s.porch q).inc }).wS sD (progHandle (s.porch q).inc q) 1).wF 1 true 1 := by
  simp only [State.kld, hslot, himage]

/-- Of an image that KLD does not accept no handle is given, and only with a free slot is its head read. -/
theorem kld_refuses {psel : Nat} {va : Dword} {sD : BitVec 5} (himage : s.kuborImage s.party va.toNat = none) :
    s.kld psel va sD = ((match s.kldSlot psel with
      | some _ => s.readsFlat (.context s.focus) s.party va.toNat 16
      | none => s).wS sD 0 1).wF 1 false 1 := by
  cases hslot : s.kldSlot psel <;> simp only [State.kld, hslot, himage]

variable {psel : BitVec 2} (hpsel : psel ≠ 3)
include hpsel

theorem execKld_next {sA sD : BitVec 5} (h : Acts s 7 g (.f 1 :: useS [sA, sD])) :
    execKld g psel sA sD s = .next (s.kld psel.toNat (s.rS sA) sD) :=
  runFlag_next h (encodingOk_of_plain (i := .kld g psel sA sD) (bne_iff_ne.mpr hpsel) rfl rfl rfl s) rfl

theorem execKldLiteral_next {sD : BitVec 5} {lit : Dword} (h : Acts s 7 g (.f 1 :: useS [sD])) :
    execKldLiteral g psel sD lit s = .next (s.kld psel.toNat lit sD) :=
  runFlag_next h (encodingOk_of_plain (i := .kldLiteral g psel sD lit) (bne_iff_ne.mpr hpsel) rfl rfl rfl s) rfl

end

/-! ## KGO and KWT (R271, R272, R327, R339, R340) -/

section

variable {s : State} {g : Gate} {q : Nat} {sP : BitVec 5} (hslot : s.progSlot (s.rS sP) s.me.region = some q)
include hslot

/-- A handle that names a program of the region passes. -/
theorem progCheck_ok : s.progCheck (s.rS sP) = .ok := by
  rw [State.progCheck, hslot]
  rfl

variable (hstopped : (s.porch q).running = false)
include hstopped

/-- A program that does not run starts at word 0, and stops at once where its COLL already runs or a route of it is down. -/
theorem execKgo_starts {sR : BitVec 5} {d : List Dword} (h : Acts s 7 g (.f 1 :: useS [sR, sP]))
    (hblock : s.argBlock s.party (s.rS sR).toNat = some d) :
    let started := (s.readsFlat (.context s.focus) s.party (s.rS sR).toNat 128).setPorch q { s.porch q with
      running := true, region := s.me.region, w := (List.range 15).foldl (fun t i => tableSet t (i + 1) (d.getD (i + 1) 0) 0) []
      c := [], flags := 0, loops := [], pc := 0, late := false, block := s.rS sR, ops := [], issued := 0, rtrs := []
      reached := s.time }
    execKgo g sR sP s = .next ((if s.programsOf (s.porch q).coll ≠ [] then started.stopPorch q 0x0C
      else if (s.porch q).routes.any s.routeDown then started.stopPorch q 6 else started).wF 1 true 1) := by
  refine (runFlag_next h (encodingOk_of_plain rfl rfl rfl rfl s) (progCheck_ok hslot)).trans (congrArg Host.Outcome.next ?_)
  simp only [State.kgo, hslot, hblock, hstopped, Bool.false_eq_true, if_false, Bool.not_eq_true', List.isEmpty_eq_false_iff]

/-- KWT does not hold once the program has stopped. -/
theorem kwtCheck_stopped : s.kwtCheck (s.rS sP) = .ok := by
  simp only [State.kwtCheck, progCheck_ok hslot, hslot, hstopped, verdict_ok_and, Bool.false_eq_true, if_false]

theorem execKwt_stopped {rel : Bool} {sD : BitVec 5} (h : Acts s 7 g (.f 1 :: useS [sP, sD])) :
    let read := (s.wS sD (BitVec.ofNat 64 (s.porch q).code) 1).wF 1 ((s.porch q).code == 0) 1
    execKwt g rel sP sD s = .next (if rel then read.setPorch q { inc := nextInc (s.porch q).inc } else read) := by
  refine (runFlag_next h (encodingOk_of_plain rfl rfl rfl rfl s) (kwtCheck_stopped hslot hstopped)).trans (congrArg Host.Outcome.next ?_)
  simp only [State.kwt, hslot]

end

/-- Settles O22, word by word. -/
theorem programWords : Obligations.ProgramWords := by
  unfold Obligations.ProgramWords
  intro s g q
  refine ⟨fun psel sD x hpsel hslot => ⟨?register, ?literal⟩, ?refused,
    fun sR sP d h hslot hblock hstopped => execKgo_starts hslot hstopped h hblock,
    fun rel sP sD h hslot hstopped => execKwt_stopped hslot hstopped h⟩
  case register => exact fun sA h himage => (execKld_next hpsel h).trans (congrArg Host.Outcome.next (kld_loads hslot himage))
  case literal => exact fun lit h himage => (execKldLiteral_next hpsel h).trans (congrArg Host.Outcome.next (kld_loads hslot himage))
  case refused =>
    exact fun psel sA sD hpsel h himage => (execKld_next hpsel h).trans (congrArg Host.Outcome.next (kld_refuses himage))

end Sys2Proof.Proofs
end

section
/-!
PROOF. The multiplies of slots start tasks; AZRO, AADD and ADRN act on accumulators, DSTQ tests a drain's status (R279 to R284, R293 to R297).
-/
namespace Sys2Proof.Proofs

open Machine Laws

section

variable {s : State} {g : Gate} {ad : BitVec 2}

/-! ## MMA and MMSP (R281 to R283) -/

theorem execMma_next {oa ob : BitVec 5} {zs : BitVec 4} {za : Bool} (h : Issues s 4 []) (hact : s.acting g ≠ []) (hz : zs.toNat ≤ 8)
    (hbusy : ∀ e ∈ s.actives, s.accBusy e ad.toNat = .no ∧ s.slotReadHold e oa.toNat = .no ∧ s.slotReadHold e ob.toNat = .no)
    (hfree : ∀ e ∈ s.acting g, s.arrayBusy e = false ∧ (s.rO e oa.toNat).owner = s.owner ∧ (s.rO e ob.toNat).owner = s.owner ∧
      (tagPair (s.rO e oa.toNat).fmt.toNat (s.rO e ob.toNat).fmt.toNat).isSome = true) :
    execMma g ad oa ob zs za s = .next (s.each (s.acting g) (fun u e =>
      let a := u.rO e oa.toNat
      let b := u.rO e ob.toNat
      let grp := ((tagPair a.fmt.toNat b.fmt.toNat).map Prod.fst).getD 1
      let sh := u.shape e zs ((slotCap a.fmt.toNat).getD 64)
      u.startTask e ad za ⟨u.me.place.engCtx, false, ad.toNat, [oa.toNat, ob.toNat], a, b, {}, {}, sh.rows, sh.cols, sh.klen, grp,
        ceilDiv sh.klen grp, 0, u.cycle, none⟩)) := by
  have hwf : Instr.wellFormed (.mma g ad oa ob zs za) = true := decide_eq_true hz
  refine multiply_next h hact (encodingOk_of_plain hwf rfl rfl rfl s) (fun e he => ?holds) (fun e he => (hfree e he).1)
    (fun e he => engState_true ?owned)
  case holds =>
    obtain ⟨hacc, ha, hb⟩ := hbusy e he
    exact busy_or_no hacc (busy_or_no ha hb)
  case owned =>
    obtain ⟨-, ha, hb, hpair⟩ := hfree e he
    simp only [mine_iff.mpr ha, mine_iff.mpr hb, hpair, Bool.and_self]

/-- The slots that MMSP reads: its two operands, the second half of the dense one, and the metadata (R283). -/
abbrev sparseSlots (oa ob om : BitVec 5) : List Nat := [oa.toNat, ob.toNat, ob.toNat + 1, om.toNat]

theorem execMmsp_next {oa ob om : BitVec 5} {zs : BitVec 4} {za : Bool} (h : Issues s 4 []) (hact : s.acting g ≠ []) (hz : zs.toNat ≤ 8)
    (hpairFits : ob ≠ 31)
    (hbusy : ∀ e ∈ s.actives, s.accBusy e ad.toNat = .no ∧ ∀ k ∈ sparseSlots oa ob om, s.slotReadHold e k = .no)
    (hfree : ∀ e ∈ s.acting g, s.arrayBusy e = false ∧ (∀ k ∈ sparseSlots oa ob om, (s.rO e k).owner = s.owner) ∧
      (s.rO e ob.toNat).fmt = (s.rO e (ob.toNat + 1)).fmt ∧
      ∃ n i, tagPair (s.rO e oa.toNat).fmt.toNat (s.rO e ob.toNat).fmt.toNat = some (n, i) ∧ n ≠ 4) :
    execMmsp g ad oa ob zs za om s = .next (s.each (s.acting g) (fun u e =>
      let a := u.rO e oa.toNat
      let lgs := sparseGroup a.fmt.toNat
      let sh := u.shape e zs (2 * (slotCap a.fmt.toNat).getD 64)
      u.startTask e ad za ⟨u.me.place.engCtx, true, ad.toNat, sparseSlots oa ob om, a, u.rO e ob.toNat,
        u.rO e (ob.toNat + 1), u.rO e om.toNat, sh.rows, sh.cols, sh.klen, lgs, ceilDiv (ceilDiv sh.klen 4) lgs, 0, u.cycle, none⟩)) := by
  have hwf : Instr.wellFormed (.mmsp g ad oa ob zs za om) = true := Bool.and_eq_true_iff.mpr ⟨decide_eq_true hz, bne_iff_ne.mpr hpairFits⟩
  refine multiply_next h hact (encodingOk_of_plain hwf rfl rfl rfl s) (fun e he => ?holds) (fun e he => (hfree e he).1)
    (fun e he => engState_true ?owned)
  case holds =>
    obtain ⟨hacc, hslots⟩ := hbusy e he
    exact busy_fold_no hacc hslots
  case owned =>
    obtain ⟨-, hown, hfmt, n, i, hpair, hn⟩ := hfree e he
    have hmine : ∀ k ∈ sparseSlots oa ob om, s.mine (s.rO e k) = true := fun k hk => mine_iff.mpr (hown k hk)
    simp only [List.forall_mem_cons] at hmine
    obtain ⟨ha, hb, hb1, hm, -⟩ := hmine
    simp only [ha, hb, hb1, hm, ← hfmt, hpair, hn, beq_self_eq_true, ne_eq, not_false_eq_true, decide_true, Bool.and_self]

/-! ## AZRO and AADD (R293) -/

theorem execAzro_next (h : Issues s 4 []) (hact : s.acting g ≠ []) (hbusy : ∀ e ∈ s.actives, s.accBusy e ad.toNat = .no) :
    execAzro g ad s = .next (s.each (s.acting g) (fun u e => (u.wAcc e ad.toNat 0 2).wDrain e ad.toNat 0 2)) :=
  runUnit_next h hact (encodingOk_of_plain rfl rfl rfl rfl s) (unitHolds_ok hbusy) rfl

theorem execAadd_next {int : Bool} {zs : BitVec 4} {as_ : BitVec 2} (h : Issues s 4 []) (hact : s.acting g ≠ []) (hz : zs.toNat ≤ 8)
    (hbusy : ∀ e ∈ s.actives, s.accBusy e ad.toNat = .no ∧ s.accBusy e as_.toNat = .no) :
    execAadd g int zs as_ ad s = .next (s.each (s.acting g) (fun u e =>
      let sh := u.shape e zs 64
      let sum := accMap sh.rows sh.cols (fun i j old =>
        if int then ((old + (accElem (u.rAcc e as_.toNat) i j).toNat) % 2 ^ 32, 0)
        else fadd32 old (accElem (u.rAcc e as_.toNat) i j).toNat) (u.rAcc e ad.toNat)
      (u.wAccIn e ad.toNat sum.1 (shapeMask sh.rows sh.cols) 68).raise e sum.2)) := by
  have hwf : Instr.wellFormed (.aadd g int zs as_ ad) = true := decide_eq_true hz
  exact runUnit_next h hact (encodingOk_of_plain hwf rfl rfl rfl s)
    (unitHolds_ok fun e he => busy_or_no (hbusy e he).1 (hbusy e he).2) rfl

/-! ## ADRN (R294 to R296) -/

section

variable {f : DrainFields} (hact : s.acting g ≠ []) (hwf : Instr.wellFormed (.adrn g f) = true)
  (hacc : ∀ e ∈ s.actives, s.accBusy e f.acc.toNat = .no)
include hact hwf hacc

/-- A drain to a slot of the context whose tag the drain sets or shares. -/
theorem execAdrn_slot (hdst : f.dst = true) (h : Issues s 4 []) (hbusy : ∀ e ∈ s.actives, s.slotHold e f.addr.toNat = .no)
    (hown : ∀ e ∈ s.acting g, (s.rO e f.addr.toNat).owner = s.owner ∧ (f.part = 0 ∨ (s.rO e f.addr.toNat).fmt = f.fmt)) :
    execAdrn g f s = .next (s.each (s.acting g) (fun u e => u.drain e f)) := by
  have huses : Issues s 4 (drainUses f) := by rwa [drainUses, if_pos hdst]
  refine tWord_next huses hact (encodingOk_of_plain hwf rfl rfl rfl s) (fun e he => ?holds) (fun e he => ?owned)
  case holds =>
    rw [if_pos hdst]
    exact busy_or_no (hacc e he) (hbusy e he)
  case owned =>
    obtain ⟨hmine, hfmt⟩ := hown e he
    dsimp only
    rw [if_pos hdst]
    exact engState_true (by simpa only [mine_iff.mpr hmine, Bool.true_and, Bool.or_eq_true, beq_iff_eq] using hfmt)

/-- A drain to aligned scratchpad rows that engine-local addresses reach. -/
theorem execAdrn_scratchpad (hdst : f.dst = false) (h : Issues s 4 (useS [f.addr])) (hbase : bits (s.rS f.addr).toNat 0 32 % 4 = 0)
    (hranges : ∀ e ∈ s.acting g, ∀ r ∈ drainRanges f (bits (s.rS f.addr).toNat 0 32) (s.shape e f.zs 64), (s.localAt r.1 r.2).isSome = true) :
    execAdrn g f s = .next (s.each (s.acting g) (fun u e => u.drain e f)) := by
  have hslot : ¬ f.dst = true := ne_true_of_eq_false hdst
  have huses : Issues s 4 (drainUses f) := by rwa [drainUses, if_neg hslot]
  refine tWord_next huses hact (encodingOk_of_plain hwf rfl rfl rfl s) (fun e he => ?holds) (fun e he => ?reached)
  case holds =>
    rw [if_neg hslot]
    exact busy_or_no (hacc e he) rfl
  case reached =>
    dsimp only
    rw [if_neg hslot, if_neg (fun hn => hn hbase)]
    exact localRec_none (hranges e he)

end

/-! ## DSTQ (R297) -/

/-- The time that a drain of the accumulator takes has passed in every engine (R145). -/
theorem drainRecent_false (h : ∀ e < 16, tableGet (s.wasPart e).drainT ad.toNat 0 ≤ s.cycle) : s.drainRecent ad = false :=
  List.any_eq_false.mpr fun e he => by simpa only [decide_eq_true_eq, Nat.not_lt] using h e (List.mem_range.mp he)

theorem execDstq_next {ok : Bool} {sel : BitVec 4} {pd : BitVec 3} (h : Issues s 4 []) (hact : s.acting g ≠ [])
    (hpast : ∀ e < 16, tableGet (s.wasPart e).drainT ad.toNat 0 ≤ s.cycle) :
    execDstq g ok sel ad pd s = .next (s.each (s.acting g) (fun u e =>
      u.wP e pd (decide (s.rDrain e ad.toNat &&& BitVec.ofNat 8 sel.toNat ≠ 0) != ok) 2)) := by
  have hholds : (if s.drainRecent ad then Verdict.hold else .ok) = .ok := by rw [drainRecent_false hpast, if_neg Bool.false_ne_true]
  exact runUnit_next h hact (encodingOk_of_plain rfl rfl rfl rfl s) hholds rfl

end

/-- Settles O14, word by word: what it uses is free in every engine, and none records a fault. -/
theorem arrayWords : Obligations.ArrayWords := by
  unfold Obligations.ArrayWords
  intro s g ad oa ob om zs za hact
  refine ⟨fun h hz hbusy hfree => execMma_next h hact hz hbusy hfree,
    fun h hz hob hbusy hfree => execMmsp_next h hact hz hob hbusy hfree,
    fun h hbusy => execAzro_next h hact hbusy,
    fun int as_ h hz hbusy => execAadd_next h hact hz hbusy,
    fun f hwf hacc => ⟨?slot, ?scratchpad⟩,
    fun ok sel pd h hpast => execDstq_next h hact hpast⟩
  case slot => exact fun hdst h hbusy hown => execAdrn_slot hact hwf hacc hdst h hbusy hown
  case scratchpad => exact fun hdst h hbase hranges => execAdrn_scratchpad hact hwf hacc hdst h hbase hranges

end Sys2Proof.Proofs
end

section
/-!
PROOF. The data words and the control words of a Kubor program (R328 to R337).
-/
namespace Sys2Proof.Proofs

open Machine Laws

/-! ## Issue (R336, R337) -/

section

variable {s : State} {k : KHead} {i : Instr} {body : State → Nat → KStep} {u : State}

/-- A stamp marks LATE only: the outstanding words stay. -/
theorem stamped_ops (s : State) (k : KHead) : ((stamped s k).porch s.porchFocus).ops = (s.porch s.porchFocus).ops := by
  simp only [stamped, State.modPorch, porch_setPorch, Porch.stampLate]

/-- A word that issues with room for its data, and need not wait, has its effect on the stamped state. -/
theorem runKubor_go (h : KuborIssues s k) (hw : i.wellFormed = true)
    (hd : (kDataOf i).isSome = true → ((stamped s k).porch s.porchFocus).ops.length < 16)
    (hb : body (stamped s k) s.porchFocus = .go u) : runKubor i k body s = .next (cameTo s u) := by
  rw [runKubor_next h hw (fun hdata => stamped_ops s k ▸ hd hdata), hb]

/-- A control word moves no data, so it needs no room for them. -/
theorem runKubor_control (h : KuborIssues s k) (hw : i.wellFormed = true) (hdata : kDataOf i = none)
    (hb : body (stamped s k) s.porchFocus = .go u) : runKubor i k body s = .next (cameTo s u) :=
  runKubor_go h hw (fun hd => by rw [hdata] at hd; cases hd) hb

end

/-! ## Data words (R329 to R333) -/

/-- Address A of a data word. -/
def addrA (p : Porch) (d : KData) : Nat := (p.reg d.ba + p.reg d.xa * BitVec.ofNat 64 d.stride.toNat).toNat

/-- Address B of a data word. -/
def addrB (p : Porch) (d : KData) : Nat := (p.reg d.bb + p.reg d.xb * BitVec.ofNat 64 d.stride.toNat).toNat

/-- A program with a data word outstanding that receives from `src`. -/
def outstanding (t : State) (p : Porch) (i : Instr) (d : KData) (src : Option (Nat × BitVec 8)) : Porch :=
  { p with
    ops := p.ops ++ [{ n := p.issued, word := i, addrA := addrA p d, addrB := addrB p d, src := src
                       dst := (kSendRoute i).map (fun r => (t.routePeer (p.route r.toNat), d.tag)), met := false, into := none, got := none
                       stage := 0, since := t.time }]
    issued := p.issued + 1 }

section

variable {t : State} {i : Instr} {d : KData} {q : Nat}

/-- A word that receives nothing becomes outstanding (R330). -/
theorem issueData_local (hrecv : kReceives i = false) (hok : t.kuborFault (t.porch q) i d (addrA (t.porch q) d) (addrB (t.porch q) d) = 0) :
    t.issueData i d q = .go ((t.setPorch q (outstanding t (t.porch q) i d none).advance).meet q) := by
  simp only [addrA, addrB] at hok
  simp only [State.issueData, hrecv, hok, ne_eq, not_true_eq_false, Bool.false_and, Bool.false_eq_true, if_false]
  rfl

/-- A word that receives from its own program becomes outstanding, and its message is noted here (R332). -/
theorem issueData_self (hrecv : kReceives i = true) (hself : routeSelf ((t.porch q).route d.pe.toNat) = true)
    (hroom : (t.porch q).rtrs.length < rtrLimit)
    (hok : t.kuborFault (t.porch q) i d (addrA (t.porch q) d) (addrB (t.porch q) d) = 0) :
    let p := t.porch q
    let peer := t.routePeer (p.route d.pe.toNat)
    t.issueData i d q = .go ((t.setPorch q (Porch.advance { outstanding t p i d (some (peer, d.tag)) with
      rtrs := p.rtrs ++ [⟨peer, d.tag, d.n.toNat, d.fin, some p.issued, kDest i (addrA p d)⟩] })).meet q) := by
  simp only [addrA, addrB] at hok
  simp only [State.issueData, hrecv, hself, hok, Nat.not_le.mpr hroom, ne_eq, not_true_eq_false, Bool.and_self, Bool.not_true, decide_false,
    Bool.and_false, Bool.false_eq_true, if_false, if_true]
  rfl

/-- A word that receives from another package becomes outstanding, and its message goes out (R332). -/
theorem issueData_peer (hrecv : kReceives i = true) (hself : routeSelf ((t.porch q).route d.pe.toNat) = false)
    (hok : t.kuborFault (t.porch q) i d (addrA (t.porch q) d) (addrB (t.porch q) d) = 0) :
    let p := t.porch q
    let peer := t.routePeer (p.route d.pe.toNat)
    t.issueData i d q = .go ((({ t with outbox := t.outbox ++ [.rtr p.coll peer d.tag d.n.toNat d.fin (kDest i (addrA p d))] } :
      State).setPorch q (outstanding t p i d (some (peer, d.tag))).advance).meet q) := by
  simp only [addrA, addrB] at hok
  simp only [State.issueData, hrecv, hself, hok, ne_eq, not_true_eq_false, Bool.and_false, Bool.false_and, Bool.not_false, Bool.and_self,
    Bool.false_eq_true, if_false, if_true]
  rfl

end

/-- Settles O23: SEND and COPY receive nothing; RECV and RDC post their message here or to the peer. -/
theorem kuborDataWords : Obligations.KuborDataWords := by
  unfold Obligations.KuborDataWords
  intro s k d h t q p a b peer self ready sends out receives
  have hlocal {i : Instr} {body : State → Nat → KStep} (hbody : body t q = t.issueData i d q) (hrecv : kReceives i = false) (hr : ready i) :
      runKubor i k body s = .next (cameTo s ((t.setPorch q (out i none).advance).meet q)) := by
    obtain ⟨hw, hok, hroom⟩ := hr
    exact runKubor_go h hw (fun _ => hroom) (hbody.trans (issueData_local hrecv hok))
  have hreceives {i : Instr} {body : State → Nat → KStep} (hbody : body t q = t.issueData i d q) (hrecv : kReceives i = true) (hr : ready i)
      (hnotes : self = true → p.rtrs.length < rtrLimit) : runKubor i k body s = .next (cameTo s (receives i)) := by
    obtain ⟨hw, hok, hroom⟩ := hr
    refine runKubor_go h hw (fun _ => hroom) (hbody.trans ?_)
    by_cases hself : self = true
    · exact (issueData_self hrecv hself (hnotes hself) hok).trans (congrArg KStep.go (if_pos hself).symm)
    · exact (issueData_peer hrecv (Bool.eq_false_iff.mpr hself) hok).trans (congrArg KStep.go (if_neg hself).symm)
  exact ⟨hlocal rfl rfl, hlocal rfl rfl, hreceives rfl rfl, hreceives rfl rfl⟩

/-! ## Control words (R334 to R337) -/

section

variable {s : State} {q gid : Nat} {m : Member} {wn : BitVec 4}

/-- An arrival of a member whose data words have completed enters its generation (R335). -/
theorem kuborArrive_enters (hm : s.kuborMember q ((s.porch q).reg wn) = some (gid, m)) (hops : (s.porch q).ops = [])
    (hgen : m.arrGen ≤ (s.groupAt gid).gen + 1) :
    s.kuborArrive q wn false = .go ((s.enterArrival gid (.porch q (s.porch q).inc) { Arrival.plain with leave := false }).modPorch q
      (fun x => x.advance)) := by
  simp only [State.kuborArrive, hm, hops, Nat.not_lt.mpr hgen, List.isEmpty_nil, Bool.not_true, Bool.not_false, Bool.true_and, decide_false,
    Bool.or_self, Bool.false_eq_true, if_false]

/-- A leave of a member whose data words have completed enters, and clears its handle (R335). -/
theorem kuborArrive_leaves (hm : s.kuborMember q ((s.porch q).reg wn) = some (gid, m)) (hops : (s.porch q).ops = []) :
    s.kuborArrive q wn true = .go ((s.enterArrival gid (.porch q (s.porch q).inc) { Arrival.plain with leave := true }).modPorch q
      (fun x => (x.put wn 0).advance)) := by
  simp only [State.kuborArrive, hm, hops, List.isEmpty_nil, Bool.not_true, Bool.false_and, Bool.or_self, Bool.false_eq_true, if_false,
    if_true]

end

section

variable {s : State} {k : KHead} {wv wh : BitVec 4} {gid : Nat} {m : Member} (h : KuborIssues s k) (hk : k.ok false = true)
variable (hm : (stamped s k).kuborMember s.porchFocus (((stamped s k).porch s.porchFocus).reg wh) = some (gid, m))

include h hk hm

/-- A member that has not arrived yet has nothing to wait for (R334). -/
theorem waitGrp_first (hlast : m.last = none) :
    execWaitGrp k wv wh s = .next (cameTo s ((stamped s k).setPorch s.porchFocus (((stamped s k).porch s.porchFocus).put wv 0).advance)) :=
  runKubor_control h hk rfl (by simp only [hm, hlast])

/-- A wait is met once the generation of the member's last arrival has completed, and tells whether it was lost (R334). -/
theorem waitGrp_completed {n : Nat} (hlast : m.last = some n) (hgen : n < ((stamped s k).groupAt gid).gen) :
    execWaitGrp k wv wh s = .next (cameTo s ((stamped s k).setPorch s.porchFocus (((stamped s k).porch s.porchFocus).put wv
      (if m.lastLost then 1 else 0)).advance)) :=
  runKubor_control h hk rfl (by simp only [hm, hlast, hgen, if_true])

end

/-- Settles O24, word by word: none of them waits, and none finds a cause to stop its program. -/
theorem kuborControlWords : Obligations.KuborControlWords := by
  unfold Obligations.KuborControlWords
  intro s k h hk t q p done joined
  refine ⟨?waitCnt, ?waitGrp, ?waitTs, ?arrive, ?join, ?store, ?loop, ?branch, ?finish⟩
  case waitCnt =>
    intro cw wv imm hmet
    change execWaitCnt k cw wv imm s = _
    exact runKubor_control h hk rfl (if_pos hmet)
  case waitGrp =>
    intro wv wh gid m hm
    exact ⟨fun hlast => waitGrp_first h hk hm hlast, fun n hlast hgen => waitGrp_completed h hk hm hlast hgen⟩
  case waitTs =>
    intro hts
    change execWaitTs k s = _
    exact runKubor_control h (by simp only [Instr.wellFormed, hk, hts, Bool.and_self]) rfl rfl
  case arrive =>
    intro wn gid m hm hops
    change (_ → execSigArv k wn s = _) ∧ execSigLeave k wn s = _
    exact ⟨fun hgen => runKubor_control h hk rfl (kuborArrive_enters hm hops hgen), runKubor_control h hk rfl (kuborArrive_leaves hm hops)⟩
  case join =>
    intro wd wn
    have hjoined (r : Option (State × Word)) : ∃ u, t.kuborJoined q wd r = .go u ∧ joined wd r = done u := by
      cases r <;> exact ⟨_, rfl, rfl⟩
    change execSigJoin k wd wn s = _ ∧ ∀ wa, _ → execSigNew k wd wn wa s = _
    refine ⟨?_, fun wa hattr => ?_⟩
    · obtain ⟨u, hgo, hdone⟩ := hjoined (t.joinGroup (.porch q p.inc) p.region (bits (p.reg wn).toNat 0 32))
      refine Eq.trans ?_ hdone.symm
      exact runKubor_control h hk rfl hgo
    · obtain ⟨u, hgo, hdone⟩ := hjoined (t.createGroup (.porch q p.inc) p.region (bits (p.reg wn).toNat 0 32) (p.reg wa).toNat)
      refine Eq.trans ?_ hdone.symm
      exact runKubor_control h hk rfl ((if_neg (by simpa using hattr)).trans hgo)
  case store =>
    intro wn wa imm halign hreach hops
    change execSigStl k wn wa imm s = _
    have hdone : p.ops.isEmpty = true := List.isEmpty_iff.mpr hops
    exact runKubor_control h hk rfl ((if_neg (not_not.mpr halign)).trans ((if_neg (by simpa using hreach)).trans (if_neg (by simpa using hdone))))
  case loop =>
    intro f hlen hinside count
    have hw : (Instr.kuborLoop k f).wellFormed = true := by simp only [Instr.wellFormed, hk, bne_iff_ne.mpr hlen, Bool.and_self]
    have hin : ¬ p.image.length ≤ p.pc + f.len.toNat := Nat.not_le.mpr hinside
    change (_ → execKuborLoop k f s = _) ∧ (_ → _ → execKuborLoop k f s = _)
    refine ⟨fun hcount => runKubor_control h hw rfl ((if_neg hin).trans (if_pos hcount)), fun hcount hdepth => runKubor_control h hw rfl ?_⟩
    exact (if_neg hin).trans ((if_neg hcount).trans (if_neg (Nat.not_le.mpr hdepth)))
  case branch =>
    intro wa wb cond off hcond
    have hw : (Instr.brc k wa wb cond off).wellFormed = true := by simp only [Instr.wellFormed, hk, hcond, decide_true, Bool.and_self]
    change (_ → _ → _ → execBrc k wa wb cond off s = _) ∧ (_ → execBrc k wa wb cond off s = _)
    refine ⟨fun htaken hlow hhigh => runKubor_control h hw rfl ?_, fun hnot => runKubor_control h hw rfl ?_⟩
    · exact (if_pos htaken).trans (if_neg (not_or.mpr ⟨Int.not_lt.mpr hlow, Int.not_le.mpr hhigh⟩))
    · exact if_neg (by rw [hnot]; exact Bool.false_ne_true)
  case finish =>
    intro hops
    change execKend k s = _
    exact runKubor_control h hk rfl (if_pos (List.isEmpty_iff.mpr hops))

end Sys2Proof.Proofs
end

section
/-!
PROOF. Rendezvous, timeouts, aborts, completions and timed issue of porch programs (R326, R332, R333, R337, R339, R340, R430).
-/
namespace Sys2Proof.Proofs

open Machine Laws

/-! ## What arrives wakes units only (R430) -/

theorem sameRest_rouse (s : State) : SameRest s s.rouse := by
  unfold State.rouse
  split
  · exact .of_storage rfl rfl rfl
  · exact .refl s

theorem sameRest_wakeDie (s : State) (d : Nat) : SameRest s (s.wakeDie d) := by
  unfold State.wakeDie
  dsimp only
  split
  · exact sameRest_rouse s
  · have hkept : SameRest s.rouse (s.rouse.setDie d { s.die d with power := 0 }) :=
      (readsAlike_setDie 0 s.rouse (x := { s.die d with power := 0 }) ((sameRest_rouse s).tlbs d).symm).toSameRest
    exact (sameRest_rouse s).trans hkept

theorem sameRest_dataWakes (s : State) (p : Porch) (o : KOp) : SameRest s (s.dataWakes p o) := by
  unfold State.dataWakes
  refine (sameRest_rouse s).trans (.foldl (fun u a => ?_) _ _)
  split
  · split
    · exact sameRest_wakeDie u _
    · exact .refl u
  · exact .refl u

theorem SameRest.porches {s t : State} (h : SameRest s t) : t.porches = s.porches := congrArg (fun x => x.porches) h.rest

theorem SameRest.porch {s t : State} (h : SameRest s t) (q : Nat) : t.porch q = s.porch q := by simp only [State.porch, h.porches]

theorem SameRest.programOf {s t : State} (h : SameRest s t) (coll : Word) : t.programOf coll = s.programOf coll := by
  simp only [State.programOf, State.programsOf, h.porches]

/-- Whether a word's data come from its own program depends on the package's id only. -/
theorem SameRest.fromSelf {s t : State} (h : SameRest s t) (o : KOp) : t.fromSelf o = s.fromSelf o := by
  simp only [State.fromSelf, State.pkgId, h.regs 3 0 (by decide) (by decide)]

/-! ## Data words (R332, R333) -/

/-- Whether a word's data come from another package. -/
def fromAfar (s : State) (o : KOp) : Bool := o.src.isSome && !(s.fromSelf o)

theorem src_of_fromSelf {s : State} {o : KOp} (h : s.fromSelf o = true) : o.src.isSome = true := by
  unfold State.fromSelf at h
  split at h
  · next hsrc => rw [hsrc]; rfl
  · cases h

/-- The state in which n bytes for a word have come: from another package they count, and wake what they are written to (R430, R443). -/
def arrived (s : State) (p : Porch) (o : KOp) (n : Nat) : State := if fromAfar s o then (s.dataWakes p o).count none 3 n else s

theorem sameRest_arrived (s : State) (p : Porch) (o : KOp) (n : Nat) : SameRest s (arrived s p o n) := by
  unfold arrived
  split
  · exact (sameRest_dataWakes s p o).trans (sameRest_count _ _ _ _)
  · exact .refl s

theorem differs_eq_true {o : KOp} {d : KData} (hd : kDataOf o.word = some d) {n : Nat} {fin : BitVec 4} :
    o.differs n fin = true ↔ d.n.toNat ≠ n ∨ d.fin ≠ fin := by
  simp only [KOp.differs, hd, Bool.or_eq_true, decide_eq_true_eq]

theorem differs_eq_false {o : KOp} {d : KData} (hd : kDataOf o.word = some d) {n : Nat} {fin : BitVec 4} (hn : d.n.toNat = n)
    (hfin : d.fin = fin) : o.differs n fin = false := by
  simp only [KOp.differs, hd, hn, hfin, ne_eq, not_true_eq_false, decide_false, Bool.or_self]

section

variable {s : State} {coll : Word} {q n sn : Nat} {sfin : BitVec 4} {o : KOp}
variable (hq : s.programOf coll = some q) (ho : (s.porch q).ops.find? (fun o => o.n == n) = some o)

include hq ho

/-- A send that its message met with another length stops the program with LENMM (R332). -/
theorem dataComplete_differs (hfar : fromAfar s o = true) (hdiffers : o.differs sn sfin = true) (data : Option (List Byte)) :
    s.dataComplete coll n ⟨⟨sn, sfin⟩, data⟩ = s.rouse.stopPorch q 5 := by
  simp only [fromAfar] at hfar
  simp only [State.dataComplete, hq, ho, hfar, hdiffers, Bool.and_self, if_true]

/-- The header of a send of the word's length is noted (R332). -/
theorem dataComplete_header (hfar : fromAfar s o = true) (hsame : o.differs sn sfin = false) :
    s.dataComplete coll n ⟨⟨sn, sfin⟩, none⟩ = s.rouse.modPorch q (fun p => p.modOp n (fun x => { x with came := true })) := by
  simp only [fromAfar] at hfar
  simp only [State.dataComplete, hq, ho, hfar, hsame, Bool.and_false, Bool.false_eq_true, if_false, if_true]

/-- The bytes of a send of the word's length let it complete (R333). -/
theorem dataComplete_bytes (hsame : (fromAfar s o && o.differs sn sfin) = false) (bs : List Byte) :
    s.dataComplete coll n ⟨⟨sn, sfin⟩, some bs⟩ = (arrived s (s.porch q) o bs.length).completeData q o bs := by
  simp only [fromAfar] at hsame
  simp only [State.dataComplete, hq, ho, hsame, Bool.false_eq_true, if_false]
  rfl

end

/-- The bytes that a completing word takes in: what its own program has sent it, else what has arrived. -/
def incoming (s : State) (o : KOp) (bs : List Byte) : List Byte :=
  if s.fromSelf o then (match o.got with | some x => x.2 | none => []) else bs

theorem incoming_congr {s t : State} {o : KOp} (h : t.fromSelf o = s.fromSelf o) (bs : List Byte) : incoming t o bs = incoming s o bs := by
  simp only [incoming, h]

/-- A word that sends nothing moves its data once they have come. -/
theorem completeData_moves {u : State} {q : Nat} {o : KOp} (hdst : o.dst = none) (hstage : o.stage = 0)
    (hgot : u.fromSelf o = true → o.got.isSome = true) (bs : List Byte) : u.completeData q o bs = u.moveData q o (incoming u o bs) := by
  have hgoes : ¬ ((o.dst.isSome && !o.met) || decide (o.stage = 1)) = true := by
    rw [hdst, hstage, Option.isSome_none, Bool.false_and, Bool.false_or]
    decide
  have hopen : ¬ o.stage = 2 := by rw [hstage]; decide
  simp only [State.completeData, if_neg hgoes, if_neg hopen, incoming]
  by_cases hself : u.fromSelf o = true
  · obtain ⟨x, hx⟩ := Option.isSome_iff_exists.mp (hgot hself)
    simp only [hself, src_of_fromSelf hself, hx, Bool.and_self, if_true]
  · simp only [hself, Bool.and_false, Bool.false_eq_true, if_false]

/-- The state in which a program's word has read its operand at address A, where it has one (R435). -/
def operandRead (u : State) (q : Nat) (p : Porch) (o : KOp) (d : KData) : State :=
  match kReads o.word with
  | some f => u.readsFlat (.porch q) p.party o.addrA (kBytes f d.n.toNat)
  | none => u

/-- A word that sends nothing, whose bytes have its length and whose addresses translate, stores its result and completes (R333). -/
theorem moveData_completes {u : State} {q : Nat} {o : KOp} {d : KData} {inc : List Byte} (hd : kDataOf o.word = some d) (hdst : o.dst = none)
    (hlen : kReceives o.word = true → inc.length = kBytes d.fin.toNat d.n.toNat)
    (hread : u.operandOk (u.porch q) d (kReads o.word) .read o.addrA = true)
    (ha : u.operandOk (u.porch q) d (kWritesA o.word) .write o.addrA = true)
    (hb : u.operandOk (u.porch q) d (kWritesB o.word) .write o.addrB = true) :
    let p := u.porch q
    let r := u.kuborResult p o inc
    u.moveData q o inc = ((((operandRead u q p o d).kuborStore p o r).count none 5 (kBytes d.fin.toNat d.n.toNat)).modPorch q (fun x =>
      { x with flags := x.flags ||| r.flags })).modPorch q (fun x => x.finish o) := by
  have hfits : ¬ (kReceives o.word && decide (inc.length ≠ kBytes d.fin.toNat d.n.toNat)) = true := by
    simpa only [Bool.and_eq_true, decide_eq_true_eq, not_and, not_not] using hlen
  simp only [State.moveData, hd, if_neg hfits, hread, ha, hb, hdst, Bool.and_self, Bool.not_true, Bool.false_eq_true, if_false]
  rfl

/-! ## Timed issue (R337) -/

/-- A Kubor word, which is what has a head, runs in its program's slot as the instruction that it is. -/
theorem kuborWord_eq_exec {i : Instr} {k : KHead} (h : kHeadOf i = some k) (s : State) : kuborWord i s = exec i s := by
  unfold kHeadOf at h
  split at h <;> cases h <;> rfl

/-- A stamped word of a running program issues at its stamp (R337). -/
theorem timedIssue_due {s : State} {slot : Nat} {i : Instr} {k : KHead} (hrun : (s.porch slot).running = true) (hts : k.ts = true)
    (htime : ((s.porch slot).reg k.tsr).toNat ≤ s.time) (hi : (s.porch slot).nextWord = some i) (hk : kHeadOf i = some k) :
    execTimedIssue slot s = exec i { s with porchFocus := slot } := by
  simp only [execTimedIssue, hi, hk, hrun, hts, htime, decide_true, Bool.and_self, if_true]
  exact kuborWord_eq_exec hk _

/-- Settles O31: what each event finds, and what it does then. -/
theorem porchSteps : Obligations.PorchSteps := by
  unfold Obligations.PorchSteps
  intro s
  refine ⟨?message, ?timeout, fun _ => rfl, ?data, ?timed⟩
  case message =>
    intro coll q peer tag n fin dest hq hroom
    have hporch := (sameRest_rouse s).porch q
    have hprogram : s.rouse.programOf coll = some q := ((sameRest_rouse s).programOf coll).trans hq
    change execReadyToReceive coll peer tag ⟨n, fin⟩ dest s = _
    simp only [execReadyToReceive, hprogram, hporch, hroom, if_true]
  case timeout =>
    rintro slot hrun ⟨o, ho, hlate⟩
    have hany : (s.porch slot).ops.any (fun o => s.overdue (s.porch slot) o) = true := List.any_eq_true.mpr ⟨o, ho, hlate⟩
    exact congrArg Host.Outcome.next (if_pos (by rw [hrun, hany]; rfl))
  case data =>
    intro coll q n sn sfin o d p far hq ho hd
    refine ⟨fun hfar hne data => ?_, fun hfar hn hfin => ?_, fun hsame hdst hstage hgot bs => ?_⟩
    · exact congrArg Host.Outcome.next (dataComplete_differs hq ho hfar ((differs_eq_true hd).mpr hne) data)
    · exact congrArg Host.Outcome.next (dataComplete_header hq ho hfar (differs_eq_false hd hn hfin))
    · intro inc hlen u hread ha hb r met
      have hagree : (fromAfar s o && o.differs sn sfin) = false := by
        by_cases hfar : fromAfar s o = true
        · rw [differs_eq_false hd (hsame hfar).1 (hsame hfar).2, Bool.and_false]
        · rw [Bool.eq_false_iff.mpr hfar, Bool.false_and]
      have hrest : SameRest s u := sameRest_arrived s p o bs.length
      have hself := hrest.fromSelf o
      have hinc : incoming u o bs = inc := incoming_congr hself bs
      have hp : u.porch q = p := hrest.porch q
      have hmoved := moveData_completes (u := u) (q := q) (inc := inc) hd hdst hlen (by rw [hp]; exact hread) (by rw [hp]; exact ha)
        (by rw [hp]; exact hb)
      rw [hp] at hmoved
      refine congrArg Host.Outcome.next ((dataComplete_bytes hq ho hagree bs).trans ?_)
      exact (completeData_moves hdst hstage (fun h => hgot (hself ▸ h)) bs).trans (hinc.symm ▸ hmoved)
  case timed =>
    intro slot k hrun hts htime u
    refine ⟨fun i hi hk => timedIssue_due hrun hts htime hi hk, fun hi htimed hk => ?_⟩
    have hw : (Instr.waitTs k).wellFormed = true := by simp only [Instr.wellFormed, hk, hts, Bool.and_self]
    refine (timedIssue_due hrun hts htime hi rfl).trans ?_
    change execWaitTs k u = _
    exact runKubor_control ⟨hrun, fun _ => ⟨htimed, htime⟩⟩ hw rfl rfl

end Sys2Proof.Proofs
end

section
/-!
PROOF. LAUNCH, LAUNCH_COMPLETE and region control (R384 to R386, R430, R435).
-/
namespace Sys2Proof.Proofs

open Machine Laws

/-! ## LAUNCH (R384, R385) -/

section

variable {s : State} {pa : Nat} {chain : List Block} {bad : Nat}

/-- The code of a launch: of the first block that fails, else of a chain that cannot be followed to its end (R385). -/
def launchCode (s : State) (chain : List Block) (bad : Nat) : Nat :=
  if s.chainCode (s.registerAll chain) chain chain 0 [] ≠ 0 then s.chainCode (s.registerAll chain) chain chain 0 [] else bad

/-- A chain that passes every check is registered, and its items are filed (R384). -/
theorem launchAt_accepted (hchain : s.chainFrom 4096 pa = (chain, bad)) (hcode : launchCode s chain bad = 0) :
    s.launchAt pa = (((s.registerAll chain).readsBlocks chain).readsLaunch chain).fileBlocks chain := by
  unfold launchCode at hcode
  simp only [State.launchAt, hchain, hcode, ne_eq, not_true_eq_false, if_false]

/-- A chain that fails a check leaves its code (R385). -/
theorem launchAt_refused (hchain : s.chainFrom 4096 pa = (chain, bad)) (hcode : launchCode s chain bad ≠ 0) :
    s.launchAt pa = (({ s with cellar := { s.cellar with launched := true } } : State).readsBlocks chain).endLaunch 0 (launchCode s chain bad) := by
  unfold launchCode at hcode ⊢
  simp only [State.launchAt, hchain, if_pos hcode]

/-- A launch all of whose items have been offered has none to file. -/
theorem fileOn_offered {w : LaunchWork} (hw : s.launching = some w) (hitems : w.items = []) : s.fileOn = s := by
  obtain ⟨items, count⟩ := w
  cases hitems
  simp only [State.fileOn, hw, State.fileWork]
  rw [← hw]

/-- Once every item is filed the launch ends: LSTAT takes the count, and its cause is set (R384). -/
theorem launchComplete_filed {w : LaunchWork} (hw : s.launching = some w) (hfiled : s.launchWaits = false) :
    execLaunchComplete s = .next ((s.endLaunch w.count 0).cause 0) := by
  obtain ⟨hqueue, hoffered⟩ := Bool.or_eq_false_iff.mp hfiled
  have hitems : w.items = [] := by simpa only [hw, Option.any_some, Bool.not_eq_false', List.isEmpty_iff] using hoffered
  simp only [execLaunchComplete, hw, hqueue, fileOn_offered hw hitems, hfiled, Bool.false_eq_true, if_false]

end

/-- Settles O32: a launch is checked only when none is under way, and ends only when all of it is filed. -/
theorem launchSteps : Obligations.LaunchSteps := by
  unfold Obligations.LaunchSteps
  intro s0 s
  have hidle {pa : Dword} (h : s.launching = none) : execLaunch pa s0 = .next (s.launchAt pa.toNat) :=
    congrArg Host.Outcome.next (if_neg (by rw [show s0.touchBar.launching = none from h]; exact Bool.false_ne_true))
  refine ⟨fun pa chain bad h hchain => ⟨fun hcode => ?_, fun hcode => ?_⟩, fun pa hbusy => congrArg Host.Outcome.next (if_pos hbusy),
    fun w hw hfiled => launchComplete_filed hw hfiled⟩
  · exact (hidle h).trans (congrArg Host.Outcome.next (launchAt_accepted hchain hcode))
  · exact (hidle h).trans (congrArg Host.Outcome.next (launchAt_refused hchain hcode))

/-! ## Region control (R386) -/

theorem onRegion_live {s : State} {r : Nat} (h : (tableFind s.regions r).isSome = true) (f : State → State) : s.onRegion r f = f s := if_pos h

/-- Settles O33: each command acts on the region, which is live. -/
theorem regionControlSteps : Obligations.RegionControlSteps := by
  unfold Obligations.RegionControlSteps
  intro s0 region r s hlive
  have hacts (f : State → State) : Host.Outcome.next (s.onRegion r f) = (.next (f s) : Answer) := congrArg Host.Outcome.next (onRegion_live hlive f)
  exact ⟨hacts _, hacts _, hacts _, hacts _⟩

end Sys2Proof.Proofs
end

section
/-!
PROOF. The walks of the stair cores (R399 to R407).
-/
namespace Sys2Proof.Proofs

open Machine Laws

section

variable {s0 : State} {core : Nat} {x10 x11 x12 x13 : Dword}

/-- The party that a walk is made for (R399). -/
def walkParty (core : Nat) (x13 : Dword) : Party := ⟨bits x13.toNat 0 12, core / Config.stairCores⟩

/-- The access of data that has missed (R399). -/
def missAccess (x10 : Dword) : Acc4 := if x10.getLsbD 4 then .atomic else if x10.getLsbD 3 then .write else .read

/-- The state in which a walk finds its translation: what it reads meets the uncorrectable words for the context that missed, or for its
region (R399, R435). -/
def walked (s0 : State) (core : Nat) (x10 x11 x12 x13 : Dword) : State :=
  s0.walkReads (match s0.ctxOn (bits x12.toNat 0 8) (bits x12.toNat 8 1) with
    | some cid => .context cid
    | none => .record (bits x13.toNat 0 12)) (walkParty core x13) x10 x11

/-- A flat miss of data (R400 to R404). -/
theorem walk_data (h : bits x10.toNat 0 3 = 1) :
    let s := walked s0 core x10 x11 x12 x13
    let p := walkParty core x13
    s0.walk core x10 x11 x12 x13 = (s.keepPage p (missAccess x10) x11.toNat).putCore core
      (walkResult x11 x12 x13 ((s.flatPage p (missAccess x10) x11.toNat).map (fun h => (h.base, h.perm)))) := by
  simp only [State.walk, h]
  rfl

/-- A flat miss of code (R400 to R404). -/
theorem walk_code (h : bits x10.toNat 0 3 = 4) :
    let s := walked s0 core x10 x11 x12 x13
    let p := walkParty core x13
    s0.walk core x10 x11 x12 x13 = (s.keepPage p .code x11.toNat).putCore core
      (walkResult x11 x12 x13 ((s.flatPage p .code x11.toNat).map (fun h => (h.base, h.perm)))) := by
  simp only [State.walk, h]
  rfl

/-- A tile miss (R405). -/
theorem walk_tile (h : bits x10.toNat 0 3 = 2) :
    let s := walked s0 core x10 x11 x12 x13
    let p := walkParty core x13
    let id := bits x11.toNat 0 16
    let tile := bits x11.toNat 16 48
    s0.walk core x10 x11 x12 x13 = match s.tensor p id with
      | none => s.putCore core (walkResult x11 x12 x13 (.error rPROT))
      | some t => (s.keepTile p id t tile (x10.getLsbD 3)).putCore core
          (walkResult x11 x12 x13 ((s.tileAt p id t tile (x10.getLsbD 3)).map (fun f => (f.1, if f.2 then 3 else 1)))) := by
  simp only [State.walk, h]
  rfl

/-- A KV miss (R406, R407). -/
theorem walk_kv (h : bits x10.toNat 0 3 = 3) :
    let s := walked s0 core x10 x11 x12 x13
    let p := walkParty core x13
    s0.walk core x10 x11 x12 x13 = match s.cardFor p (kvSeq x11) (kvLayer x11) with
      | none => s.putCore core (walkResult x11 x12 x13 (.error rPROT))
      | some c => match s.kvWalk p c (kvLayer x11) (kvPlane x11) (kvPos x11 / 16) with
        | .frame f => (s.keepKv p (kvSeq x11) c (kvLayer x11) (kvPlane x11) (kvPos x11 / 16) f).putCore core (walkResult x11 x12 x13 (.ok (f, 3)))
        | .hold => s
        | .fail r => s.putCore core (walkResult x11 x12 x13 (.error r)) := by
  simp only [State.walk, h]
  rfl

end

/-- Settles O26: each kind of miss has its walk, and a KV walk goes by the card and by what it finds. -/
theorem walkSteps : Obligations.WalkSteps := by
  unfold Obligations.WalkSteps
  intro s0 core x10 x11 x12 x13 hcore hx12 p a s
  have hwalk {t : State} (h : s0.walk core x10 x11 x12 x13 = t) : exec (.translationWalk core x10 x11 x12 x13) s0 = .next t :=
    congrArg Host.Outcome.next ((if_pos ⟨hcore, hx12⟩).trans h)
  refine ⟨fun h => hwalk (walk_data h), fun h => hwalk (walk_code h), fun h => hwalk (walk_tile h), fun h => ⟨?noCard, ?card⟩⟩
  case noCard =>
    intro (hcard : (walked s0 core x10 x11 x12 x13).cardFor (walkParty core x13) (kvSeq x11) (kvLayer x11) = none)
    refine hwalk ((walk_kv h).trans ?_)
    simp only [hcard]
    rfl
  case card =>
    intro c (hcard : (walked s0 core x10 x11 x12 x13).cardFor (walkParty core x13) (kvSeq x11) (kvLayer x11) = some c) found
    have hkv {w : BlockAt} (hfound : found = w) :
        (walked s0 core x10 x11 x12 x13).kvWalk (walkParty core x13) c (kvLayer x11) (kvPlane x11) (kvPos x11 / 16) = w := hfound
    refine ⟨fun f hf => hwalk ((walk_kv h).trans ?_), fun r hr => hwalk ((walk_kv h).trans ?_), fun hh => hwalk ((walk_kv h).trans ?_)⟩
    · simp only [hcard, hkv hf]
      rfl
    · simp only [hcard, hkv hr]
      rfl
    · simp only [hcard, hkv hh]
      rfl

end Sys2Proof.Proofs
end

section
/-!
PROOF. The cellar: the request ring, storage commands and the full-memory checkpoint (R418 to R424, R444, R445).
-/
namespace Sys2Proof.Proofs

open Machine Laws

/-! ## The request ring (R420 to R424) -/

section

variable {s : State} {k op : Nat} {r : TierReq} (hring : s.ringPa ≠ 0) (hphase : s.cellar.ckPhase ≠ 2)

include hring hphase

/-- A request that waits is tried again (R424). -/
theorem serve_again (hr : tableFind s.cellar.reqs k = some r) (hwaits : r.phase = 1) (hop : r.op = op) (hmoves : s.tierAct k r ≠ s) :
    s.serve k op = ((s.requestReads r).tierAct k r).putHead := by
  simp only [State.serve, hring, hphase, hr, hwaits, hop, hmoves, or_self, if_false, ne_eq, not_false_eq_true, and_self, if_true]

/-- The state in which the stair cores have taken entry k. -/
def entryTaken (s : State) (k : Nat) : State := (s.entryReads k).onCellar (fun c => { c with next := c.next + 1 })

variable (hfresh : tableFind s.cellar.reqs k = none) (hready : s.entryReady k = true) (hop : bits (s.ringWord k 8) 0 4 = op)

include hfresh hready hop

/-- An entry that names a block becomes its operation (R420). -/
theorem serve_entry (hr : (entryTaken s k).tierReq k = some r) :
    s.serve k op = (((entryTaken s k).requestReads r).tierAct k r).putHead := by
  unfold entryTaken at hr ⊢
  simp only [State.serve, hring, hphase, hfresh, hready, hop, hr, or_self, Bool.not_true, ne_eq, not_true_eq_false, decide_false,
    Bool.false_and, Bool.or_self, Bool.false_eq_true, if_false]

/-- An entry that names no block becomes CODE 2 (R420). -/
theorem serve_noBlock (hr : (entryTaken s k).tierReq k = none) :
    s.serve k op = ((entryTaken s k).putStatus (some ((entryTaken s k).ringEntryPa k)) 2 0).putHead := by
  unfold entryTaken at hr ⊢
  simp only [State.serve, hring, hphase, hfresh, hready, hop, hr, or_self, Bool.not_true, ne_eq, not_true_eq_false, decide_false,
    Bool.false_and, Bool.or_self, Bool.false_eq_true, if_false]

end

/-- Settles O37: each of the four events serves the ring with its own operation. -/
theorem tierSteps : Obligations.TierSteps := by
  unfold Obligations.TierSteps
  intro s k hring hphase t act
  have hact {op : Nat} {u : State} (h : s.serve k op = u) : act op u := by
    refine ⟨?_, ?_, ?_, ?_⟩ <;> rintro rfl <;> exact congrArg Host.Outcome.next h
  exact ⟨fun r hr hwaits hmoves => hact (serve_again hring hphase hr hwaits rfl hmoves), fun hfresh hready =>
    ⟨fun r hr hop => hact (serve_entry hring hphase hfresh hready hop.symm hr),
      fun hr => hact (serve_noBlock hring hphase hfresh hready rfl hr)⟩⟩

/-! ## Storage commands (R418, R419, R421) -/

theorem SameRest.cellar {s t : State} (h : SameRest s t) : t.cellar = s.cellar := congrArg (fun x => x.cellar) h.rest

theorem sameRest_poolReads (s : State) (v : EccVictim) (r : Nat) : SameRest s (s.poolReads v r) := by
  unfold State.poolReads
  split
  · exact sameRest_reads _ _ _ _ _
  · exact .refl s

theorem sameRest_requestReads (s : State) (r : TierReq) : SameRest s (s.requestReads r) :=
  (sameRest_reads _ _ _ _ _).trans (sameRest_poolReads _ _ _)

/-- The state in which a command for a request has ended, and is counted at its controller (R418). -/
def commanded (s0 : State) (r : TierReq) (ok : Bool) : State :=
  (s0.requestReads r).onCellar (fun c => c.command r.target (ok && !(s0.requestReads r).cellar.unserved r.target))

section

variable {s0 : State} {k : Nat} {ok : Bool} {r : TierReq}

/-- What the end of a command does, by what it was for and how it ended (R421). -/
theorem nvme_eq (hr : tableFind s0.cellar.reqs k = some r) (hstarted : 2 ≤ r.phase) (hphase : s0.cellar.ckPhase ≠ 2)
    (hfree : r.op = 4 → leafTier ((s0.requestReads r).leafWord r.region r.leaf) ≠ 2) :
    let good := ok && !(s0.requestReads r).cellar.unserved r.target
    let t := commanded s0 r ok
    let u := t.putSlot r.region r.target r.frame r.size
    s0.nvme k ok =
      if good = false ∧ (s0.requestReads r).cellar.unserved r.target = false ∧ r.tries < 2 then t.putReq k { r with tries := r.tries + 1 }
      else if r.op ≠ 2 then (t.readDone k r good).putHead
      else if good = false then (t.writeFailed k r).putHead
      else if r.mirror.isSome = true ∧ r.phase = 2 then u.putReq k { r with phase := 3, tries := 0 }
      else (u.demoted k r).putHead := by
  have hck : (s0.requestReads r).cellar.ckPhase ≠ 2 := by rw [(sameRest_requestReads s0 r).cellar]; exact hphase
  have hgoes : (decide (r.phase < 2) || (r.op == 4 && leafTier ((s0.requestReads r).leafWord r.region r.leaf) == 2)) = false := by
    simp only [Bool.or_eq_false_iff, decide_eq_false_iff_not, Nat.not_lt, hstarted, true_and, Bool.and_eq_false_imp, beq_iff_eq,
      beq_eq_false_iff_ne]
    exact hfree
  simp only [State.nvme, hr, if_neg hck, hgoes, Bool.false_eq_true, if_false, commanded]
  cases r.mirror <;> simp only [Bool.and_eq_true, Bool.not_eq_true', decide_eq_true_eq, Option.isSome_some, Option.isSome_none,
    Bool.false_eq_true, false_and, true_and, if_false, and_assoc]

end

/-- Settles O38: by how the command ended, what it was for, and whether a mirror is still to be written. -/
theorem storageSteps : Obligations.StorageSteps := by
  unfold Obligations.StorageSteps
  intro s0 k ok r hr hstarted hphase s hfree down t u
  have hend {v : State} (h : s0.nvme k ok = v) : exec (.nvmeCompletion k ok) s0 = .next v := congrArg Host.Outcome.next h
  have heq := nvme_eq (ok := ok) hr hstarted hphase hfree
  have hdown : (s0.requestReads r).cellar.unserved r.target = down := rfl
  have ht : commanded s0 r ok = t := rfl
  simp only [hdown, ht] at heq
  refine ⟨fun hok hserved htries => ?again, fun hop hlast => ?read, fun hop hlast => ?failed, fun hop hok hserved => ?written⟩
  case again => exact hend (heq.trans (if_pos ⟨by rw [hok]; rfl, hserved, htries⟩))
  case read =>
    refine hend (heq.trans ((if_neg ?_).trans (if_pos hop)))
    rintro ⟨hgood, hserved, htries⟩
    rw [hserved, Bool.not_false, Bool.and_true] at hgood
    rw [hgood, hserved] at hlast
    simp only [Bool.false_eq_true, false_and, false_or] at hlast
    omega
  case failed =>
    have hgood : (ok && !down) = false := by
      rcases hlast with h | ⟨h, -⟩ <;> rw [h]
      · exact Bool.and_false ok
      · rfl
    refine hend (heq.trans ((if_neg ?_).trans ((if_neg (not_not.mpr hop)).trans (if_pos hgood))))
    rintro ⟨-, hserved, htries⟩
    rcases hlast with h | ⟨-, h⟩
    · rw [hserved] at h; cases h
    · omega
  case written =>
    have hgood : ¬ (ok && !down) = false := by rw [hok, hserved]; decide
    have hdone := heq.trans ((if_neg (fun h => hgood h.1)).trans ((if_neg (not_not.mpr hop)).trans (if_neg hgood)))
    refine ⟨fun hmirror hfirst => hend (hdone.trans (if_pos ⟨hmirror, hfirst⟩)), fun hlast => hend (hdone.trans (if_neg ?_))⟩
    rintro ⟨hmirror, hfirst⟩
    rcases hlast with h | h
    · rw [h] at hmirror; cases hmirror
    · exact h hfirst

/-! ## The full-memory checkpoint (R444, R445) -/

section

variable {s0 : State}

/-- START with nothing in its way quiesces the package: every region is held (R444). -/
theorem execStart_ready (hidle : s0.cellar.ckPhase ≠ 1) (hover : s0.cellar.ckPhase ≠ 2) (hporches : ∀ e ∈ s0.porches, e.2.running = false)
    (hroom : Config.checkpointSlots ≤ s0.touchBar.ckres) (hready : s0.cellar.ready = true) :
    execStart s0 = .next ((s0.regions.map Prod.fst).foldl (fun t r => t.holdRegion r) (s0.touchBar.ckStat 1 0 0)) := by
  have hnone : ¬ s0.porches.any (fun e => e.2.running) = true := by
    simpa only [List.any_eq_true, not_exists, not_and, Bool.not_eq_true] using hporches
  have hcellar : ¬ (!s0.cellar.ready) = true := by rw [hready]; decide
  exact congrArg Host.Outcome.next ((if_neg (not_or.mpr ⟨hidle, hover⟩)).trans ((if_neg hnone).trans ((if_neg (Nat.not_lt.mpr hroom)).trans
    (if_neg hcellar))))

/-- Once all is quiet the dirty lines are written back, and the transfer begins (R445). -/
theorem checkpointTransfer_begins (hphase : s0.cellar.ckPhase = 1) (hquiet : s0.quiet = true) :
    execCheckpointTransfer s0 = .next (((s0.pantry.map Prod.fst).foldl State.writeBack s0).ckStat 2 0 0) :=
  congrArg Host.Outcome.next ((if_pos hphase).trans (if_pos hquiet))

/-- Whether the controllers can take a checkpoint (R444). -/
def checkpointAble (c : Cellar) : Prop := Config.checkpointSlots ≤ c.slots ∧ ∀ x ∈ c.ctrls, x ∉ c.out

theorem checkpointAble_iff (c : Cellar) : checkpointAble c ↔ (decide (c.slots < Config.checkpointSlots) || c.ctrls.any c.out.contains) = false := by
  simp only [checkpointAble, Bool.or_eq_false_iff, decide_eq_false_iff_not, Nat.not_lt, List.any_eq_false, List.contains_iff_mem]

/-- A transfer that the controllers cannot take fails with 4 (R444). -/
theorem checkpointTransfer_fails (hphase : s0.cellar.ckPhase = 2) (hable : ¬ checkpointAble s0.cellar) :
    execCheckpointTransfer s0 = .next (s0.ckStat 0 4 s0.cellar.ckSlots) := by
  rw [checkpointAble_iff, Bool.not_eq_false] at hable
  exact congrArg Host.Outcome.next ((if_neg (by rw [hphase]; decide)).trans ((if_neg (not_not.mpr hphase)).trans (if_pos hable)))

/-- While the transfer goes on, a step moves HBM to the next slots, and the step after the last one saves the hall (R445). -/
theorem checkpointTransfer_goes (hphase : s0.cellar.ckPhase = 2) (hable : checkpointAble s0.cellar) :
    let n := s0.cellar.ckSlots
    let m := min Config.checkpointHbm (n + Config.checkpointStep)
    execCheckpointTransfer s0 = .next (if n < Config.checkpointHbm then (s0.storeSlots n m).ckStat 2 0 m
      else (s0.onCellar (fun c => { c with image := some s0.image })).ckStat 3 0 Config.checkpointSlots) := by
  rw [checkpointAble_iff, ← Bool.not_eq_true] at hable
  exact congrArg Host.Outcome.next ((if_neg (by rw [hphase]; decide)).trans ((if_neg (not_not.mpr hphase)).trans (if_neg hable)))

/-- RESTORE after a reset, before any launch, puts the image back (R445). -/
theorem execRestore_fresh {i : Image} (hlaunched : s0.cellar.launched = false) (hctxs : s0.ctxs = []) (hregions : s0.regions = [])
    (hready : s0.cellar.ready = true) (himage : s0.cellar.image = some i) :
    execRestore s0 = .next ((s0.touchBar.restore i).ckStat 3 0 Config.checkpointSlots) := by
  have hfresh : ¬ (s0.cellar.launched || !s0.ctxs.isEmpty || !s0.regions.isEmpty) = true := by rw [hlaunched, hctxs, hregions]; decide
  have hcellar : ¬ (!s0.cellar.ready) = true := by rw [hready]; decide
  refine congrArg Host.Outcome.next ((if_neg hfresh).trans ((if_neg hcellar).trans ?_))
  simp only [State.touchBar, himage]

end

/-- Settles O39: each command and each step of the transfer by what it finds. -/
theorem checkpointSteps : Obligations.CheckpointSteps := by
  unfold Obligations.CheckpointSteps
  intro s0 s able n
  refine ⟨fun hidle hover hporches hroom hready => execStart_ready hidle hover hporches hroom hready,
    fun hphase hquiet => checkpointTransfer_begins hphase hquiet, fun hphase hable => checkpointTransfer_fails hphase hable,
    fun hphase hable => ⟨fun hmore => ?_, fun hlast => ?_⟩,
    fun i hlaunched hctxs hregions hready himage => execRestore_fresh hlaunched hctxs hregions hready himage⟩
  · exact (checkpointTransfer_goes hphase hable).trans (congrArg Host.Outcome.next (if_pos hmore))
  · exact (checkpointTransfer_goes hphase hable).trans (congrArg Host.Outcome.next (if_neg (Nat.not_lt.mpr hlast)))

end Sys2Proof.Proofs
end

section
/-!
PROOF. Power states, clocks, counters and scrubbing (R429 to R434, R443).
-/
namespace Sys2Proof.Proofs

open Machine Laws

/-! ## Sleep and wake (R429, R430) -/

section

variable {s : State}

/-- A gang without work goes to sleep, and loses its scratchpads and operand stores (R430). -/
theorem enterGangIdle_idle {gang d : Nat} (hd : gang / Config.gangsPerDie = d) (htol : 2000 ≤ s.ltol) (hon : gang ∈ s.gangsOn d)
    (hdie : d < Config.dies) (hidle : s.gangBusy gang = false) (hawake : gang ∉ (s.die d).gangIdle) (hfar : s.farWake d 2000 = true) :
    execEnterGangIdle gang s = .next ((s.loseGang gang).setDie d { (s.loseGang gang).die d with
      gangIdle := gang :: ((s.loseGang gang).die d).gangIdle }) := by
  have hcontains : (s.gangsOn d).contains gang = true := List.contains_iff_mem.mpr hon
  have hnot : (s.die d).gangIdle.contains gang = false := by rw [← Bool.not_eq_true, List.contains_iff_mem]; exact hawake
  simp only [execEnterGangIdle, hd, htol, hcontains, hdie, hidle, hnot, hfar, decide_true, Bool.not_false, Bool.and_self, if_true]

/-- A die all of whose gangs sleep, and which has no other work, writes back its pantry and goes into retention (R430). -/
theorem enterDieRetention_idle {die : Nat} (htol : 200000 ≤ s.ltol) (hdie : die < Config.dies) (hawake : (s.die die).power ≠ 2)
    (hgangs : ∀ g ∈ s.gangsOn die, g ∈ (s.die die).gangIdle) (hbins : ∀ e ∈ (s.die die).bins, e.2.items = [])
    (hidle : s.dieBusy die = false) (hfar : s.farWake die 200000 = true) :
    execEnterDieRetention die s = .next (((s.pantryOf die).foldl State.dropLine s).setDie die { s.die die with power := 2 }) := by
  have hasleep : (s.gangsOn die).all (s.die die).gangIdle.contains = true :=
    List.all_eq_true.mpr (fun g hg => List.contains_iff_mem.mpr (hgangs g hg))
  have hempty : (s.die die).bins.all (fun e => e.2.items.isEmpty) = true :=
    List.all_eq_true.mpr (fun e he => List.isEmpty_iff.mpr (hbins e he))
  simp only [execEnterDieRetention, htol, hdie, hawake, hasleep, hempty, hidle, hfar, ne_eq, not_false_eq_true, decide_true, Bool.not_false,
    Bool.and_self, if_true]

/-- The package goes into standby when its dies are in retention and nothing else of it is at work (R430). -/
theorem enterPackageStandby_idle (htol : 5000000 ≤ s.ltol) (hawake : s.fleet.standby = false)
    (hdies : ∀ d < Config.dies, (s.die d).power = 2 ∧ s.farWake d 5000000 = true) (hporches : ∀ e ∈ s.porches, e.2.running = false)
    (hstreams : ∀ e ∈ s.channels, ∀ x ∈ e.2.streams, x.2 = []) (hhost : s.fleet.lastBar + 1000000 ≤ s.time) (hlaunch : s.launching = none) :
    execEnterPackageStandby s = .next (s.onFleet (fun f => { f with standby := true })) := by
  have hasleep : (List.range Config.dies).all (fun d => (s.die d).power == 2 && s.farWake d 5000000) = true := by
    simpa only [List.all_eq_true, List.mem_range, Bool.and_eq_true, beq_iff_eq] using hdies
  have hstopped : s.porches.all (fun e => !e.2.running) = true := by simpa only [List.all_eq_true, Bool.not_eq_true'] using hporches
  have hdrained : s.channels.all (fun e => e.2.streams.all (fun x => x.2.isEmpty)) = true := by
    simpa only [List.all_eq_true, List.isEmpty_iff] using hstreams
  simp only [execEnterPackageStandby, htol, hawake, hasleep, hstopped, hdrained, hhost, hlaunch, Option.isNone_none, decide_true, Bool.not_false,
    Bool.and_self, if_true]

/-! ## Scrubbing (R434) -/

/-- A scrub that corrects errors counts them, and records them of some source of R437 on some die. -/
theorem execScrub_corrects (hn : Config.freeBits s.free (2 ^ 55 + 3) % 2 ^ 32 ≠ 0) :
    execScrub s = .next ((s.count none 7 (Config.freeBits s.free (2 ^ 55 + 3) % 2 ^ 32)).errorRecord (s.errorAt .scrub).unit
      (s.errorAt .scrub).src 1 (s.errorAt .scrub).die 0xFF (Config.freeBits s.free (2 ^ 55 + 3) % 2 ^ 32)) :=
  congrArg Host.Outcome.next (if_neg hn)

end

/-- Settles O40: what puts a unit to sleep is met, and each of the other steps has the whole of its effect. -/
theorem powerAndClockSteps : Obligations.PowerAndClockSteps := by
  unfold Obligations.PowerAndClockSteps
  intro s
  refine ⟨fun gang htol hon hdie hidle hawake hfar => enterGangIdle_idle rfl htol hon hdie hidle hawake hfar,
    fun die htol hdie hawake hgangs hbins hidle hfar => enterDieRetention_idle htol hdie hawake hgangs hbins hidle hfar,
    fun htol hawake hdies hporches hstreams hhost hlaunch => enterPackageStandby_idle htol hawake hdies hporches hstreams hhost hlaunch,
    fun g hg => congrArg Host.Outcome.next (if_pos hg), fun d hd => congrArg Host.Outcome.next (if_pos hd), rfl,
    fun v => ⟨rfl, fun die => rfl, rfl, rfl, fun port hport => congrArg Host.Outcome.next (if_pos hport), ?scrub⟩⟩
  case scrub =>
    intro n
    refine ⟨fun hn => congrArg Host.Outcome.next (if_pos hn), fun hn => ?_⟩
    obtain ⟨hlow, hhigh, hdie⟩ := errorAt_scrub s
    exact ⟨_, _, _, hlow, hhigh, hdie, execScrub_corrects hn⟩

end Sys2Proof.Proofs
end

section
/-!
PROOF. The state at reset, boot, attestation and keys (R73, R376, R379, R398, R438 to R441).
-/
namespace Sys2Proof.Proofs

open Machine Laws

/-- Settles O59: nothing is stored at reset, and no region is live. -/
theorem resetIsCanonical : Obligations.ResetIsCanonical :=
  ⟨⟨rfl, rfl⟩, fun _ he => absurd he List.not_mem_nil, fun _ hi => by cases hi⟩

/-! ## Boot (R438) -/

/-- Changes of dies change no register. -/
theorem barReg_foldl_setDie {f : State → Nat → Die} (l : List Nat) (s : State) (cap off : Nat) :
    (l.foldl (fun u d => u.setDie d (f u d)) s).barReg cap off = s.barReg cap off :=
  foldl_keeps (P := fun u => u.barReg cap off = s.barReg cap off) (f := fun u d => u.setDie d (f u d)) (fun _ _ hu => hu) l s rfl

/-- SECSTAT takes the outcome of a check, whether or not the image is accepted. -/
theorem barReg_bootCheck (s : State) (image : Option (List Host.Cell)) : (s.bootCheck image).barReg 7 0 = BitVec.ofNat 64
    (bit ((Config.imageCheck image).1 % 5 == 0) + (Config.imageCheck image).1 % 5 * 2 ^ 8 + (Config.imageCheck image).2.1.toNat * 2 ^ 16) := by
  unfold State.bootCheck
  dsimp only
  split
  · exact barReg_setBar _ _ _ _
  · exact (barReg_foldl_setDie _ _ 7 0).trans (barReg_setBar s 7 0 _)

/-- BOOTIMG repeats the checks while no image has been accepted. -/
theorem execBootimg_unverified {s : State} (h : s.fleet.verified = false) :
    execBootimg 1 s = .next (s.touchBar.bootCheck (some s.touchBar.hbmImage)) := by
  have hopen : s.touchBar.fleet.verified = false := h
  simp only [execBootimg, hopen, decide_true, Bool.not_false, Bool.and_self, if_true]

/-- BOOT checks the flash's image while SECSTAT has no outcome. -/
theorem execBoot_unverified {s : State} (hstat : s.barReg 7 0 = 0) (h : s.fleet.verified = false) : execBoot s = .next (s.bootCheck none) := by
  simp only [execBoot, hstat, h, decide_true, Bool.not_false, Bool.and_self, if_true]

/-! ## Keys (R441) -/

section

variable {s : State} {v : Dword}

/-- The key slot that KEYLD names. -/
def keySlot (v : Dword) : Nat := bits v.toNat 0 7

/-- The blob that KEYLD names, as the boot block reads it. -/
def keyBlob (s : State) (v : Dword) : List Byte := s.physRead noKey (bits v.toNat 8 44 * 256) 256

/-- The state in which KEYLD has read its blob. -/
def blobRead (s : State) (v : Dword) : State := s.touchBar.reads .scrub noKey (bits v.toNat 8 44 * 256) 256

/-- The read of the blob changes no region, so the slot is in use where it was. -/
theorem blobRead_uses : (blobRead s v).regions.any (fun e => e.2.keyslot == keySlot v) = true ↔ ∃ e ∈ s.regions, e.2.keyslot = keySlot v := by
  rw [blobRead, (sameRest_reads _ _ _ _ _).regions]
  simp only [List.any_eq_true, beq_iff_eq, State.touchBar]

/-- A blob erases its slot where its wrapped part is zero. -/
theorem keyBlob_erases : (((keyBlob s v).drop 96).take 72).all (fun b => b == 0) = true ↔ ∀ b ∈ ((keyBlob s v).drop 96).take 72, b = 0 := by
  simp only [List.all_eq_true, beq_iff_eq]

/-- A slot of a live region stays. -/
theorem execKeyld_used (hused : ∃ e ∈ s.regions, e.2.keyslot = keySlot v) : execKeyld v s = .next ((blobRead s v).setBar 7 0x88 0x200) :=
  congrArg Host.Outcome.next (if_pos (blobRead_uses.mpr hused))

variable (hfree : ¬ ∃ e ∈ s.regions, e.2.keyslot = keySlot v)

include hfree

theorem execKeyld_erases (herased : ∀ b ∈ ((keyBlob s v).drop 96).take 72, b = 0) :
    execKeyld v s = .next (((blobRead s v).onFleet (fun f => { f with keys := tableErase f.keys (keySlot v) })).setBar 7 0x88 0) :=
  congrArg Host.Outcome.next ((if_neg (fun h => hfree (blobRead_uses.mp h))).trans (if_pos (keyBlob_erases.mpr herased)))

/-- A blob that unwraps loads its slot, and one that does not is refused. -/
theorem execKeyld_loads (hwrapped : ¬ ∀ b ∈ ((keyBlob s v).drop 96).take 72, b = 0) :
    execKeyld v s = .next (match Config.unwrapKey (keyBlob s v) (keySlot v) with
      | some k => ((blobRead s v).onFleet (fun f => { f with keys := tableInsert f.keys (keySlot v) k })).setBar 7 0x88 0
      | none => (blobRead s v).setBar 7 0x88 0x100) :=
  congrArg Host.Outcome.next ((if_neg (fun h => hfree (blobRead_uses.mp h))).trans (if_neg (fun h => hwrapped (keyBlob_erases.mp h))))

end

/-- Settles O42: the checks run while no image has been accepted, and a key slot goes by its use and by the blob. -/
theorem bootAndKeySteps : Obligations.BootAndKeySteps := by
  unfold Obligations.BootAndKeySteps
  intro s
  exact ⟨fun hstat hopen => execBoot_unverified hstat hopen, fun hopen => execBootimg_unverified hopen, fun image => barReg_bootCheck s image,
    fun v => rfl, fun v => ⟨fun hused => execKeyld_used hused, fun hfree herased => execKeyld_erases hfree herased,
      fun hfree hwrapped => execKeyld_loads hfree hwrapped⟩⟩

end Sys2Proof.Proofs
end
